-- ==== Sys2Proof/Word.lean ====
section
/-! DEFINITION. The word types: the manual's bytes, words and doublewords (R6), as bit vectors. -/

namespace Sys2Proof

/-- A byte. -/
abbrev Byte := BitVec 8
/-- A 32-bit word. -/
abbrev W32 := BitVec 32
/-- A 64-bit doubleword. -/
abbrev W64 := BitVec 64

end Sys2Proof
end

