-- ==== Sys2Proof/Syntax.lean ====
section
/-! DEFINITION. The commands of the module, one constructor per row of spec/opcode_table.json, with the operands
that the row's rule gives it. Values that an agent outside the model decides (a register value that an ordinary
RISC-V instruction computed, a measured temperature, the bytes a host sends) are operands
(notes/assumptions/6.md). -/

namespace Sys2Proof

/-- Cluster CLn of the module (R12). -/
abbrev Cluster := Fin 16
/-- Core Cn of the module (R12). -/
abbrev CoreN := Fin 64
/-- Host function: 0 is PF0, 1 to 31 the VFs (R281). -/
abbrev FuncN := Fin 32
/-- Context ID (R261). -/
abbrev CtxId := BitVec 12
/-- Processor index p of Table 18-1. -/
abbrev ProcN := Fin 19
/-- Index of a module in its span (R12). -/
abbrev ModN := Fin 16
/-- Window slot of Table 13-3. -/
abbrev SlotN := Fin 86

/-- Who makes a register access (Table 16-26). `mgmt 8` is the management port's I3C side, INDEX 0xFF. -/
inductive Writer where
  | func (f : FuncN)
  | mgmt (session : Fin 9)
  | firmware (p : ProcN)
  | hart (h : Fin 32)
  | seqr (cl : Cluster)
  | peer (m : ModN)
  deriving DecidableEq, Repr, Inhabited

/-- The errors that a line of stack memory may hold when it is read (R253, R255, R256): confined to one data or
metadata pin (pins marked as MEM_CHLANE marks them), uncorrectable, or a failing integrity tag. -/
inductive Flaw where
  | correctable (pins : BitVec 18)
  | uncorrectable
  | tag
  deriving DecidableEq, Repr, Inhabited

/-- Atomic memory operations of the RISC-V A extension (R154, Table 7-1). -/
inductive AmoOp where
  | swap | add | xor | and | or | min | max | minu | maxu
  deriving DecidableEq, Repr, Inhabited

/-- The ordinary accesses of the sequencer processor (R155): loads and stores of 1, 2 or 4 bytes, LR, SC and AMO,
a fetch, a CSR read or write, and an instruction the hart does not have; `step` is the whole instruction at the PC, whose operands come
from the hart's own registers (R154). -/
inductive SeqAccess where
  | load (addr : BitVec 32) (bytes : Nat) (signed : Bool) (rd : Fin 32)
  | store (addr : BitVec 32) (bytes : Nat) (v : BitVec 32)
  | lr (addr : BitVec 32) (rd : Fin 32)
  | sc (addr : BitVec 32) (v : BitVec 32) (rd : Fin 32)
  | amo (op : AmoOp) (addr : BitVec 32) (v : BitVec 32) (rd : Fin 32)
  | fetch (addr : BitVec 32)
  | csrRead (csr : BitVec 12) (rd : Fin 32)
  | csrWrite (csr : BitVec 12) (v : BitVec 32) (rd : Fin 32)
  | illegal (bits : BitVec 32)
  | step
  deriving DecidableEq, Repr, Inhabited

/-- What a configuration request of the host asks: whether a function shows a capability; a BAR0 base or the host physical window of a
function's HDM decoder set; anything else (R279, R281, R283). -/
inductive Cap where
  | sriov | ats | doe | cxlCache | cxlMem | hdmDb | ide | ideSkid | interleave | multiLogical | portRouting | dynamicCapacity | fabricMemory
  deriving DecidableEq, Repr, Inhabited

inductive CfgReq where
  | ask (f : FuncN) (cap : Cap)
  | bar (f : FuncN) (base : BitVec 64)
  | decoder (f : FuncN) (base : BitVec 64)
  | other
  deriving DecidableEq, Repr, Inhabited

/-- What starts shares: this module, of its own job, with what R305 rows 2 and 3 find on the other modules for a span job that was held;
or a span's master, which sends the context, image and argument of its job (R170, R305). -/
inductive ShareAsk where
  | own (agree busy : Bool)
  | ordered (ctx : CtxId) (image : BitVec 64) (arg : BitVec 32)
  deriving DecidableEq, Repr, Inhabited

/-- The access at which a channel stops answering, and who made it (R256, Table 11-9). -/
structure LostAccess where
  addr : Nat
  ctx : CtxId
  cls : Fin 4
  unit : BitVec 32
  deriving DecidableEq, Repr, Inhabited

/-- An SPDM request: GET_CERTIFICATE of a slot, or any other, by its code (R395, R397). -/
inductive SpdmAsk where
  | certificate (slot : Nat)
  | other (code : BitVec 8)
  deriving DecidableEq, Repr, Inhabited

/-- A member that is to be admitted: its present cores, and whether its links to the admitted members are UP (R303). -/
structure Newcomer where
  m : ModN
  cores : BitVec 64
  peersUp : Bool
  deriving DecidableEq, Repr, Inhabited

/-- How a member's shares of a span job ended: status, cause and the ESN of the record (R15, R309). -/
structure ShareEnd where
  status : BitVec 8
  cause : BitVec 8
  esn : Nat
  deriving DecidableEq, Repr, Inhabited

/-- What a companion core does at the module: an access to memory, host memory or a register; a read of the time CSR; a call of the
SBI timer, IPI, hart-state or system-reset extension (R294, R295). -/
inductive HartAct where
  | load (addr : BitVec 64) (bytes : Nat)
  | store (addr : BitVec 64) (bytes : List (BitVec 8))
  | time
  | setTimer (t : BitVec 64)
  | sendIpi (mask : BitVec 32)
  | start (h : Fin 32) (addr : BitVec 64)
  | stop
  | reset
  deriving DecidableEq, Repr, Inhabited

/-- A wait of Table 9-1 whose timeout may expire: an engine queue (0 MXE, 1 VXE, 2 DXE) of a core, the issue stage
of a sequencer, or its processor (QCWAIT, TAWAIT). -/
inductive WaitRef where
  | engine (c : CoreN) (q : Fin 3)
  | issue (cl : Cluster)
  | proc (cl : Cluster)
  deriving DecidableEq, Repr, Inhabited

/-- The flit classes of a span link (Table 14-2). -/
inductive FlitClass where
  | c | e | d | x
  deriving DecidableEq, Repr, Inhabited

/-- What a flit carries, to this module or from it (Table 14-2): nothing; a signal for a counter of a unit, or SCSET's value for it
(`fan` where it goes to every core beneath the unit) (R199, R204); a write or a read of a peer through a PEER leaf in a context,
its answer, or the failure of either on the peer, with the `tag` of the access (R307); that the participants of a module have joined
a collective, with what they agree on and the elements their destinations name, or that they disagree (R221, R228); words and chunks of a collective, and the bits of CBCS and CA2A
from one participant's position to another's (R224 to R228); the master's new epoch of a span context, and a member's request to move it (R306);
that a span context is QUEUED, or no longer (R305); the end of a module's shares of a span job, with the failure it reached, and a failure or cancellation that stops the job,
with the module it lies on (R173, R309); the state of a module (Table 1-10); or n payload bytes whose effect has a row of its own. -/
inductive FlitLoad where
  | idle
  | signal (unit : BitVec 32) (ctx : CtxId) (ctr : BitVec 6) (inc : BitVec 16) (epoch : BitVec 4) (fan : Bool)
  | scset (unit : BitVec 32) (ctx : CtxId) (ctr : BitVec 6) (v : BitVec 16) (fan : Bool)
  | write (ctx : CtxId) (epoch : BitVec 4) (va : BitVec 48) (bytes : List (BitVec 8)) (tag : BitVec 16)
  | read (ctx : CtxId) (va : BitVec 48) (n : Nat) (tag : BitVec 16)
  | data (tag : BitVec 16) (bytes : List (BitVec 8))
  | fault (tag : BitVec 16) (d0 d1 d3 : BitVec 64)
  | joined (ctx : CtxId) (unit : BitVec 32) (k : Nat) (key wants : List Nat)
  | differ (ctx : CtxId) (unit : BitVec 32) (k : Nat)
  | tlw (ctx : CtxId) (unit : BitVec 32) (k : Nat) (bytes : List (BitVec 8))
  | chunk (ctx : CtxId) (unit : BitVec 32) (k : Nat) (bytes : List (BitVec 8)) (last : Bool)
  | part (ctx : CtxId) (unit : BitVec 32) (k source dest : Nat) (bytes : List (BitVec 8))
  | epoch (ctx : CtxId) (epoch : BitVec 4) (forced : Bool)
  | moveAsk (ctx : CtxId) (forced : Bool)
  | queued (ctx : CtxId) (on : Bool)
  | shareEnd (job : Nat) (status cause : BitVec 8) (esn : Nat) (flagged : Bool)
  | stop (job : Nat) (status cause : BitVec 8) (esn : Nat) (origin : BitVec 4)
  | state (m : ModN) (st : BitVec 4)
  | other (n : Nat)
  deriving DecidableEq, Repr, Inhabited

/-- The sensors of Table 15-10 and MEM_CHSTAT: a die's hottest junction, a stack's report, the inlet in °C, the
flow in 0.1 L/min. -/
inductive Sensor where
  | junction (die : Fin 4)
  | stack (st : Fin 20)
  | inlet
  | flow
  deriving DecidableEq, Repr, Inhabited

/-- A management account (R385): name, the two public keys (as numbers) and the role mask of Table 19-2. -/
structure Account where
  /-- name, up to 32 bytes (R385). -/
  name : String := ""
  /-- Ed25519 public key (R385). -/
  ed : BitVec 256 := 0
  /-- ML-DSA-65 public key, 1,952 bytes, as a number (R385). -/
  mldsa : Nat := 0
  /-- role mask, Table 19-2. -/
  roles : BitVec 6 := 0
  deriving DecidableEq, Repr, Inhabited

/-- A configuration image (Table 20-2). -/
structure CfgImage where
  /-- MAGIC, VERSION, CHECK and every range hold (R404). -/
  valid : Bool := false
  /-- GENERATION (R404). -/
  gen : Nat := 0
  /-- SPAN_ID (R302/R404). -/
  spanId : BitVec 32 := 0
  /-- IMAGE: modules of the span (R302/R404). -/
  members : BitVec 16 := 0
  /-- INDEX (R302/R404). -/
  index : BitVec 4 := 0
  /-- MASTER (R302/R404). -/
  master : BitVec 4 := 0
  /-- SPARE_FOR (R298/R404). -/
  spareFor : BitVec 4 := 0
  /-- CAP (R404). -/
  cap : Nat := 2600
  /-- MODE.FIXED (R404). -/
  fixed : Bool := false
  /-- MEMORY.INTERLEAVE (R404). -/
  interleave : Bool := false
  /-- MEMORY.PATTERN (R404). -/
  pattern : Bool := false
  /-- CHECKF (R404). -/
  checkf : BitVec 3 := 0
  /-- NET: DHCPv4, SLAAC (R404). -/
  net : BitVec 2 := 3
  /-- IPV4, IPV4_PLEN and IPV4_GW (bytes 32-43) (R404). -/
  ipv4 : BitVec 128 := 0
  /-- IPV6 and IPV6_PLEN (bytes 44-60) (R404). -/
  ipv6 : BitVec 136 := 0
  /-- BANKS (R404). -/
  banks : BitVec 4 := 0
  /-- POLICY.EARLY (R404). -/
  early : Bool := true
  /-- POLICY.NODEBUG (R404). -/
  nodebug : Bool := false
  /-- the cullet list (R404). -/
  cull : List Nat := []
  deriving DecidableEq, Repr, Inhabited

/-- The words of a 64-byte line or record, doubleword 0 first. -/
abbrev Line := List (BitVec 64)

/-- The commands. Each constructor's docstring cites its row's rule. -/
inductive Instr where
  /-- TISSUE: the sequencer of cl issues the instruction at data-memory address rs1 -/
  | tissue (cl : Cluster) (pc rs1 : BitVec 32)
  /-- TREPLAY: issues rs2 replay entries from entry rs1 -/
  | treplay (cl : Cluster) (pc rs1 rs2 : BitVec 32)
  /-- PMSET_W: PMn becomes rs1 -/
  | pmsetW (cl : Cluster) (pc : BitVec 32) (pm : Fin 64) (rs1 : BitVec 32)
  /-- PMSET_A: PMn becomes PMn + rs1 modulo 2^32 -/
  | pmsetA (cl : Cluster) (pc : BitVec 32) (pm : Fin 64) (rs1 : BitVec 32)
  /-- TAWAIT: takes a reduced scalar from slot rs1[2:0] -/
  | tawait (cl : Cluster) (pc : BitVec 32) (rd : Fin 32) (rs1 : BitVec 32)
  /-- QCWAIT: waits until QC(rs1[4:0]) reaches rs2[15:0] -/
  | qcwait (cl : Cluster) (pc rs1 rs2 : BitVec 32)
  /-- QCSIG: adds rs2[31:16] to counter rs2[4:0] of unit rs1 -/
  | qcsig (cl : Cluster) (pc rs1 rs2 : BitVec 32)
  /-- TFENCE: waits for the engines in rs1[3:0] -/
  | tfence (cl : Cluster) (pc : BitVec 32) (rd : Fin 32) (rs1 : BitVec 32)
  /-- ECALL: ends the program when a7 = 0 -/
  | ecall (cl : Cluster) (pc a7 a0 : BitVec 32)
  /-- EBREAK: halts for a debugger, or an exception -/
  | ebreak (cl : Cluster) (pc : BitVec 32)
  /-- COUNTER_WINDOW_STORE: a 32-bit store into the counter window -/
  | counterWindowStore (cl : Cluster) (pc addr v : BitVec 32)
  /-- REPLAY_BUFFER_STORE: a 32-bit store into the replay buffer -/
  | replayBufferStore (cl : Cluster) (pc addr v : BitVec 32)
  /-- SQ_BMASK_WRITE: a write of SQ_BMASK -/
  | sqBmaskWrite (cl : Cluster) (pc v : BitVec 32)
  /-- SQ_STEPADV: a write of SQ_STEPADV -/
  | sqStepadv (cl : Cluster) (pc v : BitVec 32)
  /-- SEQUENCER_STOP: every sequencer of the faulted context stops -/
  | sequencerStop (ctx : CtxId)
  /-- LDW: the MXE of c takes the LDW at its queue head; t is t_ready of R84 in core cycles -/
  | ldw (c : CoreN) (t : Nat)
  /-- LDWT: as ldw, through the turn -/
  | ldwt (c : CoreN) (t : Nat)
  /-- MMUL: the MXE takes the MMUL at its queue head -/
  | mmul (c : CoreN) (t : Nat)
  /-- MMULA: the MXE takes the MMULA at its queue head -/
  | mmula (c : CoreN) (t : Nat)
  /-- DRN: the MXE takes the DRN at its queue head -/
  | drn (c : CoreN) (t : Nat)
  /-- ARRAY_RAMP_DOWN: array a has been idle for that many consecutive cycles -/
  | arrayRampDown (c : CoreN) (a : Fin 4) (idle : Nat)
  /-- VEW: the VXE of c takes the VEW at its queue head -/
  | vew (c : CoreN)
  /-- VRED: the VXE takes the VRED at its queue head -/
  | vred (c : CoreN)
  /-- SCALAR_RETURN: the return combiner of cl delivers its oldest complete sum for the slot -/
  | scalarReturn (cl : Cluster) (slot : Fin 8)
  /-- VCVT_CONVERT: the VXE takes the VCVT.CONVERT at its queue head -/
  | vcvtConvert (c : CoreN)
  /-- VCVT_COMMIT: the VXE takes the VCVT.COMMIT at its queue head -/
  | vcvtCommit (c : CoreN)
  /-- VOPT: the VXE takes the VOPT at its queue head -/
  | vopt (c : CoreN)
  /-- VNRM_ADD: the VXE takes the VNRM.ADD at its queue head -/
  | vnrmAdd (c : CoreN)
  /-- VNRM_FLUSH: the VXE takes the VNRM.FLUSH at its queue head -/
  | vnrmFlush (c : CoreN)
  /-- VHRV: the VXE takes the VHRV at its queue head -/
  | vhrv (c : CoreN)
  /-- VSGN: the VXE takes the VSGN at its queue head -/
  | vsgn (c : CoreN)
  /-- DMOV: the DXE of c takes the DMOV at its queue head; flaws are bit errors now in memory lines -/
  | dmov (c : CoreN) (flaws : List (Nat × Flaw))
  /-- DGTH: the DXE takes the DGTH at its queue head -/
  | dgth (c : CoreN)
  /-- DSCT: the DXE takes the DSCT at its queue head -/
  | dsct (c : CoreN)
  /-- DCOW: the DXE takes the DCOW at its queue head -/
  | dcow (c : CoreN)
  /-- DCOW_PAGE_COPY: the DCOW in that queue entry copies its next page -/
  | dcowPageCopy (c : CoreN) (slot : Nat)
  /-- DCRC_FEED: the DXE takes the DCRC.FEED at its queue head -/
  | dcrcFeed (c : CoreN)
  /-- DCRC_SAVE: the DXE takes the DCRC.SAVE at its queue head -/
  | dcrcSave (c : CoreN)
  /-- DCRC_LOAD: the DXE takes the DCRC.LOAD at its queue head -/
  | dcrcLoad (c : CoreN)
  /-- CRED: the CRED of c is taken, or finishes once its collective has every term -/
  | cred (c : CoreN)
  /-- CRED_NORM: the CRED.NORM of c is taken, or finishes -/
  | credNorm (c : CoreN)
  /-- CRSC: the CRSC of c is taken, or finishes -/
  | crsc (c : CoreN)
  /-- CBCS: the CBCS of c is taken, or finishes -/
  | cbcs (c : CoreN)
  /-- CA2A: the CA2A of c is taken, or finishes -/
  | ca2a (c : CoreN)
  /-- COLLECTIVE_START: the k-th collective of a group unit starts or fails on a mismatch -/
  | collectiveStart (ctx : CtxId) (unit : BitVec 32) (k : Nat)
  /-- CHUNK_RECEIVE: a chunk of module m arrives for a collective -/
  | chunkReceive (ctx : CtxId) (unit : BitVec 32) (k : Nat) (m : ModN) (bytes : List (BitVec 8)) (last : Bool)
  /-- TLW_RECEIVE: a trimmed long word of module m arrives on the escape lane -/
  | tlwReceive (ctx : CtxId) (unit : BitVec 32) (k : Nat) (m : ModN) (bytes : List (BitVec 8))
  /-- SIG: the issue stage carries out the SIG it holds -/
  | sig (cl : Cluster)
  /-- WAIT: the issue stage carries out the WAIT it holds -/
  | wait (cl : Cluster)
  /-- SCSET: the issue stage carries out the SCSET it holds -/
  | scset (cl : Cluster)
  /-- INSTRUCTION_COMPLETE: a taken instruction whose execution has ended completes (q: 0 MXE, 1 VXE, 2 DXE) -/
  | instructionComplete (c : CoreN) (q : Fin 3) (slot : Nat)
  /-- CONTEXT_FAULT: the fault of a context takes effect everywhere -/
  | contextFault (ctx : CtxId)
  /-- SIGNAL_ARRIVAL: the n-th signal in flight reaches its target -/
  | signalArrival (n : Nat)
  /-- WAIT_TIMEOUT: a wait's timeout expires -/
  | waitTimeout (w : WaitRef)
  /-- SYNC_SIGNAL: a write of SYNC_SIGNAL in the unit's window -/
  | syncSignal (w : Writer) (unit : BitVec 32) (v : BitVec 64)
  /-- DBG_SCSET: a write of DBG_SCSET in the unit's window -/
  | dbgScset (w : Writer) (unit : BitVec 32) (v : BitVec 64)
  /-- PEEK: a write of DBG_LACTL of core c -/
  | peek (w : Writer) (c : CoreN) (v : BitVec 64)
  /-- PEEK_DONE: the peek copy of core c is resolved -/
  | peekDone (c : CoreN)
  /-- CV_INIT: a write of DXE_CVCFGn with INIT -/
  | cvInit (w : Writer) (c : CoreN) (n : Fin 2) (v : BitVec 64)
  /-- HCV_INIT: a write of HCV_CFGn with INIT -/
  | hcvInit (w : Writer) (n : Fin 8) (v : BitVec 64)
  /-- HCV_REARM: a write of 1 to HCV_CFGn.DONE -/
  | hcvRearm (w : Writer) (n : Fin 8)
  /-- SLICE_EXPIRY: the slice of the context on cl ends -/
  | sliceExpiry (cl : Cluster)
  /-- CONTEXT_SWITCH: outc is switched out (0 none) and inc is restored (0 none) -/
  | contextSwitch (outc inc : CtxId)
  /-- CONTEXT_RESIDENT: SCH makes a context resident with allocations at these offsets -/
  | contextResident (ctx : CtxId) (storeOff poolOff : Nat)
  /-- CONTEXT_EVICT: SCH saves a resident context that is not running -/
  | contextEvict (ctx : CtxId)
  /-- CLEAN_MOVE: SCH moves a switched-out context to a new placement -/
  | cleanMove (ctx : CtxId) (place : BitVec 16) (storeOff poolOff : Nat)
  /-- SWITCH_OUT_TIMEOUT: a unit fails to switch out within 1 ms -/
  | switchOutTimeout (ctx : CtxId)
  /-- FENCE_CLOSE: the placement fence of a context closes -/
  | fenceClose (ctx : CtxId)
  /-- FENCE_TIMEOUT: 100 ms have passed since a forced move -/
  | fenceTimeout (ctx : CtxId)
  /-- CTX_CREATE: CTX_CMD CREATE -/
  | ctxCreate (w : Writer) (ctx : CtxId) (addr : BitVec 48)
  /-- CTX_SET: CTX_CMD SET -/
  | ctxSet (w : Writer) (ctx : CtxId) (addr : BitVec 48)
  /-- CTX_DESTROY: CTX_CMD DESTROY -/
  | ctxDestroy (w : Writer) (ctx : CtxId)
  /-- CTX_INVAL: CTX_CMD INVAL -/
  | ctxInval (w : Writer) (ctx : CtxId)
  /-- CTX_READ: CTX_CMD READ -/
  | ctxRead (w : Writer) (ctx : CtxId) (addr : BitVec 48)
  /-- CONTEXT_SCRUB_END: the on-chip scrub of a destroyed context ends -/
  | contextScrubEnd (ctx : CtxId)
  /-- TAIL_LINE_TAKEN: the hub's copy of a tail line is taken; tail is what a host line then holds, none where it reads as poison -/
  | tailLineTaken (f : FuncN) (slot : SlotN) (ring : Fin 4) (tail : Option (BitVec 32))
  /-- TAIL_LINE_POLL: the hub re-reads every watched tail line; refused are the 4 KiB pages of each function that the host's ATS now refuses -/
  | tailLinePoll (tails : List (FuncN × SlotN × Fin 4 × Option (BitVec 32))) (refused : List (FuncN × Nat))
  /-- JOB_FETCH: the hub fetches the record at HEAD; line is what host memory holds there, none where it reads as poison; the flags are what R305 rows 2 and 3 find on the other modules -/
  | jobFetch (f : FuncN) (slot : SlotN) (ring : Fin 4) (line : Option Line) (peersAgree peersBusy : Bool)
  /-- SHARE_START: the shares of a job start after the image checks: of a job of this module, or of the share that a span's master orders here of its job of that number -/
  | shareStart (job : Nat) (order : ShareAsk)
  /-- JOB_COMPLETE: the hub writes the completion record of a job whose shares have ended; rank0 is the step and the exit word of a span job's rank 0 where it lies on another module -/
  | jobComplete (job : Nat) (rank0 : Option (BitVec 32 × BitVec 32))
  /-- CR_DELAY_EXPIRY: DELAY has passed since the oldest uninterrupted IRQ record -/
  | crDelayExpiry (f : FuncN) (cq : Fin 32)
  /-- JR_ENABLE: a write of JR_CFG that sets ENABLE; tail is what a host tail line holds, none where it reads as poison -/
  | jrEnable (f : FuncN) (slot : SlotN) (ring : Fin 4) (v : BitVec 64) (tail : Option (BitVec 32))
  /-- CR_ENABLE: a write of CR_CFG that sets ENABLE -/
  | crEnable (f : FuncN) (cq : Fin 32) (v : BitVec 64)
  /-- CR_HEAD_WRITE: software writes CR_PTR.HEAD -/
  | crHeadWrite (f : FuncN) (cq : Fin 32) (head : BitVec 32)
  /-- FUNC_DISABLE: FUNC_CTL.DISABLE written 1 -/
  | funcDisable (f : FuncN)
  /-- FUNC_REENABLE: FUNC_CTL.DISABLE written 0 -/
  | funcReenable (f : FuncN)
  /-- FLR: function-level reset -/
  | flr (f : FuncN)
  /-- VF_ENABLE_CLEAR: VF Enable cleared -/
  | vfEnableClear
  /-- BUS_MASTER_DISABLE: Bus Master Enable cleared -/
  | busMasterDisable (f : FuncN)
  /-- BUS_MASTER_ENABLE: Bus Master Enable set -/
  | busMasterEnable (f : FuncN)
  /-- LINK_DOWN: the host link goes down -/
  | linkDown
  /-- BACK_INVALIDATE_TIMEOUT: the host does not answer a back-invalidate within 1 ms -/
  | backInvalidateTimeout (line : Nat)
  /-- CONFIG_REQUEST: the host's configuration request that waits at the port is answered -/
  | configRequest
  /-- HDM_READ: a host CXL.mem read of n bytes through decoder dec at a host physical address -/
  | hdmRead (dec : FuncN) (addr : Nat) (n : Nat) (flaws : List (Nat × Flaw))
  /-- HDM_WRITE: a host CXL.mem write through decoder dec at a host physical address -/
  | hdmWrite (dec : FuncN) (addr : Nat) (bytes : List (BitVec 8))
  /-- ASSIGN: COMP_HART ASSIGN -/
  | compAssign (w : Writer) (h : Fin 32) (f : FuncN)
  /-- START: COMP_HART START -/
  | compStart (w : Writer) (h : Fin 32)
  /-- STOP: COMP_HART STOP -/
  | compStop (w : Writer) (h : Fin 32)
  /-- HART_ACCESS_REFUSED: what a hart does at the module: an access, refused outside its function, or a call of its monitor -/
  | hartAccessRefused (h : Fin 32) (act : HartAct)
  /-- MEM_CULLADD: a write of MEM_CULLADD -/
  | memCulladd (w : Writer) (v : BitVec 64)
  /-- PERSIST: a write of MEM_CULLCTL.PERSIST -/
  | persist (w : Writer)
  /-- PERSIST_DONE: the cullet NVM write ends -/
  | persistDone (ok : Bool)
  /-- PATROL_SCRUB: patrol scrub reads a line and finds that flaw -/
  | patrolScrub (line : Nat) (flaw : Option Flaw)
  /-- REFRESH: a bank is refreshed -/
  | refresh (st : Fin 20) (ch : Fin 128) (bank : Fin 16)
  /-- CHANNEL_LOST: a channel stops answering at an access -/
  | channelLost (st : Fin 20) (ch : Fin 128) (access : LostAccess)
  /-- KD_FILL_DONE: the zero fill of a released domain's range ends -/
  | kdFillDone (d : BitVec 8)
  /-- GOVERNOR_EVAL: the governor's evaluation each 100 us; us is the local time since the last -/
  | governorEval (us : Nat)
  /-- POWER_INTERVAL: the end of a 1 ms interval: its average power, and the power with no stopped window and in a stopped window, in W -/
  | powerInterval (avg run stop : Nat)
  /-- DOMAIN_WAKE: a sleeping power domain finishes waking -/
  | domainWake (d : Fin 528)
  /-- ENERGY_SAMPLE: the meter samples the main input in mV and mA -/
  | energySample (mv ma : Nat)
  /-- INPUT_CURRENT_TRIP: main input current is measured above 56 A -/
  | inputCurrentTrip (ma : Nat)
  /-- CURRENT_TRIP_RELEASE: 1 ms has passed since the current fell below 52 A -/
  | currentTripRelease
  /-- DROOP_DETECT: a die's droop detector fires -/
  | droopDetect (d : Fin 4)
  /-- TEMPERATURE_REPORT: a sensor reports -/
  | temperatureReport (sensor : Sensor) (v : Nat)
  /-- EMERGENCY_END: 1 s has passed since the last emergency condition cleared -/
  | emergencyEnd
  /-- PWR_CAP_WRITE: a write of PWR_CAP -/
  | pwrCapWrite (w : Writer) (v : BitVec 64)
  /-- PWR_MODE_WRITE: a write of PWR_MODE -/
  | pwrModeWrite (w : Writer) (v : BitVec 64)
  /-- LEDGER_RECORD_ARRIVAL: a record formed by a part of the module (by a CFC where cfc names it) reaches the hub -/
  | ledgerRecordArrival (unit : BitVec 32) (cls code : BitVec 8) (ctx : CtxId) (d0 d1 d2 d3 : BitVec 64) (opcode cause status : BitVec 8) (cfc : Option Cluster)
  /-- LDG_SEL_WRITE: a write of LDG_SEL -/
  | ldgSelWrite (w : Writer) (unit : BitVec 32) (v : BitVec 64)
  /-- CHECK_INTERVAL: the shadow cores re-execute the captured tiles, in order, and find these LA and output digests -/
  | checkInterval (ctx : CtxId) (digests : List (BitVec 64 × BitVec 64))
  /-- DIGEST_MESSAGE: a replica digest message reaches the hub -/
  | digestMessage (m : ModN) (ctx : CtxId) (step tag : BitVec 32) (origin count : BitVec 64) (digest : BitVec 64)
  /-- DIGEST_COLLECT_END: 1 ms after a digest disagreement -/
  | digestCollectEnd (ctx : CtxId) (step tag : BitVec 32) (origin count : BitVec 64)
  /-- DRAIN: MOD_DRAINCTL DRAIN -/
  | drain (w : Writer)
  /-- DRAIN_COMPLETE: every job of a draining module has completed -/
  | drainComplete
  /-- RESUME: MOD_DRAINCTL RESUME -/
  | resume (w : Writer)
  /-- CLEAR_REPLACE: MOD_DRAINCTL CLEAR_REPLACE -/
  | clearReplace (w : Writer)
  /-- REPLACE_NVM_RETRY: the REPLACE write to NVM is retried -/
  | replaceNvmRetry (ok : Bool)
  /-- BEGIN: CKP_CMD BEGIN -/
  | ckpBegin (w : Writer) (ctx : CtxId)
  /-- LOAD: CKP_CMD LOAD -/
  | ckpLoad (w : Writer) (ctx : CtxId) (src : Fin 4) (m : ModN)
  /-- END: CKP_CMD END -/
  | ckpEnd (w : Writer) (ctx : CtxId)
  /-- ABORT: CKP_CMD ABORT -/
  | ckpAbort (w : Writer) (ctx : CtxId)
  /-- HEARTBEAT: a processor posts its heartbeat -/
  | heartbeat (p : ProcN) (progress : BitVec 64)
  /-- HEARTBEAT_MISS: no heartbeat for 3 ms -/
  | heartbeatMiss (p : ProcN)
  /-- WATCHDOG_EXPIRY: a processor's watchdog was not rearmed for 5 ms -/
  | watchdogExpiry (p : ProcN)
  /-- PROCESSOR_SERVING: a restarted processor serves again -/
  | processorServing (p : ProcN)
  /-- ENGINE_HANG: an engine has made no progress past its limit -/
  | engineHang (c : CoreN) (e : Fin 4) (slot : Nat)
  /-- CRUST_DUMP: the crust writer finishes the dump of that index of a unit, before its reset -/
  | crustDump (domain : BitVec 4) (unit : BitVec 32) (index : Nat)
  /-- DUMP_WORD_TIMEOUT: a read of the dump times out; unitEnd is the first word past that unit's section -/
  | dumpWordTimeout (index : Nat) (word : Nat) (unitEnd : Nat)
  /-- DUMP_COMMIT: a completed dump is committed to NVM -/
  | dumpCommit (index : Nat)
  /-- RESET_CORE: RST_CTL core reset -/
  | resetCore (w : Writer) (unit : BitVec 32)
  /-- RESET_CLUSTER: RST_CTL cluster reset -/
  | resetCluster (w : Writer) (unit : BitVec 32)
  /-- RESET_DIE: RST_CTL die reset -/
  | resetDie (w : Writer) (unit : BitVec 32)
  /-- RESET_CHANNEL_GROUP: RST_CTL channel-group reset -/
  | resetChannelGroup (w : Writer) (part : BitVec 8)
  /-- RESET_SPAN_LINK: RST_CTL span-link reset -/
  | resetSpanLink (w : Writer) (part : BitVec 8)
  /-- RESET_HOST_FUNCTION: RST_CTL host-function reset -/
  | resetHostFunction (w : Writer) (part : BitVec 8)
  /-- RESET_MODULE_WARM: RST_CTL module warm reset -/
  | resetModuleWarm (w : Writer)
  /-- RESET_MODULE_COLD: RST_CTL module cold reset -/
  | resetModuleCold (w : Writer)
  /-- RESET_COMPLETE: a reset in progress finishes (what: core, cluster, die, group, link or function number) -/
  | resetComplete (domain : BitVec 4) (what : Nat)
  /-- MGMT_RSTREQ: a write of MGMT_RSTREQ -/
  | mgmtRstreq (w : Writer) (v : BitVec 64)
  /-- COLD_POWER_LOSS: both power inputs are lost -/
  | coldPowerLoss
  /-- MAIN_POWER_LOSS: 54 V main power is lost -/
  | mainPowerLoss
  /-- FMP_SESSION_OPEN: a client opens a session; verified says that both its signatures verify -/
  | fmpSessionOpen (source : Nat) (account : String) (verified : Bool)
  /-- FMP_SESSION_IDLE: a session was silent for 600 s -/
  | fmpSessionIdle (id : Fin 8)
  /-- FMP_LOCKOUT_EXPIRY: 60 s have passed since a source address was barred -/
  | fmpLockoutExpiry (source : Nat)
  /-- REG_READ: FMP REG_READ -/
  | regRead (id : Fin 8) (addr : BitVec 52) (width : Nat)
  /-- REG_WRITE: FMP REG_WRITE -/
  | regWrite (id : Fin 8) (addr : BitVec 52) (width : Nat) (v : BitVec 64)
  /-- LEDGER_STREAM: FMP LEDGER_STREAM -/
  | ledgerStream (id : Fin 8)
  /-- LEDGER_ACK: FMP LEDGER_ACK -/
  | ledgerAck (id : Fin 8) (esn : BitVec 64)
  /-- MEASURE: FMP MEASURE -/
  | measure (id : Fin 8)
  /-- FUNC_ASSIGN: FMP FUNC_ASSIGN -/
  | funcAssign (id : Fin 8) (f : FuncN) (base size : BitVec 52) (quota : BitVec 12) (checkf : BitVec 3)
  /-- KD_BIND: FMP KD_BIND -/
  | kdBind (id : Fin 8) (f : FuncN) (d : BitVec 8)
  /-- KD_RELEASE: FMP KD_RELEASE -/
  | kdRelease (id : Fin 8) (d : BitVec 8)
  /-- CONFIG_WRITE: FMP CONFIG_WRITE -/
  | configWrite (id : Fin 8) (img : CfgImage)
  /-- FW_LOAD: FMP FW_LOAD of a part of an image for the bank slot of slotComp; comp is none before the last part, and with the last part the component that the image names -/
  | fwLoad (id : Fin 8) (comp : Option (Fin 4)) (slotComp : Fin 4) (version : BitVec 16) (svn : BitVec 8) (digest : BitVec 384) (sigEd sigMl : Bool)
  /-- FW_ACTIVATE: FMP FW_ACTIVATE -/
  | fwActivate (id : Fin 8) (comp : Fin 4)
  /-- FW_COMMIT: FMP FW_COMMIT -/
  | fwCommit (id : Fin 8) (comp : Fin 4)
  /-- PROC_RELEASE: FMP PROC_RELEASE -/
  | procRelease (id : Fin 8) (p : ProcN)
  /-- MAIN_POWER_ON: FMP MAIN_POWER_ON -/
  | mainPowerOn (id : Fin 8)
  /-- RESET_GRANT: FMP RESET_GRANT -/
  | resetGrant (id : Fin 8) (on : Bool)
  /-- DEBUG_GRANT: FMP DEBUG_GRANT -/
  | debugGrant (id : Fin 8) (f : FuncN) (on : Bool)
  /-- DUMP_LIST: FMP DUMP_LIST -/
  | dumpList (id : Fin 8)
  /-- DUMP_READ: FMP DUMP_READ -/
  | dumpRead (id : Fin 8) (index : Nat)
  /-- DUMP_PIN: FMP DUMP_PIN -/
  | dumpPin (id : Fin 8) (index : Nat) (on : Bool)
  /-- ACCOUNT_ADD: FMP ACCOUNT_ADD -/
  | accountAdd (id : Fin 8) (a : Account)
  /-- ACCOUNT_REMOVE: FMP ACCOUNT_REMOVE -/
  | accountRemove (id : Fin 8) (name : String)
  /-- ACCOUNT_CLEAR: FMP ACCOUNT_CLEAR -/
  | accountClear (id : Fin 8)
  /-- ACCOUNT_CLEAR_LAPSE: 30 s have passed without a touch -/
  | accountClearLapse
  /-- ENROLMENT: an enrolment message over I3C -/
  | enrolment (a : Account)
  /-- SPDM_REQUEST: an SPDM request on I3C or the DOE mailbox -/
  | spdmRequest (doe : Bool) (ask : SpdmAsk)
  /-- SPDM_MEASUREMENTS: an SPDM MEASUREMENTS request for one block, or all -/
  | spdmMeasurements (doe : Bool) (block : Option (BitVec 8))
  /-- PLDM_REQUEST: a PLDM Type 0 or Type 2 request -/
  | pldmRequest (type2 : Bool) (sensor : Nat)
  /-- PLDM_IDENTIFY: the PLDM effecter switches identify -/
  | pldmIdentify (on : Bool)
  /-- SPAN_LINK_TRAINED: a span link finishes training; the operands are what the far end shows -/
  | spanLinkTrained (l : Fin 16) (proved : Bool) (spanId : BitVec 32) (index master : BitVec 4) (members : BitVec 16) (replace : Bool)
  /-- LINK_HANDSHAKE_RETRY: a failed link handshake is retried -/
  | linkHandshakeRetry (l : Fin 16) (proved : Bool)
  /-- FLIT_RECEIVE: a flit arrives on a link, repaired by its error correction or not; load is what it carries -/
  | flitReceive (l : Fin 16) (seq : Nat) (crcOk tagOk fec : Bool) (load : FlitLoad)
  /-- LANE_LOCK_LOSS: a receiver loses lane lock -/
  | laneLockLoss (l : Fin 16)
  /-- PEER_SILENCE: no valid flit for 2.0 us on a link -/
  | peerSilence (l : Fin 16)
  /-- WITHDRAWAL_NOTICE: a notice that module m withdraws -/
  | withdrawalNotice (l : Fin 16) (m : ModN) (cause : BitVec 4)
  /-- MEMBER_ADMIT: the master admits a member (on a member: the notice of it) -/
  | memberAdmit (m : Newcomer)
  /-- EXPEL: SPAN_CTL EXPEL -/
  | expel (w : Writer) (m : ModN)
  /-- READMIT: SPAN_CTL READMIT -/
  | readmit (w : Writer) (m : ModN)
  /-- SHARE_END_NOTICE: a member reports the end of its span shares -/
  | shareEndNotice (m : ModN) (job : Nat) (ended : ShareEnd) (flagged : Bool)
  /-- FORWARDED_ACCESS: a register access of module m reaches this module, or of this module leaves for m -/
  | forwardedAccess (m : ModN) (addr : BitVec 52) (width : Nat) (w : Option (BitVec 64))
  /-- BRINGUP_PHASE_0: phase 0 runs and ends at time t; sec is none where no SEC image verifies in any bank, else the components whose image fails in the bank that the configuration image names -/
  | bringupPhase0 (t : BitVec 16) (sec : Option (BitVec 4))
  /-- BRINGUP_PHASE_1: phase 1 runs and ends -/
  | bringupPhase1 (t : BitVec 16)
  /-- BRINGUP_PHASE_2: phase 2 runs: cores, clusters and hub memories that fail self-test -/
  | bringupPhase2 (t : BitVec 16) (badCores : BitVec 64) (badClusters : BitVec 16) (badHub : Bool)
  /-- BRINGUP_PHASE_3: phase 3 starts -/
  | bringupPhase3
  /-- BRINGUP_PHASE_4: phase 4 starts -/
  | bringupPhase4 (t : BitVec 16)
  /-- BRINGUP_TIMEOUT: a phase overruns its limit -/
  | bringupTimeout
  /-- STACK_JOIN: a stack finishes its initialising write -/
  | stackJoin (st : Fin 20)
  /-- STACK_FAIL: a channel fails training or a pattern -/
  | stackFail (st : Fin 20) (ch : Fin 128) (step : BitVec 8)
  /-- LATCH_OPEN: the ejector latch opens -/
  | latchOpen
  /-- LATCH_DUMP_CUTOFF: 25 ms after the latch opened -/
  | latchDumpCutoff
  /-- LATCH_CLOSE: the latch closes -/
  | latchClose
  /-- PRESENCE_CHANGE: a presence pin makes or breaks -/
  | presenceChange (pin : Fin 2) (made : Bool)
  /-- DRAIN_BUTTON_HOLD: the drain button has been held for 2 s, or, where it is held already, is let go -/
  | drainButtonHold
  /-- IDENTIFY_TOUCH: a touch of the identify pad of that length, within 1 s of the previous one or not -/
  | identifyTouch (ms : Nat) (within1s : Bool)
  /-- IDENT_ON: PANEL_CTL IDENT on -/
  | identOn (w : Writer)
  /-- IDENT_OFF: PANEL_CTL IDENT off -/
  | identOff (w : Writer)
  /-- IDENT_TOGGLE: PANEL_CTL IDENT toggle -/
  | identToggle (w : Writer)
  /-- INVALID_REGISTER_ACCESS: a register access of the wrong width, alignment, offset, unit or privilege; v is the value of a write -/
  | invalidRegisterAccess (w : Writer) (unit : BitVec 32) (off : BitVec 24) (width : Nat) (v : Option (BitVec 64))
  /-- REGISTER_WRITE: a write of a register that has no row of its own -/
  | registerWrite (w : Writer) (unit : BitVec 32) (off : BitVec 24) (width : Nat) (v : BitVec 64)
  /-- SEQUENCER_LOAD_STORE: an ordinary load, store, fetch or CSR access of the sequencer -/
  | sequencerLoadStore (cl : Cluster) (pc : BitVec 32) (len : Nat) (acc : SeqAccess)
  /-- RESTORE_LOAD_DONE: a CKP_CMD LOAD finishes copying and verifying -/
  | restoreLoadDone (w : Writer)
  /-- DROOP_RECOVERY: the die's supply recovers -/
  | droopRecovery (d : Fin 4)
  /-- CHANNEL_GROUP_POWER_DOWN: management powers down a channel group -/
  | channelGroupPowerDown (id : Fin 8) (g : Fin 80)
  deriving DecidableEq, Repr, Inhabited

end Sys2Proof
end

