-- ==== Sys2Proof/Decode.lean ====
section
/-! DEFINITION. The word form of commands: the opcode table gives its rows no bits, so no word spells a command
(notes/assumptions/2.md). -/

namespace Sys2Proof

/-- The command that a word spells by the table's bits: none, since the table gives every row an empty field list. -/
def decodeTableWord (_nbits _w : Nat) : Option Instr := none

end Sys2Proof
end

