-- ==== Sys2Proof/Config.lean ====
section
/-! DEFINITION. What the spec leaves open as values: opaque functions, applied to the counter State.free or to what
the value depends on. Nothing can be proved of a value of them (notes/assumptions/11.md). -/

namespace Sys2Proof.Config

/-- The custom instructions of the sequencer with the registers they name (Table 7-2). -/
inductive SeqCustom where
  | tissue (rs1 : Fin 32)
  | treplay (rs1 rs2 : Fin 32)
  | pmset (add : Bool) (pm : Fin 64) (rs1 : Fin 32)
  | tawait (rd rs1 : Fin 32)
  | qcwait (rs1 rs2 : Fin 32)
  | qcsig (rs1 rs2 : Fin 32)
  | tfence (rd rs1 : Fin 32)
  deriving DecidableEq, Repr, Inhabited

/-- The custom instruction that a word of RISC-V's custom opcodes encodes: Table 7-2 gives no encoding (notes/assumptions/6.md). -/
opaque seqCustom : BitVec 32 → Option SeqCustom
/-- A key pair, by numbers. -/
structure KeyPair where
  priv : Nat := 0
  pub : Nat := 0
  deriving DecidableEq, Repr, Inhabited

/-- The DeviceID key pair of an algorithm, 0 Ed25519 and 1 ML-DSA-65, from the device secret alone (R395). -/
opaque deviceKey : Nat → BitVec 256 → KeyPair
/-- The compound device identifier, from the secret and the SHA-384 of the SEC image (R395). -/
opaque compoundId : BitVec 256 → BitVec 384 → BitVec 384
/-- The Alias key pair of an algorithm, from the compound device identifier (R395). -/
opaque aliasKey : Nat → BitVec 384 → KeyPair
/-- The public keys of the Rolry root and of its GNX-20 intermediate in a chain: layer, algorithm (R395). -/
opaque rolryKey : Nat → Nat → Nat
/-- SHA-384 of the SEC ROM, of a configuration image, and of the security state: F, each account's public keys and roles, and the
functions with a debug grant (Table 19-6). -/
opaque romDigest : BitVec 384
opaque imageDigest : CfgImage → BitVec 384
opaque securityDigest : Nat → List (BitVec 256 × Nat × BitVec 6) → List Nat → BitVec 384
/-- A byte the spec does not determine, by a fresh index. -/
opaque freeByte : Nat → BitVec 8
/-- A doubleword the spec does not determine, by a fresh index. -/
opaque freeWord : Nat → BitVec 64
/-- A number the spec does not determine, by a fresh index: the length of an answer. -/
opaque freeLen : Nat → Nat
/-- The configuration request that the host makes next (R408). -/
opaque hostRequest : Nat → CfgReq
/-- The bits the lehr writes for a NaN element of a NaN block, by format: its bits have no meaning (R39, R40). -/
opaque nanBlockBits : Nat → Nat
/-- The checking key that SEC makes at a bring-up, by the number of the bring-up (R339). -/
opaque checkKey : Nat → BitVec 64

end Sys2Proof.Config
end

