-- ==== Sys2Proof/Machine/Tab.lean ====
section
/-! DEFINITION. Sparse collections: a list of (key, value) pairs with rising keys, where a key that is not listed has
a default the caller names; and sets of numbers as rising lists. -/

namespace Sys2Proof.Machine

/-- The value listed for key `k`, if any. -/
def tabFind {α : Type} : List (Nat × α) → Nat → Option α
  | [], _ => none
  | (j, v) :: r, k => if j = k then some v else tabFind r k

/-- The value of key `k`, `d` where it is not listed. -/
def tabGet {α : Type} (l : List (Nat × α)) (k : Nat) (d : α) : α := (tabFind l k).getD d

/-- The list with key `k` at `v`, its keys kept rising. -/
def tabSet {α : Type} : List (Nat × α) → Nat → α → List (Nat × α)
  | [], k, v => [(k, v)]
  | (j, w) :: r, k, v =>
    if k < j then (k, v) :: (j, w) :: r
    else if k = j then (k, v) :: r
    else (j, w) :: tabSet r k v

/-- The list without key `k`. -/
def tabDel {α : Type} (l : List (Nat × α)) (k : Nat) : List (Nat × α) := l.filter fun p => p.1 != k

/-- A set of numbers with `k` in it, kept rising. -/
def setIns : List Nat → Nat → List Nat
  | [], k => [k]
  | j :: r, k => if k < j then k :: j :: r else if k = j then j :: r else j :: setIns r k

/-- A set of numbers without `k`. -/
def setDel (l : List Nat) (k : Nat) : List Nat := l.filter fun j => j != k

/-- `k` put into the set or taken out of it. -/
def setPut (l : List Nat) (k : Nat) (on : Bool) : List Nat := if on then setIns l k else setDel l k

/-- The list with place `i` at `v`; unchanged where it has no such place. -/
def listSet {α : Type} (l : List α) (i : Nat) (v : α) : List α := l.set i v

/-- The first entry that answers `p`, changed by `f`. -/
def updFirst {α : Type} (p : α → Bool) (f : α → α) : List α → List α
  | [] => []
  | a :: r => if p a then f a :: r else a :: updFirst p f r

/-- `f` folded over the numbers lo, lo+1, …, lo+n-1. -/
def forN {α : Type} : Nat → Nat → (Nat → α → α) → α → α
  | _, 0, _, a => a
  | lo, n + 1, f, a => forN (lo + 1) n f (f lo a)

end Sys2Proof.Machine
end

