-- ==== Sys2Proof/Machine/Bits.lean ====
section
/-! DEFINITION. Fields of words and the byte order: bit 0 is the least significant, byte 0 holds bits 7 to 0 (R6). -/

namespace Sys2Proof.Machine

/-- Bits hi to lo of a number. -/
def fld (w hi lo : Nat) : Nat := (w >>> lo) % 2 ^ (hi + 1 - lo)

/-- Bits hi to lo of a word, as a number. -/
def bits {n : Nat} (w : BitVec n) (hi lo : Nat) : Nat := fld w.toNat hi lo

/-- Bit i of a word. -/
def bit {n : Nat} (w : BitVec n) (i : Nat) : Bool := w.getLsbD i

/-- A flag as a number. -/
def b2n (b : Bool) : Nat := if b then 1 else 0

/-- The word w with bits hi to lo set to v. -/
def setBits {n : Nat} (w : BitVec n) (hi lo v : Nat) : BitVec n :=
  BitVec.ofNat n (w.toNat - fld w.toNat hi lo * 2 ^ lo + (v % 2 ^ (hi + 1 - lo)) * 2 ^ lo)

/-- A register's value from its fields: (value, lowest bit, width). -/
def packFields : List (Nat × Nat × Nat) → Nat
  | [] => 0
  | (v, lo, w) :: r => (v % 2 ^ w) * 2 ^ lo + packFields r

/-- A 64-bit register from its fields. -/
def reg (l : List (Nat × Nat × Nat)) : BitVec 64 := BitVec.ofNat 64 (packFields l)

/-- The number that little-endian bytes spell. -/
def bytesNat : List (BitVec 8) → Nat
  | [] => 0
  | b :: r => b.toNat + 256 * bytesNat r

/-- The n little-endian bytes of a number. -/
def natBytes : Nat → Nat → List (BitVec 8)
  | 0, _ => []
  | n + 1, v => BitVec.ofNat 8 v :: natBytes n (v / 256)

/-- A number read as n-bit two's complement. -/
def sgn (n v : Nat) : Int := if v % 2 ^ n < 2 ^ (n - 1) then (v % 2 ^ n : Nat) else (v % 2 ^ n : Nat) - (2 ^ n : Nat)

/-- v, but no more than the cap: a saturating counter. -/
def satAdd (cap a b : Nat) : Nat := min cap (a + b)

/-- The numbers below n whose bit is set. -/
def maskList (n v : Nat) : List Nat := (List.range n).filter fun i => v.testBit i

/-- The mask of a set of numbers. -/
def listMask (l : List Nat) : Nat := l.foldl (fun m i => m ||| 1 <<< i) 0

/-- Ceiling division. -/
def ceilDiv (a b : Nat) : Nat := (a + b - 1) / b

/-- Chunks of n elements, the last one shorter. -/
def chunksOf {α : Type} (n : Nat) (l : List α) : List (List α) :=
  (List.range (ceilDiv l.length n)).map fun i => (l.drop (i * n)).take n

/-- The number of bits in binary of v: 0 for 0, else ⌊log2 v⌋ + 1. -/
def bitLen (v : Nat) : Nat := if v = 0 then 0 else v.log2 + 1

end Sys2Proof.Machine
end

