-- ==== Sys2Proof/Machine/Formats.lean ====
section
/-! DEFINITION. Element formats, exact values, blocks and the format policy (02_number_formats.md). -/

namespace Sys2Proof.Machine

/-- A value: exactly (−1)^neg · m · 2^e, an infinity or NaN. A zero keeps its sign. -/
inductive Val where
  | fin (neg : Bool) (m : Nat) (e : Int)
  | inf (neg : Bool)
  | nan
  deriving DecidableEq, Repr, Inhabited

/-- Width in bits of an element (Table 2-1). -/
def fmtBits (f : Nat) : Nat :=
  match f with
  | 0 => 16 | 1 => 8 | 2 => 8 | 3 => 8 | 4 => 4 | 5 => 4 | 6 => 2 | 7 => 2 | 8 => 1 | 9 => 16 | 10 => 32
  | _ => 0

/-- The rate class of a block format (Table 2-1, R45); 0 for the others. -/
def fmtRate (f : Nat) : Nat :=
  match f with
  | 0 => 16 | 1 => 8 | 2 => 16 | 3 => 8 | 4 => 4 | 5 => 4 | 6 => 2 | 7 => 2 | 8 => 2 | _ => 0

/-- The block length B along K (Table 2-1); 1 for an interchange format, which has no blocks. -/
def fmtBlock (f : Nat) : Nat :=
  match f with
  | 0 => 32 | 1 => 64 | 2 => 64 | 3 => 64 | 4 => 128 | 5 => 128 | 6 => 256 | 7 => 256 | 8 => 256 | _ => 1

/-- FORMAT codes that are not reserved (R32). -/
def fmtKnown (f : Nat) : Bool := f ≤ 10
/-- The block formats, codes 0 to 8. -/
def fmtIsBlock (f : Nat) : Bool := f ≤ 8
/-- Formats that carry sub-scales: Q4 and I4. -/
def fmtHasSub (f : Nat) : Bool := f == 4 || f == 5
/-- Formats that have a NaN encoding. -/
def fmtHasNan (f : Nat) : Bool := f == 0 || f == 1 || f == 2 || f == 9 || f == 10
/-- Formats that have infinities. -/
def fmtHasInf (f : Nat) : Bool := f == 0 || f == 2 || f == 9 || f == 10

/-- Exponent bits, mantissa bits and bias of a floating-point format (Table 2-2). -/
def fmtFloat (f : Nat) : Option (Nat × Nat × Nat) :=
  match f with
  | 0 => some (5, 10, 15) | 1 => some (4, 3, 7) | 2 => some (5, 2, 15) | 4 => some (2, 1, 1)
  | 9 => some (8, 7, 127) | 10 => some (8, 23, 127) | _ => none

/-- The NaN encoding that the device writes (Table 2-3, R49). -/
def fmtNan (f : Nat) : Nat :=
  match f with
  | 0 => 0x7E00 | 1 => 0x7F | 2 => 0x7E | 9 => 0x7FC0 | 10 => 0x7FC00000 | _ => 0

/-- The value of a floating-point element with eb exponent bits, mb mantissa bits and the bias, without regard to
the specials: subnormals are exact (R34). -/
def floatVal (eb mb bias code : Nat) : Val :=
  let s := fld code (eb + mb) (eb + mb) == 1
  let e := fld code (eb + mb - 1) mb
  let m := code % 2 ^ mb
  if e = 0 then .fin s m (1 - (bias : Int) - mb) else .fin s (2 ^ mb + m) ((e : Int) - bias - mb)

/-- The element that `code` spells in format f, before scales (Tables 2-2 to 2-5). -/
def elemVal (f code : Nat) : Val :=
  let code := code % 2 ^ fmtBits f
  match f with
  | 1 => if code % 128 = 0x7F then .nan else floatVal 4 3 7 code
  | 4 => floatVal 2 1 1 code
  | 3 => let v := sgn 8 code; .fin (v < 0) v.natAbs 0
  | 5 => let v := sgn 4 code; .fin (v < 0) v.natAbs 0
  | 6 | 7 => match code with
    | 0 => .fin true 3 (-1) | 1 => .fin true 1 (-1) | 2 => .fin false 1 (-1) | _ => .fin false 3 (-1)
  | 8 => .fin (code == 0) 1 0
  | _ => match fmtFloat f with
    | some (eb, mb, bias) =>
      if fld code (eb + mb - 1) mb = 2 ^ eb - 1 then
        if code % 2 ^ mb = 0 then .inf (fld code (eb + mb) (eb + mb) == 1) else .nan
      else floatVal eb mb bias code
    | none => .nan

/-- The value times 2^k. -/
def Val.scale (v : Val) (k : Int) : Val :=
  match v with
  | .fin n m e => .fin n m (e + k)
  | v => v

/-- The value of an element with its block's scale byte and its sub-scale; a NaN block's elements are NaN (R38,
R39). -/
def scaledVal (f code : Nat) (scale : BitVec 8) (sub : Nat) : Val :=
  if scale = 0xFF#8 then .nan
  else (elemVal f code).scale ((scale.toNat : Int) - 127 - (if fmtHasSub f then (sub : Int) else 0))

/-- −v. -/
def Val.negate (v : Val) : Val :=
  match v with
  | .fin n m e => .fin (!n) m e
  | .inf n => .inf (!n)
  | .nan => .nan

/-- Whether the value is NaN. -/
def Val.isNan (v : Val) : Bool := match v with | .nan => true | _ => false
/-- Whether the value is a zero. -/
def Val.isZero (v : Val) : Bool := match v with | .fin _ m _ => m == 0 | _ => false
/-- The sign; false for NaN. -/
def Val.sign (v : Val) : Bool := match v with | .fin n _ _ => n | .inf n => n | .nan => false

/-- The product of two values (Table 2-8). -/
def Val.mul (a b : Val) : Val :=
  match a, b with
  | .nan, _ => .nan
  | _, .nan => .nan
  | .inf s, .inf t => .inf (s != t)
  | .inf s, .fin t m _ => if m = 0 then .nan else .inf (s != t)
  | .fin s m _, .inf t => if m = 0 then .nan else .inf (s != t)
  | .fin s m e, .fin t n f => .fin (s != t) (m * n) (e + f)

/-- The finite value as an integer count of 2^g; exact where e is at least g. -/
def Val.units (v : Val) (g : Int) : Int :=
  match v with
  | .fin n m e =>
    let k : Nat := if 0 ≤ e - g then m * 2 ^ (e - g).toNat else m / 2 ^ (g - e).toNat
    if n then -(k : Int) else k
  | _ => 0

/-- The exponent of the last place of a finite value. -/
def Val.grain (v : Val) : Int := match v with | .fin _ _ e => e | _ => 0

/-- The exact sum of two values; an exact zero is +0 unless both terms are −0 (Table 2-8). -/
def Val.add (a b : Val) : Val :=
  match a, b with
  | .nan, _ => .nan
  | _, .nan => .nan
  | .inf s, .inf t => if s = t then .inf s else .nan
  | .inf s, _ => .inf s
  | _, .inf t => .inf t
  | .fin s m e, .fin t n f =>
    let g := min e f
    let z := (Val.fin s m e).units g + (Val.fin t n f).units g
    if z = 0 then .fin (s && t && m == 0 && n == 0) 0 g else .fin (z < 0) z.natAbs g

/-- Whether a finite or infinite value lies below another; false with NaN (Table 2-8). -/
def Val.lt (a b : Val) : Bool :=
  match a, b with
  | .nan, _ => false
  | _, .nan => false
  | .inf s, .inf t => s && !t
  | .inf s, _ => s
  | _, .inf t => !t
  | .fin s m e, .fin t n f =>
    let g := min e f
    (Val.fin s m e).units g < (Val.fin t n f).units g

/-- Equality of comparisons: −0 equals +0, NaN equals nothing (Table 2-8). -/
def Val.eqv (a b : Val) : Bool := !a.isNan && !b.isNan && !(a.lt b) && !(b.lt a)

/-- IEEE 754-2019 maximum: NaN with a NaN operand, −0 below +0 (Table 2-8). -/
def Val.max (a b : Val) : Val :=
  if a.isNan || b.isNan then .nan
  else if a.lt b then b else if b.lt a then a else if a.isZero && a.sign then b else a

/-- IEEE 754-2019 minimum (Table 2-8). -/
def Val.min (a b : Val) : Val :=
  if a.isNan || b.isNan then .nan
  else if a.lt b then a else if b.lt a then b else if a.isZero && !a.sign then b else a

/-- |v|; NaN stays NaN. -/
def Val.abs (v : Val) : Val :=
  match v with
  | .fin _ m e => .fin false m e
  | .inf _ => .inf false
  | .nan => .nan

/-- Magnitude ranking: a ranks strictly above b; NaN above every other (Table 2-8). -/
def Val.ranksAbove (a b : Val) : Bool :=
  match a, b with
  | .nan, .nan => false
  | .nan, _ => true
  | _, .nan => false
  | a, b => (b.abs).lt a.abs

/-- Roles of Table 2-10 as ROLE codes them: 0 activation, 1 weight, 2 gradient, 3 state (Table 8-3); R50. -/
def roleAdmits (role f : Nat) : Bool :=
  if f = 9 || f = 10 then true
  else match role with
    | 0 => f ≤ 6
    | 1 => f ≤ 5 || f == 7 || f == 8
    | _ => f ≤ 2

/-- R45: whether the activation-position format a and the weight-position format w may meet in a product. -/
def pairOk (a w : Nat) : Bool :=
  a ≤ 6 && fmtIsBlock w && fmtRate w ≤ fmtRate a

/-- P of R46 and its code PCODE: P = 2^PCODE = 16 ÷ class. -/
def ratePcode (c : Nat) : Nat := match c with | 16 => 0 | 8 => 1 | 4 => 2 | _ => 3

/-- Formats that the first/last-layer flag forbids to value operands (R51). -/
def fllForbids (f : Nat) : Bool := f == 4 || f == 5 || f == 6 || f == 7 || f == 8

end Sys2Proof.Machine
end

