-- ==== Sys2Proof/Machine/State.lean ====
section
/-! DEFINITION. The state of the module as plain data, its reasons to stop, and State.reset.
Every field cites the rule of spec/ that names it; its width and its reset value stand in INVENTORY.md under
'## State'. Sparse collections are lists of (key, value) pairs kept sorted, where a key that is not listed has the
default of its type. -/

namespace Sys2Proof.Machine

/-- Context states of Table 12-2. -/
inductive CtxState where
  | free | idle | queued | running | faulted | scrubbing
  deriving DecidableEq, Repr, Inhabited

/-- How far a fetched job has come (R266, R288). `fetched` is a NOP or an ORDER job waiting for earlier jobs. -/
inductive JobPhase where
  | fetched | held | queued | running | ended
  deriving DecidableEq, Repr, Inhabited

/-- Operations deferred by a power or thermal emergency (R260, R378, R387). -/
inductive Defer where
  | persist
  | configWrite (img : CfgImage)
  | activate (comp : Nat)
  deriving DecidableEq, Repr, Inhabited

/-- What waits for SCH to serve again (Table 18-2): a forced move, the master's order of an epoch, a member's request for a move. -/
inductive SchWait where
  | move (ctx : Nat)
  | order (ctx : Nat) (ep : BitVec 4) (forced : Bool)
  | ask (ctx : Nat) (forced : Bool)
  deriving DecidableEq, Repr, Inhabited

/-- An issue-class action of R158, as it waits behind a replay. -/
inductive IssueAct where
  | tissue (pc : BitVec 32) (addr : BitVec 32)
  | replay (pc : BitVec 32) (first : BitVec 32) (count : BitVec 32)
  | pmset (add : Bool) (pm : Nat) (v : BitVec 32)
  | qcsig (pc : BitVec 32) (unit : BitVec 32) (v : BitVec 32)
  | fence (pc : BitVec 32) (rd : Nat) (mask : BitVec 4)
  | ctrStore (addr : BitVec 32) (v : BitVec 32)
  | repStore (addr : BitVec 32) (v : BitVec 32)
  | bmask (v : BitVec 32)
  | stepadv
  deriving DecidableEq, Repr, Inhabited

/-- SEQ_STATE.STATE (Table 7-8) together with what the sequencer waits on. `ending` is the ECALL of R172 waiting
for its instructions, `stepWait` the SQ_STEPADV of R343 waiting for its check interval. -/
inductive SeqRun where
  | idle
  | run
  | stallQueue (mask : BitVec 4)
  | waitScalar (slot : Nat) (rd : Nat) (tclass : Nat)
  | waitQc (ctr : Nat) (thresh : BitVec 16) (tclass : Nat)
  | waitFence (mask : BitVec 4) (rd : Nat)
  | ending (a0 : BitVec 32)
  | waitIssue
  | waitReplay (act : IssueAct)
  | stepWait
  | halted
  | faulted
  deriving DecidableEq, Repr, Inhabited

/-- What a certificate carries beside its key: DeviceID's carry the identity extension, Alias's the TcbInfo (R395, R396). -/
inductive CertExt where
  | plain
  | identity (bytes : List (BitVec 8))
  | tcbInfo (digest : BitVec 384) (svn : BitVec 8)
  deriving DecidableEq, Repr, Inhabited

/-- One certificate of a chain: layer 0 root, 1 intermediate, 2 DeviceID, 3 Alias, its public key and its extension (R395). -/
structure Cert where
  layer : Nat := 0
  key : Nat := 0
  ext : CertExt := .plain
  deriving DecidableEq, Repr, Inhabited

/-- What the module sends outside: answers to register reads and requests, interrupts, messages on links and
buses. The model's own record of its outputs. -/
inductive OutEv where
  /-- value returned to a register read (R7, R9) -/
  | readData (v : BitVec 64)
  /-- data returned to a host CXL.mem read; none is the CXL poison indication (R257) -/
  | hdmData (d : Option (List (BitVec 8)))
  /-- a write into host memory, by function and I/O virtual address (R285) -/
  | hostWrite (func addr n : Nat)
  /-- MSI-X message of a function's vector (R282) -/
  | msix (func : Nat) (vector : Nat)
  /-- interrupt identity written to a companion core's interrupt file (R296) -/
  | hartIrq (hart : Nat) (ident : Nat)
  /-- answer to a configuration request: retry status, or the success of a ready port (R408) -/
  | config (retry : Bool)
  /-- whether a capability shows in a function's configuration and component registers (R279) -/
  | configCap (present : Bool)
  /-- response to an FMP request, by its STATUS of Table 19-3 -/
  | fmp (session : Nat) (status : BitVec 8)
  /-- FMP response body as 64-bit words -/
  | fmpBody (session : Nat) (body : List (BitVec 64))
  /-- unsolicited FMP event: a ledger record by its ESN (R394) -/
  | ledgerEvent (session : Nat) (esn : Nat)
  /-- unsolicited FMP event: a deferred operation took effect, a stream moved, a fill ended, by a number -/
  | fmpEvent (session : Nat) (what : Nat)
  /-- an FMP session was closed -/
  | fmpClosed (session : Nat)
  /-- SPDM answer: none is ERROR Busy or Unspecified by the flag, some is the response bytes (R397 to R401) -/
  | spdm (busy : Bool) (resp : Option (List (BitVec 8)))
  /-- SPDM answer: the certificate chain of a slot (R395, R397) -/
  | certs (slot : Nat) (chain : List Cert)
  /-- PLDM answer: a sensor number and its value (R383) -/
  | pldm (sensor : Nat) (v : Nat)
  /-- a PLDM state-sensor event (R383) -/
  | pldmEvent (sensor : Nat) (v : Nat)
  /-- a class-C message to a span module: kind and payload (R299) -/
  | spanC (module : Nat) (kind : Nat) (payload : BitVec 64)
  /-- a flit of a class to a span module (R299) -/
  | flit (module : Nat) (cls : FlitClass) (load : FlitLoad)
  /-- the hub asks a host-cached line back (R284) -/
  | backInvalidate (line : Nat)
  deriving DecidableEq, Repr, Inhabited


/-- One sync counter, SC of a core or QC of a sequencer (R200). -/
structure Ctr where
  /-- counter VALUE (R200). -/
  value : BitVec 16 := 0
  /-- counter EPOCH (R200). -/
  epoch : BitVec 4 := 0
  deriving DecidableEq, Repr, Inhabited

/-- A long accumulator with its physical form and side file (Table 3-1, R54 to R57). -/
structure LA where
  /-- limb words L0 to L9, limb 9 read as signed (R54). -/
  limb : List (BitVec 64) := List.replicate 10 0
  /-- deferred-carry counts c0 to c9 (R56 (Physical form)). -/
  carry : List Int := List.replicate 10 0
  /-- PINF: a +Inf term was added (R54/R61). -/
  pinf : Bool := false
  /-- NINF: a -Inf term was added (R54/R61). -/
  ninf : Bool := false
  /-- NAN: a NaN term was added (R54/R61). -/
  nan : Bool := false
  /-- ANY: at least one term was added (R54/R61). -/
  any : Bool := false
  /-- NZERO: every term so far is -0 (R54/R55/R61). -/
  nzero : Bool := true
  /-- OVF: overflow found at a resolve (R63). -/
  ovf : Bool := false
  /-- OVF_NEG: the overflow was negative (R63). -/
  ovfNeg : Bool := false
  /-- RES_ACC: residue accumulated modulo 255 (R64). -/
  resAcc : Nat := 0
  /-- ADDS: additions since clear, saturating at 2^28-1 (R54). -/
  adds : Nat := 0
  /-- context that last cleared the LA (DBG_LAFLAGS.CTX, Table 3-7) (R70). -/
  ctx : BitVec 12 := 0
  deriving DecidableEq, Repr, Inhabited

/-- One present element of a stationary chunk, as loaded (R76, R192). -/
structure El where
  /-- element bits (R37). -/
  code : Nat := 0
  /-- scale byte of its block (R39). -/
  scale : BitVec 8 := 127
  /-- sub-scale u of its 16-element group (R38). -/
  sub : Nat := 0
  deriving DecidableEq, Repr, Inhabited

/-- One stationary set of an array (R75 to R79, R192). -/
structure StatSet where
  /-- the set was loaded since the start of the slice (R79). -/
  loaded : Bool := false
  /-- mode of the last load: AS when true (R78). -/
  modeAs : Bool := false
  /-- recorded FORMAT of the source descriptor (R192). -/
  fmt : BitVec 4 := 0
  /-- recorded ROLE (R192). -/
  role : BitVec 2 := 0
  /-- recorded first/last-layer flag (R192). -/
  fll : Bool := false
  /-- recorded PCODE (P = 2^PCODE) (R192). -/
  pcode : BitVec 2 := 0
  /-- the chunk's present elements, key 64 k + column (R75/R83). -/
  elems : List (Nat × El) := []
  deriving DecidableEq, Repr, Inhabited

/-- The anchors of one array for the slot checker (R86, R90), in core cycles. -/
structure ArrTime where
  /-- x: start of the latest load into the array (R90). -/
  loadStart : Option Int := none
  /-- kind of that load: 0 LDW WS, 1 LDW AS, 2 LDWT (R90). -/
  loadKind : BitVec 2 := 0
  /-- n of that load (R90). -/
  loadN : Nat := 0
  /-- L of that load (R77). -/
  loadL : Nat := 0
  /-- end of the previous LOAD window (R89). -/
  loadEnd : Option Int := none
  /-- p for tile 0 (R90). -/
  passStart0 : Option Int := none
  /-- p for tile 1 (R90). -/
  passStart1 : Option Int := none
  /-- d for tile 0 (R90). -/
  drain0 : Option Int := none
  /-- d for tile 1 (R90). -/
  drain1 : Option Int := none
  /-- w: start of the latest pass with SWAP (R90). -/
  swapStart : Option Int := none
  /-- start of the previous pass (IN window) (R89). -/
  inStart : Option Int := none
  /-- no pass of this slice has run on the array yet (R86, R88) (R88). -/
  cold : Bool := true
  deriving DecidableEq, Repr, Inhabited

/-- One array as a context holds it: its sets, its tile mode records and its anchors. -/
structure ArrCtx where
  /-- active stationary set (R75). -/
  active : StatSet := {}
  /-- shadow stationary set (R75). -/
  shadow : StatSet := {}
  /-- mode record of tile 0 (AS when true) (R81). -/
  tileAs0 : Bool := false
  /-- mode record of tile 1 (R81). -/
  tileAs1 : Bool := false
  /-- CLEAR passes into tile 0 earlier in the step (c0 of R339) (R339). -/
  clears0 : Nat := 0
  /-- CLEAR passes into tile 1 earlier in the step (R339). -/
  clears1 : Nat := 0
  /-- step of those counts (R339). -/
  clearStep : BitVec 32 := 0
  /-- slot-checker anchors (R90). -/
  time : ArrTime := {}
  deriving DecidableEq, Repr, Inhabited

/-- A 32-byte tensor instruction w0 to w7 (Table 8-1). -/
structure TWord where
  /-- TAG CHECK PATCH SIGV WAITV ENGINE OPCODE (R176). -/
  w0 : BitVec 32 := 0
  /-- MOD TCLASS WTHRESH WSCOPE WCTR (R176). -/
  w1 : BitVec 32 := 0
  /-- SINC OPX SSCOPE SCTR (R176). -/
  w2 : BitVec 32 := 0
  /-- STARGET (R176). -/
  w3 : BitVec 32 := 0
  /-- OFFSET0 TD0I (R176). -/
  w4 : BitVec 32 := 0
  /-- OFFSET1 TD1I or MXE control word (R176). -/
  w5 : BitVec 32 := 0
  /-- OFFSET2 TD2I or accumulator word (R176). -/
  w6 : BitVec 32 := 0
  /-- IMM or patch controls (R176). -/
  w7 : BitVec 32 := 0
  deriving DecidableEq, Repr, Inhabited

/-- A 64-byte tensor descriptor DW0 to DW7 (Table 8-3). -/
structure Desc where
  /-- VALID .. FORMAT BASE (R184). -/
  d0 : BitVec 64 := 0
  /-- HKEEP LEDGER_BASE (R184). -/
  d1 : BitVec 64 := 0
  /-- SUB_BASE (R184). -/
  d2 : BitVec 64 := 0
  /-- DIM0 TAG (R184). -/
  d3 : BitVec 64 := 0
  /-- DIM2 DIM1 (R184). -/
  d4 : BitVec 64 := 0
  /-- STRIDE1 DIM3 (R184). -/
  d5 : BitVec 64 := 0
  /-- STRIDE3 STRIDE2 (R184). -/
  d6 : BitVec 64 := 0
  /-- WIN3 to WIN0 (R184). -/
  d7 : BitVec 64 := 0
  deriving DecidableEq, Repr, Inhabited

/-- How an item ended or will end: status, cause and the ESN of the failure. -/
structure Outcm where
  /-- completion status (Table 8-5) (R188). -/
  status : BitVec 8 := 0
  /-- CAUSE of a FAILED_FAULT (R187). -/
  cause : BitVec 8 := 0
  /-- ESN of the failure's record (R173). -/
  esn : Nat := 0
  deriving DecidableEq, Repr, Inhabited

/-- One engine queue entry (R126): an issued instruction with its copies. -/
structure QEntry where
  /-- queue entry number (R209 Table 9-4). -/
  slot : Nat := 0
  /-- the instruction as received (patched at issue) (R159). -/
  word : TWord := {}
  /-- descriptor copies sent with it (R182). -/
  descs : List (Nat × Desc) := []
  /-- step current at issue (R106/R166). -/
  step : BitVec 32 := 0
  /-- context epoch at issue, carried by its signal and writes (R213/R215). -/
  epoch : BitVec 4 := 0
  /-- cluster of the issuing sequencer (R180). -/
  cluster : Nat := 0
  /-- issue number on that sequencer, equal on every core of the broadcast (R161/R164). -/
  issueNo : Nat := 0
  /-- PC of the TISSUE or TREPLAY (R209). -/
  pc : BitVec 32 := 0
  /-- replay entry it was issued from (R209). -/
  replay : Option Nat := none
  /-- broadcast set of the issue (R159). -/
  bset : BitVec 4 := 0
  /-- its WAITV wait has begun (R180). -/
  waiting : Bool := false
  /-- an increment or a debug set satisfied its pending wait (R202/R211). -/
  waitDone : Bool := false
  /-- it has passed queue-take (R187). -/
  taken : Bool := false
  /-- counter patches have been applied (R150/R151). -/
  patched : Bool := false
  /-- scale bytes of the destination's blocks as read at the take (R110/R115). -/
  scales : List (Nat × List (BitVec 8)) := []
  /-- number of the collective it joined (R221) (R221). -/
  joined : Option Nat := none
  /-- outcome once its execution has ended, before completion is recorded (R126). -/
  result : Option Outcm := none
  deriving DecidableEq, Repr, Inhabited

/-- One value of a return slot (R164): a reduced scalar or a failure token. -/
structure RetVal where
  /-- F32 bits (R135). -/
  bits : BitVec 32 := 0
  /-- failure token left by a failed VRED (R165). -/
  fail : Option Outcm := none
  /-- issue number of the VRED that delivered it (R164). -/
  issueNo : Nat := 0
  deriving DecidableEq, Repr, Inhabited

/-- One check-value unit of a DXE (Tables 6-9 to 6-11). -/
structure CvUnit where
  /-- CFG.SIDE (R146). -/
  side : Bool := false
  /-- CFG.POLY (R147). -/
  poly : BitVec 2 := 0
  /-- CFG.ARM (R146). -/
  arm : Bool := false
  /-- VALUE, the state before the final XOR (R148). -/
  value : BitVec 64 := 0
  deriving DecidableEq, Repr, Inhabited

/-- One captured checked tile (R341). -/
structure Shadow where
  /-- array of the original (R341). -/
  array : Nat := 0
  /-- tile (R341). -/
  tile : Nat := 0
  /-- c0 of R339 (R339). -/
  seq : Nat := 0
  /-- step of the tile (R341). -/
  step : BitVec 32 := 0
  /-- its DRN has run (R341). -/
  closed : Bool := false
  /-- captured bytes in the shadow buffer (R341). -/
  bytes : Nat := 0
  /-- passes captured, whose re-execution counts as array-cycles (R341/R342). -/
  passes : Nat := 0
  /-- the instructions taken, with their descriptor copies and patched offsets (R341). -/
  takes : List QEntry := []
  /-- the chunk each pass used, with its scales (R341). -/
  chunks : List StatSet := []
  /-- the bytes each pass streamed, with their scales, by address (R341). -/
  vectors : List (List (Nat × List (BitVec 8))) := []
  /-- the scale bytes its DRN read, by address (R341). -/
  scales : List (Nat × List (BitVec 8)) := []
  /-- CRC-64/XZ of the resolved LAs (R341). -/
  laDigest : BitVec 64 := 0
  /-- CRC-64/XZ of the bytes the drain wrote (R341). -/
  outDigest : BitVec 64 := 0
  deriving DecidableEq, Repr, Inhabited

/-- The active DCOW of a core's DXE (R354 to R359). -/
structure DcowRun where
  /-- its queue entry (R356). -/
  slot : Nat := 0
  /-- core whose DXE runs it (R356). -/
  core : Nat := 0
  /-- its context (R355). -/
  ctx : Nat := 0
  /-- source base (R354). -/
  srcVa : Nat := 0
  /-- destination base (R354). -/
  dstVa : Nat := 0
  /-- physical 64 KiB page of each source page, in order (R355). -/
  pages : List Nat := []
  /-- indices of pages still protected (R357). -/
  todo : List Nat := []
  /-- digest of each copied page (R358). -/
  digests : List (Nat × BitVec 64) := []
  /-- CV1 as saved at the take (R358). -/
  cvSave : CvUnit := {}
  /-- step the DCOW carries (R359). -/
  step : BitVec 32 := 0
  /-- the failure that ended it, if any (R359). -/
  failed : Option Outcm := none
  deriving DecidableEq, Repr, Inhabited

/-- What one context holds on one core (Table 7-6): queues, counters, engines' saved state. -/
structure CoreCtx where
  /-- SC0-SC47 (R200). -/
  sc : List (Nat × Ctr) := []
  /-- SCL_CNT0-7: BASE and VALUE (R150 Table 6-14). -/
  cnt : List (Nat × BitVec 64) := []
  /-- SCL_CMP0-7: LIMIT STEP ENGINE MODE (R151 Table 6-15). -/
  cmp : List (Nat × BitVec 64) := []
  /-- check-value unit CV0 (R146). -/
  cv0 : CvUnit := {}
  /-- check-value unit CV1 (R146). -/
  cv1 : CvUnit := {}
  /-- MXE queue, oldest first (R126). -/
  mxeQ : List QEntry := []
  /-- VXE queue (R126). -/
  vxeQ : List QEntry := []
  /-- DXE queue (CXE instructions too) (R126/R159). -/
  dxeQ : List QEntry := []
  /-- stationary sets, mode records and anchors of A0-A3 (R75). -/
  arrays : List (Nat × ArrCtx) := []
  /-- the output tiles' LAs, key (2a+u) 4096 + 64 row + column (R125/R71). -/
  tiles : List (Nat × LA) := []
  /-- VXE reduction accumulators (R125). -/
  vacc : List (Nat × LA) := []
  /-- norm-slot partials, oldest first (R119). -/
  norms : List (Nat × LA) := []
  /-- a: start cycle of the previous MXE instruction of the slice (R84). -/
  anchor : Option Int := none
  /-- active DCOW instructions (R139/R356). -/
  dcows : List DcowRun := []
  /-- CXE instructions taken per group unit (k of R221) (R221). -/
  collNo : List (Nat × Nat) := []
  /-- captured checked tiles in the shadow buffer (R341). -/
  shadows : List Shadow := []
  /-- completions with STALE_EPOCH on this core since the fence opened (R215). -/
  staleDone : Nat := 0
  deriving DecidableEq, Repr, Inhabited

/-- What one context holds on one cluster's sequencer (Tables 7-5, 7-6). -/
structure SeqCtx where
  /-- x-registers x0-x31, x0 reads zero (R154/R432). -/
  x : List (BitVec 32) := List.replicate 32 0
  /-- program counter (R432). -/
  pc : BitVec 32 := 0
  /-- cycle counter CSR (R154 (Sequencer CSRs)). -/
  cycle : BitVec 64 := 0
  /-- instret counter CSR (R154 (Sequencer CSRs)). -/
  instret : BitVec 64 := 0
  /-- LR/SC reservation (R155 Table 7-1). -/
  resv : Option (BitVec 32) := none
  /-- data memory, 256 KiB (R155). -/
  dmem : List Host.Cell := []
  /-- replay buffer, key 8 entry + word (R163). -/
  replay : List (Nat × BitVec 32) := []
  /-- virtual address of the program text (R155/R167). -/
  text : Nat := 0
  /-- virtual address of the program image (R167). -/
  image : Nat := 0
  /-- TEXT_SIZE (R167). -/
  textSize : Nat := 0
  /-- DATA_EXT (R167). -/
  dataExt : Nat := 0
  /-- REPLAY_EXT (R167). -/
  replayExt : Nat := 0
  /-- WIN_BASE (R167). -/
  winBase : BitVec 64 := 0
  /-- TILES (R169). -/
  tilesDecl : BitVec 8 := 0
  /-- PM0-PM63 (R162). -/
  pm : List (Nat × BitVec 32) := []
  /-- QC0-QC31 (R200). -/
  qc : List (Nat × Ctr) := []
  /-- return slots 0-7, oldest first (R164). -/
  slots : List (Nat × List RetVal) := []
  /-- TFENCE flags, one per engine (R161 Table 7-2). -/
  fence : BitVec 4 := 0
  /-- some instruction of the program completed flagged (R172). -/
  flagged : Bool := false
  /-- SQ_BMASK (R159 Table 7-3). -/
  bmask : BitVec 4 := 0
  /-- SQ_STEP (R166). -/
  step : BitVec 32 := 0
  /-- SQ_CORES.JOB (R170 Table 7-3). -/
  job : BitVec 4 := 0
  /-- SQ_RANK.RANK (R170). -/
  rank : BitVec 16 := 0
  /-- SQ_RANK.COUNT (R170). -/
  count : BitVec 16 := 0
  /-- what the sequencer is doing: SEQ_STATE.STATE with what it waits on (R175 Table 7-8). -/
  run : SeqRun := .idle
  /-- replay in progress: next entry and entries left (R163/R174). -/
  replayPos : Option (Nat × Nat) := none
  /-- PC of the TREPLAY in progress (R209). -/
  replayPc : BitVec 32 := 0
  /-- SYNC instruction held at the issue stage (R199). -/
  sync : Option QEntry := none
  /-- the SYNC WAIT at the issue stage has begun waiting (R199/R208). -/
  syncWait : Bool := false
  /-- cluster positions whose SYNC WAIT an increment or a debug set satisfied (R202/R199). -/
  syncDone : BitVec 4 := 0
  /-- an issued instruction stalled for queue room (R160). -/
  stalled : List QEntry := []
  /-- issue number of the next instruction (model's own (orders R161). -/
  issueNo : Nat := 0
  /-- counter-window stores in the issue path: core, issue number, address, value (R157). -/
  ctrWrites : List (Nat × Nat × Nat × BitVec 32) := []
  /-- return combiner: slot, issue number, core, accumulator (R135). -/
  combine : List (Nat × Nat × Nat × LA) := []
  /-- failure tokens of VREDs that wait for their place in a slot (R164/R165). -/
  tokens : List (Nat × RetVal) := []
  /-- the ended share: status, exit word, failure (R172). -/
  ended : Option (BitVec 8 × BitVec 32 × Outcm) := none
  deriving DecidableEq, Repr, Inhabited

/-- One context-table entry (Tables 12-1, 12-2). -/
structure CtxEntry where
  /-- CTRL.VALID (R262). -/
  valid : Bool := false
  /-- CTRL.STATE (R262). -/
  state : CtxState := .free
  /-- CTRL.EPOCH (R262/R214). -/
  epoch : BitVec 4 := 0
  /-- CTRL.KEYDOM (R262). -/
  keydom : BitVec 8 := 0
  /-- CTRL.FUNC (R262). -/
  func : BitVec 5 := 0
  /-- CTRL.CHECKF (R262). -/
  checkf : BitVec 3 := 0
  /-- CTRL.DEBUG (R262). -/
  debug : Bool := false
  /-- CTRL.PRIO (R262). -/
  prio : BitVec 3 := 0
  /-- CTRL.SLICE (R262). -/
  slice : BitVec 8 := 0
  /-- PTROOT (R262). -/
  ptroot : BitVec 64 := 0
  /-- SEED (R262/R104). -/
  seed : BitVec 64 := 0
  /-- STEP (R262/R166). -/
  step : BitVec 32 := 0
  /-- FLAGGED, saturating (R116). -/
  flagged : BitVec 32 := 0
  /-- TIMEOUT0-15 in microseconds (R262/R208). -/
  timeouts : List (BitVec 32) := List.replicate 16 0
  /-- NORM_BASE (R120). -/
  normBase : BitVec 64 := 0
  /-- ENERGY in microjoules, saturating (R330). -/
  energy : BitVec 64 := 0
  /-- SAVE_BASE (R262/R273). -/
  saveBase : BitVec 64 := 0
  /-- PLACE clusters of the placement (R262). -/
  place : BitVec 16 := 0
  /-- PLACE unit ID of the job unit (R262). -/
  placeUnit : BitVec 32 := 0
  /-- LEDGER_ROOT0-3: base and length (R262). -/
  roots : List (BitVec 64 × BitVec 64) := List.replicate 4 (0, 0)
  /-- created before the firmware range opened: physical addresses read as host I/O virtual (R416). -/
  early : Bool := false
  deriving DecidableEq, Repr, Inhabited

/-- The fault of a context as R188 and R173 need it. -/
structure FaultInfo where
  /-- status of the failure (R173). -/
  status : BitVec 8 := 0
  /-- cause (R187). -/
  cause : BitVec 8 := 0
  /-- ESN of the failure (R173/R188). -/
  esn : Nat := 0
  /-- R188 has ended its untaken instructions (R188). -/
  flushed : Bool := false
  /-- module of the span whose failure it is; none for this module (R173/R15). -/
  from_ : Option Nat := none
  deriving DecidableEq, Repr, Inhabited

/-- An open restore (R360). -/
structure Restore where
  /-- SEED of the manifests loaded so far (R360). -/
  seed : Option (BitVec 64) := none
  /-- STEP of the manifests loaded so far (R360). -/
  step : Option (BitVec 32) := none
  /-- every manifest carried the same SEED and STEP (R360). -/
  agree : Bool := true
  /-- manifest addresses whose LOAD failed and has not succeeded since, with its RESULT (R360/R361). -/
  failed : List (Nat × Nat) := []
  /-- loaded regions: base and length (R360). -/
  regions : List (Nat × Nat) := []
  deriving DecidableEq, Repr, Inhabited

/-- An open placement fence (R216). -/
structure Fence where
  /-- clusters of the old placement (R216). -/
  place : BitVec 16 := 0
  /-- job cores of the old placement (R216). -/
  cores : BitVec 64 := 0
  /-- the old epoch (R216). -/
  epoch : BitVec 4 := 0
  /-- the move was forced (R215). -/
  forced : Bool := false
  /-- old store allocation (R216). -/
  storeOff : Nat := 0
  /-- old pool allocation (R216). -/
  poolOff : Nat := 0
  /-- length of the old store allocation (R216). -/
  storeLen : Nat := 0
  /-- length of the old pool allocation (R216). -/
  poolLen : Nat := 0
  deriving DecidableEq, Repr, Inhabited

/-- What SCH and the clusters hold about a context's work and residency. -/
structure CtxRun where
  /-- the context's fault in force (R188). -/
  fault : Option FaultInfo := none
  /-- DEBUG as read at the job start or resume (R263/R392). -/
  debug : Bool := false
  /-- the job's cores (R170). -/
  jobCores : BitVec 64 := 0
  /-- STORE_BYTES of the job (R167/R271). -/
  storeBytes : Nat := 0
  /-- POOL_BYTES of the job (R167/R271). -/
  poolBytes : Nat := 0
  /-- the context holds its resident slots (R271). -/
  resident : Bool := false
  /-- store allocation, offset in each core store (R271). -/
  storeOff : Nat := 0
  /-- pool allocation, offset in each pool (R271). -/
  poolOff : Nat := 0
  /-- the context runs on its clusters (not switched out) (R174/R272). -/
  running : Bool := false
  /-- length of its store allocation on each core (R271). -/
  storeLen : Nat := 0
  /-- length of its pool allocation on each cluster (R271). -/
  poolLen : Nat := 0
  /-- its slice has ended (R272). -/
  expired : Bool := false
  /-- the master has ordered the new epoch of a clean move that this member has still to make (R306). -/
  epochDue : Bool := false
  /-- its allocations lie in its save area (R273). -/
  evicted : Bool := false
  /-- slices it has waited while ready (ageing) (R272). -/
  waited : Nat := 0
  /-- order stamp of when it ran last (R272). -/
  lastRun : Nat := 0
  /-- its open placement fence (R216). -/
  fence : Option Fence := none
  /-- its open restore (R360). -/
  restore : Option Restore := none
  /-- array-cycles in IN windows this 1 ms interval (a_c) (R330). -/
  arrayCycles : Nat := 0
  /-- its scrub may end (R275) (R275). -/
  scrubbed : Bool := false
  deriving DecidableEq, Repr, Inhabited

/-- One fetched job that has not completed (R286 to R291). -/
structure Job where
  /-- fetch order over the module (R288). -/
  id : Nat := 0
  /-- function (R286). -/
  func : Nat := 0
  /-- unit ID of the job ring's unit (R286). -/
  unit : BitVec 32 := 0
  /-- job ring 0-3 (R286). -/
  ring : Nat := 0
  /-- fetch index in its ring (R287). -/
  idx : BitVec 32 := 0
  /-- completion ring CQ (R290). -/
  cq : Nat := 0
  /-- CTX (R287 Table 13-7). -/
  ctx : Nat := 0
  /-- OP (R287 Table 13-7). -/
  op : BitVec 8 := 0
  /-- FLAGS.IRQ (R287 Table 13-7). -/
  irq : Bool := false
  /-- FLAGS.ORDER (R287 Table 13-7). -/
  order : Bool := false
  /-- ARG (R287 Table 13-7). -/
  arg : BitVec 32 := 0
  /-- IMAGE (R287 Table 13-7). -/
  image : BitVec 64 := 0
  /-- COOKIE (R287 Table 13-7). -/
  cookie : BitVec 64 := 0
  /-- fetched, held, queued, running or ended (R288/R266). -/
  phase : JobPhase := .held
  /-- clusters whose share has not ended (R170/R309). -/
  shares : List Nat := []
  /-- members whose shares have not been reported ended (R309). -/
  peers : List Nat := []
  /-- exit word of rank 0 (R172). -/
  exit : BitVec 32 := 0
  /-- some share ended DONE_FLAGGED (R15/R172). -/
  flagged : Bool := false
  /-- the failure that decides the status so far (R15/R173). -/
  res : Option Outcm := none
  /-- first failure reported by another module, with its index (R15/R173/R309). -/
  peerRes : Option (Nat × Outcm) := none
  /-- the other modules have been sent this module's stop (R173/R309). -/
  told : Bool := false
  /-- held under row 1 of R305 (R305). -/
  rowOne : Bool := false
  /-- its record is discarded: the host link went down while it was in flight (R293). -/
  discard : Bool := false
  /-- its function was reset while it was in flight (R292/R293). -/
  flr : Bool := false
  /-- its finished record is held for its completion ring: the order in which it finished (R292). -/
  held : Option Nat := none
  /-- the completion record as formed (4 doublewords) (R290 Table 13-12). -/
  record : List (BitVec 64) := []
  /-- the context became QUEUED for it (R288). -/
  accepted : Bool := false
  /-- the number that the span's master gives it, for the share of another module's job (R305/R309). -/
  master : Option Nat := none
  deriving DecidableEq, Repr, Inhabited

/-- A signal in flight (R204, R213). -/
structure Signal where
  /-- its context (R200). -/
  ctx : Nat := 0
  /-- target unit ID, level 0 or 1 (R181). -/
  unit : BitVec 32 := 0
  /-- counter index (R181). -/
  ctr : Nat := 0
  /-- increment (R201). -/
  inc : BitVec 16 := 0
  /-- epoch carried (R213). -/
  epoch : BitVec 4 := 0
  deriving DecidableEq, Repr, Inhabited

/-- A collective in progress on this module (R220 to R230). -/
structure Coll where
  /-- context (R221). -/
  ctx : Nat := 0
  /-- group unit (R220). -/
  unit : BitVec 32 := 0
  /-- number of the collective of that unit (R221). -/
  k : Nat := 0
  /-- element LAs by linear index (R222). -/
  elems : List (Nat × LA) := []
  /-- CRED.NORM: the sum of the slots of each module (R235). -/
  slots : List (Nat × LA) := []
  /-- modules whose contributions are still expected (R228/R310). -/
  peers : List Nat := []
  /-- elements awaiting a TLW, in marker order: sender, linear index (R229). -/
  escapes : List (Nat × Nat) := []
  /-- chunks awaiting TLWs: sender, CHUNK, RES_SUM, sum so far, TLWs left (R230). -/
  resWant : List (Nat × Nat × Nat × Nat × Nat) := []
  /-- the collective was slowed by an escape lane (R229). -/
  escBound : Bool := false
  /-- TLWs sent for the participants of each die (R229). -/
  tlws : List (Nat × Nat) := []
  /-- CBCS and CA2A: parts still to arrive, by the positions of source and destination (R224). -/
  pending : List (Nat × Nat) := []
  /-- stream of each sender so far: BLW bytes and TLW bytes (R229). -/
  laneIn : List (Nat × Nat × Nat) := []
  deriving DecidableEq, Repr, Inhabited

/-- What another module has said of a collective before it starts here (R221). -/
structure Join where
  /-- context (R221). -/
  ctx : Nat := 0
  /-- group unit (R221). -/
  unit : BitVec 32 := 0
  /-- number of the collective of that unit (R221). -/
  k : Nat := 0
  /-- the module (R221). -/
  from_ : Nat := 0
  /-- opcode, MOD, TAG and DIMi on which its participants agree (R221). -/
  key : List Nat := []
  /-- linear indices that its destinations name, rising (R228/R231). -/
  wants : List Nat := []
  /-- its participants disagree (R221). -/
  differ : Bool := false
  deriving DecidableEq, Repr, Inhabited

/-- One ledger record (Table 16-1). -/
structure Rec where
  /-- ESN (R331/R28). -/
  esn : Nat := 0
  /-- reporting unit (R331). -/
  unit : BitVec 32 := 0
  /-- CLASS (R331). -/
  cls : BitVec 8 := 0
  /-- CODE (R333). -/
  code : BitVec 8 := 0
  /-- CTX (R331). -/
  ctx : BitVec 12 := 0
  /-- D0 (R331). -/
  d0 : BitVec 64 := 0
  /-- D1 (R331). -/
  d1 : BitVec 64 := 0
  /-- D2 (R331). -/
  d2 : BitVec 64 := 0
  /-- D3 (R331). -/
  d3 : BitVec 64 := 0
  /-- OPCODE (R331). -/
  opcode : BitVec 8 := 0
  /-- CAUSE (R331). -/
  cause : BitVec 8 := 0
  /-- STATUS (R331). -/
  status : BitVec 8 := 0
  /-- function whose access raised it (R336 case 2) (R336). -/
  origin : Option (Fin 32) := none
  /-- function that owned the context of CTX when the record arrived (R336 case 1) (R336). -/
  owner : Option (Fin 32) := none
  /-- functions enabled on the host link when it arrived (R336 case 3) (R336). -/
  enabled : BitVec 32 := 0
  /-- delivered on the ledger stream (R394). -/
  delivered : Bool := false
  deriving DecidableEq, Repr, Inhabited

/-- The error ledger and the sequence authority. -/
structure Ledger where
  /-- the next ESN (R28/R30). -/
  esn : Nat := 0x100000000
  /-- the ledger buffer, oldest first (R334). -/
  recs : List Rec := []
  /-- LDG_LOST.UNC (R334 Table 16-10). -/
  lostUnc : Nat := 0
  /-- LDG_LOST.INFO (R334). -/
  lostInfo : Nat := 0
  /-- LDG_LOST.CORR (R334). -/
  lostCorr : Nat := 0
  /-- LDG_LOST.COPIES per function (R336). -/
  copies : List (Nat × Nat) := []
  /-- the crust's ledger tail, newest last (R334/crust). -/
  tail : List Rec := []
  deriving DecidableEq, Repr, Inhabited

/-- One entry of a translation cache (R270). -/
structure Tlb where
  /-- context (R270). -/
  ctx : Nat := 0
  /-- level of its leaf, 0 or 1 (R267). -/
  level : Nat := 0
  /-- VA[47:16], or VA[47:21] at level 1 (R267). -/
  page : Nat := 0
  /-- the leaf (R270). -/
  leaf : BitVec 64 := 0
  deriving DecidableEq, Repr, Inhabited

/-- One memory channel (Tables 11-13 to 11-16). -/
structure Chan where
  /-- MEM_CHSTAT.STATE (R256 Table 11-13). -/
  state : BitVec 4 := 0
  /-- MEM_CHERR.CORR (R255 Table 11-14). -/
  corr : Nat := 0
  /-- MEM_CHERR.UNCORR (R256 Table 11-14). -/
  uncorr : Nat := 0
  /-- MEM_CHLANE META and DATA (R255 Table 11-15). -/
  lane : BitVec 18 := 0
  /-- lines served in class L (MEM_CLASS shows [25:10]) (R249 Table 11-16). -/
  linesL : BitVec 26 := 0
  /-- lines served in class G (R249 Table 11-16). -/
  linesG : BitVec 26 := 0
  /-- lines served in class B (R249 Table 11-16). -/
  linesB : BitVec 26 := 0
  /-- lines served in class S (R249 Table 11-16). -/
  linesS : BitVec 26 := 0
  /-- refreshes done per bank (R243 Table 11-4). -/
  refreshed : List (Nat × Nat) := []
  deriving DecidableEq, Repr, Inhabited

/-- Stack memory, the core stores and the pools, with the stacks' protection state. -/
structure Mem where
  /-- bytes of the physical map by address, canonical (R22/R23). -/
  cells : List Host.Cell := []
  /-- key under which each written line was written, by line number: domain + 256 x generation of its keys (R252/R253). -/
  dom : List (Nat × Nat) := []
  /-- zero fills of ranges, newest first: base, size, key (R277/R411). -/
  fills : List (Nat × Nat × Nat) := []
  /-- lines written as poison, by line number (R256). -/
  poison : List Nat := []
  /-- physical bit errors now in a line (R255/R256). -/
  flaws : List (Nat × Flaw) := []
  /-- the live cullet list, in order of adding (R259). -/
  cullet : List Nat := []
  /-- MEM_CULLSTAT.FULL (R259). -/
  cullFull : Bool := false
  /-- MEM_CULLSTAT.PERSIST_ERR (R260). -/
  persistErr : Bool := false
  /-- MEM_CULLSTAT.BUSY (R260). -/
  persistBusy : Bool := false
  /-- MEM_CULLSTAT.PERSISTED (R260). -/
  persisted : Nat := 0
  /-- channels that differ from their default, key 128 stack + channel (R242/R255). -/
  chan : List (Nat × Chan) := []
  /-- channel groups powered down, 4 stack + group (R318). -/
  groupOff : List Nat := []
  /-- channel groups in reset (R371). -/
  groupReset : List Nat := []
  /-- channel groups that lost their contents, with the ranges written since (R242/R372). -/
  groupLost : List (Nat × List (Nat × Nat)) := []
  /-- host writes waiting for a protected page: address, domain, bytes (R357). -/
  hostHeld : List (Nat × Nat × List (BitVec 8)) := []
  /-- 4 KiB pages of host I/O virtual space that the host's ATS refuses, by function (R285). -/
  atsRefused : List (Nat × Nat) := []
  /-- host memory as this module last wrote it, key 2^64 function + I/O virtual address (R285). -/
  hostMem : List Host.Cell := []
  /-- the hub's ATS translation cache: function and 4 KiB page, oldest first (R285). -/
  atc : List (Nat × Nat) := []
  /-- lines the host may hold (snoop filter), oldest first (R284). -/
  snoop : List Nat := []
  deriving DecidableEq, Repr, Inhabited

/-- One host function (R281 to R293, R390). -/
structure Func where
  /-- base of its memory range (R390). -/
  base : Nat := 0
  /-- size of its memory range (R390/R283). -/
  size : Nat := 0
  /-- largest number of contexts outside FREE (R390). -/
  quota : Nat := 0
  /-- default shadow-tile fraction (R390). -/
  checkf : BitVec 3 := 0
  /-- FUNC_ASSIGN has given it values (R390/Table 20-2). -/
  assigned : Bool := false
  /-- bound key domain (R274). -/
  dom : Option Nat := none
  /-- debug granted (R392). -/
  debug : Bool := false
  /-- enabled on the host link: PF0, or a VF while VF Enable is set (R336). -/
  enabled : Bool := false
  /-- Bus Master Enable (R293). -/
  busMaster : Bool := true
  /-- FUNC_CTL.DISABLE (R293 Table 13-15). -/
  disable : Bool := false
  /-- FUNC_STAT.DISABLED (R293 Table 13-16). -/
  disabled : Bool := false
  /-- FUNC_STAT.CANCELLING (R293 Table 13-16). -/
  cancelling : Bool := false
  /-- BAR0 base in host physical space (R281). -/
  bar0 : BitVec 64 := 0
  /-- host physical window base of its HDM decoder (R283). -/
  hdmWin : Option Nat := none
  /-- HOSTWIN0-3 BASE and LIM (R285 Table 13-17). -/
  windows : List (BitVec 64 × BitVec 64) := List.replicate 4 (0, 0)
  /-- MSI-X table, key 2 vector + half (R281/R282 Table 13-2). -/
  msix : List (Nat × BitVec 64) := []
  /-- MSI-X pending bits (R281 Table 13-2). -/
  pba : List Nat := []
  /-- CTX_CMDSTAT.BUSY (R265 Table 12-4). -/
  ctxBusy : Bool := false
  /-- CTX_CMDSTAT.CTX (R265 Table 12-4). -/
  ctxCmd : BitVec 12 := 0
  /-- CTX_CMDRES FIELD and RESULT (R265 Table 12-5). -/
  ctxRes : BitVec 16 := 0
  /-- CKP_STAT.BUSY (R360 Table 17-4). -/
  ckpBusy : Bool := false
  /-- CKP_STAT.CTX (R360 Table 17-4). -/
  ckpCtx : BitVec 12 := 0
  /-- CKP_STAT.RESULT (R360 Table 17-4). -/
  ckpRes : BitVec 8 := 0
  /-- CKP_STAT.PAGE (R360 Table 17-4). -/
  ckpPage : BitVec 32 := 0
  /-- CKP_ADDR (R360 Table 17-3). -/
  ckpAddr : BitVec 64 := 0
  /-- the LOAD in progress: command word and address (R360). -/
  ckpLoad : List (BitVec 64) := []
  /-- per completion ring: records of IRQ jobs since the last interrupt (R290). -/
  irqCount : List (Nat × Nat) := []
  /-- a stop in progress destroys its contexts (R293). -/
  scrubAll : Bool := false
  /-- job rings enabled, key 4 window slot + ring (R286 Table 13-5). -/
  jrEnable : List Nat := []
  /-- job rings with ERR (R287 Table 13-5). -/
  jrErr : List Nat := []
  /-- HEAD of each job ring (R287 Table 13-5). -/
  jrHead : List (Nat × BitVec 32) := []
  /-- TAIL as the hub last read it (R287). -/
  jrTail : List (Nat × BitVec 32) := []
  /-- JR_BASE (R286 Table 13-4). -/
  jrBase : List (Nat × BitVec 64) := []
  /-- JR_CFG LOC CQ LOG2N (R286 Table 13-5). -/
  jrCfg : List (Nat × BitVec 64) := []
  /-- JR_TAIL TAILADDR (R286 Table 13-6). -/
  jrTailAddr : List (Nat × BitVec 64) := []
  /-- CR_BASE (R290 Table 13-9). -/
  crBase : List (Nat × BitVec 64) := []
  /-- CR_CFG (R290 Table 13-10). -/
  crCfg : List (Nat × BitVec 64) := []
  /-- CR_PTR.TAIL (R290 Table 13-11). -/
  crTail : List (Nat × BitVec 32) := []
  /-- CR_PTR.HEAD (R290 Table 13-11). -/
  crHead : List (Nat × BitVec 32) := []
  /-- LDG_RBASE (R336 Table 16-7). -/
  ldgBase : BitVec 64 := 0
  /-- LDG_RCFG (R336 Table 16-8). -/
  ldgCfg : BitVec 64 := 0x1F
  /-- LDG_RPTR.TAIL (R336 Table 16-9). -/
  ldgTail : BitVec 32 := 0
  /-- LDG_RPTR.HEAD (R336 Table 16-9). -/
  ldgHead : BitVec 32 := 0
  deriving DecidableEq, Repr, Inhabited

/-- One key domain (R274, R277). -/
structure Dom where
  /-- 0 FREE, 1 BOUND, 2 RETIRING (R274). -/
  state : BitVec 2 := 0
  /-- generation of its keys (R277/R372). -/
  gen : Nat := 0
  /-- range being zero-filled: base (R277). -/
  base : Nat := 0
  /-- its size (R277). -/
  size : Nat := 0
  /-- function it was released from (R277). -/
  func : Nat := 0
  deriving DecidableEq, Repr, Inhabited

/-- KD_STAT (Table 12-12). -/
structure KdStat where
  /-- DOMAIN (R277 Table 12-12). -/
  domain : BitVec 8 := 0
  /-- DISCARDS, saturating (R277 Table 12-12). -/
  discards : Nat := 0
  /-- DONE_MIB (R277 Table 12-12). -/
  doneMib : Nat := 0
  deriving DecidableEq, Repr, Inhabited

/-- One digest-table entry (R346). -/
structure Digest where
  /-- key: CTX (R345). -/
  ctx : Nat := 0
  /-- key: STEP (R345). -/
  step : BitVec 32 := 0
  /-- key: TAG (R345). -/
  tag : BitVec 32 := 0
  /-- key: origin (R345). -/
  origin : Nat := 0
  /-- key: window element count (R345). -/
  count : Nat := 0
  /-- stored digest (R346). -/
  first : BitVec 64 := 0
  /-- messages received for the key: module and digest (R347). -/
  seen : List (Nat × BitVec 64) := []
  /-- a disagreement was found and is being collected (R347). -/
  differ : Bool := false
  deriving DecidableEq, Repr, Inhabited

/-- The hub's digest table and CHK_DIGEST (R346, Table 16-18). -/
structure DigTable where
  /-- the table, oldest first (R346). -/
  entries : List Digest := []
  /-- CHK_DIGEST.EVICTED (R346 Table 16-18). -/
  evicted : Nat := 0
  /-- CHK_DIGEST.COMPARED (R346 Table 16-18). -/
  compared : Nat := 0
  deriving DecidableEq, Repr, Inhabited

/-- One hub check-value unit (Tables 16-15, 16-16). -/
structure Hcv where
  /-- CTX (R348). -/
  ctx : BitVec 12 := 0
  /-- PATH (R348). -/
  path : Bool := false
  /-- LINK (R348). -/
  link : BitVec 4 := 0
  /-- DIR (R348). -/
  dir : Bool := false
  /-- DONE (R348). -/
  done : Bool := false
  /-- POLY (R348). -/
  poly : BitVec 2 := 0
  /-- ARM (R348). -/
  arm : Bool := false
  /-- VALUE (R348). -/
  value : BitVec 64 := 0
  deriving DecidableEq, Repr, Inhabited

/-- The governor, the meter and the sensors (15_power_thermal.md). -/
structure Pwr where
  /-- point code of D0-D3 (R319 Table 15-8). -/
  point : List Nat := [0, 0, 0, 0]
  /-- PWR_CAP.CAP (R327 Table 15-6). -/
  cap : Nat := 2600
  /-- CAP written, taking effect at the next interval (R327). -/
  capNext : Option Nat := none
  /-- PWR_CAP.EFFECTIVE (R325 Table 15-6). -/
  effective : Nat := 2600
  /-- PWR_MODE.MGMT_MAX (R322 Table 15-7). -/
  mgmtMax : Nat := 23
  /-- PWR_MODE.FIXED_POINT (R322 Table 15-7). -/
  fixedPoint : Nat := 18
  /-- PWR_MODE.FIXED (R322 Table 15-7). -/
  fixed : Bool := false
  /-- PWR_STAT.DISTURBED (R322 Table 15-8). -/
  disturbed : Bool := false
  /-- PWR_STAT.UNATTAIN (R326 Table 15-8). -/
  unattain : Bool := false
  /-- PWR_STAT.EMERG (R324 Table 15-8). -/
  emerg : Bool := false
  /-- PWR_STAT.POWER, 1 ms average (R326 Table 15-8). -/
  power : Nat := 0
  /-- PWR_STAT.STOPPED, k (R326 Table 15-8). -/
  stopped : Nat := 0
  /-- PWR_ENERGY in mJ (R329 Table 15-9). -/
  energy : Nat := 0
  /-- energy of the current 1 ms interval in uJ (E) (R330). -/
  uj : Nat := 0
  /-- uJ not yet a whole mJ of PWR_ENERGY (R329). -/
  ujRest : Nat := 0
  /-- PWR_TEMP.COOLANT (R325 Table 15-10). -/
  inlet : Nat := 0
  /-- PWR_TEMP.FLOW (R325 Table 15-10). -/
  flow : Nat := 0
  /-- PWR_TEMP.Dn_TJ (R323 Table 15-10). -/
  tj : List Nat := [0, 0, 0, 0]
  /-- each stack's report (MEM_CHSTAT.TEMP; the hottest is STACK_MAX) (R243 Table 11-13). -/
  stackT : List (Nat × Nat) := []
  /-- stacks at the doubled refresh rate (MEM_CHSTAT.HOT) (R243). -/
  hot : List Nat := []
  /-- active throttle reasons: key 8 die + reason (R323 Table 15-3). -/
  reason : List Nat := []
  /-- PWR_THRCNT in us by key 8 die + reason (R323 Table 15-5). -/
  thrCnt : List (Nat × Nat) := []
  /-- point limit that the thermal and cap reasons have worked down to, per die (R320/R323). -/
  limit : List Nat := [23, 23, 23, 23]
  /-- reason 3 holds every die at the floor (R323). -/
  trip : Bool := false
  /-- the coolant limit is the power at the floor (flow below 1.6) (R325). -/
  noFlow : Bool := false
  /-- governor evaluations since the last 1 ms (R323 (one code per ms)). -/
  tick : Nat := 0
  /-- switched power domains that are off, numbered as Table 15-1 lists them (R318). -/
  off : List Nat := []
  /-- main power applied to compute dies and stacks (R328/R421). -/
  mainOn : Bool := false
  /-- main power was removed by R328 (R328/R422). -/
  tripped : Bool := false
  /-- operations deferred until EMERG clears, in order of arrival (R387/R260/R378). -/
  deferred : List Defer := []
  deriving DecidableEq, Repr, Inhabited

/-- One firmware processor (Table 18-1, Table 18-8). -/
structure Proc where
  /-- FW_STAT.STATE (R366 Table 18-8). -/
  state : BitVec 3 := 0
  /-- FW_STAT.RESTARTS (R365 Table 18-8). -/
  restarts : Nat := 0
  /-- its restarts of the last 60 s of its local time, each by the heartbeats since (R368). -/
  recent : List Nat := []
  /-- FW_STAT.BANK, the running bank (R378 Table 18-8). -/
  bank : Bool := false
  /-- progress word of its last heartbeat (R364). -/
  progress : BitVec 64 := 0
  /-- FW_STAT.BEAT_AGE (R364 Table 18-8). -/
  beatAge : Nat := 0
  /-- heartbeats since its activation, for 10 s (R379). -/
  fresh : Option Nat := none
  /-- it serves: not down, restarting or held (R366). -/
  served : Bool := true
  /-- a CFC's latched records (R367). -/
  latch : List Rec := []
  deriving DecidableEq, Repr, Inhabited

/-- A firmware image in a bank of the boot NVM. -/
structure Img where
  /-- the bank holds an image that SEC verified (R377). -/
  valid : Bool := true
  /-- VERSION (R377 Table 18-8). -/
  version : BitVec 16 := 0
  /-- SVN (R377 Table 18-8). -/
  svn : BitVec 8 := 0
  /-- SHA-384 of the image (R398 Table 19-6). -/
  digest : BitVec 384 := 0
  /-- staged in the inactive bank (R377). -/
  staged : Bool := false
  deriving DecidableEq, Repr, Inhabited

/-- The two boot NVM devices and the log partition (R403). -/
structure Nvm where
  /-- configuration image, copy 0 (R403). -/
  copy0 : CfgImage := {}
  /-- configuration image, copy 1 (R403). -/
  copy1 : CfgImage := {}
  /-- last ESN committed to the log (R30). -/
  esn : Nat := 0
  /-- REPLACE in the log (R350). -/
  replace : Bool := false
  /-- records committed by the latch path (R428). -/
  records : List Rec := []
  /-- bank A images of SEC, PMC, SCH, CFC (R403). -/
  imgA : List (Nat × Img) := []
  /-- bank B images (R403). -/
  imgB : List (Nat × Img) := []
  /-- function assignments in the log: base, size, quota, CHECKF (R403/R407). -/
  funcs : List (Nat × (Nat × Nat × Nat × BitVec 3)) := []
  /-- key-domain bindings in the log: function, domain (R403/R407). -/
  binds : List (Nat × Nat) := []
  /-- management accounts (R385/R403). -/
  accounts : List Account := []
  deriving DecidableEq, Repr, Inhabited

/-- One FMP session (R384, R385). -/
structure Sess where
  /-- session number (R385/Table 16-26). -/
  id : Nat := 0
  /-- its account (R384). -/
  account : String := ""
  /-- source address (R385). -/
  source : Nat := 0
  /-- records that the module has sent in the session (R384). -/
  sent : Nat := 0
  deriving DecidableEq, Repr, Inhabited

/-- The management port (19_management_security.md). -/
structure Mgmt where
  /-- open FMP sessions (R385). -/
  sessions : List Sess := []
  /-- failed openings per source within 60 s (R385). -/
  failures : List (Nat × Nat) := []
  /-- source addresses barred for 60 s (R385). -/
  barred : List Nat := []
  /-- session that holds the ledger stream (R394). -/
  stream : Option Nat := none
  /-- RESET_GRANT of PF0 (R393). -/
  resetGrant : Bool := false
  /-- an ACCOUNT_CLEAR awaits a touch (R389). -/
  clearPending : Bool := false
  /-- fuse counter F (R380 Table 19-7). -/
  fuseF : BitVec 8 := 0
  /-- MGMT_STAT.ETH_UP (Table 19-7). -/
  ethUp : Bool := false
  /-- MGMT_STAT.I3C_UP (Table 19-7). -/
  i3cUp : Bool := false
  /-- SEC is activating: requests answer Busy (R401). -/
  spdmBusy : Bool := false
  /-- the session whose firmware load is running (R387). -/
  loading : Option Nat := none
  /-- the management port's own CTX_CMD and CKP_CMD instance (R265/R360). -/
  ctxCmd : Func := {}
  /-- image measured at the last bring-up (block 6) (R398/R406). -/
  imageGen : Nat := 0
  deriving DecidableEq, Repr, Inhabited

/-- One crust dump (R374 to R376, Table 18-6). -/
structure Dump where
  /-- dump index (R374). -/
  index : Nat := 0
  /-- DOMAIN (R376 Table 18-6). -/
  domain : BitVec 4 := 0
  /-- ESN of the triggering record (R376 Table 18-6). -/
  esn : Nat := 0
  /-- UNIT (R376 Table 18-6). -/
  unit : BitVec 32 := 0
  /-- WORDS (R376 Table 18-6). -/
  words : Nat := 0
  /-- body words whose validity bit is clear (R375). -/
  badWords : List Nat := []
  /-- consecutive timeouts of the unit being read (R375). -/
  consec : Nat := 0
  /-- FLAGS.INCOMPLETE (R376 Table 18-6). -/
  incomplete : Bool := false
  /-- FLAGS.PINNED (R374 Table 18-6). -/
  pinned : Bool := false
  /-- FLAGS.COMMITTED (R376 Table 18-6). -/
  committed : Bool := false
  /-- the dump is being made (R374/R375). -/
  open_ : Bool := false
  /-- body words as the writer reads them, section words included (R374/R376). -/
  body : List (BitVec 64) := []
  deriving DecidableEq, Repr, Inhabited

/-- The crust SRAM and the committed dumps. -/
structure Crust where
  /-- dump area, oldest first (R374). -/
  dumps : List Dump := []
  /-- dumps committed to the NVM log partition (R376). -/
  nvmDumps : List Dump := []
  /-- next dump index (R374). -/
  next : Nat := 0
  deriving DecidableEq, Repr, Inhabited

/-- Resets in progress and RST_STAT (Table 18-10). -/
structure Rst where
  /-- RST_STAT.BUSY (R371 Table 18-10). -/
  busy : Bool := false
  /-- RST_STAT.LAST (R371 Table 18-10). -/
  last : BitVec 4 := 0
  /-- RST_STAT.RESULT (R373 Table 18-10). -/
  result : BitVec 8 := 0
  /-- RST_STAT.COUNT (R371 Table 18-10). -/
  count : BitVec 32 := 0
  /-- resets in progress: domain code and unit or part (R371/R373). -/
  active : List (BitVec 4 × Nat) := []
  deriving DecidableEq, Repr, Inhabited

/-- One span link (Tables 14-7, 14-8). -/
structure Link where
  /-- SPAN_LINK.STATE (R300 Table 14-7). -/
  state : BitVec 4 := 0
  /-- payload bytes sent (TX_GIB) (Table 14-7). -/
  txBytes : Nat := 0
  /-- payload bytes received (RX_GIB) (Table 14-7). -/
  rxBytes : Nat := 0
  /-- SPAN_LINKERR.CORRECTED (Table 14-8). -/
  corrected : Nat := 0
  /-- SPAN_LINKERR.REPLAYS (R300 Table 14-8). -/
  replays : Nat := 0
  /-- sequence number expected next (R300). -/
  seqNo : Nat := 0
  /-- sequence number of a flit being replayed (R300). -/
  retried : Option Nat := none
  /-- link keys agreed (R301/R402). -/
  keyed : Bool := false
  /-- flits discarded after the mark (R315 Table 14-5). -/
  dropped : Nat := 0
  /-- ESN of the code-0x60 record of its peer's withdrawal (R311 Table 14-5). -/
  lossEsn : Nat := 0
  deriving DecidableEq, Repr, Inhabited

/-- The span as this module sees it (14_span_cascade.md). -/
structure Span where
  /-- L0-L15 (R297). -/
  links : List (Nat × Link) := []
  /-- SPAN_STATE.PRESENT (R303 Table 14-9). -/
  admitted : BitVec 16 := 0
  /-- modules shown WITHDRAWN (R311 Table 14-10). -/
  withdrawn : BitVec 16 := 0
  /-- modules expelled and not readmitted (R317). -/
  expelled : BitVec 16 := 0
  /-- SPAN_STATE.WITHDRAWALS (Table 14-9). -/
  withdrawals : BitVec 8 := 0
  /-- present cores of each admitted member, all 64 where not listed (R3/R303). -/
  peerCores : List (Nat × BitVec 64) := []
  /-- STATE of each member as last reported (SPAN_MSTATE) (Table 14-10). -/
  peerState : List (Nat × BitVec 4) := []
  /-- forwarded accesses without an answer yet: module, address, who made it, whether it is a write (R308). -/
  forwards : List (Nat × Nat × Writer × Bool) := []
  /-- the span unit is RESET (master lost) (R314). -/
  reset : Bool := false
  /-- this module has withdrawn from its span (R349/R425). -/
  selfOut : Bool := false
  /-- old-epoch writes dropped by the hub (R215 Table 9-7). -/
  staleWrites : Nat := 0
  deriving DecidableEq, Repr, Inhabited

/-- The service panel and hot swap (21_module_hardware.md). -/
structure Panel where
  /-- PRES0 made (R421 Table 21-6). -/
  pres0 : Bool := false
  /-- PRES1 made (R421 Table 21-6). -/
  pres1 : Bool := false
  /-- latch closed (R421 Table 21-6). -/
  latch : Bool := false
  /-- drain button held now (R424 Table 21-6). -/
  button : Bool := false
  /-- identify on (R423 Table 21-6). -/
  identify : Bool := false
  /-- a latch path has run since the last cold start (R426 Table 21-6). -/
  surprise : Bool := false
  /-- hold-up charged (R419 Table 21-6). -/
  holdup : Bool := false
  /-- auxiliary power present (R407/R422). -/
  aux : Bool := true
  /-- a latch path is running (R426). -/
  latchPath : Bool := false
  /-- ESN of the latch path's code-0x94 record (R426). -/
  latchEsn : Nat := 0
  /-- the latch path has finished (R426). -/
  latchDone : Bool := false
  deriving DecidableEq, Repr, Inhabited

/-- Bring-up (20_bring_up.md). -/
structure Boot where
  /-- BOOT_STAT.PHASE (R407 Table 20-5). -/
  phase : Nat := 0
  /-- phases that have ended in this bring-up (R407/R409). -/
  ended : List Nat := []
  /-- the configuration in use (R405). -/
  image : CfgImage := {}
  /-- BOOT_STAT.CFG_COPY (Table 20-5). -/
  copy : Bool := false
  /-- BOOT_STAT.CFG_DEFAULT (R405 Table 20-5). -/
  dflt : Bool := false
  /-- BOOT_STAT.CORES_FAILED (R410 Table 20-5). -/
  coresFailed : Nat := 0
  /-- BOOT_STACKS.JOINED (R412 Table 20-6). -/
  joined : BitVec 20 := 0
  /-- BOOT_STACKS.FAILED (R414 Table 20-6). -/
  failed : BitVec 20 := 0
  /-- BOOT_TIME.P0 (R409 Table 20-7). -/
  p0 : BitVec 16 := 0
  /-- BOOT_TIME.P1 (R409 Table 20-7). -/
  p1 : BitVec 16 := 0
  /-- BOOT_TIME.P2 (R409 Table 20-7). -/
  p2 : BitVec 16 := 0
  /-- BOOT_TIME.P4 (R409 Table 20-7). -/
  p4 : BitVec 16 := 0
  /-- bring-up has halted (R418). -/
  halted : Bool := false
  /-- die ranges that have opened (R412). -/
  open_ : BitVec 4 := 0
  /-- the context table lies in the pool of R416 (R416). -/
  tableInPool : Bool := false
  /-- bring-ups so far (indexes the checking key and the key generations) (R339/R372 (model's own index)). -/
  count : Nat := 0
  /-- the host port answers configuration requests (R408). -/
  configUp : Bool := false
  /-- the configuration request that the host has waiting at the port, an input (R408 (model's own input)). -/
  request : CfgReq := .other
  deriving DecidableEq, Repr, Inhabited

/-- What the fuses and the self-test leave present (R2, R3, R410). -/
structure Part where
  /-- UNIT_DESC.GRADE: GNX-16 (R2 Table 1-7). -/
  gnx16 : Bool := false
  /-- cores fused off (R3). -/
  fusedCores : BitVec 64 := 0
  /-- cores left out at self-test (R410). -/
  failedCores : BitVec 64 := 0
  /-- stacks present (R3). -/
  stackMap : BitVec 20 := 0xFFFFF
  deriving DecidableEq, Repr, Inhabited

/-- Where one die was made: an entry of the identity extension (Table 19-5). -/
structure DieId where
  /-- LOT, 8 ASCII characters (R396). -/
  lot : BitVec 64 := 0
  /-- WAFER, 1-25 (R396). -/
  wafer : BitVec 8 := 1
  /-- DIE_X, signed (R396). -/
  dieX : BitVec 8 := 0
  /-- DIE_Y, signed (R396). -/
  dieY : BitVec 8 := 0
  /-- FAB (R396). -/
  fab : BitVec 8 := 0
  deriving DecidableEq, Repr, Inhabited

/-- The module's identity: the fuses, and the keys and certificates that SEC makes of them (R395, R396). -/
structure Ident where
  /-- unique device secret in fuses (R395). -/
  secret : BitVec 256 := 0
  /-- fuses locked until the next cold start (R395). -/
  locked : Bool := false
  /-- DeviceID key pairs, Ed25519 then ML-DSA-65 (R395). -/
  device : List Config.KeyPair := []
  /-- compound device identifier of the SEC image (R395). -/
  cdi : BitVec 384 := 0
  /-- Alias key pairs, Ed25519 then ML-DSA-65 (R395). -/
  aliasKey : List Config.KeyPair := []
  /-- TcbInfo: SHA-384 of the running SEC image (R395). -/
  tcbDigest : BitVec 384 := 0
  /-- TcbInfo: SVN of the running SEC image (R395). -/
  tcbSvn : BitVec 8 := 0
  /-- SERIAL, 16 ASCII characters (R396). -/
  serial : BitVec 128 := 0
  /-- UNIT_DESC.STEPPING (R17 Table 1-7). -/
  stepping : BitVec 8 := 0x11
  /-- where each present die was made, by POSITION (R396). -/
  dies : List (Nat × DieId) := []
  deriving DecidableEq, Repr, Inhabited

/-- One cluster as hardware: its running context, SEQ_FAULT and what its CFC holds. -/
structure Clus where
  /-- context on the cluster, 0 none (R272). -/
  ctx : Nat := 0
  /-- SEQ_FAULT.VALID (R175 Table 7-9). -/
  fvalid : Bool := false
  /-- SEQ_FAULT.OVERRUN (R175 Table 7-9). -/
  foverrun : Bool := false
  /-- SEQ_FAULT.FCTX (R175 Table 7-9). -/
  fctx : BitVec 12 := 0
  /-- SEQ_FAULT.CAUSE (R175 Table 7-9). -/
  fcause : BitVec 8 := 0
  /-- SEQ_FAULT.TVAL (R175 Table 7-9). -/
  ftval : BitVec 32 := 0
  /-- SEQ_FAULTPC.PC (R175 Table 7-10). -/
  fpc : BitVec 32 := 0
  /-- removed from dispatch: its CFC is held (R368). -/
  removed : Bool := false
  /-- held in reset (R371). -/
  inReset : Bool := false
  /-- SYNC_STALE.STALE_SIGNALS of the cluster (R213 Table 9-7). -/
  staleSig : Nat := 0
  /-- SYNC_CTXSEL (R210 Table 9-6). -/
  ctxSel : BitVec 12 := 0
  deriving DecidableEq, Repr, Inhabited

/-- One core as hardware: slot-checker registers, peek registers, array activity, progress. -/
structure CorePhys where
  /-- MXE_SLOTCHK (R91 Table 4-7). -/
  slotchk : BitVec 64 := 0
  /-- MXE_SLOTCNT.COUNT (R91 Table 4-8). -/
  slotcnt : Nat := 0
  /-- MXE_ARRSTAT Aa_STATE (R86 Table 4-9). -/
  arrState : List (Nat × BitVec 2) := []
  /-- MXE_ARRSTAT Aa_IDLE (R86 Table 4-9). -/
  arrIdle : List (Nat × Nat) := []
  /-- DBG_LASEL (R70 Table 3-5). -/
  lasel : BitVec 64 := 0
  /-- DBG_LACTL.SELERR (R70 Table 3-6). -/
  selerr : Bool := false
  /-- DBG_LACTL.VALID (R70 Table 3-6). -/
  peekValid : Bool := false
  /-- DBG_LACTL.BUSY (R70 Table 3-6). -/
  peekBusy : Bool := false
  /-- the copy being resolved, then DBG_LAFLAGS and DBG_LALIMB0-9 (R70 Tables 3-7). -/
  peekLa : LA := {}
  /-- DBG_LAFLAGS as last shown (R70 Table 3-7). -/
  laflags : BitVec 64 := 0
  /-- DBG_LALIMB0-9 (R70 Table 3-8). -/
  lalimb : List (BitVec 64) := List.replicate 10 0
  /-- progress counters of MXE, VXE, DXE, CXE (R369). -/
  prog : List (Nat × Nat) := []
  /-- CHK_TILE.CHECKED (R342 Table 16-17). -/
  checked : Nat := 0
  /-- CHK_TILE.ABANDONED (R341 Table 16-17). -/
  abandoned : Nat := 0
  /-- held in reset (R15/R371). -/
  inReset : Bool := false
  /-- SYNC_STALE.STALE_SIGNALS of the core (R213 Table 9-7). -/
  staleSig : Nat := 0
  /-- SYNC_CTXSEL (R210 Table 9-6). -/
  ctxSel : BitVec 12 := 0
  deriving DecidableEq, Repr, Inhabited

/-- One die as hardware. -/
structure Die where
  /-- held in reset (R371). -/
  inReset : Bool := false
  /-- MEM_SEL (Table 11-12). -/
  memSel : BitVec 64 := 0
  /-- SYNC_STALE.STALE_WRITES of the die (R215 Table 9-7). -/
  staleWrites : Nat := 0
  deriving DecidableEq, Repr, Inhabited

/-- One companion core (R294, R295). -/
structure Hart where
  /-- function it is assigned to (COMP_STAT.ASSIGNED) (R294 Table 13-20). -/
  func : Option Nat := none
  /-- running (COMP_STAT.RUNNING) (R294 Table 13-20). -/
  running : Bool := false
  /-- program counter, as START or an access fault leaves it (R295). -/
  pc : BitVec 64 := 0
  /-- started in supervisor mode (R295). -/
  supervisor : Bool := false
  /-- cause of its last access fault (R294). -/
  cause : Nat := 0
  /-- address of its last access fault (R294). -/
  tval : BitVec 64 := 0
  /-- program counter that fault saved (R294). -/
  epc : BitVec 64 := 0
  /-- SBI timer set (R295). -/
  timer : Option (BitVec 64) := none
  /-- an IPI is pending (R295). -/
  ipi : Bool := false
  /-- pending identities of its interrupt file (R296). -/
  file : List Nat := []
  deriving DecidableEq, Repr, Inhabited

/-- The scheduler core's own state and module-level registers. -/
structure Sch where
  /-- CTX_SCHED.DEFAULT (R272 Table 12-10). -/
  dflt : BitVec 8 := 8
  /-- CTX_SCHED.EVICTIONS (R273 Table 12-10). -/
  evictions : BitVec 16 := 0
  /-- order stamp for least-recently-run (R272). -/
  stamp : Nat := 0
  /-- next job id (model's own (orders R288). -/
  jobNo : Nat := 0
  /-- COMP_BOOT (R295 Table 13-18). -/
  compBoot : BitVec 64 := 0
  /-- MEM_CULLIDX (Table 11-20). -/
  cullIdx : BitVec 12 := 0
  /-- MEM_CFG.INTERLEAVE in force (R244 Table 11-11). -/
  interleave : Bool := false
  /-- the host link is in L0 (R280). -/
  hostLink : Bool := false
  /-- epoch changes that wait for SCH to serve again, oldest first (R366 Table 18-2). -/
  waits : List SchWait := []
  /-- jobs ended with CANCELLED_DRAIN in this drain (R349). -/
  drainJobs : Nat := 0
  /-- instructions ended with CANCELLED_DRAIN in this drain (R349). -/
  drainInstrs : Nat := 0
  deriving DecidableEq, Repr, Inhabited

/-- Drain and replacement (Tables 1-10, 16-21, 16-22). -/
structure Health where
  /-- UNIT_STATUS.STATE of the module (R18 Table 1-10). -/
  state : BitVec 4 := 0
  /-- STATE of D0-D3: RESET, BRINGUP, EARLY or SERVICE (R18/R412). -/
  dieState : List (BitVec 4) := [0, 0, 0, 0]
  /-- MOD_HEALTH.REPLACE, the live flag (R350 Table 16-21). -/
  replace : Bool := false
  /-- the flag's write to NVM has succeeded (R350). -/
  replaceNvm : Bool := true
  /-- MOD_HEALTH.CAUSE (R349 Table 16-21). -/
  cause : BitVec 4 := 0
  /-- MOD_TRIGGER.ESN (R349 Table 16-22). -/
  trigger : Nat := 0
  /-- ESN of the drain's code-0x90 record (R353). -/
  drainEsn : Nat := 0
  deriving DecidableEq, Repr, Inhabited

/-- The module. `pending` is the queue of waiting commands, first in first out; every other field is state
the spec gives the machine, or the model's own where its line says so. -/
structure State where
  /-- the queue of waiting commands, first in first out (MODEL'S OWN (the block's command queue)). -/
  pending : List Instr := []
  /-- fuses and self-test (R2/R3/R410). -/
  part : Part := {}
  /-- identity: fuses, keys, certificates (R395/R396). -/
  ident : Ident := {}
  /-- bring-up (R407). -/
  boot : Boot := {}
  /-- drain and replacement (R349). -/
  health : Health := {}
  /-- boot NVM (R403). -/
  nvm : Nvm := {}
  /-- error ledger and sequence authority (R331). -/
  led : Ledger := {}
  /-- stack memory, stores, pools, cullet list, channels (R22). -/
  mem : Mem := {}
  /-- context table (R261). -/
  ctxs : List (Nat × CtxEntry) := []
  /-- residency and work of each context (R271). -/
  runs : List (Nat × CtxRun) := []
  /-- sequencer state by context and cluster, key 16 ctx + cluster (R174). -/
  seqs : List (Nat × SeqCtx) := []
  /-- core state by context and core, key 64 ctx + core (R174). -/
  cores : List (Nat × CoreCtx) := []
  /-- clusters CL0-CL15 (R175). -/
  clus : List (Nat × Clus) := []
  /-- cores C0-C63 as hardware (R91). -/
  phys : List (Nat × CorePhys) := []
  /-- dies D0-D3 as hardware (R371). -/
  dies : List (Nat × Die) := []
  /-- functions PF0 and VF1-VF31 (R281). -/
  funcs : List (Nat × Func) := []
  /-- key domains (R274). -/
  doms : List (Nat × Dom) := []
  /-- KD_STAT (R277 Table 12-12). -/
  kdStat : KdStat := {}
  /-- fetched jobs that have not completed, in fetch order (R289). -/
  jobs : List Job := []
  /-- signals in flight (R204). -/
  sigs : List Signal := []
  /-- translation caches, oldest entry first: DXE of Cn n, MXE and VXE of Cn 64 + n, sequencer of CLn 128 + n (R270). -/
  tlb : List (Nat × List Tlb) := []
  /-- collectives in progress (R221). -/
  colls : List Coll := []
  /-- words of collectives that arrived before their start here, by sender, oldest first (R221/R228). -/
  collHeld : List (Nat × FlitLoad) := []
  /-- what other modules have said of collectives not yet started here (R221). -/
  joins : List Join := []
  /-- protection table: physical page, key 64 ctx + core of its DCOW (R355). -/
  protect : List (Nat × Nat) := []
  /-- digest table (R346). -/
  dig : DigTable := {}
  /-- hub check-value units HCV0-HCV7 (R348). -/
  hcv : List (Nat × Hcv) := []
  /-- LDG_SEL of each reader and window, key 65536 reader + window index (R337 Table 16-5). -/
  ldgSel : List (Nat × BitVec 64) := []
  /-- governor, meter, sensors (R320). -/
  pwr : Pwr := {}
  /-- firmware processors 0-18 (R363). -/
  procs : List (Nat × Proc) := []
  /-- management port (R381). -/
  mgmt : Mgmt := {}
  /-- crust (R374). -/
  crust : Crust := {}
  /-- resets (R371). -/
  rst : Rst := {}
  /-- span links and membership (R297). -/
  span : Span := {}
  /-- service panel (R421). -/
  panel : Panel := {}
  /-- companion cores 0-31 (R294). -/
  harts : List (Nat × Hart) := []
  /-- scheduler and module-level registers (R272). -/
  sch : Sch := {}
  /-- what the module has sent outside, newest first (MODEL'S OWN (answers and messages to host). -/
  out : List OutEv := []
  /-- counter that indexes the free values (MODEL'S OWN (free values)). -/
  free : Nat := 0
  deriving DecidableEq, Repr, Inhabited

/-- No command ends in a fault: every fault the spec describes is a record, a status and a change of state. -/
inductive Fault where
  deriving DecidableEq, Repr

/-- Reasons why a command has no meaning here. -/
inductive Refusal where
  /-- a row of the table whose meaning the model does not give; raised by an arm of Dispatch.lean only; safe -/
  | notModelled (mnemonic : String)
  deriving DecidableEq, Repr

/-- The module at the first arrival of auxiliary power, before bring-up phase 0 (R407): every field at its reset
value. -/
def State.reset : State := {}

end Sys2Proof.Machine
end

