-- ==== Sys2Proof/Machine/Accum.lean ====
section
/-! DEFINITION. The long accumulator: its physical form, additions, resolution, the residue check and band sums
(03_exact_accumulation.md). The residue helpers of this file have no memory of the main datapath's sums. -/

namespace Sys2Proof.Machine

/-- A resolved value: a value, or an overflow with its sign (Table 3-3). -/
inductive Res where
  | val (v : Val)
  | ovf (neg : Bool)
  deriving DecidableEq, Repr, Inhabited

/-- A cleared LA (R55); `ctx` is the context that clears it (Table 3-7). -/
def laClear (ctx : Nat) : LA := { ctx := BitVec.ofNat 12 ctx }

/-- Limb i as the stored form reads it: limb 9 signed, the others unsigned (R54). -/
def laLimb (l : LA) (i : Nat) : Int :=
  let w := l.limb.getD i 0
  if i = 9 then w.toInt else w.toNat

/-- The physical value in units of 2^-320: the limbs and the deferred carries (Physical form, R54). -/
def laPhys (l : LA) : Int :=
  ((List.range 10).map fun i => (laLimb l i + l.carry.getD i 0 * 2 ^ 64) * 2 ^ (64 * i)).sum

/-- Adds a piece into limb i and its carry out into c_i, without a fold. -/
def laPut (l : LA) (i : Nat) (p : Int) : LA :=
  let t := laLimb l i + p
  let w := BitVec.ofInt 64 t
  let r : Int := if i = 9 then w.toInt else w.toNat
  { l with limb := listSet l.limb i w, carry := listSet l.carry i (l.carry.getD i 0 + (t - r) / 2 ^ 64) }

/-- Where |c_i| has reached 64 with i at most 8: c_i is folded into limb i+1 and cleared (R56's physical form). -/
def laFold (l : LA) (i : Nat) : LA :=
  let c := l.carry.getD i 0
  if i ≤ 8 && 64 ≤ c.natAbs then laPut { l with carry := listSet l.carry i 0 } (i + 1) c else l

/-- One piece added by the collector: the addition and the fold it may cause. A piece of zero changes nothing. -/
def laPiece (l : LA) (i : Nat) (p : Int) : LA := if p = 0 then l else laFold (laPut l i p) i

/-- The integer v added at bit position pos, as pieces of sign and magnitude; the bits below position 0 are
discarded (R60). -/
def laAddInt (l : LA) (v pos : Int) : LA :=
  let m := if pos < 0 then v.natAbs / 2 ^ pos.natAbs else v.natAbs * 2 ^ pos.toNat
  (List.range 10).foldl (fun l i =>
    let p := fld m (64 * i + 63) (64 * i)
    laPiece l i (if v < 0 then -(p : Int) else p)) l

/-- 8-bit left rotation. -/
def rotl8 (v s : Nat) : Nat := (v * 2 ^ (s % 8)) % 256 + (v % 256) * 2 ^ (s % 8) / 256

/-- The residue contribution of (−1)^neg · m · 2^q: rotation of m modulo 255 by the position, 255 less it where
negative (R64). -/
def residueTerm (neg : Bool) (m : Nat) (q : Int) : Nat :=
  if m = 0 then 0
  else
    let r := rotl8 (m % 255) ((q + 320) % 8).toNat % 255
    if neg then (255 - r) % 255 else r

/-- The flags that a set of terms carries into an LA (R61). -/
structure TermFlags where
  pinf : Bool := false
  ninf : Bool := false
  nan : Bool := false
  any : Bool := false
  nzero : Bool := true
  deriving DecidableEq, Repr, Inhabited

/-- The flags of one term (R61). -/
def termFlags (v : Val) : TermFlags :=
  match v with
  | .nan => { nan := true, any := true, nzero := false }
  | .inf n => { pinf := !n, ninf := n, any := true, nzero := false }
  | .fin n m _ => { any := true, nzero := n && m == 0 }

/-- The combined flags of two sets of terms (R61). -/
def TermFlags.join (a b : TermFlags) : TermFlags :=
  { pinf := a.pinf || b.pinf, ninf := a.ninf || b.ninf, nan := a.nan || b.nan, any := a.any || b.any,
    nzero := a.nzero && b.nzero }

/-- The LA's flags with those of an addition, its residue with r and one addition more (R55, R61, R64). -/
def laMark (l : LA) (f : TermFlags) (r : Nat) : LA :=
  { l with pinf := l.pinf || f.pinf, ninf := l.ninf || f.ninf, nan := l.nan || f.nan, any := l.any || f.any,
           nzero := l.nzero && f.nzero, resAcc := (l.resAcc + r) % 255, adds := satAdd (2 ^ 28 - 1) l.adds 1 }

/-- Adds one exact term: its limbs where it is finite, its flags, its residue (R60, R61, R64). -/
def laAddTerm (l : LA) (v : Val) : LA :=
  match v with
  | .fin n m e =>
    laMark (laAddInt l (if n then -(m : Int) else m) (e + 320)) (termFlags v) (residueTerm n m e)
  | _ => laMark l (termFlags v) 0

/-- Adds LA b into LA a: both forms' limbs and carries; flags are joined, OVF_NEG comes from the first that carries
OVF (R61, R63). ADDS counts it as one addition: the spec does not say what ADDS counts here (DESIGN CHOICE,
notes/assumptions/12.md). -/
def laAddLA (a b : LA) : LA :=
  let l := (List.range 10).foldl (fun l i => laPiece l i (laLimb b i)) a
  let l := (List.range 9).foldl (fun l i => laPiece l (i + 1) (b.carry.getD i 0)) l
  let l := { l with carry := listSet l.carry 9 (l.carry.getD 9 0 + b.carry.getD 9 0) }
  let l := laMark l { pinf := b.pinf, ninf := b.ninf, nan := b.nan, any := b.any, nzero := b.nzero } b.resAcc
  { l with ovf := a.ovf || b.ovf, ovfNeg := if a.ovf then a.ovfNeg else if b.ovf then b.ovfNeg else a.ovfNeg }

/-- The residue of resolved limbs: the sum of the 80 bytes modulo 255, less 1 when bit 639 is set (R64). -/
def limbResidue (l : LA) : Nat :=
  let sum := ((l.limb.flatMap fun w => natBytes 8 w.toNat).map BitVec.toNat).sum
  (sum + (if bit (l.limb.getD 9 0) 63 then 254 else 0)) % 255

/-- Full resolution: every carry count zero, the limbs N modulo 2^640, and OVF with its sign where the exact value
lies outside [−2^319, 2^319) (R63). -/
def laResolve (l : LA) : LA :=
  let v := laPhys l
  let n := BitVec.ofInt 640 v
  let out := v < -(2 ^ 639 : Int) || (2 ^ 639 : Int) ≤ v
  { l with limb := (List.range 10).map fun i => BitVec.ofNat 64 (n.toNat >>> (64 * i)),
           carry := List.replicate 10 0,
           ovf := l.ovf || out, ovfNeg := if out then v < 0 else l.ovfNeg }

/-- Whether a resolved LA fails the residue check; no check with NAN, PINF, NINF or OVF (R65). -/
def laMismatch (r : LA) : Bool :=
  !(r.nan || r.pinf || r.ninf || r.ovf) && limbResidue r != r.resAcc % 255

/-- The value of a resolved LA, by the first condition of Table 3-3 that holds (R62). -/
def laValue (r : LA) : Res :=
  if r.nan || (r.pinf && r.ninf) then .val .nan
  else if r.pinf then .val (.inf false)
  else if r.ninf then .val (.inf true)
  else if r.ovf then .ovf r.ovfNeg
  else
    let n := laPhys r
    if n = 0 then .val (.fin (r.any && r.nzero) 0 0) else .val (.fin (n < 0) n.natAbs (-320))

/-- d_c of Table 3-2 by rate class. -/
def bandOffset (c : Nat) : Int := match c with | 16 => 81 | 8 => 40 | 4 => 15 | _ => 6
/-- W_c of Table 3-2 by rate class. -/
def bandWindow (c : Nat) : Nat := match c with | 16 => 88 | 8 => 48 | 4 => 24 | _ => 16

/-- A band sum: S · 2^t with its flags and its residue without the block scales (R58, R61, R64). -/
structure BandSum where
  s : Int := 0
  t : Int := 0
  flags : TermFlags := {}
  deriving DecidableEq, Repr, Inhabited

/-- floor(log2 |p|) of a non-zero finite product; none for the others. -/
def valExp (v : Val) : Option Int :=
  match v with
  | .fin _ m e => if m = 0 then none else some (e + m.log2)
  | _ => none

/-- The band sum of exact products, sub-scales applied and block scales not (R58). -/
def bandSum (c : Nat) (ps : List Val) : BandSum :=
  let flags := ps.foldl (fun f v => f.join (termFlags v)) {}
  match (ps.filterMap valExp).max? with
  | none => { flags := flags }
  | some emax =>
    let t := emax - bandOffset c
    { s := (ps.map fun v => v.units t).sum, t := t, flags := flags }

/-- A band sum added into its LA at pos = t + s_a + s_w + 320, with the residue the operands' datapath formed (R60,
R64). A band with no term at all adds nothing. -/
def laAddBand (l : LA) (b : BandSum) (scale : Int) (res : Nat) : LA :=
  if !b.flags.any then l
  else laMark (laAddInt l b.s (b.t + scale + 320)) b.flags res

end Sys2Proof.Machine
end

