-- ==== Sys2Proof/Machine/Lehr.lean ====
section
/-! DEFINITION. The lehr: rounding of one element, the grain stream, immediate scales and the scale ledger
(05_lehr_conversion.md). -/

namespace Sys2Proof.Machine

/-- Rounding modes as ROUND codes them (Table 5-1): 0 RNE, 1 SR, 2 RTZ. -/
abbrev Mode := Nat

/-- FMAX of Table 5-2 as (m, e): m · 2^e. -/
def fmax (f : Nat) : Nat × Int :=
  match f with
  | 0 => (65504, 0) | 1 => (448, 0) | 2 => (57344, 0) | 3 => (127, 0) | 4 => (6, 0) | 5 => (7, 0)
  | 6 => (3, -1) | 7 => (3, -1) | 8 => (1, 0) | 9 => (255, 120) | _ => (2 ^ 24 - 1, 104)

/-- m · 2^e ≤ n · 2^f, exactly. -/
def magLe (m : Nat) (e : Int) (n : Nat) (f : Int) : Bool :=
  let g := min e f
  m * 2 ^ (e - g).toNat ≤ n * 2 ^ (f - g).toNat

/-- The exponent of the ulp of a format for a non-zero magnitude in binade e (Table 5-2). -/
def ulpExp (f : Nat) (e : Int) : Int :=
  match fmtFloat f with
  | some (_, mb, bias) => max e (1 - (bias : Int)) - mb
  | none => 0

/-- Formats that round on levels: A2, W2, W1. -/
def fmtIsLevel (f : Nat) : Bool := f == 6 || f == 7 || f == 8

/-- The code of (−1)^neg · q · 2^ue, a lattice point of format f no larger than FMAX. -/
def encodeMag (f : Nat) (neg : Bool) (q : Nat) (ue : Int) : Nat :=
  match f with
  | 3 => (if neg then 256 - q else q) % 256
  | 5 => (if neg then 16 - q else q) % 16
  | 6 | 7 =>
    let big := !(magLe q ue 1 0)
    if neg then (if big then 0 else 1) else (if big then 3 else 2)
  | 8 => if neg then 0 else 1
  | _ => match fmtFloat f with
    | some (eb, mb, bias) =>
      let s := if neg then 2 ^ (eb + mb) else 0
      if q = 0 then s
      else
        let e := ue + q.log2
        let lo : Int := max e (1 - (bias : Int)) - mb
        let k := if ue ≥ lo then q * 2 ^ (ue - lo).toNat else q / 2 ^ (lo - ue).toNat
        if e < 1 - (bias : Int) then s + k
        else s + (e + bias).toNat * 2 ^ mb + (k - 2 ^ mb)
    | none => 0

/-- What rounding one element gives: its code, the value written, whether it overflowed (R103), whether Table 2-9 or
the overflow flags the block, and whether it makes the block a NaN block (R40). -/
structure ElemOut where
  code : Nat := 0
  ovf : Bool := false
  flag : Bool := false
  nanBlk : Bool := false
  deriving DecidableEq, Repr, Inhabited

/-- A NaN bound for a format without a NaN encoding: a NaN block, which is flagged (R40, R116). -/
def nanBlockOut (f : Nat) : ElemOut :=
  { code := Config.nanBlockBits f % 2 ^ fmtBits f, flag := true, nanBlk := true }

/-- ±FMAX as a code. -/
def fmaxCode (f : Nat) (neg : Bool) : Nat := encodeMag f neg (fmax f).1 (fmax f).2

/-- ±Inf as a code of a format that has it. -/
def infCode (f : Nat) (neg : Bool) : Nat :=
  match fmtFloat f with
  | some (eb, mb, _) => (2 ^ eb - 1) * 2 ^ mb + (if neg then 2 ^ (eb + mb) else 0)
  | none => 0

/-- Finite overflow (R103, Table 5-3); `inf` is OVFPOL = INF. -/
def overflowOut (f : Nat) (inf neg : Bool) : ElemOut :=
  { code := if inf && fmtHasInf f then infCode f neg else fmaxCode f neg, ovf := true, flag := true }

/-- NaN and infinite sources (R48, R49, Table 2-9). -/
def specialOut (f : Nat) (inf : Bool) (v : Val) : ElemOut :=
  match v with
  | .inf neg =>
    if fmtHasInf f then { code := infCode f neg }
    else if inf then (if fmtHasNan f then { code := fmtNan f } else nanBlockOut f)
    else { code := fmaxCode f neg, flag := true }
  | _ => if fmtHasNan f then { code := fmtNan f } else nanBlockOut f

/-- ⌊m · 2^e⌋ for a natural m. -/
def floorMag (m : Nat) (e : Int) : Nat := if 0 ≤ e then m * 2 ^ e.toNat else m / 2 ^ e.natAbs

/-- m · 2^e rounded to the nearest integer, ties to even (R98). -/
def halfEven (m : Nat) (e : Int) : Nat :=
  if 0 ≤ e then m * 2 ^ e.toNat
  else
    let d := 2 ^ e.natAbs
    let q := m / d
    let r := 2 * (m % d)
    if r > d || (r == d && q % 2 == 1) then q + 1 else q

/-- Rounding on the levels of A2, W2 and W1 (R36, R101); x is (−1)^neg · m · 2^e. -/
def levelOut (f : Nat) (inf : Bool) (mode : Mode) (g : Nat) (neg : Bool) (m : Nat) (e : Int) : ElemOut :=
  if !(magLe m e (fmax f).1 (fmax f).2) then overflowOut f inf neg
  else if mode = 1 then
    let sh : Int := if f = 8 then 15 else 16
    let off : Int := if f = 8 then 2 ^ 15 else 3 * 2 ^ 15
    -- floor((x + FMAX) · 2^sh): the floor of a negative part rounds away from zero
    let x : Int := if neg then -((if 0 ≤ e + sh then m * 2 ^ (e + sh).toNat else ceilDiv m (2 ^ (e + sh).natAbs) : Nat) : Int)
      else (floorMag m (e + sh) : Nat)
    { code := ((x + off).toNat + g) / 2 ^ 16 }
  else if f = 8 then { code := if neg then 0 else 1 }
  else
    let big := if mode = 0 then !(magLe m e 1 0) else !(m = 0) && magLe 3 (-1) m e
    { code := encodeMag f neg (if big then 3 else 1) (-1) }

/-- One element (R97): r the resolved value, S the scale byte in force, u the sub-scale, g the grain. -/
def lehrRound (f : Nat) (inf : Bool) (mode : Mode) (r : Res) (s u g : Nat) : ElemOut :=
  match r with
  | .ovf neg => overflowOut f inf neg
  | .val (.fin neg m e) =>
    let e := e + (127 - (s : Int)) + u
    if fmtIsLevel f then levelOut f inf mode g neg m e
    else if m = 0 then { code := encodeMag f neg 0 0 }
    else
      let ue := ulpExp f (e + m.log2)
      let q := match mode with
        | 0 => halfEven m (e - ue)
        | 1 => (floorMag m (e - ue + 16) + g) / 2 ^ 16
        | _ => floorMag m (e - ue + 16) / 2 ^ 16
      if !(magLe q ue (fmax f).1 (fmax f).2) then overflowOut f inf neg
      else { code := encodeMag f neg q ue }
  | .val v => specialOut f inf v

/-- The finite, non-overflowed magnitudes among values. -/
def finiteMags (rs : List Res) : List (Nat × Int) :=
  rs.filterMap fun r => match r with
    | .val (.fin _ m e) => some (m, e)
    | _ => none

/-- Whether every magnitude, times 2^k, is at most FMAX. -/
def allFit (f : Nat) (ms : List (Nat × Int)) (k : Int) : Bool :=
  ms.all fun p => magLe p.1 (p.2 + k) (fmax f).1 (fmax f).2

/-- The scale byte of IMMEDIATE mode (R107). -/
def immediateScale (f : Nat) (rs : List Res) : Nat :=
  let ms := finiteMags rs
  if ms.all (fun p => p.1 == 0) then 0x7F
  else match (List.range 255).find? (fun (s : Nat) => allFit f ms (127 - (s : Int))) with
    | some s => s
    | none => 0xFE

/-- The sub-scale of a group (R108). -/
def groupSub (f : Nat) (rs : List Res) (s : Nat) : Nat :=
  let ms := finiteMags rs
  if ms.isEmpty then 0
  else match [3, 2, 1, 0].find? (fun (u : Nat) => allFit f ms (127 - (s : Int) + (u : Int))) with
    | some u => u
    | none => 0

/-- Whether a source value sets HIGH_NOW at the scale in force: |x| ≥ FMAX ÷ 4 with x of R97, or an overflow (R112).
A zero never does. -/
def highNow (f : Nat) (r : Res) (s u : Nat) : Bool :=
  match r with
  | .ovf _ => true
  | .val (.fin _ m e) => m != 0 && magLe (fmax f).1 ((fmax f).2 - 2) m (e + (127 - (s : Int)) + u)
  | _ => false

/-- Bits of the ledger state byte (Table 5-4). -/
def stTouched : BitVec 8 := 0x10
def stHigh : BitVec 8 := 0x20
def stOvf : BitVec 8 := 0x40
def stOvfLast : BitVec 8 := 0x80

/-- A commit of one ledger entry (R113): the new scale byte and state byte. -/
def commitEntry (scale st : BitVec 8) : BitVec 8 × BitVec 8 :=
  if st &&& stTouched = 0 then (scale, st)
  else if scale = 0xFF then (0x7F, 0)
  else if st &&& stOvf ≠ 0 then (if scale.toNat < 0xFE then scale + 1 else scale, stOvfLast)
  else if st &&& stHigh ≠ 0 then (scale, 0)
  else
    let run := (st &&& 0xF).toNat + 1
    if run = 16 then (if scale.toNat > 0 then scale - 1 else scale, 0)
    else (scale, BitVec.ofNat 8 run)

/-- One Philox round on (c0, c1, c2, c3) with key (k0, k1) (R104). -/
def philoxRound (c : BitVec 32 × BitVec 32 × BitVec 32 × BitVec 32) (k0 k1 : BitVec 32) :
    BitVec 32 × BitVec 32 × BitVec 32 × BitVec 32 :=
  let p0 : BitVec 64 := 0xD2511F53#64 * c.1.setWidth 64
  let p1 : BitVec 64 := 0xCD9E8D57#64 * c.2.2.1.setWidth 64
  ((p1 >>> 32).setWidth 32 ^^^ c.2.1 ^^^ k0, p1.setWidth 32,
   (p0 >>> 32).setWidth 32 ^^^ c.2.2.2 ^^^ k1, p0.setWidth 32)

/-- n Philox rounds with the key bump after each (R104). -/
def philoxRounds : Nat → BitVec 32 × BitVec 32 × BitVec 32 × BitVec 32 → BitVec 32 → BitVec 32 →
    BitVec 32 × BitVec 32 × BitVec 32 × BitVec 32
  | 0, c, _, _ => c
  | n + 1, c, k0, k1 => philoxRounds n (philoxRound c k0 k1) (k0 + 0x9E3779B9) (k1 + 0xBB67AE85)

/-- Philox-4×32-10 with a 64-bit key: the 128-bit output as a number (R104). -/
def philox (key : BitVec 64) (c0 c1 c2 c3 : BitVec 32) : Nat :=
  let o := philoxRounds 10 (c0, c1, c2, c3) (key.setWidth 32) ((key >>> 32).setWidth 32)
  o.1.toNat + o.2.1.toNat * 2 ^ 32 + o.2.2.1.toNat * 2 ^ 64 + o.2.2.2.toNat * 2 ^ 96

/-- The 16-bit grain of an element (R104 to R106). -/
def grain (seed : BitVec 64) (step tag : BitVec 32) (index : Nat) : Nat :=
  let i := index / 8
  let o := philox seed (BitVec.ofNat 32 i) (BitVec.ofNat 32 (i >>> 32)) tag step
  fld o (16 * (index % 8) + 15) (16 * (index % 8))

end Sys2Proof.Machine
end

