-- ==== Sys2Proof/Machine/TensorWord.lean ====
section
/-! DEFINITION. The tensor instruction word and the tensor descriptor, field by field, with their encoders, and the
opcode map (R176 to R196, 08_tensor_instructions.md). -/

namespace Sys2Proof.Machine

/-- Word wi of an instruction. -/
def TWord.word (t : TWord) (i : Nat) : BitVec 32 :=
  match i with
  | 0 => t.w0 | 1 => t.w1 | 2 => t.w2 | 3 => t.w3 | 4 => t.w4 | 5 => t.w5 | 6 => t.w6 | _ => t.w7

/-- The instruction with word wi at v. -/
def TWord.setWord (t : TWord) (i : Nat) (v : BitVec 32) : TWord :=
  match i with
  | 0 => { t with w0 := v } | 1 => { t with w1 := v } | 2 => { t with w2 := v } | 3 => { t with w3 := v }
  | 4 => { t with w4 := v } | 5 => { t with w5 := v } | 6 => { t with w6 := v } | _ => { t with w7 := v }

/-- An instruction from its 32 little-endian bytes (R176). -/
def twordOfBytes (bs : List (BitVec 8)) : TWord :=
  let w := fun i => BitVec.ofNat 32 (bytesNat ((bs.drop (4 * i)).take 4))
  { w0 := w 0, w1 := w 1, w2 := w 2, w3 := w 3, w4 := w 4, w5 := w 5, w6 := w 6, w7 := w 7 }

/-- The 32 bytes of an instruction (R176). -/
def bytesOfTword (t : TWord) : List (BitVec 8) :=
  (List.range 8).flatMap fun i => natBytes 4 (t.word i).toNat

def TWord.tag (t : TWord) : Nat := bits t.w0 23 16
def TWord.check (t : TWord) : Bool := bit t.w0 15
def TWord.patch (t : TWord) : Bool := bit t.w0 14
def TWord.sigv (t : TWord) : Bool := bit t.w0 13
def TWord.waitv (t : TWord) : Bool := bit t.w0 12
def TWord.engine (t : TWord) : Nat := bits t.w0 11 8
def TWord.opcode (t : TWord) : Nat := bits t.w0 7 0
def TWord.mod (t : TWord) : Nat := bits t.w1 31 28
def TWord.tclass (t : TWord) : Nat := bits t.w1 27 24
def TWord.wthresh (t : TWord) : Nat := bits t.w1 23 8
def TWord.wscope (t : TWord) : Bool := bit t.w1 6
def TWord.wctr (t : TWord) : Nat := bits t.w1 5 0
def TWord.sinc (t : TWord) : Nat := bits t.w2 31 16
def TWord.opx (t : TWord) : Nat := bits t.w2 15 10
def TWord.sscope (t : TWord) : Nat := bits t.w2 9 6
def TWord.sctr (t : TWord) : Nat := bits t.w2 5 0
/-- Element offset of operand k = 0 to 2. -/
def TWord.off (t : TWord) (k : Nat) : Nat := bits (t.word (4 + k)) 31 6
/-- Descriptor index of operand k. -/
def TWord.td (t : TWord) (k : Nat) : Nat := bits (t.word (4 + k)) 5 0
/-- The immediate, which reads as zero with PATCH set (R177). -/
def TWord.imm (t : TWord) : BitVec 32 := if t.patch then 0 else t.w7
def TWord.psrc (t : TWord) : Nat := bits t.w7 31 28
def TWord.pmask (t : TWord) : Nat := bits t.w7 27 24
/-- Patch index of field k. -/
def TWord.pidx (t : TWord) (k : Nat) : Nat := bits t.w7 (6 * k + 5) (6 * k)
/-- Patchable field k: offsets 0 to 2 and the wait threshold (Table 8-1). -/
def TWord.patchField (t : TWord) (k : Nat) : Nat := if k = 3 then t.wthresh else t.off k
/-- The instruction with v added into patchable field k, modulo the field's width (R150, R162). -/
def TWord.addField (t : TWord) (k v : Nat) : TWord :=
  if k = 3 then t.setWord 1 (setBits t.w1 23 8 (t.wthresh + v))
  else t.setWord (4 + k) (setBits (t.word (4 + k)) 31 6 (t.off k + v))

/-- MXE control word fields (Table 8-7). -/
def TWord.pcode (t : TWord) : Nat := bits t.w5 22 21
def TWord.modeAs (t : TWord) : Bool := bit t.w5 20
def TWord.ramp (t : TWord) : Bool := bit t.w5 19
def TWord.clearT (t : TWord) : Bool := bit t.w5 18
def TWord.swap (t : TWord) : Bool := bit t.w5 17
def TWord.tile (t : TWord) : Nat := bits t.w5 16 16
def TWord.arrays (t : TWord) : Nat := bits t.w5 15 12
def TWord.gap (t : TWord) : Nat := bits t.w5 11 0

/-- The opcodes of Table 8-6. VEW carries FUNC and FUSE (R193), VRED its PHASE, SRET and DIM (R194), VOPT its
algorithm (R196). -/
inductive Op where
  | ldw | ldwt | mmul | mmula | drn
  | vew (func fuse : Nat) | vred (phase : Nat) (sret : Bool) (dim : Nat)
  | vcvt | vcommit | vopt (alg : Nat) | vnrmAdd | vnrmFlush | vhrv | vsgn
  | dmov | dgth | dsct | dcow | feed | save | load
  | cred | credNorm | crsc | cbcs | ca2a
  | sig | wait | scset
  deriving DecidableEq, Repr, Inhabited

/-- FUNC codes that Table 8-9 defines. -/
def vewKnown (f : Nat) : Bool := f ≤ 0x0E || (0x10 ≤ f && f ≤ 0x14)
/-- The unary functions (R193). -/
def vewUnary (f : Nat) : Bool := f == 0 || f == 1 || f == 2 || f == 6 || f == 9 || 0x10 ≤ f
/-- The VEW function SEL. -/
def vewSel : Nat := 0x0E
/-- Whether FUNC is a compare. -/
def vewCompare (f : Nat) : Bool := 0x0A ≤ f && f ≤ 0x0D

/-- The operation an ENGINE and OPCODE name, if any (R190, R193). -/
def opOf (engine opcode : Nat) : Option Op :=
  match engine with
  | 0 => match opcode with
    | 0x01 => some .ldw | 0x02 => some .ldwt | 0x10 => some .mmul | 0x11 => some .mmula | 0x20 => some .drn
    | _ => none
  | 1 =>
    if opcode < 0x80 then
      let f := opcode % 32
      let fu := opcode / 32
      if fu < 3 && vewKnown f && !(f == vewSel && fu != 0) then some (.vew f fu) else none
    else if opcode < 0xA0 then some (.vred (fld opcode 4 3) (opcode.testBit 2) (opcode % 4))
    else match opcode with
      | 0xA0 => some .vcvt | 0xA1 => some .vcommit
      | 0xB0 => some (.vopt 0) | 0xB1 => some (.vopt 1) | 0xB2 => some (.vopt 2) | 0xB3 => some (.vopt 3)
      | 0xC0 => some .vnrmAdd | 0xC1 => some .vnrmFlush | 0xD0 => some .vhrv | 0xD8 => some .vsgn
      | _ => none
  | 2 => match opcode with
    | 0x01 => some .dmov | 0x02 => some .dgth | 0x03 => some .dsct | 0x04 => some .dcow
    | 0x08 => some .feed | 0x09 => some .save | 0x0A => some .load
    | _ => none
  | 3 => match opcode with
    | 0x01 => some .cred | 0x02 => some .credNorm | 0x03 => some .crsc | 0x04 => some .cbcs | 0x05 => some .ca2a
    | _ => none
  | 4 => match opcode with
    | 0x01 => some .sig | 0x02 => some .wait | 0x03 => some .scset | _ => none
  | _ => none

/-- The ENGINE and OPCODE of an operation (Table 8-6). -/
def opCode (o : Op) : Nat × Nat :=
  match o with
  | .ldw => (0, 0x01) | .ldwt => (0, 0x02) | .mmul => (0, 0x10) | .mmula => (0, 0x11) | .drn => (0, 0x20)
  | .vew f u => (1, u * 32 + f)
  | .vred p s d => (1, 0x80 + p * 8 + (if s then 4 else 0) + d)
  | .vcvt => (1, 0xA0) | .vcommit => (1, 0xA1) | .vopt a => (1, 0xB0 + a)
  | .vnrmAdd => (1, 0xC0) | .vnrmFlush => (1, 0xC1) | .vhrv => (1, 0xD0) | .vsgn => (1, 0xD8)
  | .dmov => (2, 1) | .dgth => (2, 2) | .dsct => (2, 3) | .dcow => (2, 4)
  | .feed => (2, 8) | .save => (2, 9) | .load => (2, 0x0A)
  | .cred => (3, 1) | .credNorm => (3, 2) | .crsc => (3, 3) | .cbcs => (3, 4) | .ca2a => (3, 5)
  | .sig => (4, 1) | .wait => (4, 2) | .scset => (4, 3)

/-- The operation of an instruction. -/
def TWord.op (t : TWord) : Option Op := opOf t.engine t.opcode

/-- Whether operand word k is an operand of the operation (Table 8-6). -/
def opHas (o : Op) (k : Nat) : Bool :=
  match o, k with
  | .ldw, 0 | .ldwt, 0 | .mmul, 0 | .mmula, 0 | .drn, 0 => true
  | .vew _ _, 0 | .vew _ _, 1 => true
  | .vew f _, 2 => !vewUnary f
  | .vred _ s _, 0 => !s
  | .vred _ _ _, 1 => true
  | .vcvt, 0 | .vcvt, 1 | .vcommit, 0 => true
  | .vopt _, 0 | .vopt _, 1 | .vopt _, 2 => true
  | .vnrmAdd, 1 => true
  | .vhrv, 0 | .vhrv, 1 | .vhrv, 2 | .vsgn, 0 | .vsgn, 1 | .vsgn, 2 => true
  | .dmov, 0 | .dmov, 1 | .dgth, 0 | .dgth, 1 => true
  | .dsct, 0 | .dsct, 1 | .dsct, 2 => true
  | .dcow, 0 | .dcow, 1 => true
  | .feed, 1 | .save, 0 | .load, 1 => true
  | .cred, 0 | .cred, 1 | .crsc, 0 | .crsc, 1 | .cbcs, 0 | .cbcs, 1 | .ca2a, 0 | .ca2a, 1 => true
  | _, _ => false

/-- Whether OPX names a descriptor, or for VOPT a record slot (Table 8-6). -/
def opHasX (o : Op) : Bool :=
  match o with
  | .vew f u => u != 0 || f == vewSel
  | .vopt _ | .vhrv | .vsgn => true
  | _ => false

/-- Whether w5 is the MXE control word. -/
def opIsMxe (o : Op) : Bool :=
  match o with | .ldw | .ldwt | .mmul | .mmula | .drn => true | _ => false

/-- Whether the operation needs its immediate (R177). -/
def opNeedsImm (o : Op) : Bool :=
  match o with | .dgth | .cred | .credNorm | .crsc | .cbcs | .ca2a | .scset => true | _ => false

/-- Whether the immediate is a group unit ID (Table 8-6). -/
def opImmUnit (o : Op) : Bool :=
  match o with | .dgth | .cred | .credNorm | .crsc | .cbcs | .ca2a => true | _ => false

/-- Whether TAG is used (Table 8-6). -/
def opUsesTag (o : Op) : Bool :=
  match o with | .drn | .vcvt | .vopt _ | .vnrmAdd | .credNorm => true | _ => false

/-- How many low bits of MOD the operation uses (Table 8-6). -/
def opModBits (o : Op) : Nat :=
  match o with
  | .vred _ true _ => 3 | .vnrmAdd => 2 | .credNorm => 2 | .cbcs => 4 | _ => 0

/-- How many low bits of the immediate the operation uses (Table 8-6). -/
def opImmBits (o : Op) : Nat :=
  match o with
  | .dmov => 4 | .scset => 16 | o => if opImmUnit o then 32 else 0

/-- The descriptors an instruction names, in operand order; the optimizer record's slot is not one (R196). -/
def namedTds (t : TWord) (o : Op) : List Nat :=
  (((List.range 3).filter (opHas o)).map t.td) ++ (if opHasX o && !(opcodeIsVopt o) then [t.opx] else [])
where
  /-- VOPT reads its OPX slot as a record. -/
  opcodeIsVopt (o : Op) : Bool := match o with | .vopt _ => true | _ => false

/-- The slots whose 64 bytes the issue stage copies (R182): the named descriptors and the optimizer record. -/
def copiedTds (t : TWord) (o : Op) : List Nat :=
  (((List.range 3).filter (opHas o)).map t.td) ++ (if opHasX o then [t.opx] else [])

/-- Doubleword DWi of a descriptor. -/
def Desc.dw (d : Desc) (i : Nat) : BitVec 64 :=
  match i with
  | 0 => d.d0 | 1 => d.d1 | 2 => d.d2 | 3 => d.d3 | 4 => d.d4 | 5 => d.d5 | 6 => d.d6 | _ => d.d7

/-- A descriptor from its 64 little-endian bytes (R184). -/
def descOfBytes (bs : List (BitVec 8)) : Desc :=
  let w := fun i => BitVec.ofNat 64 (bytesNat ((bs.drop (8 * i)).take 8))
  { d0 := w 0, d1 := w 1, d2 := w 2, d3 := w 3, d4 := w 4, d5 := w 5, d6 := w 6, d7 := w 7 }

/-- The 64 bytes of a descriptor (R184). -/
def bytesOfDesc (d : Desc) : List (BitVec 8) :=
  (List.range 8).flatMap fun i => natBytes 8 (d.dw i).toNat

def Desc.valid (d : Desc) : Bool := bit d.d0 63
def Desc.fll (d : Desc) : Bool := bit d.d0 61
def Desc.ovfInf (d : Desc) : Bool := bit d.d0 60
def Desc.ledger (d : Desc) : Bool := bit d.d0 59
def Desc.round (d : Desc) : Nat := bits d.d0 58 57
def Desc.isTile (d : Desc) : Bool := bit d.d0 56
def Desc.role (d : Desc) : Nat := bits d.d0 55 54
def Desc.rank (d : Desc) : Nat := bits d.d0 53 52 + 1
def Desc.fmt (d : Desc) : Nat := bits d.d0 51 48
def Desc.base (d : Desc) : Nat := bits d.d0 47 0
def Desc.hkeep (d : Desc) : Nat := bits d.d1 56 48
def Desc.ledgerBase (d : Desc) : Nat := bits d.d1 47 0
def Desc.subBase (d : Desc) : Nat := bits d.d2 47 0
def Desc.tag (d : Desc) : BitVec 32 := d.d3.setWidth 32
/-- DIMi as stored. -/
def Desc.dimRaw (d : Desc) (i : Nat) : Nat :=
  match i with | 0 => bits d.d3 63 32 | 1 => bits d.d4 31 0 | 2 => bits d.d4 63 32 | _ => bits d.d5 31 0
/-- The extent of dimension i: 1 at or above the rank (R185). -/
def Desc.dim (d : Desc) (i : Nat) : Nat := if i < d.rank then d.dimRaw i else 1
def Desc.stride (d : Desc) (i : Nat) : Nat :=
  match i with | 0 => 0 | 1 => bits d.d5 63 32 | 2 => bits d.d6 31 0 | _ => bits d.d6 63 32
def Desc.win (d : Desc) (i : Nat) : Nat := if i < 4 then bits d.d7 (16 * i + 15) (16 * i) else 0

/-- Where DIMi lies: doubleword and lowest bit (Table 8-3). -/
def dimField (i : Nat) : Nat × Nat := match i with | 0 => (3, 32) | 1 => (4, 0) | 2 => (4, 32) | _ => (5, 0)
/-- Where STRIDEi lies. -/
def strideField (i : Nat) : Nat × Nat := match i with | 1 => (5, 32) | 2 => (6, 0) | _ => (6, 32)

/-- n rounded up to a multiple of b. -/
def roundUp (n b : Nat) : Nat := ceilDiv n b * b

/-- The length of dimension i with its block padding (R43). -/
def Desc.padded (d : Desc) (i : Nat) : Nat :=
  if fmtIsBlock d.fmt && (i == 0 || (i == 1 && d.isTile)) then roundUp (d.dim i) (fmtBlock d.fmt) else d.dim i

/-- R0: the padded length of dimension 0 in bytes (R185). -/
def Desc.rowBytes (d : Desc) : Nat := d.padded 0 * fmtBits d.fmt / 8

/-- The origin of an operand with element offset o (R186): the coordinates g0 to g3. -/
def originOf (d : Desc) (o : Nat) : List Nat :=
  ((List.range 4).foldl (fun (p : List Nat × Nat) i =>
    if i + 1 = d.rank then (p.1 ++ [p.2], 0)
    else if i + 1 < d.rank then (p.1 ++ [p.2 % d.dim i], p.2 / d.dim i)
    else (p.1 ++ [0], p.2)) ([], o)).1

/-- The window extents of an operand from its origin (R186). -/
def windowOf (d : Desc) (g : List Nat) : List Nat :=
  (List.range 4).map fun i => if d.win i = 0 then d.dim i - g.getD i 0 else d.win i

/-- Whether element x lies within the tensor's extents. -/
def presentAt (d : Desc) (x : List Nat) : Bool := (List.range 4).all fun i => x.getD i 0 < d.dim i

/-- The linear index of element x over the unpadded dimensions (R105). -/
def linearIdx (d : Desc) (x : List Nat) : Nat :=
  x.getD 0 0 + d.dim 0 * (x.getD 1 0 + d.dim 1 * (x.getD 2 0 + d.dim 2 * x.getD 3 0))

/-- The block of element x, numbered in row-major order over the block grid (R43). -/
def blockNo (d : Desc) (x : List Nat) : Nat :=
  let b := fmtBlock d.fmt
  let b1 := if d.isTile then b else 1
  x.getD 0 0 / b + ceilDiv (d.dim 0) b *
    (x.getD 1 0 / b1 + ceilDiv (d.dim 1) b1 * (x.getD 2 0 + d.dim 2 * x.getD 3 0))

/-- The byte offset of element x's row from BASE (R186). -/
def rowOff (d : Desc) (x : List Nat) : Nat :=
  x.getD 1 0 * d.stride 1 + x.getD 2 0 * d.stride 2 + x.getD 3 0 * d.stride 3

/-- The virtual address of the first byte of element x (R186). -/
def elemAddr (d : Desc) (x : List Nat) : Nat := d.base + rowOff d x + x.getD 0 0 * fmtBits d.fmt / 8

/-- The virtual address and lowest bit of the sub-scale of element x's group (R43). -/
def subAddr (d : Desc) (x : List Nat) : Nat × Nat :=
  let a := rowOff d x + x.getD 0 0 / 16 * 8
  (d.subBase + a / 32, 2 * (a / 8 % 4))

/-- The virtual address of the scale entry of block j (R43). -/
def entryAddr (d : Desc) (j : Nat) : Nat := d.ledgerBase + 2 * j

/-- x plus the window index i, coordinate by coordinate. -/
def addIdx (g i : List Nat) : List Nat := (List.range 4).map fun k => g.getD k 0 + i.getD k 0

/-- All window indices of extents E0 to E3, dimension 0 fastest. -/
def windowIdx (e : List Nat) : List (List Nat) :=
  (List.range (e.getD 3 0)).flatMap fun i3 => (List.range (e.getD 2 0)).flatMap fun i2 =>
    (List.range (e.getD 1 0)).flatMap fun i1 => (List.range (e.getD 0 0)).map fun i0 => [i0, i1, i2, i3]

end Sys2Proof.Machine
end

