-- ==== Sys2Proof/Machine/Crc.lean ====
section
/-! DEFINITION. The check functions of Table 6-8, by their internal state before the final XOR (R147, R148). -/

namespace Sys2Proof.Machine

/-- The polynomial of a check function; the reflected ones bit-reversed. -/
def crcPoly (p : Nat) : Nat :=
  match p with | 0 => 0x1021 | 1 => 0x82F63B78 | _ => 0xC96C5795D7870F42

/-- The initial state. DESIGN CHOICE (notes/assumptions/40.md): for the reserved POLY 3 Table 6-8 gives none; INIT then loads all ones,
and the final XOR inverts all 64 bits. -/
def crcInit (p : Nat) : Nat := match p with | 0 => 0xFFFF | 1 => 0xFFFFFFFF | _ => 0xFFFFFFFFFFFFFFFF

/-- The final XOR. -/
def crcXor (p : Nat) : Nat := match p with | 0 => 0 | 1 => 0xFFFFFFFF | _ => 0xFFFFFFFFFFFFFFFF

/-- One bit step of the reflected functions. -/
def crcBitR (poly st : Nat) : Nat := if st % 2 = 1 then (st / 2) ^^^ poly else st / 2
/-- One bit step of the unreflected CRC-16. -/
def crcBitN (st : Nat) : Nat := if st.testBit 15 then ((2 * st) % 65536) ^^^ 0x1021 else (2 * st) % 65536

/-- n repetitions. -/
def iter {α : Type} : Nat → (α → α) → α → α
  | 0, _, a => a
  | n + 1, f, a => iter n f (f a)

/-- One byte taken in. -/
def crcByte (p st : Nat) (b : BitVec 8) : Nat :=
  if p = 0 then iter 8 crcBitN (st ^^^ (b.toNat * 256))
  else iter 8 (crcBitR (crcPoly p)) (st ^^^ b.toNat)

/-- A stream taken in. -/
def crcStream (p st : Nat) (bs : List (BitVec 8)) : Nat := bs.foldl (crcByte p) st

/-- The finished check value of a state. -/
def crcFinal (p st : Nat) : Nat := st ^^^ crcXor p

/-- A whole message's check value. -/
def crcOf (p : Nat) (bs : List (BitVec 8)) : Nat := crcFinal p (crcStream p (crcInit p) bs)

/-- The bits of VALUE that a check function uses; the others read zero (Table 6-10). -/
def cvMask (poly : BitVec 2) (v : Nat) : BitVec 64 :=
  BitVec.ofNat 64 (match poly.toNat with | 0 => v % 2 ^ 16 | 1 => v % 2 ^ 32 | _ => v)

end Sys2Proof.Machine
end

