-- ==== Sys2Proof/Machine/Units.lean ====
section
/-! DEFINITION. Unit IDs, presence and the physical address map (R3, R10 to R14, R22 to R25, 01_module.md). -/

namespace Sys2Proof.Machine

/-- A unit ID's fields (Table 1-4). -/
structure UnitF where
  module : Nat := 0
  die : Nat := 0
  cluster : Nat := 0
  core : Nat := 0
  level : Nat := 0
  deriving DecidableEq, Repr, Inhabited

/-- The 32-bit ID of a unit (R12). -/
def uid (u : UnitF) : BitVec 32 :=
  BitVec.ofNat 32 (packFields [(u.module, 28, 4), (u.die, 26, 2), (u.cluster, 24, 2), (u.core, 22, 2), (u.level, 19, 3)])

/-- The fields of a 32-bit ID. -/
def uidFields (v : BitVec 32) : UnitF :=
  { module := bits v 31 28, die := bits v 27 26, cluster := bits v 25 24, core := bits v 23 22, level := bits v 21 19 }

/-- The written span unit U:0.0.0.0/4. -/
def spanUid : BitVec 32 := uid { level := 4 }
/-- Core Cn of module m. -/
def coreUidOf (m n : Nat) : BitVec 32 := uid { module := m, die := n / 16, cluster := n / 4 % 4, core := n % 4, level := 0 }
/-- Cluster CLn of module m. -/
def clusUidOf (m n : Nat) : BitVec 32 := uid { module := m, die := n / 4, cluster := n % 4, level := 1 }
/-- Die Dk of module m. -/
def dieUidOf (m k : Nat) : BitVec 32 := uid { module := m, die := k, level := 2 }
/-- Module unit m. -/
def modUidOf (m : Nat) : BitVec 32 := uid { module := m, level := 3 }

/-- n of Cn or CLn named by a core's or cluster's ID. -/
def UnitF.coreN (u : UnitF) : Nat := 16 * u.die + 4 * u.cluster + u.core
def UnitF.clusN (u : UnitF) : Nat := 4 * u.die + u.cluster

/-- Whether the image names a span of more than this module. -/
def State.inSpan (s : State) : Bool := s.boot.image.members != 0
/-- This module's index in its span; 0 outside a span (Table 1-4, R302). -/
def State.modIdx (s : State) : Nat := if s.inSpan then s.boot.image.index.toNat else 0
/-- The IMAGE mask of the span: its own bit alone for a span of one (R302). -/
def State.spanMask (s : State) : Nat := if s.boot.image.members = 0 then 1 else s.boot.image.members.toNat
/-- Master index; its own for a span of one (R302). -/
def State.masterIdx (s : State) : Nat := if s.inSpan then s.boot.image.master.toNat else s.modIdx
/-- Whether this module is its span's master. -/
def State.isMaster (s : State) : Bool := s.masterIdx == s.modIdx
/-- The module that acts for the master: the master, or the lowest-indexed remaining member once it has withdrawn (R314). -/
def State.leader (s : State) : Nat :=
  if bit s.span.withdrawn s.masterIdx then ((maskList 16 s.span.admitted.toNat).head?).getD s.modIdx else s.masterIdx
/-- Whether this module acts for its span's master: as the leader, or out of the span for itself (R306, R314). -/
def State.leads (s : State) : Bool := s.leader == s.modIdx || s.span.selfOut
/-- The module that link l serves, if any (R297, R298). -/
def State.linkPeer (s : State) (l : Nat) : Option Nat :=
  let sp := s.boot.image.spareFor.toNat
  if !s.inSpan then none
  else if l = 0 then (if sp = 0 then none else some ((s.modIdx + sp) % 16))
  else if l = sp then none
  else some ((s.modIdx + l) % 16)
/-- The span link that serves module m (R297, R298). -/
def State.linkTo (s : State) (m : Nat) : Nat :=
  let k := (m + 16 - s.modIdx % 16) % 16
  if s.boot.image.spareFor ≠ 0 && s.boot.image.spareFor.toNat = k then 0 else k
/-- The state in which a link starts to train: TRAINING where it serves a module of the span, else UNUSED (R297, R298, R302). -/
def State.linkStart (s : State) (l : Nat) : BitVec 4 :=
  match s.linkPeer l with
  | some m => if s.spanMask.testBit m then 1 else 0
  | none => 0
/-- The power domains of a core (its arrays, then its VXE), of its store, of a die (its fabric, then its bridge ports) and of a span link,
numbered in the order of Table 15-1. -/
def coreDomains (n : Nat) : List Nat := [4 * n, 4 * n + 1, 4 * n + 2, 4 * n + 3, 256 + n]
def storeDomain (n : Nat) : Nat := 320 + n
def dieDomains (d : Nat) : List Nat := [496 + d, 500 + d]
def linkDomain (l : Nat) : Nat := 505 + l
/-- Whether any of some power domains sleeps (R318). -/
def State.asleep (s : State) (ds : List Nat) : Bool := ds.any s.pwr.off.contains
def State.coreUid (s : State) (n : Nat) : BitVec 32 := coreUidOf s.modIdx n
def State.clusUid (s : State) (n : Nat) : BitVec 32 := clusUidOf s.modIdx n
def State.dieUid (s : State) (k : Nat) : BitVec 32 := dieUidOf s.modIdx k
def State.modUid (s : State) : BitVec 32 := modUidOf s.modIdx

/-- The present-core mask: cores neither fused off nor left out at self-test (R3, R410). -/
def State.presentCores (s : State) : BitVec 64 := ~~~(s.part.fusedCores ||| s.part.failedCores)
def State.corePresent (s : State) (n : Nat) : Bool := n < 64 && bit s.presentCores n
/-- A cluster is present while one of its cores is (R13). -/
def State.clusPresent (s : State) (n : Nat) : Bool := (List.range 4).any fun j => s.corePresent (4 * n + j)
def State.diePresent (s : State) (k : Nat) : Bool := (List.range 4).any fun j => s.clusPresent (4 * k + j)
/-- The present cores of cluster n, in increasing Cn. -/
def State.clusCores (s : State) (n : Nat) : List Nat :=
  ((List.range 4).map fun j => 4 * n + j).filter s.corePresent
/-- The present cores and clusters of this module beneath a unit of it. -/
def State.coresUnder (s : State) (u : UnitF) : List Nat :=
  (List.range 64).filter fun n => s.corePresent n &&
    match u.level with
    | 0 => n == u.coreN | 1 => n / 4 == u.clusN | 2 => n / 16 == u.die | _ => true
def State.clustersUnder (s : State) (u : UnitF) : List Nat :=
  (List.range 16).filter fun n => s.clusPresent n &&
    match u.level with
    | 0 => n == u.clusN | 1 => n == u.clusN | 2 => n / 4 == u.die | _ => true

/-- Whether a unit ID has a valid form: no reserved level, no field set below its level (R13). -/
def uidForm (v : BitVec 32) : Bool :=
  let u := uidFields v
  bits v 18 0 == 0 && u.level ≤ 4 && uid { u with
    core := if u.level = 0 then u.core else 0, cluster := if u.level ≤ 1 then u.cluster else 0,
    die := if u.level ≤ 2 then u.die else 0, module := if u.level ≤ 3 then u.module else 0 } == v

/-- The cores of module m that are present: this module's own, or those that the span's notice of its admission gave (R3, R303). -/
def State.coresOfModule (s : State) (m : Nat) : BitVec 64 :=
  if m = s.modIdx then s.presentCores else tabGet s.span.peerCores m (BitVec.allOnes 64)

/-- Whether a unit below the module level has a present core, among the cores of a module (R13). -/
def unitHasCore (cores : BitVec 64) (u : UnitF) : Bool :=
  match u.level with
  | 0 => bit cores u.coreN
  | 1 => (List.range 4).any fun j => bit cores (4 * u.clusN + j)
  | 2 => (List.range 16).any fun j => bit cores (16 * u.die + j)
  | _ => true

/-- R13: whether a unit ID is valid: its form, its module in the span, and a unit that is not fused off there. -/
def State.unitValid (s : State) (v : BitVec 32) : Bool :=
  let u := uidFields v
  uidForm v &&
    (u.level == 4 ||
      (s.spanMask.testBit u.module || u.module == s.modIdx) &&
      unitHasCore (s.coresOfModule u.module) u)

/-- The number of present stacks, and their list. -/
def State.stackList (s : State) : List Nat := (List.range 20).filter fun i => bit s.part.stackMap i
def stackBytes : Nat := 72 * 2 ^ 30
/-- The present capacity of stack memory (R23). -/
def State.stackCap (s : State) : Nat := s.stackList.length * stackBytes

/-- Where a physical address lies (Table 1-11). -/
inductive Place where
  | stack
  | store (core off : Nat)
  | pool (cluster off : Nat)
  | la (core off : Nat)
  | window (index off : Nat)
  | bar0 (off : Nat)
  | hole
  deriving DecidableEq, Repr, Inhabited

def storeBase (n : Nat) : Nat := 0x020000000000 + n * 0x800000
def poolBase (n : Nat) : Nat := 0x020040000000 + n * 0x1000000
def laBase (n : Nat) : Nat := 0x020080000000 + n * 0x400000
/-- The window address of a unit ID (Table 1-11). -/
def windowBase (v : BitVec 32) : Nat := 0x030000000000 + (v.toNat >>> 19) * 0x10000

/-- The place of a physical address: a hole where nothing is populated (R22 to R24). -/
def State.place (s : State) (a : Nat) : Place :=
  if a < s.stackCap then .stack
  else if a < 0x020000000000 then .hole
  else if a < storeBase 64 then
    let n := (a - 0x020000000000) / 0x800000
    if s.corePresent n then .store n (a - storeBase n) else .hole
  else if a < 0x020040000000 then .hole
  else if a < poolBase 16 then
    let n := (a - 0x020040000000) / 0x1000000
    if s.clusPresent n then .pool n (a - poolBase n) else .hole
  else if a < 0x020080000000 then .hole
  else if a < laBase 64 then
    let n := (a - 0x020080000000) / 0x400000
    if s.corePresent n && a - laBase n < 0x280000 then .la n (a - laBase n) else .hole
  else if 0x030000000000 ≤ a && a < 0x030000000000 + 2 ^ 13 * 0x10000 then
    .window ((a - 0x030000000000) / 0x10000) (a % 0x10000)
  else if 0x040000000000 ≤ a && a < 0x040000000000 + 0x1000000 then .bar0 (a - 0x040000000000)
  else .hole

end Sys2Proof.Machine
end

