-- ==== Sys2Proof/Machine/Ops.lean ====
section
/-! DEFINITION. The shared operations: access to tables of the state, outputs, free values, bytes of the physical
map, ledger records and interrupts, and stack-memory lines with their protection. -/

namespace Sys2Proof.Machine

/-- Entry c of `ctxs`. -/
def State.ctxE (s : State) (c : Nat) : CtxEntry := tabGet s.ctxs c {}
/-- `ctxs` with entry c changed. -/
def State.ctxM (s : State) (c : Nat) (g : CtxEntry → CtxEntry) : State := { s with ctxs := tabSet s.ctxs c (g (s.ctxE c)) }
/-- Entry c of `runs`. -/
def State.runE (s : State) (c : Nat) : CtxRun := tabGet s.runs c {}
/-- `runs` with entry c changed. -/
def State.runM (s : State) (c : Nat) (g : CtxRun → CtxRun) : State := { s with runs := tabSet s.runs c (g (s.runE c)) }
/-- Entry c of `clus`. -/
def State.clusE (s : State) (c : Nat) : Clus := tabGet s.clus c {}
/-- `clus` with entry c changed. -/
def State.clusM (s : State) (c : Nat) (g : Clus → Clus) : State := { s with clus := tabSet s.clus c (g (s.clusE c)) }
/-- Entry c of `phys`. -/
def State.physE (s : State) (c : Nat) : CorePhys := tabGet s.phys c {}
/-- `phys` with entry c changed. -/
def State.physM (s : State) (c : Nat) (g : CorePhys → CorePhys) : State := { s with phys := tabSet s.phys c (g (s.physE c)) }
/-- Entry c of `dies`. -/
def State.dieE (s : State) (c : Nat) : Die := tabGet s.dies c {}
/-- `dies` with entry c changed. -/
def State.dieM (s : State) (c : Nat) (g : Die → Die) : State := { s with dies := tabSet s.dies c (g (s.dieE c)) }
/-- Entry c of `funcs`. -/
def State.funcE (s : State) (c : Nat) : Func := tabGet s.funcs c {}
/-- `funcs` with entry c changed. -/
def State.funcM (s : State) (c : Nat) (g : Func → Func) : State := { s with funcs := tabSet s.funcs c (g (s.funcE c)) }
/-- Entry c of `doms`. -/
def State.domE (s : State) (c : Nat) : Dom := tabGet s.doms c {}
/-- `doms` with entry c changed. -/
def State.domM (s : State) (c : Nat) (g : Dom → Dom) : State := { s with doms := tabSet s.doms c (g (s.domE c)) }
/-- Entry c of `procs`. -/
def State.procE (s : State) (c : Nat) : Proc := tabGet s.procs c {}
/-- `procs` with entry c changed. -/
def State.procM (s : State) (c : Nat) (g : Proc → Proc) : State := { s with procs := tabSet s.procs c (g (s.procE c)) }
/-- Entry c of `hcv`. -/
def State.hcvE (s : State) (c : Nat) : Hcv := tabGet s.hcv c {}
/-- `hcv` with entry c changed. -/
def State.hcvM (s : State) (c : Nat) (g : Hcv → Hcv) : State := { s with hcv := tabSet s.hcv c (g (s.hcvE c)) }
/-- Entry c of `harts`. -/
def State.hartE (s : State) (c : Nat) : Hart := tabGet s.harts c {}
/-- `harts` with entry c changed. -/
def State.hartM (s : State) (c : Nat) (g : Hart → Hart) : State := { s with harts := tabSet s.harts c (g (s.hartE c)) }
/-- The sequencer state of context c on cluster cl. -/
def State.seqE (s : State) (c cl : Nat) : SeqCtx := tabGet s.seqs (16 * c + cl) {}
def State.seqM (s : State) (c cl : Nat) (g : SeqCtx → SeqCtx) : State :=
  { s with seqs := tabSet s.seqs (16 * c + cl) (g (s.seqE c cl)) }
/-- The core state of context c on core n. -/
def State.coreE (s : State) (c n : Nat) : CoreCtx := tabGet s.cores (64 * c + n) {}
def State.coreM (s : State) (c n : Nat) (g : CoreCtx → CoreCtx) : State :=
  { s with cores := tabSet s.cores (64 * c + n) (g (s.coreE c n)) }
/-- A channel's state. -/
def State.chanE (s : State) (st ch : Nat) : Chan := tabGet s.mem.chan (128 * st + ch) {}
def State.chanM (s : State) (st ch : Nat) (g : Chan → Chan) : State :=
  { s with mem := { s.mem with chan := tabSet s.mem.chan (128 * st + ch) (g (s.chanE st ch)) } }

/-- A span link's state. -/
def State.linkE (s : State) (l : Nat) : Link := tabGet s.span.links l {}
def State.linkM (s : State) (l : Nat) (g : Link → Link) : State :=
  { s with span := { s.span with links := tabSet s.span.links l (g (s.linkE l)) } }

/-- A message sent outside. -/
def State.emit (s : State) (e : OutEv) : State := { s with out := e :: s.out }

/-- The PLDM events of a step: one for a changed STATE (state sensor 9), one for a changed REPLACE (10) (R383); the master of the span
hears of a member's STATE (Table 14-10). -/
def State.noted (t s : State) : State :=
  let t := if t.health.state = s.health.state then t else
    let t := t.emit (.pldmEvent 9 t.health.state.toNat)
    if t.isMaster || !(bit t.span.admitted t.modIdx) then t
    else t.emit (.flit t.masterIdx .c (.state (Fin.ofNat 16 t.modIdx) t.health.state))
  if t.health.replace = s.health.replace then t else t.emit (.pldmEvent 10 (if t.health.replace then 1 else 0))

/-- n fresh free bytes, and the state with the counter advanced (notes/assumptions/11.md). -/
def State.freeBytes (s : State) (n : Nat) : State × List (BitVec 8) :=
  ({ s with free := s.free + n }, (List.range n).map fun i => Config.freeByte (s.free + i))

/-- One fresh free doubleword. -/
def State.freeWord64 (s : State) : State × BitVec 64 := ({ s with free := s.free + 1 }, Config.freeWord s.free)

/- Bytes of the physical map. -/

/-- The byte at an address: 0 where no cell lists it (notes/assumptions/5.md). -/
def cellGet (cs : List Host.Cell) (a : Nat) : BitVec 8 := tabGet cs a 0

/-- The cells with the byte at `a` written; a zero is not listed, so that equal memories are equal lists. -/
def cellPut (cs : List Host.Cell) (a : Nat) (b : BitVec 8) : List Host.Cell :=
  if b = 0 then tabDel cs a else tabSet cs a b

/-- The canonical form: addresses strictly rising and no cell holding zero. -/
def Memory.wf (cs : List Host.Cell) : Bool :=
  (cs.all fun c => c.2 != 0) && (cs.zip (cs.drop 1)).all fun p => p.1.1 < p.2.1

/-- n bytes from an address. -/
def cellsGet (cs : List Host.Cell) (a n : Nat) : List (BitVec 8) := (List.range n).map fun i => cellGet cs (a + i)

/-- Bytes written from an address on. -/
def cellsPut : List Host.Cell → Nat → List (BitVec 8) → List Host.Cell
  | cs, _, [] => cs
  | cs, a, b :: r => cellsPut (cellPut cs a b) (a + 1) r

/-- Every byte of [a, a+n) set to zero. -/
def cellsZero (cs : List Host.Cell) (a n : Nat) : List Host.Cell := cs.filter fun c => !(a ≤ c.1 && c.1 < a + n)

def State.byteAt (s : State) (a : Nat) : BitVec 8 := cellGet s.mem.cells a
def State.bytesAt (s : State) (a n : Nat) : List (BitVec 8) := cellsGet s.mem.cells a n
def State.putBytes (s : State) (a : Nat) (bs : List (BitVec 8)) : State :=
  { s with mem := { s.mem with cells := cellsPut s.mem.cells a bs } }
def State.zeroBytes (s : State) (a n : Nat) : State :=
  { s with mem := { s.mem with cells := cellsZero s.mem.cells a n } }

/- Host memory: what this module last wrote; any other byte is a free value (R285, notes/assumptions/9.md). -/

/-- Where host memory holds byte a of a function's I/O virtual space. -/
def hostKey (f a : Nat) : Nat := 2 ^ 64 * f + a

/-- The 4 KiB pages that [a, a+n) touches. -/
def pages4k (a n : Nat) : List Nat := if n = 0 then [] else (List.range ((a + n - 1) / 4096 - a / 4096 + 1)).map (a / 4096 + ·)

/-- The pages of an access enter the hub's ATS translation cache of 1,024 entries, the oldest making room (R285). -/
def State.atsCache (s : State) (f a n : Nat) : State :=
  let l := (pages4k a n).foldl (fun (l : List (Nat × Nat)) p => if l.contains (f, p) then l else l ++ [(f, p)]) s.mem.atc
  { s with mem := { s.mem with atc := l.drop (l.length - 1024) } }

/-- n bytes of host memory at a function's I/O virtual address. -/
def State.hostRead (s : State) (f a n : Nat) : State × List (BitVec 8) :=
  (({ s with free := s.free + n }).atsCache f a n,
   (List.range n).map fun i => (tabFind s.mem.hostMem (hostKey f (a + i))).getD (Config.freeByte (s.free + i)))

/-- Bytes written to host memory at a function's I/O virtual address, and the write sent out. -/
def State.hostWrite (s : State) (f a : Nat) (bs : List (BitVec 8)) : State :=
  let m := (List.range bs.length).foldl (fun m i => tabSet m (hostKey f a + i) (bs.getD i 0)) s.mem.hostMem
  (({ s with mem := { s.mem with hostMem := m } }).atsCache f a bs.length).emit (.hostWrite f a bs.length)

/-- Whether an I/O virtual address range lies in one of a function's host windows (R285). -/
def State.inHostWin (s : State) (f a n : Nat) : Bool :=
  (s.funcE f).windows.any fun w => bit w.1 0 && bits w.1 63 12 * 4096 ≤ a && a + n ≤ bits w.2 63 12 * 4096 + 4096

/-- Whether the host's ATS fails for a range of a function's I/O virtual addresses (R285; notes/assumptions/9.md). -/
def State.atsFails (s : State) (f a n : Nat) : Bool :=
  s.mem.atsRefused.any fun p => p.1 == f && p.2 * 4096 < a + n && a < p.2 * 4096 + 4096

/- Interrupts and records. -/

/-- An MSI-X message of a function: sent, or left pending while the vector is masked (R282, Table 13-2). A vector's
entry is two doublewords: address, then data with the mask in bit 32. The vectors of a function whose domain is RETIRING stay silent
(Table 12-11). -/
def State.msix (s : State) (f v : Nat) : State :=
  let fe := s.funcE f
  if fe.dom.any fun d => (s.domE d).state == 2 then s
  else if bit (tabGet fe.msix (2 * v + 1) (1 <<< 32)) 32 then s.funcM f fun e => { e with pba := setIns e.pba v }
  else s.emit (.msix f v)

/-- The function that owns a context, if any (Table 12-2). -/
def State.owner (s : State) (c : Nat) : Option Nat :=
  if c ≠ 0 && (s.ctxE c).state ≠ .free then some (s.ctxE c).func.toNat else none

/-- Whether a context's running job is a span job (R305). -/
def State.runsSpan (s : State) (ctx : Nat) : Bool :=
  s.jobs.any fun j => j.ctx == ctx && j.phase == .running && (uidFields j.unit).level == 4

/-- The bytes 0 to 59 of a record, then CHECK (Table 16-1). -/
def recBytes (r : Rec) (flags : Nat) : List (BitVec 8) :=
  let b := natBytes 8 r.esn ++ natBytes 4 r.unit.toNat ++ [r.cls, r.code] ++ natBytes 2 r.ctx.toNat ++
    natBytes 8 r.d0.toNat ++ natBytes 8 r.d1.toNat ++ natBytes 8 r.d2.toNat ++ natBytes 8 r.d3.toNat ++
    [r.opcode, r.cause, r.status, BitVec.ofNat 8 flags] ++ List.replicate 8 0
  b ++ natBytes 4 (crcOf 1 b)

/-- Whether a function is entitled to a copy of a record, as things stood when it arrived (R336). -/
def Rec.entitled (r : Rec) (f : Nat) : Bool :=
  (r.owner.map Fin.val == some f) || (r.origin.map Fin.val == some f) ||
  (0x90 ≤ r.code.toNat && r.code.toNat ≤ 0x93 && bit r.enabled f)

/-- The form in which function f sees a record: that of codes 0x90 to 0x93 withheld where the trigger belongs to
another function (R336). -/
def Rec.copyFor (r : Rec) (f : Nat) : Rec × Bool :=
  let other := 0x90 ≤ r.code.toNat && r.code.toNat ≤ 0x93 &&
    ((r.owner.map Fin.val).any (· != f) || (r.origin.map Fin.val).any (· != f))
  if other then ({ r with ctx := 0, d2 := 0, d3 := 0 }, true) else (r, false)

/-- Whether a function's ledger ring can be written: it is enabled, and its function may write to the host
(R336; DESIGN CHOICE, notes/assumptions/28.md: Bus Master Enable and the host link are needed). -/
def State.ldgRingOpen (s : State) (f : Nat) : Bool := bit (s.funcE f).ldgCfg 63 && (s.funcE f).busMaster && s.sch.hostLink

/-- N of a ledger ring, if its LOG2N is admitted (Table 16-8). -/
def ldgRingN (cfg : BitVec 64) : Nat := 64 * 2 ^ bits cfg 11 8

/-- One function's copy: written to its ring, or counted where the ring is disabled or full; vector 0 signals a
delivered copy (R336, R282). -/
def State.copyRec (s : State) (r : Rec) (stored : Bool) (f : Nat) : State :=
  if !(r.entitled f) then s
  else
    let fe := s.funcE f
    let (c, withheld) := r.copyFor f
    let n := ldgRingN fe.ldgCfg
    let full := (fe.ldgTail - fe.ldgHead).toNat ≥ n
    if s.ldgRingOpen f && !full then
      if bit fe.ldgCfg r.cls.toNat then
        let p := fe.ldgTail.toNat
        let ph := 1 - (p / n) % 2
        let s := s.hostWrite f (bits fe.ldgBase 63 6 * 64 + 64 * (p % n)) (recBytes c (ph + (if withheld then 2 else 0)))
        (s.funcM f fun e => { e with ldgTail := e.ldgTail + 1 }).msix f 0
      else if stored then s.msix f 0 else s
    else
      let s := { s with led := { s.led with copies := tabSet s.led.copies f (satAdd 0xFFFF (tabGet s.led.copies f 0) 1) } }
      if stored then s.msix f 0 else s

/-- How many records the buffer holds when a class is still stored (R334). -/
def ldgLimit (cls : Nat) : Nat := match cls with | 1 => 16128 | 2 | 3 => 16384 | _ => 15360

/-- One more record that the module has sent in an FMP session (R384). -/
def State.fmpSent (s : State) (id : Nat) : State :=
  { s with mgmt := { s.mgmt with sessions := s.mgmt.sessions.map fun (x : Sess) => if x.id = id then { x with sent := x.sent + 1 } else x } }

/-- An event in an FMP session, by the OP that it reports, and the same to every session (R386, R387). -/
def State.fmpEvent (s : State) (id what : Nat) : State := (s.emit (.fmpEvent id what)).fmpSent id
def State.fmpEventAll (s : State) (what : Nat) : State := s.mgmt.sessions.foldl (fun (s : State) x => s.fmpEvent x.id what) s

/-- A record as the ledger holds it: with the next ESN and who is entitled to it (R28, R336). -/
def State.heldRec (s : State) (r : Rec) : Rec :=
  { r with
    esn := s.led.esn, delivered := false
    owner := (s.owner r.ctx.toNat).map (Fin.ofNat 32)
    enabled := BitVec.ofNat 32 (listMask ((List.range 32).filter fun f => (s.funcE f).enabled)) }

/-- A record arrives at the hub: it takes the next ESN and keeps who is entitled to it, is stored or counted as lost, its copies go to the functions
entitled to them and the ledger stream delivers it (R28, R334 to R336, R394). -/
def State.raiseRec (s : State) (r : Rec) : State :=
  let r := s.heldRec r
  let cls := r.cls.toNat
  let stored := s.led.recs.length < ldgLimit cls
  let led := { s.led with esn := s.led.esn + 1
                          tail := (if s.led.tail.length < 16384 then s.led.tail else s.led.tail.drop 1) ++ [r] }
  let led :=
    if stored then { led with recs := led.recs ++ [{ r with delivered := s.mgmt.stream.isSome }] }
    else match cls with
      | 0 => { led with lostCorr := satAdd 0xFFFF led.lostCorr 1 }
      | 1 => { led with lostUnc := satAdd 0xFFFF led.lostUnc 1 }
      | 4 => { led with lostInfo := satAdd 0xFFFF led.lostInfo 1 }
      | _ => led
  let s := { s with led := led }
  let s := (List.range 32).foldl (fun s f => s.copyRec r stored f) s
  match s.mgmt.stream with
  | some id => if stored then (s.emit (.ledgerEvent id r.esn)).fmpSent id else s
  | none => s

/-- A flit for module m, which has withdrawn, is dropped; the record of its withdrawal counts it until no fence is open (R206, R311, Table
14-5). -/
def State.dropFor (s : State) (m : Nat) : State :=
  let l := s.linkTo m
  let s := s.linkM l fun k => { k with dropped := k.dropped + 1 }
  if !(s.runs.any fun p => p.2.fence.isSome) then s
  else
    let k := s.linkE l
    let f := fun (r : Rec) => if r.esn = k.lossEsn then { r with d2 := reg [(k.dropped, 0, 32)] } else r
    { s with led := { s.led with recs := s.led.recs.map f, tail := s.led.tail.map f } }

/-- A commit to the NVM log partition takes the current ESN there (R30). -/
def State.nvmCommit (s : State) : State := { s with nvm := { s.nvm with esn := s.led.esn - 1 } }

/-- The ESN of the record raised last. -/
def State.lastEsn (s : State) : Nat := s.led.esn - 1

/-- The writer word of codes 0xC0 to 0xC2 (Table 16-26): KIND and INDEX with the unit of the window accessed. -/
def writerWord (w : Writer) (unit : BitVec 32) : BitVec 64 :=
  let (k, i) := match w with
    | .func f => (0, f.val)
    | .mgmt f => (1, if f.val = 8 then 0xFF else f.val)
    | .firmware p => (2, p.val)
    | .hart h => (3, h.val)
    | .seqr _ => (4, 0)
    | .peer m => (5, m.val)
  reg [(unit.toNat, 32, 32), (k, 8, 8), (i, 0, 8)]

/-- The function whose access a writer's is (R336, R294). -/
def State.writerFunc (s : State) (w : Writer) : Option (Fin 32) :=
  match w with
  | .func f => some f
  | .hart h => (s.hartE h.val).func.map fun f => Fin.ofNat 32 f
  | _ => none

/-- The context a writer acts for: that of a sequencer's cluster (Table 16-26, KIND 4). -/
def State.writerCtx (s : State) (w : Writer) : Nat :=
  match w with | .seqr cl => (s.clusE cl.val).ctx | _ => 0

/-- The INFO-class record of an access refused or ignored, code 0xC0 (R333, Table 16-26). -/
def State.infoAccess (s : State) (w : Writer) (unit : BitVec 32) (addr : Nat) (data : BitVec 64) : State :=
  s.raiseRec { unit := if unit = 0 then s.modUid else unit, cls := 4, code := 0xC0,
               ctx := BitVec.ofNat 12 (s.writerCtx w), d0 := writerWord w unit, d1 := BitVec.ofNat 64 addr, d2 := data,
               origin := s.writerFunc w }

/-- The INFO-class record of another event, code 0xC2, made by hardware (KIND 6). -/
def State.infoOther (s : State) (unit : BitVec 32) (ctx addr : Nat) (data : BitVec 64) : State :=
  s.raiseRec { unit := if unit = 0 then s.modUid else unit, cls := 4, code := 0xC2, ctx := BitVec.ofNat 12 ctx,
               d0 := reg [(unit.toNat, 32, 32), (6, 8, 8)], d1 := BitVec.ofNat 64 addr, d2 := data }

/-- An INFO-class record of a code of its own. -/
def State.info (s : State) (unit : BitVec 32) (code : Nat) (ctx : Nat) (d0 d1 : Nat) : State :=
  s.raiseRec { unit := unit, cls := 4, code := BitVec.ofNat 8 code, ctx := BitVec.ofNat 12 ctx,
               d0 := BitVec.ofNat 64 d0, d1 := BitVec.ofNat 64 d1 }

/- Stack memory. -/

/-- Where a line lies: stack, channel and line within the channel (R244, R245). -/
structure LineAt where
  stack : Nat := 0
  chan : Nat := 0
  line : Nat := 0
  deriving DecidableEq, Repr, Inhabited

/-- The location of a stack-memory address under the interleave in force (R244 to R246). -/
def State.lineAt (s : State) (a : Nat) : LineAt :=
  let all := s.stackList
  let per := all.length / 4
  let (st, o, n) :=
    if s.sch.interleave || per = 0 then (all, a, all.length)
    else
      let k := a / (per * stackBytes)
      (all.filter fun i => i / 5 == k, a - k * (per * stackBytes), per)
  let g := o / 4096
  let n := if n = 0 then 1 else n
  { stack := st.getD (g % n) 0, chan := g / n % 128, line := g / (128 * n) * 64 + o % 4096 / 64 }

/-- The die whose range holds a stack-memory address in die-local mode (Table 11-3). -/
def State.dieOfAddr (s : State) (a : Nat) : Nat :=
  let per := s.stackList.length / 4
  if per = 0 then 0 else a / (per * stackBytes)

/-- Whether the range that holds an address has opened (R412, R413). -/
def State.rangeOpen (s : State) (a : Nat) : Bool :=
  if s.sch.interleave then s.boot.open_ == 0xF#4 else bit s.boot.open_ (s.dieOfAddr a)

/-- Whether the page of an address is retired (R259). -/
def State.retired (s : State) (a : Nat) : Bool := s.mem.cullet.contains (a / 65536)

/-- Who asks for a line: context, class 0 L, 1 G, 2 B, 3 S, unit and key domain (R249, R252). -/
structure Req where
  ctx : Nat := 0
  cls : Nat := 2
  unit : BitVec 32 := 0
  dom : Nat := 0
  deriving DecidableEq, Repr, Inhabited

/-- Lines served in a class, one more (Table 11-16). -/
def Chan.served (c : Chan) (cls : Nat) : Chan :=
  match cls with
  | 0 => { c with linesL := c.linesL + 1 } | 1 => { c with linesG := c.linesG + 1 }
  | 2 => { c with linesB := c.linesB + 1 } | _ => { c with linesS := c.linesS + 1 }

/-- The record of a memory event (Tables 11-8, 11-9). -/
def State.memRec (s : State) (code : Nat) (cls : BitVec 8) (a : Nat) (rq : Req) (pins : Option (BitVec 18)) : State :=
  let l := s.lineAt a
  s.raiseRec {
    unit := s.dieUid (l.stack / 5), cls := cls, code := BitVec.ofNat 8 code, ctx := BitVec.ofNat 12 rq.ctx,
    d0 := reg [(a / 64 * 64, 0, 52)],
    d1 := reg [(l.line / 256, 20, 16), (l.line % 16, 16, 4), (l.line / 16 % 4, 14, 2), (l.line / 64 % 4, 12, 2),
               (l.chan, 5, 7), (l.stack, 0, 5)],
    d2 := reg [(rq.ctx, 52, 12), (rq.cls, 50, 2), (rq.unit.toNat, 0, 32)],
    d3 := match pins with | some p => reg [(p.toNat, 0, 18)] | none => reg [(a / 65536, 0, 25)] }

/-- Whether a channel answers: not in a channel group powered down or in reset, not lost, its die not in reset (R242, R256,
R371, R372). -/
def State.chanUp (s : State) (l : LineAt) : Bool :=
  let g := 4 * l.stack + l.chan / 32
  !(s.mem.groupOff.contains g) && !(s.mem.groupReset.contains g) && (s.chanE l.stack l.chan).state != 3 &&
    !(s.dieE (l.stack / 5)).inReset

/-- Whether a line lost its contents with its channel group and has not been written whole since: it reads as poison (R242,
R372). -/
def State.lineLost (s : State) (a : Nat) (l : LineAt) : Bool :=
  (tabFind s.mem.groupLost (4 * l.stack + l.chan / 32)).any fun rs =>
    (tabFind s.mem.dom (a / 64)).isNone && !(rs.any fun r => r.1 ≤ a && a < r.1 + r.2)

/-- The key pair of a domain that is in force: its number and the generation of its keys (R252, R277). -/
def State.keyOf (s : State) (dom : Nat) : Nat := dom + 256 * (s.domE dom).gen

/-- The key under which a line was last written: line by line, or by the latest fill of a range; none where nothing has written it
(R253, R277, R411). -/
def State.lineKey (s : State) (line : Nat) : Option Nat :=
  (tabFind s.mem.dom line).or ((s.mem.fills.find? fun f => f.1 ≤ 64 * line && 64 * line < f.1 + f.2.1).map fun f => f.2.2)

/-- A line becomes poison in memory (R256). -/
def State.poisonLine (s : State) (line : Nat) : State :=
  { s with mem := { s.mem with poison := setIns s.mem.poison line, flaws := tabDel s.mem.flaws line } }

/-- One line read: corrected where the ECC can, poison where it cannot, where its tag fails or where it was written as
poison; `scrub` is the patrol, whose uncorrectable finds have their own code (R253, R255, R256). Answers whether the
data are good. -/
def State.readLine (s : State) (a : Nat) (rq : Req) (scrub : Bool := false) : State × Bool :=
  let line := a / 64
  let l := s.lineAt a
  if !(s.chanUp l) then (s, false)
  else
    let s := s.chanM l.stack l.chan fun c => c.served rq.cls
    if s.mem.poison.contains line || s.lineLost (64 * line) l then
      (s.memRec (if scrub then 0x43 else 0x42) 1 a rq none, false)
    else match tabFind s.mem.flaws line with
      | some .uncorrectable =>
        let s := (s.poisonLine line).chanM l.stack l.chan fun c => { c with uncorr := satAdd 0xFFFFFFFF c.uncorr 1 }
        (s.memRec (if scrub then 0x43 else 0x40) 1 a rq none, false)
      | f =>
        let s := match f with
          | some (.correctable pins) =>
            let n := satAdd 0xFFFFFFFF (s.chanE l.stack l.chan).corr 1
            let s := { s with mem := { s.mem with flaws := tabDel s.mem.flaws line } }
            let s := s.chanM l.stack l.chan fun c => { (c.served 3) with corr := n, lane := c.lane ||| pins }
            if n % 1024 = 1 then s.memRec 0x48 0 a rq (some pins) else s
          | _ => s
        let badTag := match f with | some .tag => true | _ => false
        if badTag || ((s.lineKey line).any (· != s.keyOf rq.dom) && !scrub) then
          let s := (s.poisonLine line).chanM l.stack l.chan fun c => { c with uncorr := satAdd 0xFFFFFFFF c.uncorr 1 }
          (s.memRec (if scrub then 0x43 else 0x41) 1 a rq none, false)
        else (s, true)

/-- The lines that [a, a+n) touches. -/
def linesOf (a n : Nat) : List Nat := if n = 0 then [] else (List.range ((a + n - 1) / 64 - a / 64 + 1)).map (a / 64 + ·)

/-- n bytes of stack memory; the address of the first poisoned line where there is one (R253, R256, R257). -/
def State.stackRead (s : State) (a n : Nat) (rq : Req) : State × Except Nat (List (BitVec 8)) :=
  let (s, bad) := (linesOf a n).foldl (fun (p : State × Option Nat) line =>
    let (s, ok) := p.1.readLine (line * 64) rq
    (s, if ok then p.2 else p.2.or (some (line * 64)))) (s, none)
  match bad with
  | some b => (s, .error b)
  | none => (s, .ok (s.bytesAt a n))

/-- The hub back-invalidates a line that the host may hold before a device agent writes it (R284). -/
def State.backInv (s : State) (line : Nat) : State :=
  if s.mem.snoop.contains line then
    ({ s with mem := { s.mem with snoop := setDel s.mem.snoop line } }).emit (.backInvalidate line)
  else s

/-- One line's part of a write: a full line is stored and clears poison; part of a line is a read-modify-write, which
is not applied to a poisoned line (R247, R256). Answers whether it was applied. -/
def State.writeLine (s : State) (a : Nat) (bs : List (BitVec 8)) (rq : Req) : State × Bool :=
  let line := a / 64
  let l := s.lineAt a
  if !(s.chanUp l) then (s, false)
  else
    let (s, ok) := if bs.length = 64 then (s, true) else s.readLine a rq
    if !ok then (s, false)
    else
      let s := s.chanM l.stack l.chan fun c => c.served rq.cls
      let s := s.putBytes a bs
      ({ s with mem := { s.mem with dom := tabSet s.mem.dom line (s.keyOf rq.dom), poison := setDel s.mem.poison line,
                                    flaws := tabDel s.mem.flaws line } }, true)

/-- Bytes written to stack memory by a device agent; the address of the first line that did not take them. -/
def State.stackWrite (s : State) (a : Nat) (bs : List (BitVec 8)) (rq : Req) (dev : Bool := true) : State × Option Nat :=
  (linesOf a bs.length).foldl (fun (p : State × Option Nat) line =>
    let s := if dev then p.1.backInv line else p.1
    let lo := max a (line * 64)
    let hi := min (a + bs.length) (line * 64 + 64)
    let (s, ok) := s.writeLine lo ((bs.drop (lo - a)).take (hi - lo)) rq
    (s, if ok then p.2 else p.2.or (some (line * 64)))) (s, none)

/-- A line written as poison (R145, R256). -/
def State.writePoison (s : State) (a : Nat) (rq : Req) : State :=
  let s := s.backInv (a / 64)
  let s := s.poisonLine (a / 64)
  { s with mem := { s.mem with dom := tabSet s.mem.dom (a / 64) (s.keyOf rq.dom) } }

/-- The issue word: D2 of Table 9-4. -/
def issueWord (e : QEntry) (queue : Nat) : BitVec 64 :=
  reg [(e.pc.toNat, 32, 32), (e.replay.getD 0, 22, 10), (b2n e.replay.isSome, 21, 1), (e.slot, 8, 8), (queue, 0, 4)]

/-- Whether failure a of a module comes before failure b in the order of R15: the lower module index, then the lower event sequence
number, a failure without one after every failure that carries one. -/
def failsBefore (a b : Nat × Outcm) : Bool :=
  let key := fun (o : Outcm) => if o.esn = 0 then 2 ^ 64 else o.esn
  a.1 < b.1 || (a.1 == b.1 && key a.2 < key b.2)

/-- The failure that decides a status, of failures with the modules they lie on; of equals the first listed (R15, R173). -/
def firstFailure : List (Nat × Outcm) → Option (Nat × Outcm)
  | [] => none
  | a :: r => match firstFailure r with
    | some b => if failsBefore b a then some b else some a
    | none => some a

/-- A fault as the failure of a module (R15). -/
def State.faultOut (s : State) (f : FaultInfo) : Nat × Outcm :=
  (f.from_.getD s.modIdx, { status := f.status, cause := f.cause, esn := f.esn })

/-- The context's fault is in force: its engines stop queue-take and its sequencers are to stop; of several failures the first in the
order of R15 stands (R173, R188). `peer` names another module of the span that it comes from. -/
def State.setFault (s : State) (ctx : Nat) (o : Outcm) (peer : Option Nat := none) : State :=
  let f : FaultInfo := { status := o.status, cause := o.cause, esn := o.esn, from_ := peer }
  s.runM ctx fun r => match r.fault with
    | some g => if failsBefore (s.faultOut f) (s.faultOut g) then { r with fault := some { f with flushed := g.flushed } } else r
    | none => { r with fault := some f }

/-- A UNC-class failure record (R431). -/
def State.failRec (s : State) (unit : BitVec 32) (ctx : Nat) (opcode : Nat) (status cause : Nat)
    (d : BitVec 64 × BitVec 64 × BitVec 64 × BitVec 64) : State :=
  s.raiseRec { unit := unit, cls := 1, code := BitVec.ofNat 8 status, ctx := BitVec.ofNat 12 ctx, d0 := d.1, d1 := d.2.1,
               d2 := d.2.2.1, d3 := d.2.2.2, opcode := BitVec.ofNat 8 opcode, cause := BitVec.ofNat 8 cause,
               status := BitVec.ofNat 8 status }

end Sys2Proof.Machine
end

