-- ==== Sys2Proof/Machine/Translate.lean ====
section
/-! DEFINITION. Translation of a context's virtual addresses and the accesses that go through it (R267 to R270, R285,
R307, R413; 12_contexts_isolation.md). -/

namespace Sys2Proof.Machine

/-- Who makes an access through a context's tables: the context, the executing core and cluster, the class of its
data accesses (R249), for a DXE the queue entry it works for, whether it is another module of the span (R307), and whether its
instruction belongs to a superseded placement (R215). -/
structure Agent where
  ctx : Nat := 0
  core : Option Nat := none
  cluster : Nat := 0
  cls : Nat := 2
  dxe : Option Nat := none
  peer : Bool := false
  stale : Bool := false
  deriving DecidableEq, Repr, Inhabited

/-- What an access is for. -/
inductive Use where
  | read | write | fetch
  deriving DecidableEq, Repr, Inhabited

/-- Where a virtual address resolves: physical memory, host memory, a peer's virtual address, a unit window's index
and offset (Table 12-8). -/
inductive Loc where
  | phys (a : Nat)
  | host (a : Nat)
  | peer (m va : Nat)
  | unit (index off : Nat)
  deriving DecidableEq, Repr, Inhabited

/-- Why an access failed: a translation fault with REASON, LEVEL and ENTRY, an unpopulated address, poison, or an
operand outside the engine's own store (Table 8-13); `gone` is a partner module that has withdrawn (R145). -/
inductive AccErr where
  | trans (va reason level : Nat) (entry : BitVec 64)
  | hole (pa : Nat)
  | poison (pa : Nat)
  | own (va : Nat) (leaf : BitVec 64)
  | gone (m : Nat)
  deriving DecidableEq, Repr, Inhabited

/-- The tag of an access that goes to another module: core and queue entry of a DXE, else the cluster of a sequencer (R307). -/
def Agent.tag (g : Agent) : BitVec 16 :=
  match g.core, g.dxe with
  | some n, some slot => BitVec.ofNat 16 (128 * n + slot)
  | _, _ => BitVec.ofNat 16 (0x8000 + g.cluster)

/-- The translation cache of an agent and its size; an access for another module has none (R270). -/
def Agent.cache (g : Agent) : Option (Nat × Nat) :=
  if g.peer then none
  else match g.core, g.dxe with
    | some n, some _ => some (n, 512)
    | some n, none => some (64 + n, 128)
    | none, _ => some (128 + g.cluster, 64)

/-- The request that an agent makes of stack memory in class `cls`. -/
def State.reqOf (s : State) (g : Agent) (cls : Nat) : Req :=
  { ctx := g.ctx, cls := cls, dom := (s.ctxE g.ctx).keydom.toNat,
    unit := match g.core with | some n => s.coreUid n | none => s.clusUid g.cluster }

/-- The job cores and clusters of a context on this module, in increasing order (R267). -/
def State.jobCoreList (s : State) (c : Nat) : List Nat := maskList 64 (s.runE c).jobCores.toNat
/-- The power domains that the work of a context needs: those of its job cores, their stores where it has one, and their dies (R318). -/
def State.ctxDomains (s : State) (c : Nat) : List Nat :=
  (s.jobCoreList c).flatMap fun n =>
    coreDomains n ++ (if 0 < (s.runE c).storeLen then [storeDomain n] else []) ++ dieDomains (n / 16)
def State.jobClusters (s : State) (c : Nat) : List Nat :=
  (List.range 16).filter fun k => (s.jobCoreList c).any fun n => n / 4 == k

/-- A table entry read by a walk: its doubleword, or the failure. In a context created before the firmware range
opened, the tables are host I/O virtual addresses (R416). -/
def State.readEntry (s : State) (g : Agent) (va level a : Nat) : State × Except AccErr (BitVec 64) :=
  let e := s.ctxE g.ctx
  let f := e.func.toNat
  if e.early then
    if s.inHostWin f a 8 && !(s.atsFails f a 8) then
      let (s, bs) := s.hostRead f a 8
      (s, .ok (BitVec.ofNat 64 (bytesNat bs)))
    else (s, .error (.trans va 8 level 0))
  else
    let fe := s.funcE f
    if !(fe.base ≤ a && a + 8 ≤ fe.base + fe.size) then (s, .error (.trans va 1 level 0))
    else if !(s.rangeOpen a) then (s, .error (.trans va 6 level 0))
    else
      let (s, r) := s.stackRead a 8 (s.reqOf g 0)
      match r with
      | .ok bs => (s, .ok (BitVec.ofNat 64 (bytesNat bs)))
      | .error _ => (s, .error (.trans va 0 level 0))

/-- Whether a non-leaf entry holds a non-zero reserved field (Table 12-7). -/
def nonLeafReserved (e : BitVec 64) : Bool :=
  bits e 63 52 != 0 || bits e 11 10 != 0 || bits e 9 7 != 0 || bit e 6 || bits e 5 4 != 0 || bit e 3 || bit e 2

/-- Whether a leaf holds a non-zero reserved field, or an address not aligned to its page (Table 12-7). -/
def leafReserved (e : BitVec 64) (level : Nat) : Bool :=
  let t := bits e 9 7
  bits e 5 4 != 0 || (bit e 6 && t != 1 && t != 2) || (bit e 6 && bits e 15 10 != 0) ||
    (t == 4 && bits e 15 14 != 0) || (level == 1 && bits e 20 16 != 0)

/-- The leaf that a walk from a table at level `level` finds, with its level (R267, R269). -/
def walkFrom (g : Agent) (va : Nat) : Nat → State → Nat → State × Except AccErr (BitVec 64 × Nat)
  | 0, s, t =>
    let (s, r) := s.readEntry g va 0 (t + 8 * fld va 20 16)
    match r with
    | .error e => (s, .error e)
    | .ok w =>
      if !(bit w 0) then (s, .error (.trans va 0 0 w))
      else if !(bit w 1) then (s, .error (.trans va 0 0 w))
      else (s, .ok (w, 0))
  | level + 1, s, t =>
    let lv := level + 1
    let lo := match lv with | 3 => 39 | 2 => 30 | _ => 21
    let (s, r) := s.readEntry g va lv (t + 8 * fld va (lo + 8) lo)
    match r with
    | .error e => (s, .error e)
    | .ok w =>
      if !(bit w 0) then (s, .error (.trans va 0 lv w))
      else if bit w 1 then
        if lv = 1 then (s, .ok (w, 1)) else (s, .error (.trans va 0 lv w))
      else if nonLeafReserved w then (s, .error (.trans va 5 lv w))
      else walkFrom g va level s (bits w 51 12 * 4096)

/-- What a valid leaf resolves to, by the checks of Table 12-8, for an access of n bytes that stays in its page. Every 4 KiB page of a
host range is checked. A PEER leaf whose module has withdrawn since the job began still resolves: the access ends as R145 says; one that an
access of another module meets does not, for no module relays (R285, R297, R307, R311). -/
def State.resolveLeaf (s : State) (g : Agent) (va : Nat) (w : BitVec 64) (level : Nat) (n : Nat := 1) : Except AccErr Loc :=
  let e := s.ctxE g.ctx
  let r := s.runE g.ctx
  let fe := s.funcE e.func.toNat
  let size := if level = 1 then 2 ^ 21 else 2 ^ 16
  let addr := bits w 63 16 * 65536
  let off := va % size
  let bad := fun (k : Nat) => Except.error (AccErr.trans va k level w)
  match bits w 9 7 with
  | 0 =>
    let a := addr + off
    let page := a / 65536 * 65536
    if !(fe.base ≤ page && page + 65536 ≤ fe.base + fe.size && page + 65536 ≤ s.stackCap) then bad 1
    else if !(s.rangeOpen a) then bad 6
    else if s.retired a then bad 7
    else .ok (.phys a)
  | 1 =>
    let core := if bit w 6 then g.core else (s.jobCoreList g.ctx)[bits w 15 10]?
    match core with
    | none => bad 1
    | some n => if addr + size ≤ r.storeBytes then .ok (.phys (storeBase n + r.storeOff + addr + off)) else bad 1
  | 2 =>
    let cl := if bit w 6 then (if g.peer then none else some g.cluster) else (s.jobClusters g.ctx)[bits w 15 10]?
    match cl with
    | none => bad 1
    | some n => if addr + size ≤ r.poolBytes then .ok (.phys (poolBase n + r.poolOff + addr + off)) else bad 1
  | 3 =>
    let f := e.func.toNat
    match (pages4k (addr + off) n).find? fun p => !(s.sch.hostLink && s.inHostWin f (4096 * p) 4096 && !(s.atsFails f (4096 * p) 4096)) with
    | none => .ok (.host (addr + off))
    | some p => .error (.trans (va + (4096 * p - (addr + off))) 8 level w)
  | 4 =>
    let m := bits w 13 10
    if s.runsSpan g.ctx && (bit s.span.admitted m || bit s.span.withdrawn m) && m != s.modIdx && !g.peer then .ok (.peer m (addr + off)) else bad 9
  | 5 =>
    let u := uidFields (BitVec.ofNat 32 (addr / 65536 * 2 ^ 19))
    let ok := addr / 65536 < 0x2000 && u.module == s.modIdx && u.level ≤ 1 && bit e.place u.clusN &&
      s.unitValid (BitVec.ofNat 32 (addr / 65536 * 2 ^ 19))
    if ok then .ok (.unit (addr / 65536) (off % 65536)) else bad 1
  | _ => bad 4

/-- The page number of an address for a leaf at a level (R267). -/
def leafPage (va level : Nat) : Nat := if level = 1 then fld va 47 21 else fld va 47 16

/-- The leaf that an agent's translation cache holds for an address, with its level (R270). -/
def State.cachedLeaf (s : State) (g : Agent) (va : Nat) : Option (BitVec 64 × Nat) :=
  g.cache.bind fun k => ((tabGet s.tlb k.1 []).find? fun t => t.ctx == g.ctx && t.page == leafPage va t.level).map fun t =>
    (t.leaf, t.level)

/-- A leaf enters an agent's translation cache; the oldest entry makes room (R270). -/
def State.cacheLeaf (s : State) (g : Agent) (va : Nat) (w : BitVec 64) (level : Nat) : State :=
  match g.cache with
  | none => s
  | some (k, cap) =>
    let old := tabGet s.tlb k []
    let new : Tlb := { ctx := g.ctx, level := level, page := leafPage va level, leaf := w }
    if old.contains new then s
    else
      let l := (old.filter fun t => !(t.ctx == g.ctx && t.page == leafPage va t.level)) ++ [new]
      { s with tlb := tabSet s.tlb k (l.drop (l.length - cap)) }

/-- Whether a translation cache lies on a die (R270, R371). -/
def tlbOfDie (d key : Nat) : Bool := if key < 128 then key % 64 / 16 == d else (key - 128) / 4 == d

/-- The cached entries of a context are dropped (R270, R275). -/
def State.dropLeaves (s : State) (ctx : Nat) : State :=
  { s with tlb := s.tlb.map fun p => (p.1, p.2.filter fun (t : Tlb) => t.ctx != ctx) }

/-- The leaf of an address, with its level: what the tables hold, or, where a cached leaf differs from that, one or the other, at the
choice of a free bit (R267, R270; notes/assumptions/21.md). -/
def State.leafOf (s : State) (g : Agent) (va : Nat) : State × Except AccErr (BitVec 64 × Nat) :=
  let old := s.cachedLeaf g va
  let (s, r) := walkFrom g va 3 s (bits (s.ctxE g.ctx).ptroot 51 12 * 4096)
  let fresh := fun (s : State) => match r with
    | .ok (w, level) => (s.cacheLeaf g va w level, r)
    | .error _ => (s, r)
  match old with
  | none => fresh s
  | some o =>
    if (match r with | .ok n => n == o | .error _ => false) then (s, .ok o)
    else
      let (s, b) := s.freeWord64
      if bit b 0 then (s, .ok o) else fresh s

/-- A virtual address translated for a use of n bytes in its page: the location and the leaf (R267 to R269). -/
def State.translate (s : State) (g : Agent) (va : Nat) (u : Use) (n : Nat := 1) : State × Except AccErr (Loc × BitVec 64) :=
  let (s, r) := s.leafOf g va
  match r with
  | .error e => (s, .error e)
  | .ok (w, level) =>
    let bad := fun (k : Nat) => (s, Except.error (AccErr.trans va k level w))
    if 6 ≤ bits w 9 7 then bad 4
    else if leafReserved w level then bad 5
    else if u == .write && !(bit w 2) then bad 2
    else if u == .fetch && !(bit w 3) then bad 3
    else match s.resolveLeaf g va w level n with
      | .ok l => (s, .ok (l, w))
      | .error e => (s, .error e)

/-- The level of the leaf that translates an address. -/
def State.leafLevel (s : State) (g : Agent) (va : Nat) : Nat :=
  match (walkFrom g va 3 s (bits (s.ctxE g.ctx).ptroot 51 12 * 4096)).2 with
  | .ok (_, l) => l
  | .error _ => 0

/-- The pieces of [va, va+n) that lie each within one 64 KiB page. -/
def pagePieces (va n : Nat) : List (Nat × Nat) :=
  if n = 0 then []
  else (List.range ((va + n - 1) / 65536 - va / 65536 + 1)).map fun i =>
    let p := va / 65536 + i
    let lo := max va (p * 65536)
    (lo, min (va + n) (p * 65536 + 65536) - lo)

/-- n bytes of a physical range that is not a unit window; a hole fails (R24). -/
def State.physRead (s : State) (a n : Nat) (rq : Req) : State × Except AccErr (List (BitVec 8)) :=
  match s.place a with
  | .stack =>
    let (s, r) := s.stackRead a n rq
    match r with
    | .ok bs => (s, .ok bs)
    | .error p => (s, .error (.poison p))
  | .store _ _ | .pool _ _ => (s, .ok (s.bytesAt a n))
  | _ => (s, .error (.hole a))

/-- Bytes written to a physical range that is not a unit window. -/
def State.physWrite (s : State) (a : Nat) (bs : List (BitVec 8)) (rq : Req) : State × Option AccErr :=
  match s.place a with
  | .stack =>
    let (s, r) := s.stackWrite a bs rq
    (s, r.map AccErr.poison)
  | .store _ _ | .pool _ _ => (s.putBytes a bs, none)
  | _ => (s, some (.hole a))

/-- One piece read through a location: a read request goes to a peer, whose answer is a free value (R299, R307;
notes/assumptions/10.md); a UNIT leaf is no memory and reads as a hole does. -/
def State.locRead (s : State) (g : Agent) (l : Loc) (n : Nat) : State × Except AccErr (List (BitVec 8)) :=
  match l with
  | .phys a => s.physRead a n (s.reqOf g g.cls)
  | .host a => let (s, bs) := s.hostRead (s.ctxE g.ctx).func.toNat a n; (s, .ok bs)
  | .peer m va =>
    if bit s.span.withdrawn m then (s, .error (.gone m))
    else
      let s := s.emit (.flit m .c (.read (BitVec.ofNat 12 g.ctx) (BitVec.ofNat 48 va) n g.tag))
      let (s, bs) := s.freeBytes n; (s, .ok bs)
  | .unit i o => (s, .error (.hole (0x030000000000 + i * 0x10000 + o)))

/-- The detail words D0, D1 and D3 of a translation or address fault (Table 8-13). -/
def accDetail (e : AccErr) (write : Bool) : BitVec 64 × BitVec 64 × BitVec 64 :=
  match e with
  | .trans va reason level entry => (reg [(0, 60, 4), (va, 0, 52)], entry, reg [(reason, 4, 4), (b2n write, 3, 1), (level, 0, 3)])
  | .hole pa => (reg [(1, 60, 4), (pa, 0, 52)], 0, reg [(b2n write, 3, 1)])
  | .poison pa => (reg [(2, 60, 4), (pa, 0, 52)], 0, reg [(b2n write, 3, 1)])
  | .own va leaf => (reg [(3, 60, 4), (va, 0, 52)], leaf, reg [(b2n write, 3, 1)])
  | .gone m => (reg [(m, 0, 4)], 0, 0)

/-- The CAUSE of an access that fails by itself: 0x2E for a range that has not opened (R413), else that of row 7. -/
def accCause (e : AccErr) : Nat :=
  match e with
  | .trans _ 6 _ _ => 0x2E
  | _ => 0x07


/-- Bytes that go to another module through a PEER leaf, in class D (R307). -/
def State.sendPeer (s : State) (g : Agent) (m va : Nat) (bs : List (BitVec 8)) : State :=
  s.emit (.flit m .d (.write (BitVec.ofNat 12 g.ctx) (s.ctxE g.ctx).epoch (BitVec.ofNat 48 va) bs g.tag))

/- Copy-on-first-touch (R354 to R359). -/

/-- Bytes that a DCOW writes at its destination, through HOST and PEER leaves; those of a superseded epoch are dropped
and counted at the hub (R354, R215). -/
def State.outWrite (s : State) (g : Agent) (stale : Bool) (va : Nat) (bs : List (BitVec 8)) : State × Option AccErr :=
  if stale then ({ s with span := { s.span with staleWrites := satAdd 0xFFFFFFFF s.span.staleWrites 1 } }, none)
  else (pagePieces va bs.length).foldl (fun (p : State × Option AccErr) piece =>
    match p.2 with
    | some _ => p
    | none =>
      let (s, r) := p.1.translate g piece.1 .write piece.2
      let part := (bs.drop (piece.1 - va)).take piece.2
      match r with
      | .error e => (s, some e)
      | .ok (.host a, _) => (s.hostWrite (s.ctxE g.ctx).func.toNat a part, none)
      | .ok (.peer m pa, _) => if bit s.span.withdrawn m then (s.dropFor m, some (.gone m)) else (s.sendPeer g m pa part, none)
      | .ok (_, w) => (s, some (.trans piece.1 1 (s.leafLevel g piece.1) w))) (s, none)

/-- The manifest of a DCOW whose pages are all copied: the header, then the digests (Table 17-1). -/
def manifestBytes (ctx : Nat) (e : CtxEntry) (m : Nat) (r : DcowRun) : List (BitVec 8) × List (BitVec 8) :=
  let digests := (List.range r.pages.length).flatMap fun i => natBytes 8 (tabGet r.digests i 0).toNat
  let h := natBytes 4 0x4B434E47 ++ natBytes 2 1 ++ natBytes 2 ctx ++ natBytes 8 e.seed.toNat ++ natBytes 4 r.step.toNat ++
    natBytes 4 r.pages.length ++ natBytes 8 r.srcVa ++ [BitVec.ofNat 8 m, BitVec.ofNat 8 e.epoch.toNat] ++ List.replicate 26 0
  (h ++ natBytes 4 (crcOf 1 (h ++ digests)), digests)

/-- One DCOW of a core, changed. -/
def State.dcowM (s : State) (ctx core slot : Nat) (f : DcowRun → DcowRun) : State :=
  s.coreM ctx core fun c => { c with dcows := updFirst (fun r => r.slot == slot) f c.dcows }

/-- The host writes that waited for a page take effect in order; where the page has been retired meanwhile each is dropped and recorded
(R259, R357). -/
def State.releaseHeld (s : State) (page : Nat) : State :=
  let mine := s.mem.hostHeld.filter fun h => h.1 / 65536 == page
  let s := { s with mem := { s.mem with hostHeld := s.mem.hostHeld.filter fun (h : Nat × Nat × List (BitVec 8)) => h.1 / 65536 != page } }
  mine.foldl (fun (s : State) h =>
    if s.retired h.1 then
      s.infoAccess (.func (Fin.ofNat 32 (((s.funcs.find? fun p => p.2.dom == some h.2.1).map Prod.fst).getD 0))) 0 h.1
        (BitVec.ofNat 64 (bytesNat (h.2.2.take 8)))
    else (s.stackWrite h.1 h.2.2 { cls := 2, unit := s.modUid, dom := h.2.1 } false).1) s

/-- The DCOW of a slot has its outcome. -/
def State.dcowEnds (s : State) (ctx core slot : Nat) (o : Outcm) : State :=
  s.coreM ctx core fun c => { c with dxeQ := updFirst (fun (e : QEntry) => e.slot == slot) (fun (e : QEntry) => { e with result := some o }) c.dxeQ }

/-- A page whose copy is written: its digest kept, CV1 at the end of the page's stream, the page out of the protection table and
the host writes that waited for it made (R356, R357, R358). -/
def State.dcowCopied (s : State) (ctx core slot i page : Nat) (bs : List (BitVec 8)) : State :=
  let st := crcStream 2 (crcInit 2) bs
  let s := s.dcowM ctx core slot fun r => { r with
    todo := setDel r.todo i, digests := tabSet r.digests i (BitVec.ofNat 64 (crcFinal 2 st)) }
  let s := s.coreM ctx core fun c => { c with cv1 := { poly := 2, arm := true, value := BitVec.ofNat 64 st } }
  ({ s with protect := tabDel s.protect page }).releaseHeld page

/-- Page i of a DCOW is copied in a class: its digest is taken by CV1, it leaves the protection table, and the writes that
waited for it go on; after the last page the manifest is written, its header last (R356 to R359). A failure ends the
DCOW. -/
def State.dcowCopy (s : State) (ctx core slot i cls : Nat) : State :=
  let c := s.coreE ctx core
  match c.dcows.find? fun r => r.slot == slot, c.dxeQ.find? fun e => e.slot == slot with
  | some r, some e =>
    if r.failed.isSome || e.result.isSome || !(r.todo.contains i) then s
    else
      let g : Agent := { ctx := ctx, core := some core, cluster := core / 4, cls := cls, dxe := some slot }
      let stale := e.epoch != (s.ctxE ctx).epoch
      let fail := fun (s : State) (err : AccErr) (w : Bool) =>
        let (d0, d1, d3) := accDetail err w
        let st := match err with | .gone _ => 0x16 | _ => 0x10
        let cause := match err with | .gone _ => 0 | _ => accCause err
        let s := s.failRec (s.coreUid core) ctx 4 st cause (d0, d1, issueWord e 2, d3)
        let o : Outcm := { status := BitVec.ofNat 8 st, cause := BitVec.ofNat 8 cause, esn := s.lastEsn }
        ((s.dcowM ctx core slot fun r => { r with failed := some o }).dcowEnds ctx core slot o).setFault ctx o
      let page := r.pages.getD i 0
      let (s, rd) := s.stackRead (page * 65536) 65536 (s.reqOf g cls)
      match rd with
      | .error a => fail s (.poison a) false
      | .ok bs =>
        let (s, err) := s.outWrite g stale (r.dstVa + 65536 * i) bs
        match err with
        | some err => fail s err true
        | none =>
          let s := s.dcowCopied ctx core slot i page bs
          match (s.coreE ctx core).dcows.find? fun r => r.slot == slot with
          | none => s
          | some r =>
            if !r.todo.isEmpty then s
            else
              let (h, ds) := manifestBytes ctx (s.ctxE ctx) s.modIdx r
              let base := r.dstVa + 65536 * r.pages.length
              let (s, err) := s.outWrite g stale (base + 64) ds
              match err with
              | some err => fail s err true
              | none =>
                let (s, err) := s.outWrite g stale base h
                match err with
                | some err => fail s err true
                | none => s.dcowEnds ctx core slot {}
  | _, _ => s

/-- The DCOW that protects a page and has not copied it: context, core, queue entry and page number (R357). -/
def State.protector (s : State) (page : Nat) : Option (Nat × Nat × Nat × Nat) :=
  match tabFind s.protect page with
  | none => none
  | some k =>
    let c := s.coreE (k / 64) (k % 64)
    match c.dcows.find? fun r => r.pages.contains page && r.failed.isNone with
    | none => none
    | some r => (r.pages.findIdx? (· == page)).map fun i => (k / 64, k % 64, r.slot, i)

/-- A write that meets a protected page makes the DXE copy it first (R144, R357). -/
def State.copyFirst (s : State) (page : Nat) : State :=
  match s.protector page with
  | some (ctx, core, slot, i) => s.dcowCopy ctx core slot i 2
  | none => s

/-- Whether a write to a page must wait: a DCOW protects it whose context does not run (R357, R359). -/
def State.pageWaits (s : State) (page : Nat) : Bool :=
  match s.protector page with
  | some (ctx, _, _, _) => !(s.runE ctx).running
  | none => false

/-- The end of a DCOW: its remaining pages are released, the writes that waited for them go on, and CV1 is restored
(R358, R359). -/
def State.dcowRelease (s : State) (ctx core slot : Nat) : State :=
  let c := s.coreE ctx core
  match c.dcows.find? fun r => r.slot == slot with
  | none => s
  | some r =>
    let s := r.todo.foldl (fun (s : State) i =>
      let page := r.pages.getD i 0
      ({ s with protect := tabDel s.protect page }).releaseHeld page) s
    s.coreM ctx core fun c =>
      let rest := c.dcows.filter fun r => r.slot != slot
      { c with dcows := rest, cv1 := if rest.isEmpty then r.cvSave else c.cv1 }

/-- One write of a superseded placement that its receiver drops: the die of a stack line, else the hub (R215, Table 9-7). -/
def State.dropStale (s : State) (die : Option Nat) : State :=
  match die with
  | some k => s.dieM k fun d => { d with staleWrites := satAdd 0xFFFFFFFF d.staleWrites 1 }
  | none => { s with span := { s.span with staleWrites := satAdd 0xFFFFFFFF s.span.staleWrites 1 } }

/-- Where a write of a superseded placement is dropped: everywhere but in a core store or a pool (R215). -/
def State.staleAt (s : State) (l : Loc) : Option (Option Nat) :=
  match l with
  | .phys a => if s.place a == .stack then some (some ((s.lineAt a).stack / 5)) else none
  | _ => some none

/-- One piece written through a location; of a superseded placement only what stays on its own cores and clusters is (R215). -/
def State.locWrite (s : State) (g : Agent) (l : Loc) (bs : List (BitVec 8)) : State × Option AccErr :=
  match if g.stale then s.staleAt l else none with
  | some die => (s.dropStale die, none)
  | none => match l with
  | .phys a => (s.copyFirst (a / 65536)).physWrite a bs (s.reqOf g g.cls)
  | .host a => (s.hostWrite (s.ctxE g.ctx).func.toNat a bs, none)
  | .peer m va => if bit s.span.withdrawn m then (s.dropFor m, some (.gone m)) else (s.sendPeer g m va bs, none)
  | .unit i o => (s, some (.hole (0x030000000000 + i * 0x10000 + o)))

/-- n bytes at a virtual address, or the first failure (R269, R145). -/
def State.vaRead (s : State) (g : Agent) (va n : Nat) (u : Use := .read) : State × Except AccErr (List (BitVec 8)) :=
  (pagePieces va n).foldl (fun (p : State × Except AccErr (List (BitVec 8))) piece =>
    match p.2 with
    | .error _ => p
    | .ok bs =>
      let (s, r) := p.1.translate g piece.1 u piece.2
      match r with
      | .error e => (s, .error e)
      | .ok (l, _) =>
        let (s, r) := s.locRead g l piece.2
        match r with
        | .error e => (s, .error e)
        | .ok b => (s, .ok (bs ++ b))) (s, .ok [])

/-- Bytes written at a virtual address; what precedes a failure stays written (R145). -/
def State.vaWrite (s : State) (g : Agent) (va : Nat) (bs : List (BitVec 8)) : State × Option AccErr :=
  (pagePieces va bs.length).foldl (fun (p : State × Option AccErr) piece =>
    match p.2 with
    | some _ => p
    | none =>
      let (s, r) := p.1.translate g piece.1 .write piece.2
      match r with
      | .error e => (s, some e)
      | .ok (l, _) => s.locWrite g l ((bs.drop (piece.1 - va)).take piece.2)) (s, none)

/-- The pages of [va, va+n) translated for a use without an access: the first failure (row 7 of Table 8-4). Where
`own` names a core, every page must lie in that core's store (R82, R129). -/
def State.vaCheck (s : State) (g : Agent) (va n : Nat) (u : Use) (own : Option Nat) : State × Option AccErr :=
  (pagePieces va n).foldl (fun (p : State × Option AccErr) piece =>
    match p.2 with
    | some _ => p
    | none =>
      let (s, r) := p.1.translate g piece.1 u piece.2
      match r with
      | .error e => (s, some e)
      | .ok (l, w) =>
        match own with
        | none => (s, none)
        | some c =>
          let inOwn := match l with
            | .phys a => match s.place a with | .store n _ => n == c | _ => false
            | _ => false
          (s, if inOwn then none else some (.own piece.1 w))) (s, none)

end Sys2Proof.Machine
end

