-- ==== Sys2Proof/Machine/Operands.lean ====
section
/-! DEFINITION. Operands of tensor instructions: reading and writing tensor elements with their scale entries and
sub-scales, block padding, and the conversion of a destination by the lehr (R37 to R44, R92 to R118, R186). -/

namespace Sys2Proof.Machine

/-- An operand: its descriptor, origin and window extents (R186). -/
structure View where
  d : Desc := {}
  g : List Nat := [0, 0, 0, 0]
  e : List Nat := [0, 0, 0, 0]
  deriving DecidableEq, Repr, Inhabited

/-- The view of a descriptor at an element offset. -/
def viewOf (d : Desc) (o : Nat) : View := let g := originOf d o; { d := d, g := g, e := windowOf d g }

/-- The elements of a window that are present, in the order of R105. -/
def View.xs (v : View) : List (List Nat) := ((windowIdx v.e).map (addIdx v.g)).filter (presentAt v.d)

/-- The number of window indices. -/
def View.count (v : View) : Nat := v.e.getD 0 0 * v.e.getD 1 0 * v.e.getD 2 0 * v.e.getD 3 0

/-- The same window with other extents. -/
def View.withExt (v : View) (e : List Nat) : View := { v with e := e }

/-- The bytes that hold element x. -/
def elemBytes (d : Desc) (x : List Nat) : List Nat :=
  (List.range (if fmtBits d.fmt ≤ 8 then 1 else fmtBits d.fmt / 8)).map (elemAddr d x + ·)

/-- The lowest bit of element x within its first byte (R37). -/
def elemBit (d : Desc) (x : List Nat) : Nat := if fmtBits d.fmt < 8 then x.getD 0 0 * fmtBits d.fmt % 8 else 0

/-- The addresses that reading elements needs: element bytes, scale bytes and sub-scales (R37 to R43). -/
def readAddrs (d : Desc) (xs : List (List Nat)) : List Nat :=
  xs.flatMap (elemBytes d) ++
    (if fmtIsBlock d.fmt then xs.map fun x => entryAddr d (blockNo d x) else []) ++
    (if fmtHasSub d.fmt then xs.map fun x => (subAddr d x).1 else [])

/-- Addresses in the order given, joined into runs (start, length) where they follow one another or repeat. -/
def runsOf (as : List Nat) : List (Nat × Nat) :=
  (as.foldl (fun (r : List (Nat × Nat)) a =>
    match r with
    | (b, n) :: t => if b ≤ a && a < b + n then r else if a = b + n then (b, n + 1) :: t else (a, 1) :: r
    | [] => [(a, 1)]) []).reverse

/-- Bytes read, by the address of each run. -/
abbrev Fetched := List (Nat × List (BitVec 8))

/-- The byte at an address among those read. -/
def Fetched.get (f : Fetched) (a : Nat) : Nat :=
  match f.find? fun r => r.1 ≤ a && a < r.1 + r.2.length with
  | some r => (r.2.getD (a - r.1) 0).toNat
  | none => 0

/-- Reads the bytes at some addresses, each run once. -/
def State.fetchAt (s : State) (g : Agent) (as : List Nat) : State × Except AccErr Fetched :=
  (runsOf as).foldl (fun (p : State × Except AccErr Fetched) run =>
    match p.2 with
    | .error _ => p
    | .ok f =>
      let (s, r) := p.1.vaRead g run.1 run.2
      match r with
      | .error e => (s, .error e)
      | .ok bs => (s, .ok (f ++ [(run.1, bs)]))) (s, .ok [])

/-- The code of element x among bytes read (R37). -/
def codeAt (d : Desc) (f : Fetched) (x : List Nat) : Nat :=
  let bs := elemBytes d x
  bytesNat (bs.map fun a => BitVec.ofNat 8 (f.get a)) / 2 ^ elemBit d x % 2 ^ fmtBits d.fmt

/-- The scale byte in force for element x: 127 for an interchange format. -/
def scaleAt (d : Desc) (f : Fetched) (x : List Nat) : BitVec 8 :=
  if fmtIsBlock d.fmt then BitVec.ofNat 8 (f.get (entryAddr d (blockNo d x))) else 127

/-- The sub-scale of element x. -/
def subAt (d : Desc) (f : Fetched) (x : List Nat) : Nat :=
  if fmtHasSub d.fmt then f.get (subAddr d x).1 / 2 ^ (subAddr d x).2 % 4 else 0

/-- The exact value of element x (R38, R39). -/
def valAt (d : Desc) (f : Fetched) (x : List Nat) : Val := scaledVal d.fmt (codeAt d f x) (scaleAt d f x) (subAt d f x)

/-- The values of a window's indices in order: +0 where the element is absent (R186). -/
def windowVals (v : View) (f : Fetched) : List (List Nat × Val) :=
  (windowIdx v.e).map fun i =>
    let x := addIdx v.g i
    (i, if presentAt v.d x then valAt v.d f x else .fin false 0 0)

/- Writes are lists of (address, mask, value): the bits of the mask take the value's. -/

/-- A masked byte. -/
abbrev MByte := Nat × Nat × Nat

/-- The masked bytes that put code c at element position x. -/
def codeBytes (d : Desc) (x : List Nat) (c : Nat) : List MByte :=
  let w := fmtBits d.fmt
  if w < 8 then
    let k := elemBit d x
    [(elemAddr d x, (2 ^ w - 1) * 2 ^ k, (c % 2 ^ w) * 2 ^ k)]
  else (List.range (w / 8)).map fun i => (elemAddr d x + i, 255, c / 256 ^ i % 256)

/-- Adjacent masked bytes of one address joined. -/
def joinMasked (l : List MByte) : List MByte :=
  (l.foldl (fun (r : List MByte) b =>
    match r with
    | (a, m, v) :: t => if a = b.1 then (a, m ||| b.2.1, (v &&& (255 ^^^ b.2.1)) ||| (b.2.2 &&& b.2.1)) :: t else b :: r
    | [] => [b]) []).reverse

/-- Runs of whole bytes that follow one another. -/
def byteRuns (l : List (Nat × BitVec 8)) : List (Nat × List (BitVec 8)) :=
  ((l.foldl (fun (r : List (Nat × List (BitVec 8))) b =>
    match r with
    | (a, bs) :: t => if b.1 = a + bs.length then (a, b.2 :: bs) :: t else (b.1, [b.2]) :: r
    | [] => [(b.1, [b.2])]) []).map fun r => (r.1, r.2.reverse)).reverse

/-- A byte with every partly masked write of its address applied in order. -/
def mergeAt (ps : List MByte) (a old : Nat) : Nat :=
  (ps.filter fun b => b.1 == a).foldl (fun v b => (v &&& (255 ^^^ b.2.1)) ||| (b.2.2 &&& b.2.1)) old

/-- Writes masked bytes: partly masked ones are read first, and all that share a byte are merged into it (R43). Stops at the first
failure. -/
def State.writeMasked (s : State) (g : Agent) (l : List MByte) : State × Option AccErr :=
  let l := joinMasked l
  let part := l.filter fun b => b.2.1 != 255
  let (s, f) := s.fetchAt g (part.map Prod.fst)
  match f with
  | .error e => (s, some e)
  | .ok f =>
    let whole := l.map fun b =>
      (b.1, BitVec.ofNat 8 (if b.2.1 = 255 then b.2.2 else mergeAt part b.1 (f.get b.1)))
    (byteRuns whole).foldl (fun (p : State × Option AccErr) run =>
      match p.2 with
      | some _ => p
      | none => p.1.vaWrite g run.1 run.2) (s, none)

/-- The positions of the block of element x, padding included, in storage order (R43). -/
def blockPositions (d : Desc) (x : List Nat) : List (List Nat) :=
  if !(fmtIsBlock d.fmt) then [x]
  else
    let b := fmtBlock d.fmt
    let x0 := x.getD 0 0 / b * b
    let x1 := if d.isTile then x.getD 1 0 / b * b else x.getD 1 0
    (List.range (if d.isTile then b else 1)).flatMap fun j => (List.range b).map fun i =>
      [x0 + i, x1 + j, x.getD 2 0, x.getD 3 0]

/-- The elements of a list grouped by block, blocks in the order they are met (R43). -/
def groupBlocks {α : Type} (d : Desc) (l : List (List Nat × α)) : List (Nat × List (List Nat × α)) :=
  l.foldl (fun (r : List (Nat × List (List Nat × α))) p =>
    let j := blockNo d p.1
    if r.any fun q => q.1 == j then r.map fun q => if q.1 = j then (j, q.2 ++ [p]) else q else r ++ [(j, [p])]) []

/-- The element-plane bytes of one block: the codes of the given elements, zero in its padding, and nothing for
elements of the tensor that are not given (R44). -/
def blockBytes (d : Desc) (els : List (List Nat × Nat)) : List MByte :=
  match els with
  | [] => []
  | (x, _) :: _ =>
    (blockPositions d x).flatMap fun y =>
      match els.find? fun p => p.1 == y with
      | some p => codeBytes d y p.2
      | none => if presentAt d y then [] else codeBytes d y 0

/- The lehr on a destination. -/

/-- What a conversion needs beside the values: the context's seed, the step, debug's RTZ allowed by take, SR forced. -/
structure ConvCtx where
  seed : BitVec 64 := 0
  step : BitVec 32 := 0
  forceSr : Bool := false
  deriving DecidableEq, Repr, Inhabited

/-- What a conversion gives: the bytes to write, the written values with their sign and scale, whether a block or the
instruction is flagged, how many flagged blocks count, and the scale bytes it read (R116, R341). -/
structure ConvOut where
  bytes : List MByte := []
  written : List (List Nat × Val) := []
  flagged : Bool := false
  count : Nat := 0
  scales : Fetched := []
  deriving DecidableEq, Repr, Inhabited

/-- The rounding mode in force (R94, R217). -/
def modeOf (d : Desc) (c : ConvCtx) : Mode := if d.role = 2 || c.forceSr then 1 else d.round

/-- One element rounded with its grain. -/
def roundAt (d : Desc) (c : ConvCtx) (x : List Nat) (r : Res) (s u : Nat) : ElemOut :=
  let m := modeOf d c
  lehrRound d.fmt d.ovfInf m r s u (if m = 1 then grain c.seed c.step d.tag (linearIdx d x) else 0)

/-- One block converted; `entry` is its scale entry as read at the take (R92, R107 to R112, R116). -/
def convertBlock (d : Desc) (c : ConvCtx) (entry : Nat × Nat) (j : Nat) (els : List (List Nat × Res)) : ConvOut :=
  let wasNan := d.ledger && entry.1 == 0xFF
  let s := if d.ledger then (if wasNan then 0x7F else entry.1) else immediateScale d.fmt (els.map Prod.snd)
  let subOf := fun (x : List Nat) =>
    if fmtHasSub d.fmt then
      groupSub d.fmt ((els.filter fun p => p.1.getD 0 0 / 16 == x.getD 0 0 / 16 && p.1.drop 1 == x.drop 1).map Prod.snd) s
    else 0
  let outs := els.map fun p => (p.1, p.2, subOf p.1, roundAt d c p.1 p.2 s (subOf p.1))
  let nanBlk := wasNan || outs.any fun o => o.2.2.2.nanBlk
  let ovf := outs.any fun o => o.2.2.2.ovf
  let high := outs.any fun o => highNow d.fmt o.2.1 s o.2.2.1
  let flagged := nanBlk || outs.any fun o => o.2.2.2.flag
  let st := entry.2 ||| 0x10 ||| (if high then 0x20 else 0) ||| (if ovf then 0x40 else 0)
  let a := entryAddr d j
  let scaleByte := if nanBlk then 0xFF else s
  let entryBytes : List MByte :=
    if d.ledger then (if nanBlk then [(a, 255, 0xFF)] else []) ++ [(a + 1, 255, st)]
    else [(a, 255, scaleByte), (a + 1, 255, 0)]
  let subs : List MByte :=
    if fmtHasSub d.fmt then
      (els.map Prod.fst).map fun x => ((subAddr d x).1, 3 * 2 ^ (subAddr d x).2, subOf x * 2 ^ (subAddr d x).2)
    else []
  { bytes := blockBytes d (outs.map fun o => (o.1, o.2.2.2.code)) ++ entryBytes ++ subs,
    written := outs.map fun o => (o.1, scaledVal d.fmt o.2.2.2.code (BitVec.ofNat 8 scaleByte) o.2.2.1),
    flagged := flagged,
    count := if d.ledger then b2n ((ovf && !(entry.2.testBit 6)) || (nanBlk && !wasNan)) else b2n flagged }

/-- Several outputs in order. -/
def ConvOut.join (a b : ConvOut) : ConvOut :=
  { bytes := a.bytes ++ b.bytes, written := a.written ++ b.written, flagged := a.flagged || b.flagged,
    count := a.count + b.count }

/-- A whole destination converted from the exact values of its written elements (R92, R116). -/
def convert (d : Desc) (c : ConvCtx) (entries : Fetched) (vals : List (List Nat × Res)) : ConvOut :=
  if fmtIsBlock d.fmt then
    (groupBlocks d vals).foldl (fun o b =>
      let a := entryAddr d b.1
      o.join (convertBlock d c (entries.get a, entries.get (a + 1)) b.1 b.2)) {}
  else
    let outs := vals.map fun p => (p.1, roundAt d c p.1 p.2 127 0)
    let ovf := outs.any fun o => o.2.ovf
    { bytes := outs.flatMap fun o => codeBytes d o.1 o.2.code,
      written := outs.map fun o => (o.1, elemVal d.fmt o.2.code), flagged := ovf, count := b2n ovf }

/-- The scale entries that a conversion reads: both bytes of each block in LEDGER mode (R110). -/
def entryAddrs (d : Desc) (xs : List (List Nat)) : List Nat :=
  if fmtIsBlock d.fmt && d.ledger then (groupBlocks d (xs.map fun x => (x, ()))).flatMap fun b => [entryAddr d b.1, entryAddr d b.1 + 1]
  else []

/-- The scale bytes of a destination's blocks in LEDGER mode, as an instruction reads them at its take (R110). -/
def State.takeScales (s : State) (g : Agent) (d : Desc) (xs : List (List Nat)) : State × Except AccErr Fetched :=
  let (s, r) := s.fetchAt g (entryAddrs d xs)
  match r with
  | .error e => (s, .error e)
  | .ok f => (s, .ok ((groupBlocks d (xs.map fun x => (x, ()))).filterMap fun b =>
      if fmtIsBlock d.fmt && d.ledger then some (entryAddr d b.1, [BitVec.ofNat 8 (f.get (entryAddr d b.1))]) else none))

/-- Converts and writes a destination: the values written, whether the instruction is flagged, and how many flagged
blocks count; or the first failed access. `took` holds the scale bytes that an instruction read at its take, where its conversion
comes later (R110, R115). -/
def State.convertTo (s : State) (g : Agent) (d : Desc) (c : ConvCtx) (vals : List (List Nat × Res)) (took : Fetched := []) :
    State × Except AccErr ConvOut :=
  let (s, r) := s.fetchAt g (entryAddrs d (vals.map Prod.fst))
  match r with
  | .error e => (s, .error e)
  | .ok f =>
    let o := convert d c (took ++ f) vals
    let (s, e) := s.writeMasked g o.bytes
    match e with
    | some e => (s, .error e)
    | none => (s, .ok { o with scales := took ++ f })

/-- The context's flagged-block count, n more, saturating (R116). -/
def State.addFlagged (s : State) (ctx n : Nat) : State :=
  s.ctxM ctx fun e => { e with flagged := BitVec.ofNat 32 (satAdd 0xFFFFFFFF e.flagged.toNat n) }

/- Bits moved without a change of value (R140, R141, R224). -/

/-- What a window holds as bits: each present element's code, scale entry and sub-scale. -/
structure Bits where
  x : List Nat := []
  code : Nat := 0
  entry : Nat × Nat := (127, 0)
  sub : Nat := 0
  deriving DecidableEq, Repr, Inhabited

/-- The addresses that copying elements reads: both bytes of each scale entry. -/
def copyAddrs (d : Desc) (xs : List (List Nat)) : List Nat :=
  xs.flatMap (elemBytes d) ++
    (if fmtIsBlock d.fmt then xs.flatMap fun x => [entryAddr d (blockNo d x), entryAddr d (blockNo d x) + 1] else []) ++
    (if fmtHasSub d.fmt then xs.map fun x => (subAddr d x).1 else [])

/-- Element x as bits. -/
def bitsAt (d : Desc) (f : Fetched) (x : List Nat) : Bits :=
  { x := x, code := codeAt d f x,
    entry := if fmtIsBlock d.fmt then (f.get (entryAddr d (blockNo d x)), f.get (entryAddr d (blockNo d x) + 1)) else (127, 0),
    sub := subAt d f x }

/-- The bytes that put bits at destination elements: elements with zero padding, scale entries, sub-scales (R44). -/
def putBits (d : Desc) (l : List (List Nat × Bits)) : List MByte :=
  if fmtIsBlock d.fmt then
    ((groupBlocks d l).flatMap fun b => blockBytes d (b.2.map fun p => (p.1, p.2.code))) ++
    ((groupBlocks d l).flatMap fun b =>
      match b.2.head? with
      | some p => [(entryAddr d b.1, 255, p.2.entry.1), (entryAddr d b.1 + 1, 255, p.2.entry.2)]
      | none => []) ++
    (if fmtHasSub d.fmt then l.map fun p => ((subAddr d p.1).1, 3 * 2 ^ (subAddr d p.1).2, p.2.sub * 2 ^ (subAddr d p.1).2)
     else [])
  else l.flatMap fun p => codeBytes d p.1 p.2.code

/-- The bytes of a written stream in the order of R146, from masked bytes: as putBits lists them. -/
def streamOf (l : List MByte) : List (BitVec 8) := (joinMasked l).map fun b => BitVec.ofNat 8 b.2.2

/- Whole planes for translation (row 7 of Table 8-4). -/

/-- The byte ranges of a window: (start, length) of each row of elements, its scale entries and its sub-scales. -/
def elemRanges (v : View) : List (Nat × Nat) :=
  let xs := v.xs
  runsOf (xs.flatMap (elemBytes v.d))
def entryRanges (v : View) : List (Nat × Nat) :=
  if fmtIsBlock v.d.fmt then runsOf (v.xs.flatMap fun x => [entryAddr v.d (blockNo v.d x), entryAddr v.d (blockNo v.d x) + 1]) else []
def subRanges (v : View) : List (Nat × Nat) :=
  if fmtHasSub v.d.fmt then runsOf (v.xs.map fun x => (subAddr v.d x).1) else []

end Sys2Proof.Machine
end

