-- ==== Sys2Proof/Machine/Faults.lean ====
section
/-! DEFINITION. How work fails and stops: the queues, failure records, the fault of a context, cancelled work, the
drain of the module (R126, R173, R187, R188, R293, R338, R349 to R353, R431). -/

namespace Sys2Proof.Machine

/-- What a command answers: always a next state. -/
abbrev Out := Host.Outcome State Fault Refusal

/-- The queue of an engine: 0 MXE, 1 VXE, 2 DXE. -/
def CoreCtx.queue (c : CoreCtx) (q : Nat) : List QEntry :=
  match q with | 0 => c.mxeQ | 1 => c.vxeQ | _ => c.dxeQ
def CoreCtx.setQueue (c : CoreCtx) (q : Nat) (l : List QEntry) : CoreCtx :=
  match q with | 0 => { c with mxeQ := l } | 1 => { c with vxeQ := l } | _ => { c with dxeQ := l }
/-- How many entries a queue has (Table 6-1). -/
def queueCap (q : Nat) : Nat := if q = 2 then 128 else 64
/-- The lowest entry number that a queue does not hold. -/
def freeSlot (l : List QEntry) : Nat :=
  ((List.range 129).find? fun n => !(l.any fun e => e.slot == n)).getD 0

/-- One entry of a queue, by its number, changed. -/
def State.entryM (s : State) (ctx core q slot : Nat) (f : QEntry → QEntry) : State :=
  s.coreM ctx core fun c => c.setQueue q (updFirst (fun e => e.slot == slot) f (c.queue q))

/-- One entry of a queue, by its number. -/
def State.entryE (s : State) (ctx core q slot : Nat) : Option QEntry :=
  ((s.coreE ctx core).queue q).find? fun e => e.slot == slot

/-- Statuses that make the context fault (Table 8-5). -/
def statusFaults (st : Nat) : Bool :=
  st == 0x10 || st == 0x13 || st == 0x14 || st == 0x15 || st == 0x16 || st == 0x18 || st == 0x19

/- Drain and replacement. -/

/-- Whether every sequencer and engine is stopped: after a critical trip, on the latch path, in idle hold (R326, R328,
R426). -/
def State.frozen (s : State) : Bool := s.pwr.tripped || s.panel.latchPath || s.pwr.unattain

/-- States in which the module takes jobs: EARLY and SERVICE (R18, R413), with no critical trip or latch path under way. -/
def State.serving (s : State) : Bool :=
  (s.health.state == 2 || s.health.state == 3) && !s.pwr.tripped && !s.panel.latchPath

/-- States in which a drain starts: BRINGUP, EARLY and SERVICE (R349, R351, Table 20-4). -/
def State.drainable (s : State) : Bool :=
  (s.health.state == 1 || s.health.state == 2 || s.health.state == 3) && !s.pwr.tripped && !s.panel.latchPath

/-- The module's own STATE changes, and with it that of its present dies (R18, R349). -/
def State.setStateAll (s : State) (st : BitVec 4) : State :=
  State.noted { s with health := { s.health with state := st, dieState := s.health.dieState.map fun _ => if st = 6 then 5 else st } } s

/-- The sequencers of a context stop; the share of each ends with that outcome (R173, R293). -/
def State.stopSeqs (s : State) (ctx : Nat) (o : Outcm) : State :=
  (List.range 16).foldl (fun s cl =>
    match tabFind s.seqs (16 * ctx + cl) with
    | none => s
    | some q =>
      match q.run with
      | .idle => s
      | .faulted => s
      | _ => s.seqM ctx cl fun q => { q with run := .faulted, ended := q.ended.or (some (o.status, 0, o)) }) s

/-- Removes a context's untaken instructions from a core, and what its sequencer's issue stage held for it; answers how
many. The instructions that are taken and still active get that outcome. -/
def State.flushCore (s : State) (ctx core : Nat) (o : Outcm) : State × Nat :=
  let c := s.coreE ctx core
  let n := ([0, 1, 2].map fun q => ((c.queue q).filter fun e => !e.taken && e.result.isNone).length).sum
  let c := [0, 1, 2].foldl (fun c q => c.setQueue q (((c.queue q).filter fun e => e.taken || e.result.isSome).map fun e =>
    if e.result.isNone then { e with result := some o } else e)) c
  (s.coreM ctx core fun _ => c, n)

/-- The cores on which a context has state. -/
def State.coresOf (s : State) (ctx : Nat) : List Nat :=
  (s.cores.filter fun p => p.1 / 64 == ctx).map fun p => p.1 % 64

/-- The instructions held at a context's issue stages leave them (R160, R199). -/
def State.dropIssue (s : State) (ctx : Nat) : State × Nat :=
  (List.range 16).foldl (fun p cl =>
    match tabFind p.1.seqs (16 * ctx + cl) with
    | none => p
    | some q =>
      (p.1.seqM ctx cl fun q => { q with sync := none, syncWait := false, stalled := [], replayPos := none },
       p.2 + q.stalled.length + b2n q.sync.isSome)) (s, 0)

/-- The collectives of a context are forgotten, and what other modules have sent for them (R188, R221, R310). -/
def State.dropColls (s : State) (ctx : Nat) : State :=
  let of := fun (p : Nat × FlitLoad) => match p.2 with
    | .chunk c _ _ _ _ | .tlw c _ _ _ | .part c _ _ _ _ _ => c.toNat == ctx
    | _ => false
  { s with colls := s.colls.filter fun c => c.ctx != ctx, joins := s.joins.filter fun j => j.ctx != ctx,
           collHeld := s.collHeld.filter fun p => !(of p) }

/-- The work of a context stops with a status that does not fault: its sequencers stop, its untaken instructions and
those still active end with that status; the number of instructions that ended so (R293). -/
def State.cancelCtx (s : State) (ctx : Nat) (o : Outcm) : State × Nat :=
  let s := s.stopSeqs ctx o
  let (s, n0) := s.dropIssue ctx
  let (s, n) := (s.coresOf ctx).foldl (fun (p : State × Nat) core =>
    let act := ([0, 1, 2].map fun q => (((p.1.coreE ctx core).queue q).filter fun e => e.taken && e.result.isNone).length).sum
    let (s, k) := p.1.flushCore ctx core o
    (s, p.2 + k + act)) (s, n0)
  (s.dropColls ctx, n)

/-- A flit in class C to every other admitted module. -/
def State.tellSpan (s : State) (f : FlitLoad) : State :=
  (maskList 16 s.span.admitted.toNat).foldl (fun (s : State) m => if m = s.modIdx then s else s.emit (.flit m .c f)) s

/-- The failure or cancellation that stops a running span job is told once: by the module that acts for the master to every admitted
member, by a member to it (R173, R309). -/
def State.tellStop (s : State) (ctx : Nat) (o : Outcm) (origin : Nat) : State :=
  match s.jobs.find? fun j => j.ctx == ctx && j.phase == .running && (uidFields j.unit).level == 4 && !j.told with
  | none => s
  | some j =>
    let f : FlitLoad := .stop (j.master.getD j.id) o.status o.cause o.esn (BitVec.ofNat 4 origin)
    let s := { s with jobs := s.jobs.map fun (k : Job) => if k.id = j.id then { k with told := true } else k }
    if s.leads then (maskList 16 s.span.admitted.toNat).foldl (fun (s : State) m =>
      if m = s.modIdx || m = origin then s else s.emit (.flit m .c f)) s
    else s.emit (.flit s.leader .c f)

/-- Every selected job that has not ended ends with a status: an unstarted or held one without starting, a running one
by stopping its work, on every module of a span job, unless its context's own fault came first (R293, R309, R352, R353). -/
def State.cancelJobs (s : State) (sel : Job → Bool) (o : Outcm) : State :=
  s.jobs.foldl (fun s j =>
    if !(sel j) then s
    else match j.phase with
      | .ended => s
      | .running =>
        if (s.runE j.ctx).fault.isSome || j.res.isSome then s
        else
          let (s, n) := s.cancelCtx j.ctx o
          let s := s.tellStop j.ctx o s.modIdx
          let s := { s with jobs := s.jobs.map fun k => if k.id = j.id then { k with res := some o } else k }
          if o.status = 0x11 then { s with sch := { s.sch with drainJobs := s.sch.drainJobs + 1, drainInstrs := s.sch.drainInstrs + n } }
          else s
      | _ =>
        let s := { s with jobs := s.jobs.map fun k => if k.id = j.id then { k with res := some o, phase := .ended } else k }
        if o.status = 0x11 then { s with sch := { s.sch with drainJobs := s.sch.drainJobs + 1 } } else s) s

/-- REPLACE is set: the live flag, code 0x92, and the write into the NVM log partition, whose success the spec leaves to
the device (R350; notes/assumptions/11.md). -/
def State.setReplace (s : State) (ctx : Nat) : State :=
  if s.health.replace then s
  else
    let (s, w) := s.freeWord64
    let ok := bit w 0
    let s := State.noted { s with health := { s.health with replace := true, replaceNvm := ok },
                                  nvm := { s.nvm with replace := s.nvm.replace || ok, esn := if ok then s.led.esn - 1 else s.nvm.esn } } s
    s.raiseRec { unit := s.modUid, cls := 4, code := 0x92, ctx := BitVec.ofNat 12 ctx }

/-- The payload of a withdrawal notice: the module and the cause (Table 14-4). -/
def noticeWord (m cause : Nat) : BitVec 64 := reg [(m, 4, 4), (cause, 0, 4)]

/-- This module withdraws from its span: a notice with that cause to every admitted module (R310, Table 14-4). -/
def State.noticeAll (s : State) (cause : Nat) : State :=
  if !s.inSpan || s.span.selfOut then s
  else
    let s := (maskList 16 s.span.admitted.toNat).foldl (fun (s : State) m =>
      if m = s.modIdx then s else s.emit (.spanC m 1 (noticeWord s.modIdx cause))) s
    { s with span := { s.span with selfOut := true } }

/-- The drain starts: code 0x90, DRAINING, fetching stops and every fetched job ends (R349 steps 1 to 4). `cause` is 0
SDC, 1 button, 2 management; `esn` the triggering record. -/
def State.startDrain (s : State) (cause : Nat) (esn ctx : Nat) : State :=
  if s.drainable then
    let s := s.raiseRec { unit := s.modUid, cls := 4, code := 0x90, ctx := BitVec.ofNat 12 ctx, d0 := BitVec.ofNat 64 cause,
                          d1 := BitVec.ofNat 64 esn }
    let e := s.lastEsn
    let s := s.setStateAll 4
    let s := { s with health := { s.health with cause := BitVec.ofNat 4 cause, trigger := esn, drainEsn := e },
                      sch := { s.sch with drainJobs := 0, drainInstrs := 0 } }
    s.cancelJobs (fun _ => true) { status := 0x11, esn := e }
  else s

/-- What an SDC-class record does to the module: REPLACE and a drain; in DRAINED the state becomes REPLACE (R349 to
R351). -/
def State.sdcEffect (s : State) (esn ctx : Nat) : State :=
  let s := s.startDrain 0 esn ctx
  let s := s.setReplace ctx
  if s.health.state = 5 then s.setStateAll 6 else s

/-- A record as it reaches the hub; an SDC-class one has its effects on its context and on the module (R28, R338, R349). -/
def State.takeRec (s : State) (r : Rec) : State :=
  let s := s.raiseRec r
  if r.cls ≠ 2 then s
  else
    let e := s.lastEsn
    let s := if r.ctx ≠ 0 then s.setFault r.ctx.toNat { status := 0x18, esn := e } else s
    s.sdcEffect e r.ctx.toNat

/-- An SDC-class record with its effects on the module and its ESN; its context faults (R338, R344, R347). -/
def State.sdcRec (s : State) (unit : BitVec 32) (code : Nat) (ctx opcode : Nat)
    (d : BitVec 64 × BitVec 64 × BitVec 64 × BitVec 64) : State × Nat :=
  let s := s.raiseRec { unit := unit, cls := 2, code := BitVec.ofNat 8 code, ctx := BitVec.ofNat 12 ctx, d0 := d.1,
                        d1 := d.2.1, d2 := d.2.2.1, d3 := d.2.2.2, opcode := BitVec.ofNat 8 opcode, status := 0x18 }
  let e := s.lastEsn
  let s := if ctx ≠ 0 then s.setFault ctx { status := 0x18, esn := e } else s
  (s.sdcEffect e ctx, e)

/-- The detail words of a residue mismatch (Table 16-11). -/
def sdcWords (r : LA) (source : Nat) (loc : Nat) (d1 d2 : Nat) : BitVec 64 × BitVec 64 × BitVec 64 × BitVec 64 :=
  (reg [(r.resAcc, 56, 8), (limbResidue r, 48, 8), (source, 44, 4), (loc, 0, 16)], BitVec.ofNat 64 d1, BitVec.ofNat 64 d2, 0)

/- How an instruction ends. -/

/-- An instruction's execution ends: its outcome waits for its completion to be recorded (R126). -/
def State.endEntry (s : State) (ctx core q slot : Nat) (o : Outcm) : State :=
  s.entryM ctx core q slot fun e => { e with taken := true, result := some o }

/-- An instruction fails with a UNC-class record, and where its status faults, its context faults (R187, R431); one of a
superseded placement ends with STALE_EPOCH instead (R215). -/
def State.failEntry (s : State) (ctx core q : Nat) (e : QEntry) (status cause : Nat)
    (d : BitVec 64 × BitVec 64 × BitVec 64 × BitVec 64) : State :=
  if e.epoch ≠ (s.ctxE ctx).epoch then s.endEntry ctx core q e.slot { status := 0x17 }
  else
    let s := s.failRec (s.coreUid core) ctx e.word.opcode status cause d
    let o : Outcm := { status := BitVec.ofNat 8 status, cause := BitVec.ofNat 8 cause, esn := s.lastEsn }
    let s := s.endEntry ctx core q e.slot o
    if statusFaults status then s.setFault ctx o else s

/-- An instruction ends with SDC_SUSPECT after a residue mismatch (R65, R338). -/
def State.sdcEntry (s : State) (ctx core q : Nat) (e : QEntry) (d : BitVec 64 × BitVec 64 × BitVec 64 × BitVec 64) : State :=
  let (s, n) := s.sdcRec (s.coreUid core) 0x80 ctx e.word.opcode d
  s.endEntry ctx core q e.slot { status := 0x18, esn := n }

/-- An instruction fails at an access: FAILED_FAULT with the words of Table 8-13, or PARTNER_WITHDRAWN for a partner
that has gone (R145). -/
def State.failAccess (s : State) (ctx core q : Nat) (e : QEntry) (err : AccErr) (write : Bool) (queue : Nat) : State :=
  let (d0, d1, d3) := accDetail err write
  match err with
  | .gone _ => s.failEntry ctx core q e 0x16 0 (d0, d1, issueWord e queue, d3)
  | _ => s.failEntry ctx core q e 0x10 (accCause err) (d0, d1, issueWord e queue, d3)

/-- An instruction ends with DONE, or DONE_FLAGGED where a block of its destination is flagged (R116). -/
def State.doneEntry (s : State) (ctx core q slot : Nat) (flagged : Bool) : State :=
  s.endEntry ctx core q slot { status := if flagged then 1 else 0 }

/-- A unit that makes progress counts it (R369). -/
def State.progress (s : State) (core e : Nat) : State :=
  s.physM core fun p => { p with prog := tabSet p.prog e (tabGet p.prog e 0 + 1) }

end Sys2Proof.Machine
end

