-- ==== Sys2Proof/Machine/Digests.lean ====
section
/-! DEFINITION. The hub's digest table: replica digests of optimizer updates (R345 to R347, Table 16-14). -/

namespace Sys2Proof.Machine

/-- Whether an entry has a key (R345). -/
def Digest.isKey (d : Digest) (ctx : Nat) (step tag : BitVec 32) (origin count : Nat) : Bool :=
  d.ctx == ctx && d.step == step && d.tag == tag && d.origin == origin && d.count == count

/-- A message reaches the hub: entries of the context that lie two steps back are freed, the first message of a key is
stored, a later one is compared, and at the first disagreement the context faults on every module (R346, R347). -/
def State.digestArrive (s : State) (m ctx : Nat) (step tag : BitVec 32) (origin count : Nat) (dg : BitVec 64) : State :=
  let t := s.dig
  let old := t.entries.filter fun d => !(d.ctx == ctx && d.step.toNat + 2 ≤ step.toNat)
  match old.find? fun d => d.isKey ctx step tag origin count with
  | none =>
    let full := 32768 ≤ old.length
    { s with dig := { t with
      entries := (if full then old.drop 1 else old) ++
        [{ ctx := ctx, step := step, tag := tag, origin := origin, count := count, first := dg, seen := [(m, dg)] }],
      evicted := if full then satAdd 0xFFFF t.evicted 1 else t.evicted } }
  | some d =>
    let bad := d.first != dg
    let s := { s with dig := { t with
      entries := updFirst (fun d => d.isKey ctx step tag origin count)
        (fun d => { d with seen := d.seen ++ [(m, dg)], differ := d.differ || bad }) old,
      compared := satAdd 0xFFFFFFFF t.compared 1 } }
    if bad && !d.differ then
      let s := s.setFault ctx { status := 0x18 }
      (maskList 16 s.spanMask).foldl (fun s k => if k = s.modIdx then s else s.emit (.spanC k 2 (BitVec.ofNat 64 ctx))) s
    else s

/-- How often a digest was sent for a key. -/
def tally (l : List (Nat × BitVec 64)) (d : BitVec 64) : Nat := (l.filter fun p => p.2 == d).length

/-- The most common digest, where one is (R347). -/
def mostCommon (l : List (Nat × BitVec 64)) : Option (BitVec 64) :=
  match ((l.map fun p => tally l p.2).max?) with
  | none => none
  | some n => match (l.filter fun (p : Nat × BitVec 64) => tally l p.2 == n).map Prod.snd |>.eraseDups with
    | [d] => some d
    | _ => none

/-- 1 ms after a disagreement: the modules named, and this module's record where it is one of them (R347, Table 16-14). -/
def State.digestEnd (s : State) (ctx : Nat) (step tag : BitVec 32) (origin count : Nat) : State :=
  match s.dig.entries.find? fun d => d.isKey ctx step tag origin count with
  | none => s
  | some d =>
    if !d.differ then s
    else
      let common := mostCommon d.seen
      let bad := (match common with
        | some c => (d.seen.filter fun (p : Nat × BitVec 64) => p.2 != c).map Prod.fst
        | none => d.seen.map Prod.fst).eraseDups
      let s := { s with dig := { s.dig with
        entries := updFirst (fun d => d.isKey ctx step tag origin count) (fun d => { d with differ := false }) s.dig.entries } }
      let words := fun (own : BitVec 64) =>
        (reg [(tag.toNat, 32, 32), (step.toNat, 0, 32)], reg [(listMask bad, 48, 16), (origin, 0, 48)], own, common.getD d.first)
      bad.foldl (fun s m =>
        let own := ((d.seen.filter fun (p : Nat × BitVec 64) => p.1 == m).getLast?.map Prod.snd).getD 0
        if m = s.modIdx then (s.sdcRec s.modUid 0x82 ctx 0 (words own)).1
        else s.emit (.spanC m 3 own)) s

end Sys2Proof.Machine
end

