-- ==== Sys2Proof/Machine/Take.lean ====
section
/-! DEFINITION. Queue-take: the checks of Table 8-4 with their failing fields, counter patches, waits and the take itself
(R150, R151, R176 to R187, R202). -/

namespace Sys2Proof.Machine

/-- A failed check: status and CAUSE, the failing field of Table 8-13, and the failed access of row 7. -/
structure Bad where
  status : Nat := 0x10
  cause : Nat := 0
  desc : Nat := 0xFF
  word : Nat := 0
  lsb : Nat := 0
  width : Nat := 0
  fvalid : Bool := false
  value : BitVec 64 := 0
  acc : Option (AccErr × Bool) := none
  deriving DecidableEq, Repr, Inhabited

/-- The status that a row of Table 8-4 yields. -/
def rowStatus (row : Nat) : Nat := match row with | 4 => 0x13 | 6 => 0x19 | _ => 0x10

/-- A row that fails on a field of the instruction. -/
def badIn (t : TWord) (row word lsb width : Nat) : Bad :=
  { status := rowStatus row, cause := row, word := word, lsb := lsb, width := width, fvalid := true,
    value := (t.word word).setWidth 64 }

/-- A row that fails on a field of descriptor i. -/
def badTd (d : Desc) (i row word lsb width : Nat) : Bad :=
  { status := rowStatus row, cause := row, desc := i, word := word, lsb := lsb, width := width, fvalid := true,
    value := d.dw word }

/-- A row that fails on one flag of the instruction (Table 8-13). -/
def badPatch (t : TWord) : Bad := badIn t 9 0 14 1

/-- A row that fails on no single field. -/
def badRow (row : Nat) : Bad := { status := rowStatus row, cause := row }

/-- The detail words of a queue-take failure (Table 8-13). DESIGN CHOICE (notes/assumptions/35.md): where no field is named (FVALID
clear), Table 8-13 says of DESC nothing; the model puts 0xFF there, as for a field of the instruction. -/
def badWords (b : Bad) (issue : BitVec 64) : BitVec 64 × BitVec 64 × BitVec 64 × BitVec 64 :=
  match b.acc with
  | some (e, w) => let (d0, d1, d3) := accDetail e w; (d0, d1, issue, d3)
  | none =>
    if b.fvalid then
      (reg [(b.desc, 48, 8), (b.word, 40, 8), (b.lsb, 32, 8), (b.width, 24, 8), (1, 0, 1)], b.value, issue, 0)
    else (reg [(if b.desc = 0xFF then 0xFF else b.desc, 48, 8)], 0, issue, 0)

/-- The status of several failures: ABSENT_UNIT, then FORMAT_POLICY, then the first FAILED_FAULT in row order (R53,
R187). The list is in row order. -/
def pickBad (l : List Bad) : Option Bad :=
  ((l.find? fun b => b.status == 0x13).or (l.find? fun b => b.status == 0x19)).or l.head?

/-- One operand of an instruction: its key (0 to 2 the operand words, 3 OPX), descriptor index, element offset and the
word that holds the offset. -/
structure Opnd where
  key : Nat := 0
  td : Nat := 0
  off : Nat := 0
  ow : Nat := 4
  deriving DecidableEq, Repr, Inhabited

/-- The operands that name descriptors (Table 8-6); OPX takes OFFSET0 (R186). -/
def operandsOf (t : TWord) (o : Op) : List Opnd :=
  (((List.range 3).filter (opHas o)).map fun k => { key := k, td := t.td k, off := t.off k, ow := 4 + k }) ++
    (if opHasX o && !(namedTds.opcodeIsVopt o) then [{ key := 3, td := t.opx, off := t.off 0, ow := 4 }] else [])

/-- The copy of descriptor i that came with an instruction (R182). -/
def QEntry.desc (e : QEntry) (i : Nat) : Desc := tabGet e.descs i {}

/-- The view of operand k of an instruction. -/
def QEntry.view (e : QEntry) (k : Nat) : View :=
  if k = 3 then viewOf (e.desc e.word.opx) (e.word.off 0) else viewOf (e.desc (e.word.td k)) (e.word.off k)

/- Rows 2 to 5. -/

/-- The reserved fields of an instruction: (word, lowest bit, width) (R178, Tables 8-1, 8-6, 8-7). -/
def reservedFields (t : TWord) (o : Op) : List (Nat × Nat × Nat) :=
  (if opUsesTag o then [] else [(0, 16, 8)]) ++ [(0, 24, 8)] ++ (if t.engine = 2 then [] else [(0, 15, 1)]) ++
  (if t.waitv then [(1, 7, 1)] else [(1, 0, 28)]) ++
  (if opModBits o < 4 then [(1, 28 + opModBits o, 4 - opModBits o)] else []) ++
  (if t.sigv then (if 3 ≤ t.sscope then [(2, 6, 4)] else []) else [(2, 0, 10), (2, 16, 16)]) ++
  (if opHasX o then [] else [(2, 10, 6)]) ++
  (if !t.sigv || t.sscope = 1 then [(3, 0, 32)] else []) ++
  (if opHas o 0 then [] else [(4, 0, 32)]) ++
  (if opIsMxe o then
    (match o with
      | .ldw => [(5, 16, 1), (5, 17, 1), (5, 18, 1), (5, 19, 1)]
      | .ldwt => [(5, 16, 1), (5, 17, 1), (5, 18, 1), (5, 19, 1), (5, 20, 1)]
      | .drn => [(5, 17, 1), (5, 18, 1), (5, 19, 1), (5, 20, 1), (5, 21, 2)]
      | _ => [(5, 20, 1), (5, 21, 2)]) ++ [(5, 23, 9)]
   else if opHas o 1 then [] else [(5, 0, 32)]) ++
  (if opHas o 2 then [] else match o with | .vred _ _ _ => [(6, 0, 6)] | _ => [(6, 0, 32)]) ++
  (if !t.patch && opImmBits o < 32 then [(7, opImmBits o, 32 - opImmBits o)] else [])

/-- Row 2 (R178): the instruction's reserved fields in word order, then those of each named descriptor. -/
def row2 (t : TWord) (o : Op) (ds : List (Nat × Desc)) : List Bad :=
  ((reservedFields t o).filter fun f => fld (t.word f.1).toNat (f.2.1 + f.2.2 - 1) f.2.1 != 0).map
    (fun f => badIn t 2 f.1 f.2.1 f.2.2) ++
  (ds.flatMap fun p =>
    ([(0, 62, 1), (1, 57, 7), (2, 48, 16)].filter fun f => fld (p.2.dw f.1).toNat (f.2.1 + f.2.2 - 1) f.2.1 != 0).map
      fun f => badTd p.2 p.1 2 f.1 f.2.1 f.2.2)

/-- Row 3: PMASK selects only fields that the opcode uses. VRED's accumulator word is field 2 (R194). -/
def row3 (t : TWord) (o : Op) : List Bad :=
  let uses := fun k => if k = 3 then t.waitv else opHas o k || (k == 2 && match o with | .vred _ _ _ => true | _ => false)
  if t.patch && (List.range 4).any fun k => t.pmask.testBit k && !(uses k) then [badIn t 3 7 24 4] else []

/-- Whether a unit ID is valid and at one of some levels. -/
def State.unitAt (s : State) (u : BitVec 32) (lo hi : Nat) : Bool :=
  s.unitValid u && lo ≤ (uidFields u).level && (uidFields u).level ≤ hi

/-- Row 4: STARGET and unit-ID immediates (R13, R177, Table 8-2). -/
def State.row4 (s : State) (t : TWord) (o : Op) : List Bad :=
  let tgt := if t.sscope = 0 then s.unitAt t.w3 0 1 else if t.sscope = 2 then s.unitAt t.w3 1 3 else true
  (if t.sigv && !tgt then [badIn t 4 3 0 32] else []) ++
    (if opImmUnit o && !t.patch && !(s.unitAt t.w7 1 4) then [badIn t 4 7 0 32] else [])

/-- Row 5: R185 on one descriptor; the first failing field. -/
def descBad (d : Desc) (i : Nat) : List Bad :=
  let f := fun w lsb width => badTd d i 5 w lsb width
  let dims := (List.range 4).flatMap fun k =>
    let p := dimField k
    if (if k < d.rank then d.dimRaw k == 0 else d.dimRaw k != 0) then [f p.1 p.2 32] else []
  let above := (List.range 4).flatMap fun k =>
    if d.rank ≤ k && 0 < k && d.stride k != 0 then [let p := strideField k; f p.1 p.2 32] else []
  let wins := (List.range 4).flatMap fun k => if d.rank ≤ k && d.win k != 0 then [f 7 (16 * k) 16] else []
  let need := fun k => if k = 1 then d.rowBytes else d.stride (k - 1) * d.padded (k - 1)
  let strides := [1, 2, 3].flatMap fun k =>
    if k < d.rank && (d.stride k < need k || d.stride k % 16 != 0) then [let p := strideField k; f p.1 p.2 32] else []
  let inter := d.fmt == 9 || d.fmt == 10
  (if d.valid then [] else [f 0 63 1]) ++ dims ++ above ++ wins ++ strides ++
    (if d.base % 16 != 0 then [f 0 0 48] else []) ++
    (if d.ledgerBase % 2 != 0 then [f 1 0 48] else []) ++
    (if d.subBase % 2 != 0 || (fmtHasSub d.fmt != (d.subBase != 0)) then [f 2 0 48] else []) ++
    (if inter && d.isTile then [f 0 56 1] else []) ++ (if inter && d.ledger then [f 0 59 1] else []) ++
    (if inter && d.ledgerBase != 0 then [f 1 0 48] else []) ++ (if inter && d.hkeep != 0 then [f 1 48 9] else [])

/- Row 6. -/

/-- Whether the operation admits an interchange format (R33). -/
def opInterchange (o : Op) : Bool := match o with | .vcvt | .dmov | .dgth | .dcow => true | _ => false

/-- Whether operand k is a value operand of a computing instruction (R51). -/
def opValue (o : Op) (k : Nat) : Bool :=
  match o with
  | .ldw | .ldwt | .mmul | .mmula | .drn | .vew _ _ | .vred _ _ _ | .vcvt | .vnrmAdd | .vopt _ | .vsgn => true
  | .vhrv => k ≤ 2
  | .dsct => k ≤ 1
  | .cred | .crsc => true
  | _ => false

/-- Whether the lehr converts into operand k (R92, R96). -/
def opConverts (o : Op) (k : Nat) : Bool :=
  match o with
  | .drn | .vew _ _ | .vred _ _ _ | .vcvt | .dsct | .cred | .crsc => k == 0
  | .vopt _ | .vhrv => k == 0 || k == 2
  | .vsgn => k == 0 || k == 2 || k == 3
  | _ => false

/-- Opcodes that always convert with SR (R217). -/
def opForcedSr (o : Op) : Bool := match o with | .vopt _ | .vhrv | .vsgn => true | _ => false

/-- The first dimension in which a region splits a block (R114). -/
def splitBlock (d : Desc) (g e : List Nat) : Option Nat :=
  let b := fmtBlock d.fmt
  (if d.isTile then [0, 1] else [0]).find? fun i =>
    let lo := g.getD i 0
    let hi := lo + e.getD i 0
    fmtIsBlock d.fmt && (lo % b != 0 || (hi % b != 0 && hi < d.dim i))

/-- Row 6 on one operand whatever the opcode does with it: R32, R33, R50, R51, R186. -/
def operandPolicy (t : TWord) (o : Op) (p : Opnd) (d : Desc) : List Bad :=
  let fmt := badTd d p.td 6 0 48 4
  let g := originOf d p.off
  let aligned := !(fmtIsBlock d.fmt) ||
    (g.getD 0 0 % fmtBlock d.fmt == 0 && (!d.isTile || g.getD 1 0 % fmtBlock d.fmt == 0))
  if !(fmtKnown d.fmt) then [fmt]
  else
    (if !(fmtIsBlock d.fmt) && !(opInterchange o) then [fmt] else []) ++
    (if roleAdmits d.role d.fmt then [] else [fmt]) ++
    (if opValue o p.key && d.fll && fllForbids d.fmt then [fmt] else []) ++
    (if aligned then [] else [badIn t 6 p.ow 6 26])

/-- Row 6 on the ROUND field of any destination (R93, R95, R217). -/
def roundPolicy (o : Op) (debug : Bool) (i : Nat) (d : Desc) : List Bad :=
  (if d.round = 3 then [badTd d i 6 0 57 2] else []) ++
  (if d.round = 2 && !debug && !(opForcedSr o) then [badTd d i 6 0 57 2] else [])

/-- Row 6 on a destination of the lehr: R42, R93, R95, R114; `e` is the region's extents. -/
def destPolicy (o : Op) (debug : Bool) (i : Nat) (d : Desc) (g e : List Nat) : List Bad :=
  (if d.isTile && !d.ledger && fmtIsBlock d.fmt then [badTd d i 6 0 59 1] else []) ++
  roundPolicy o debug i d ++
  (match splitBlock d g e with | some k => [badTd d i 6 7 (16 * k) 16] | none => [])

/-- Windows of unequal shape: the first differing extent, named in the operand's descriptor. -/
def shapeBad (v w : View) (i : Nat) : List Bad :=
  match (List.range 4).find? fun k => v.e.getD k 0 != w.e.getD k 0 with
  | some k => [badTd w.d i 6 7 (16 * k) 16]
  | none => []

/- Row 8: counters. -/

/-- The queue and so the engine that takes an instruction: CXE instructions enter the DXE queue (R159). -/
def engineQueue (engine : Nat) : Nat := if engine = 3 then 2 else engine

/-- Fields that PATCH takes from a core counter (R150). -/
def cntFields (t : TWord) : List Nat :=
  if t.patch then (List.range 4).filter fun k => t.pmask.testBit k && t.psrc.testBit k else []

/-- A counter's owning engine (Table 6-15). -/
def cmpEngine (c : CoreCtx) (n : Nat) : Nat := bits (tabGet c.cmp n 0x300) 9 8

/-- The instruction with its counter fields added in, where the counter belongs to the engine (R150, R151). -/
def cntPatch (c : CoreCtx) (t : TWord) (eng : Nat) : TWord :=
  (cntFields t).foldl (fun t k =>
    let n := t.pidx k % 8
    if cmpEngine c n = eng then t.addField k (bits (tabGet c.cnt n 0) 31 0) else t) t

/-- A counter advanced once, then its MODE applied (R151, Table 6-15). DESIGN CHOICE (notes/assumptions/22.md): VALUE + STEP is taken
modulo 2^32 before it is compared with LIMIT; the spec does not say whether the comparison sees the carry. -/
def cntStep (c : CoreCtx) (n : Nat) : CoreCtx :=
  let w := tabGet c.cnt n 0
  let m := tabGet c.cmp n 0x300
  let v := (bits w 31 0 + bits m 31 16) % 2 ^ 32
  let lim := bits m 63 32
  let v := match bits m 1 0 with
    | 0 => v
    | 1 => if lim ≤ v then bits w 63 32 else v
    | _ => if lim ≤ v then lim else v
  { c with cnt := tabSet c.cnt n (reg [(bits w 63 32, 32, 32), (v, 0, 32)]) }

/-- Each counter that the instruction read advances once (R151). -/
def cntAdvance (c : CoreCtx) (t : TWord) : CoreCtx :=
  (((cntFields t).map fun k => t.pidx k % 8).eraseDups).foldl cntStep c

/-- Row 8: counter owners, WCTR and SCTR ranges (R19, R151, R180). -/
def row8 (c : CoreCtx) (t : TWord) (eng : Nat) : List Bad :=
  ((cntFields t).filter fun k => cmpEngine c (t.pidx k % 8) != eng).map (fun k => badIn t 8 7 (6 * k) 6) ++
  (if t.waitv && (if t.wscope then 32 else 48) ≤ t.wctr then [badIn t 8 1 0 6] else []) ++
  (let lim := if t.sscope = 0 && (uidFields t.w3).level = 1 then 32 else 48
   if t.sigv && lim ≤ t.sctr then [badIn t 8 2 0 6] else [])

/- Row 7: translation of whole operands. -/

/-- The first touched address of each 64 KiB page of some ranges, in order. -/
def touched (rs : List (Nat × Nat)) : List Nat :=
  let pieces := rs.flatMap fun r => pagePieces r.1 r.2
  (pieces.foldl (fun (l : List Nat) p => if l.any fun a => a / 65536 == p.1 / 65536 then l else p.1 :: l) []).reverse

/-- Ranges translated for a use, in the own store where `own` names a core: the first failure as row 7. A 64 KiB page is
translated once, but in host memory, where every 4 KiB of the operand is judged (R187, R285). -/
def State.row7 (s : State) (g : Agent) (rs : List (Nat × Nat)) (u : Use) (own : Option Nat) : State × List Bad :=
  let (s, e, _) := (rs.flatMap fun r => pagePieces r.1 r.2).foldl (fun (p : State × Option AccErr × List Nat) a =>
    if p.2.1.isSome || p.2.2.contains (a.1 / 65536) then p
    else
      let host := match (p.1.translate g a.1 u).2 with | .ok (.host _, _) => true | _ => false
      let (s, e) := p.1.vaCheck g a.1 a.2 u own
      (s, e, if host then p.2.2 else a.1 / 65536 :: p.2.2)) (s, none, [])
  match e with
  | some e => (s, [{ badRow 7 with acc := some (e, u == .write) }])
  | none => (s, [])

/-- Several range lists in order; the first failure. -/
def State.row7All (s : State) (g : Agent) (l : List (List (Nat × Nat) × Use × Option Nat)) : State × List Bad :=
  l.foldl (fun (p : State × List Bad) x =>
    if p.2.isEmpty then p.1.row7 g x.1 x.2.1 x.2.2 else p) (s, [])

/-- All planes of a view in one list. -/
def planeRanges (v : View) : List (Nat × Nat) := elemRanges v ++ entryRanges v ++ subRanges v

/- Waits. -/

/-- The counter that a WAITV instruction names (R180). -/
def State.waitCtr (s : State) (ctx core : Nat) (e : QEntry) : Ctr :=
  if e.word.wscope then tabGet (s.seqE ctx e.cluster).qc e.word.wctr {}
  else tabGet (s.coreE ctx core).sc e.word.wctr {}

/-- R202: the wait is satisfied at a value. -/
def reached (v t : Nat) : Bool := (v + 2 ^ 16 - t % 2 ^ 16) % 2 ^ 16 < 2 ^ 15

/- The take. -/

/-- Whether the engines of a core take work for a context: it runs there, no fault is in force, the core is out of reset
and nothing stops every engine (R188, R326, R328, R371, R426). -/
def State.takes (s : State) (ctx core : Nat) : Bool :=
  !s.frozen && ctx != 0 && s.corePresent core && (s.runE ctx).running && (s.runE ctx).fault.isNone && !(s.physE core).inReset &&
    !(s.clusE (core / 4)).inReset && !(s.dieE (core / 16)).inReset

/-- The instruction at the head of a queue: the oldest that is not taken (R126). -/
def CoreCtx.head (c : CoreCtx) (q : Nat) : Option QEntry := (c.queue q).find? fun e => !e.taken && e.result.isNone

/-- How many instructions of a queue are active: taken and not completed (R139). -/
def CoreCtx.active (c : CoreCtx) (q : Nat) : Nat := ((c.queue q).filter fun e => e.taken).length

/-- A counter-window store of one word of counter n takes effect: VALUE, BASE, the low word of SCL_CMPn with its reserved
bits zero, LIMIT (R157, Tables 6-14 and 6-15). -/
def CoreCtx.ctrStore (c : CoreCtx) (addr : Nat) (v : BitVec 32) : CoreCtx :=
  let n := fld addr 7 4
  let cnt := tabGet c.cnt n 0
  let cmp := tabGet c.cmp n 0x300
  if 8 ≤ n then c
  else match fld addr 3 2 with
    | 0 => { c with cnt := tabSet c.cnt n (setBits cnt 31 0 v.toNat) }
    | 1 => { c with cnt := tabSet c.cnt n (setBits cnt 63 32 v.toNat) }
    | 2 => { c with cmp := tabSet c.cmp n (setBits cmp 31 0 (v &&& 0xFFFF0303#32).toNat) }
    | _ => { c with cmp := tabSet c.cmp n (setBits cmp 63 32 v.toNat) }

/-- The counter-window stores that have reached a core and whose earlier instructions of the counter's owning engine have
all passed queue-take take effect, in order; a store behind one that must wait for the same counter waits too (R157). -/
def State.applyCtr (s : State) (ctx core : Nat) : State :=
  let cl := core / 4
  if (s.seqE ctx cl).ctrWrites.isEmpty then s
  else
  let (s, kept) := (s.seqE ctx cl).ctrWrites.foldl (fun (p : State × List (Nat × Nat × Nat × BitVec 32)) w =>
    let c := p.1.coreE ctx core
    let n := fld w.2.2.1 7 4
    let own := cmpEngine c n
    let early := own != 3 && (c.queue own).any fun e => !e.taken && e.result.isNone && e.issueNo < w.2.1
    if w.1 != core || early || p.2.any (fun k => k.1 == core && fld k.2.2.1 7 4 == n) then (p.1, p.2 ++ [w])
    else (p.1.coreM ctx core fun c => c.ctrStore w.2.2.1 w.2.2.2, p.2)) (s, [])
  s.seqM ctx cl fun q => { q with ctrWrites := kept }

/-- Whether an untaken instruction must wait for a counter-window store issued before it: one that reads that counter on that core
is not taken before the store has taken effect (R157). -/
def State.awaitsStore (s : State) (ctx core : Nat) (e : QEntry) : Bool :=
  !e.patched && (s.seqE ctx (core / 4)).ctrWrites.any fun w =>
    w.1 == core && w.2.1 ≤ e.issueNo && (cntFields e.word).any fun k => e.word.pidx k % 8 == fld w.2.2.1 7 4

/-- Whether the VXE of a core stalls: a VRED with scalar return that it has taken waits for its return slot, which is full (R128,
R164). -/
def State.vredHolds (s : State) (ctx core : Nat) : Bool :=
  (s.coreE ctx core).vxeQ.any fun e => e.taken && e.result.isNone && match e.word.op with
    | some (.vred _ true _) => 4 ≤ (tabGet (s.seqE ctx e.cluster).slots (e.word.mod % 8) []).length
    | _ => false

/-- The checks of Table 8-4 on the instruction at a queue head with its counter patches, made once: the state after them, the
instruction as it then stands, and what fails, in the precedence of R187 (R150, R151, R187). `rest` gives rows 6, 7 and 9. -/
def State.headChecks (s : State) (ctx core q : Nat) (e : QEntry) (o : Op)
    (rest : State → Nat → QEntry → Op → State × List Bad × List Bad × List Bad) : State × QEntry × Option Bad :=
  if e.patched then (s, e, none)
  else
    let c := s.coreE ctx core
    let t := cntPatch c e.word q
    let e := { e with word := t, patched := true }
    let ds := (operandsOf t o).map fun p => (p.td, e.desc p.td)
    let early := row2 t o ds ++ row3 t o ++ s.row4 t o ++ ds.flatMap fun p => descBad p.2 p.1
    let (s, r6, r7, r9) := rest s ctx e o
    let all := early ++ r6 ++ r7 ++ row8 c t q ++ r9
    let s := s.entryM ctx core q e.slot fun _ => e
    match pickBad all with
    | some b => (s, e, some b)
    | none => (s.coreM ctx core fun c => cntAdvance c t, e, none)

/-- What one engine does at its queue head: `sel` says which operation this command takes (an undefined opcode is taken
by any command of the engine and fails row 1); `rest` gives the failures of rows 6, 7 and 9 in row order; `run` carries
the instruction out. The wait holds the queue (R150, R187). -/
def State.takeHead (s : State) (core q : Nat) (sel : Op → Bool)
    (rest : State → Nat → QEntry → Op → State × List Bad × List Bad × List Bad)
    (run : State → Nat → QEntry → Op → State) : State :=
  let ctx := (s.clusE (core / 4)).ctx
  let s := s.applyCtr ctx core
  if !(s.takes ctx core) then s
  else match (s.coreE ctx core).head q with
    | none => s
    | some e =>
      if (q = 2 && 16 ≤ (s.coreE ctx core).active 2) || (q = 1 && s.vredHolds ctx core) || s.awaitsStore ctx core e then s
      else match e.word.op with
        | none =>
          let b := badIn e.word 1 0 0 8
          s.failEntry ctx core q e b.status b.cause (badWords b (issueWord e q))
        | some o =>
          if !(sel o) then s
          else
            let (s, e, bad) := s.headChecks ctx core q e o rest
            match bad with
            | some b => s.failEntry ctx core q e b.status b.cause (badWords b (issueWord e q))
            | none =>
              if e.word.waitv && !e.waitDone && !(reached (s.waitCtr ctx core e).value.toNat e.word.wthresh) then
                s.entryM ctx core q e.slot fun e => { e with waiting := true }
              else
                let s := (s.entryM ctx core q e.slot fun e => { e with waiting := false, taken := true }).progress core e.word.engine
                run s ctx { e with taken := true, waiting := false } o

/-- The conversion inputs of an instruction: the context's seed and the step it carries (R104, R106). -/
def State.convCtx (s : State) (ctx : Nat) (e : QEntry) (forced : Bool) : ConvCtx :=
  { seed := (s.ctxE ctx).seed, step := e.step, forceSr := forced }

/-- The agent that an engine of a core is for a context: bulk data in class B (R249). -/
def agentOf (ctx core cls : Nat) : Agent := { ctx := ctx, core := some core, cluster := core / 4, cls := cls }

/-- The agent that the DXE of a core is for the instruction in one of its queue entries (R270). -/
def dmaOf (ctx core cls slot : Nat) : Agent := { agentOf ctx core cls with dxe := some slot }

/-- The same for an instruction whose end comes after its take: one of a superseded placement writes as R215 says. -/
def State.dmaLate (s : State) (ctx core : Nat) (e : QEntry) : Agent :=
  { dmaOf ctx core 2 e.slot with stale := e.epoch != (s.ctxE ctx).epoch }

end Sys2Proof.Machine
end

