-- ==== Sys2Proof/Machine/Norms.lean ====
section
/-! DEFINITION. Norm slots: the partials of a core and their merges into memory (R117 to R120). -/

namespace Sys2Proof.Machine

/-- The exact square of a value (R118). -/
def Val.sq (v : Val) : Val := v.mul v

/-- A norm slot from its 96 bytes, its residue recomputed from the limbs (R119, Table 5-6). -/
def slotOfBytes (bs : List (BitVec 8)) : LA :=
  let limbs := (List.range 10).map fun i => BitVec.ofNat 64 (bytesNat ((bs.drop (8 * i)).take 8))
  let f := bytesNat ((bs.drop 80).take 8)
  let l : LA := { limb := limbs, pinf := f.testBit 0, ninf := f.testBit 1, nan := f.testBit 2, any := f.testBit 3,
                  nzero := f.testBit 4, ovf := f.testBit 5, ovfNeg := f.testBit 6 }
  { l with resAcc := limbResidue l }

/-- The flags word of Table 5-6: bits [6:0] as DBG_LAFLAGS. -/
def laFlags (l : LA) : Nat :=
  packFields [(b2n l.pinf, 0, 1), (b2n l.ninf, 1, 1), (b2n l.nan, 2, 1), (b2n l.any, 3, 1), (b2n l.nzero, 4, 1),
    (b2n l.ovf, 5, 1), (b2n l.ovfNeg, 6, 1)]

/-- The 96 bytes of a resolved slot (Table 5-6). -/
def bytesOfSlot (l : LA) : List (BitVec 8) :=
  (l.limb.flatMap fun w => natBytes 8 w.toNat) ++ natBytes 8 (laFlags l) ++ List.replicate 8 0

/-- The virtual address of norm slot i (R120). -/
def State.normAddr (s : State) (ctx i : Nat) : Nat := (s.ctxE ctx).normBase.toNat + 96 * i

/-- A partial merged into its slot in memory: the failure, if any. A failed merge discards the partial and leaves the
slot as it was; the context faults with cause 0x0B (R119). -/
def State.mergeNorm (s : State) (ctx core i : Nat) (p : LA) : State × Option Outcm :=
  let g := agentOf ctx core 2
  let a := s.normAddr ctx i
  let fail := fun (s : State) (e : AccErr) (w : Bool) =>
    let (d0, d1, d3) := accDetail e w
    let s := s.failRec (s.coreUid core) ctx 0 0x10 0x0B (d0, d1, BitVec.ofNat 64 i, d3)
    let o : Outcm := { status := 0x10, cause := 0x0B, esn := s.lastEsn }
    (s.setFault ctx o, some o)
  let (s, r) := s.vaRead g a 96
  match r with
  | .error e => fail s e false
  | .ok bs =>
    let sum := laResolve (laAddLA (slotOfBytes bs) p)
    if laMismatch sum then
      let (s, n) := s.sdcRec (s.coreUid core) 0x80 ctx 0 (sdcWords sum 2 0 i 0)
      (s, some { status := 0x18, esn := n })
    else
      let (s, e) := s.vaCheck g a 96 .write none
      match e with
      | some e => fail s e true
      | none =>
        let (s, e) := s.vaWrite g a (bytesOfSlot sum)
        match e with
        | some e => fail s e true
        | none => (s, none)

/-- Every partial of a core merged, oldest first; the first failure (R119). -/
def State.flushNorms (s : State) (ctx core : Nat) : State × Option Outcm :=
  let ps := (s.coreE ctx core).norms
  let s := s.coreM ctx core fun c => { c with norms := [] }
  ps.foldl (fun (p : State × Option Outcm) n =>
    let (s, o) := p.1.mergeNorm ctx core n.1 n.2
    (s, p.2.or o)) (s, none)

/-- Terms added to norm slot i on a core; a 65th slot first merges the oldest partial into memory. A residue mismatch of that merge is
the outcome of the instruction; any other failure of it is the context's alone (R65, R117 to R119). -/
def State.normAdd (s : State) (ctx core i : Nat) (terms : List Val) : State × Option Outcm :=
  let c := s.coreE ctx core
  if c.norms.any fun p => p.1 == i then
    (s.coreM ctx core fun c => { c with norms := c.norms.map fun p => if p.1 = i then (i, terms.foldl laAddTerm p.2) else p }, none)
  else
    let (s, o) := match c.norms with
      | (j, l) :: r =>
        if 64 ≤ c.norms.length then (s.coreM ctx core fun c => { c with norms := r }).mergeNorm ctx core j l else (s, none)
      | [] => (s, none)
    (s.coreM ctx core fun c => { c with norms := c.norms ++ [(i, terms.foldl laAddTerm (laClear ctx))] },
      o.filter fun o => o.status == 0x18)

/-- The norm kind of a DRN or VCVT into a destination; a destination in B16 or F32 has only step 3 of R92 (R92, Table 5-5). -/
def normKind (d : Desc) : Option Nat :=
  if !(fmtIsBlock d.fmt) then none else match d.role with | 1 => some 0 | 2 => some 1 | _ => none

/-- The squares of written values added under an instruction's tag (R117). -/
def State.normWritten (s : State) (ctx core tag : Nat) (d : Desc) (w : List (List Nat × Val)) : State × Option Outcm :=
  match normKind d with
  | some k => if tag = 0 then (s, none) else s.normAdd ctx core (256 * k + tag) (w.map fun p => p.2.sq)
  | none => (s, none)

/-- An instruction ends after its norm-slot additions: with the residue mismatch of one, else done (R65, R116). -/
def endAfterNorm (p : State × Option Outcm) (ctx core q slot : Nat) (flagged : Bool) : State :=
  match p.2 with
  | some o => p.1.endEntry ctx core q slot o
  | none => p.1.doneEntry ctx core q slot flagged

end Sys2Proof.Machine
end

