-- ==== Sys2Proof/Machine/Mxe.lean ====
section
/-! DEFINITION. The matrix engine: loads, passes, drains, the slot checker, ramps and the capture of checked tiles
(R72 to R91, R191, R192, R339 to R341; 04_matrix_arrays.md). -/

namespace Sys2Proof.Machine

/-- The arrays of a mask, in mask order (R76). -/
def arrayList (t : TWord) : List Nat := maskList 4 t.arrays

/-- One array as a core holds it for a context. -/
def CoreCtx.arr (c : CoreCtx) (a : Nat) : ArrCtx := tabGet c.arrays a {}
def CoreCtx.arrM (c : CoreCtx) (a : Nat) (f : ArrCtx → ArrCtx) : CoreCtx :=
  { c with arrays := tabSet c.arrays a (f (c.arr a)) }

/-- P of a load's PCODE. -/
def pOf (pcode : Nat) : Nat := 2 ^ pcode
/-- L of a load (R77). -/
def loadCycles (pcode fmt : Nat) : Nat := pOf pcode * fmtBits fmt

/-- The extents of an MXE operand's index space, from its origin (R72, R76, R81, R186). -/
def mxeExt (t : TWord) (o : Op) (p : Nat) : List Nat :=
  let n := (arrayList t).length
  match o with
  | .ldw => [64 * p, if t.modeAs then 64 * n else 64, 1, 1]
  | .ldwt => [64, 64 * p, 1, 1]
  | .mmul => [64 * p, 64 * n, 1, 1]
  | .mmula => [64 * p, 64, 1, 1]
  | _ => [64, 64 * n, 1, 1]

/-- The stationary set that a pass will use on an array (R79, R192). -/
def passSet (t : TWord) (a : ArrCtx) : StatSet := if t.swap then a.shadow else a.active

/-- P of a pass on one array: that of the streamed format in MMUL, of the recorded one in MMULA (R46, R192). -/
def arrayP (t : TWord) (o : Op) (c : CoreCtx) (d : Desc) (a : Nat) : Nat :=
  match o with
  | .mmul => pOf (ratePcode (fmtRate d.fmt))
  | _ => pOf (passSet t (c.arr a)).pcode.toNat

/-- P of the vectors that a pass streams: the greatest of its arrays. Where the sets of an MMULA record different P, the spec does not
say which P the one broadcast vector has; each array here takes the first 64 times its own P elements of it (R76; DESIGN CHOICE,
notes/assumptions/22.md). -/
def passP (t : TWord) (o : Op) (c : CoreCtx) (d : Desc) : Nat := ((arrayList t).map (arrayP t o c d)).foldl max 1

/-- Row 6 of a load: Table 4-2 and R41. -/
def loadPolicy (t : TWord) (o : Op) (i : Nat) (d : Desc) : List Bad :=
  let fmt := badTd d i 6 0 48 4
  (if o == .ldw && t.modeAs then
    (if d.fmt ≤ 6 then [] else [fmt]) ++ (if t.pcode = ratePcode (fmtRate d.fmt) then [] else [badIn t 6 5 21 2])
   else if fmtRate d.fmt ≤ 16 / pOf t.pcode then [] else [badIn t 6 5 21 2]) ++
  (if o == .ldwt && !d.isTile then [badTd d i 6 0 56 1] else [])

/-- Row 6 of a pass: the pairing and the recorded P of each array's set, whatever its mode; a set that is not loaded records nothing,
and only a streamed format that no other pairs with fails beside it (R45, R187, R192). -/
def passPolicy (t : TWord) (o : Op) (c : CoreCtx) (i : Nat) (d : Desc) : List Bad :=
  (arrayList t).flatMap fun a =>
    let st := passSet t (c.arr a)
    let pair := fun (f : Nat) => if o == .mmul then pairOk d.fmt f else pairOk f d.fmt
    let p := if o == .mmul then ratePcode (fmtRate d.fmt) else ratePcode (fmtRate st.fmt.toNat)
    let ok := if st.loaded then pair st.fmt.toNat && st.pcode.toNat = p else (List.range 16).any pair
    if ok then [] else [badTd d i 6 0 48 4]

/-- Row 6 of a DRN destination: R42, R93, R95, R109, R114 (R81's placement decides which way a drain row runs). -/
def drnPolicy (t : TWord) (c : CoreCtx) (debug : Bool) (i : Nat) (d : Desc) : List Bad :=
  let as := (arrayList t).any fun a => let r := c.arr a; if t.tile = 0 then r.tileAs0 else r.tileAs1
  let g := originOf d (t.off 0)
  (if !d.ledger && fmtIsBlock d.fmt && (as || d.isTile || 64 < fmtBlock d.fmt) then [badTd d i 6 0 59 1] else []) ++
  (if fmtHasSub d.fmt && as then [badTd d i 6 0 48 4] else []) ++
  destPolicy .drn debug i d g (mxeExt t .drn 1)

/-- Row 9 of a pass: a set in the wrong mode or not loaded (R79). -/
def passState (t : TWord) (o : Op) (c : CoreCtx) : List Bad :=
  if (arrayList t).any fun a => let st := passSet t (c.arr a); !st.loaded || st.modeAs != (o == .mmula)
  then [badRow 9] else []

/-- Rows 6, 7 and 9 of an MXE instruction. With ARRAYS = 0 it reads and writes no operand; whether its descriptor's data must still lie
in the core's own store R82 does not say, and the model asks nothing of it (DESIGN CHOICE, notes/assumptions/22.md). -/
def mxeRest (s : State) (core : Nat) (ctx : Nat) (e : QEntry) (o : Op) : State × List Bad × List Bad × List Bad :=
  let t := e.word
  let c := s.coreE ctx core
  let i := t.td 0
  let d := e.desc i
  let pol := operandPolicy t o { key := 0, td := i, off := t.off 0, ow := 4 } d
  let r6 := if !pol.isEmpty then pol else
    match o with
    | .ldw | .ldwt => loadPolicy t o i d
    | .drn => drnPolicy t c (s.runE ctx).debug i d
    | _ => passPolicy t o c i d
  let r9 := match o with | .mmul | .mmula => passState t o c | _ => []
  let tiles := (s.seqE ctx e.cluster).tilesDecl
  let usesTile := match o with | .ldw | .ldwt => false | _ => true
  let r7t := if usesTile && (arrayList t).any fun a => !(bit tiles (2 * a + t.tile)) then [badIn t 7 5 16 1] else []
  if !(descBad d i).isEmpty || !r6.isEmpty || !r7t.isEmpty then (s, r6, r7t, r9)
  else
    let p := match o with | .ldw | .ldwt => pOf t.pcode | _ => passP t o c d
    let v := ({ d := d, g := originOf d (t.off 0), e := mxeExt t o p } : View)
    let ranges := if (arrayList t).isEmpty then [] else planeRanges v
    let (s, r7) := s.row7 (agentOf ctx core 2) ranges (if o == .drn then .write else .read) (some core)
    (s, r6, r7, r9)

/- Slot checker. -/

/-- A condition of Table 4-6: its resource and the earliest on-time start. -/
def slotConds (t : TWord) (o : Op) (l : Nat) (a : ArrTime) : List (Nat × Int) :=
  let of := fun (x : Option Int) (f : Int → Nat × Int) => match x with | some v => [f v] | none => []
  let load := of a.loadEnd fun e => (1, e)
  match o with
  | .ldw => load ++ of a.swapStart fun w => (2, w + 64 - l)
  | .ldwt => load ++ of a.swapStart fun w => (2, w + 60 - l)
  | .drn =>
    let e := match a.drain0, a.drain1 with
      | some x, some y => some (max x y)
      | x, none => x
      | none, y => y
    of e (fun e => (5, e + 64)) ++
      of (if t.tile = 0 then a.passStart0 else a.passStart1) fun p => (3 + t.tile, p + 73)
  | _ =>
    of a.inStart (fun p => (0, p + 64)) ++
      (if t.swap then of a.loadStart fun x =>
        (2, match a.loadKind.toNat with | 0 => x + 1 | 2 => x + 5 | _ => x + ((a.loadN : Int) - 1) * a.loadL + 1) else []) ++
      of (if t.tile = 0 then a.drain0 else a.drain1) fun d => (3 + t.tile, d - 39)

/-- The first failed condition: array, resource and cycles early (R90, R91). -/
def slotFail (t : TWord) (o : Op) (l : Nat) (start : Int) (c : CoreCtx) : Option (Nat × Nat × Nat) :=
  ((arrayList t).flatMap fun a => ((slotConds t o l (c.arr a).time).map fun r => (a, r.1, r.2 - start))).find?
    (fun x => 0 < x.2.2) |>.map fun x => (x.1, x.2.1, x.2.2.toNat)

/-- MXE_SLOTCHK for a collision, VALID set (Table 4-7). -/
def slotWord (ctx early opcode res arr : Nat) : BitVec 64 :=
  reg [(ctx, 52, 12), (min early 0xFFFF, 32, 16), (opcode, 24, 8), (res, 16, 4), (arr, 14, 2), (1, 0, 1)]

/-- The rejection of an instruction that would start too early (R91). -/
def State.slotReject (s : State) (ctx core : Nat) (e : QEntry) (f : Nat × Nat × Nat) : State :=
  let w := slotWord ctx f.2.2 e.word.opcode f.2.1 f.1
  let s := s.physM core fun p => { p with
    slotchk := if bit p.slotchk 0 then p.slotchk ||| 2 else w ||| (p.slotchk &&& 2), slotcnt := satAdd 0xFFFFFFFF p.slotcnt 1 }
  s.failEntry ctx core 0 e 0x14 0 (w, 0, issueWord e 0, 0)

/-- The issue cycle (R84). -/
def issueCycle (t : TWord) (c : CoreCtx) (ready : Nat) : Int :=
  match c.anchor with
  | none => ready
  | some a => max (a + max t.gap 1) ready

/-- Idle cycles of an array at a cycle: those since its last IN window ended (R86). -/
def idleAt (a : ArrTime) (i : Int) : Int := match a.inStart with | some p => max 0 (i - (p + 64)) | none => 511

/-- The ramp of a pass issued in cycle i: 32 cycles or none; an array that is cold or ramping down takes it in full (R86). -/
def rampOf (t : TWord) (c : CoreCtx) (ph : CorePhys) (i : Int) : Nat :=
  if t.ramp || (arrayList t).any fun a =>
    let x := (c.arr a).time
    x.cold || 256 ≤ idleAt x i || (tabGet ph.arrState a 0) == 0 || (tabGet ph.arrState a 0) == 3 then 32 else 0

/- Chunks and vectors. -/

/-- An element as loaded. -/
def elAt (d : Desc) (f : Fetched) (x : List Nat) : El :=
  { code := codeAt d f x, scale := scaleAt d f x, sub := subAt d f x }

/-- The present elements of a chunk, key 64 k + column; `col0` is the first column's place (R76, R78). -/
def chunkPlaces (d : Desc) (g : List Nat) (turn : Bool) (p col0 : Nat) : List (Nat × List Nat) :=
  ((List.range (64 * p)).flatMap fun k => (List.range 64).map fun n =>
    (64 * k + n, if turn then addIdx g [n, k, 0, 0] else addIdx g [k, col0 + n, 0, 0])).filter fun q => presentAt d q.2

/-- A list of n places from entries with rising keys starting at `lo`. -/
def denseOf {α : Type} (lo : Nat) : Nat → List (Nat × α) → List (Option α)
  | 0, _ => []
  | n + 1, (k, v) :: r => if k = lo then some v :: denseOf (lo + 1) n r else none :: denseOf (lo + 1) n ((k, v) :: r)
  | n + 1, [] => none :: denseOf (lo + 1) n []

/-- Column n of a chunk: its elements by k. -/
def column (st : StatSet) (n p : Nat) : List (Option El) :=
  denseOf 0 (64 * p) ((st.elems.filter fun e => e.1 % 64 == n).map fun e => (e.1 / 64, e.2))

/-- Where stream vector m of a pass lies: its elements by k (R73, R76, R83). -/
def vectorPlaces (d : Desc) (g : List Nat) (p row : Nat) : List (Nat × List Nat) :=
  ((List.range (64 * p)).map fun k => (k, addIdx g [k, row, 0, 0])).filter fun q => presentAt d q.2

/-- One band of one LA: the exact products, the block scales' exponent and the residue (R58, R60, R64). -/
def bandOf (fa fw : Nat) (pairs : List (El × El)) : List Val × Int × Nat :=
  let ps := pairs.map fun q => (scaledVal fa q.1.code (if q.1.scale = 0xFF then 0xFF else 127) q.1.sub).mul
    (scaledVal fw q.2.code (if q.2.scale = 0xFF then 0xFF else 127) q.2.sub)
  let sc : Int := match pairs with
    | (a, w) :: _ => ((a.scale.toNat : Int) - 127) + ((w.scale.toNat : Int) - 127)
    | [] => 0
  let res := (ps.map fun v => match v with | .fin n m e => residueTerm n m (e + sc) | _ => 0).sum % 255
  (ps, sc, res)

/-- A stream vector against a column: both bands added into an LA, band 0 first (R72 to R74, R58 to R61). `fs` and `ft`
are the streamed and the stationary format, `cls` the rate class of the product. -/
def laPass (fs ft cls p : Nat) (l : LA) (vec col : List (Option El)) : LA :=
  let prs := (vec.zip col).map fun q => match q with | (some a, some b) => [(a, b)] | _ => []
  [0, 1].foldl (fun l b =>
    let (ps, sc, res) := bandOf fs ft ((prs.drop (32 * p * b)).take (32 * p)).flatten
    laAddBand l (bandSum cls ps) sc res) l

/-- The key of an LA: array, tile, row, column (R71). -/
def laKey (a u m n : Nat) : Nat := (2 * a + u) * 4096 + 64 * m + n

/-- An LA of a context's tiles: cleared by that context where it lists none (R55, R432). -/
def CoreCtx.la (c : CoreCtx) (ctx key : Nat) : LA := tabGet c.tiles key (laClear ctx)

/-- Every LA of a tile cleared (R80). -/
def CoreCtx.clearTile (c : CoreCtx) (a u : Nat) : CoreCtx :=
  { c with tiles := c.tiles.filter fun p => p.1 / 4096 != 2 * a + u }

/- Checked tiles. -/

/-- f of CHECKF as a count of 2^32 (Table 16-13); 2^32 selects every tile. -/
def checkFraction (f : Nat) : Nat :=
  match f with | 1 => 2 ^ 24 | 2 => 2 ^ 26 | 3 => 2 ^ 28 | 4 => 2 ^ 30 | 5 => 2 ^ 32 | _ => 0

/-- Whether a checked tile is selected (R339). -/
def State.tileSelected (s : State) (ctx core a u c0 : Nat) (step : BitVec 32) : Bool :=
  let o := philox (Config.checkKey s.boot.count) (BitVec.ofNat 32 c0) (BitVec.ofNat 32 (core + a * 256 + u * 1024))
    (BitVec.ofNat 32 ctx) step
  o % 2 ^ 32 < checkFraction (s.ctxE ctx).checkf.toNat

/-- The bytes that capturing n elements of a format takes, with one scale byte each block and two bits each sub-scale
(R341; notes/assumptions/23.md). -/
def captureBytes (fmt n : Nat) : Nat :=
  ceilDiv (n * fmtBits fmt) 8 + (if fmtIsBlock fmt then ceilDiv n (fmtBlock fmt) else 0) + (if fmtHasSub fmt then ceilDiv n 64 else 0)

/-- n bytes added to the open capture of a tile, with what they hold; a tile whose capture would overflow the 1 MiB buffer is abandoned
and counted (R341). -/
def State.capture (s : State) (ctx core a u n : Nat) (put : Shadow → Shadow) : State :=
  let c := s.coreE ctx core
  if !(c.shadows.any fun h => h.array == a && h.tile == u && !h.closed) then s
  else if 2 ^ 20 < (c.shadows.map fun h => h.bytes).sum + n then
    (s.coreM ctx core fun c => { c with shadows := c.shadows.filter fun h => !(h.array == a && h.tile == u && !h.closed) }).physM
      core fun p => { p with abandoned := satAdd 0xFFFF p.abandoned 1 }
  else s.coreM ctx core fun c => { c with
    shadows := updFirst (fun h => h.array == a && h.tile == u && !h.closed) (fun h => { put h with bytes := h.bytes + n }) c.shadows }

/-- A CLEAR pass opens a checked tile on an array: the draw, and its capture where it is selected (R339, R341). An open
capture of the same tile that no DRN closed ends with it. -/
def State.openTile (s : State) (ctx core a u : Nat) (step : BitVec 32) : State :=
  let r := (s.coreE ctx core).arr a
  let r := if r.clearStep = step then r else { r with clears0 := 0, clears1 := 0, clearStep := step }
  let c0 := if u = 0 then r.clears0 else r.clears1
  let r := if u = 0 then { r with clears0 := c0 + 1 } else { r with clears1 := c0 + 1 }
  let s := s.coreM ctx core fun c => { c with
    arrays := tabSet c.arrays a r,
    shadows := c.shadows.filter fun h => !(h.array == a && h.tile == u && !h.closed) }
  if s.tileSelected ctx core a u c0 step then
    s.coreM ctx core fun c => { c with shadows := c.shadows ++ [{ array := a, tile := u, seq := c0, step := step }] }
  else s

/- Instructions. -/

/-- The start of an instruction once its slot is on time: its anchor, or its rejection; ARRAYS = 0 is a timing anchor
only, in a pass after the ramp that its RAMP field asks for (R84 to R86, R91). -/
def State.mxeStart (s : State) (ctx core : Nat) (e : QEntry) (o : Op) (l ready : Nat) (go : State → Int → State) : State :=
  let t := e.word
  let c := s.coreE ctx core
  let i := issueCycle t c ready
  let r := match o with | .mmul | .mmula => rampOf t c (s.physE core) i | _ => 0
  let st := i + r
  if t.arrays = 0 then (s.coreM ctx core fun c => { c with anchor := some st }).doneEntry ctx core 0 e.slot false
  else
    match slotFail t o l st c with
    | some f => s.slotReject ctx core e f
    | none => go (s.coreM ctx core fun c => { c with anchor := some st }) st

/-- LDW and LDWT (R76 to R78, R192). -/
def runLoad (core ready : Nat) (s : State) (ctx : Nat) (e : QEntry) (o : Op) : State :=
  let t := e.word
  let d := e.desc (t.td 0)
  let l := loadCycles t.pcode d.fmt
  s.mxeStart ctx core e o l ready fun s st =>
    let turn := o == .ldwt
    let as := t.modeAs && !turn
    let arrs := arrayList t
    let p := pOf t.pcode
    let g := originOf d (t.off 0)
    let n := arrs.length
    let places := (List.range (if as then n else 1)).map fun j => chunkPlaces d g turn p (64 * j)
    let (s, r) := s.fetchAt (agentOf ctx core 2) (readAddrs d (places.flatten.map Prod.snd))
    match r with
    | .error err => s.failAccess ctx core 0 e err false 0
    | .ok f =>
      let s := arrs.zipIdx.foldl (fun (s : State) aj =>
        s.coreM ctx core fun c => c.arrM aj.1 fun x => { x with
          shadow := { loaded := true, modeAs := as, fmt := BitVec.ofNat 4 d.fmt, role := BitVec.ofNat 2 d.role, fll := d.fll,
                      pcode := BitVec.ofNat 2 t.pcode,
                      elems := (places.getD (if as then aj.2 else 0) []).map fun q => (q.1, elAt d f q.2) },
          time := { x.time with loadStart := some st, loadKind := if turn then 2 else if as then 1 else 0, loadN := n,
                                loadL := l, loadEnd := some (st + (if as then n * l else l)) } }) s
      s.doneEntry ctx core 0 e.slot false

/-- MMUL and MMULA (R72 to R80, R192). An array that takes the ramp shows RAMPING UP until the pass completes (R86, Table 4-9). -/
def runPass (core ready : Nat) (s0 : State) (ctx : Nat) (e : QEntry) (o : Op) : State :=
  let t := e.word
  let d := e.desc (t.td 0)
  s0.mxeStart ctx core e o 0 ready fun s st =>
    let arrs := arrayList t
    let u := t.tile
    let p := passP t o (s.coreE ctx core) d
    let g := originOf d (t.off 0)
    let as := o == .mmula
    let rows := (List.range (if as then 64 else 64 * arrs.length)).map fun m => vectorPlaces d g p m
    let (s, r) := s.fetchAt (agentOf ctx core 2) (readAddrs d (rows.flatten.map Prod.snd))
    match r with
    | .error err => s.failAccess ctx core 0 e err false 0
    | .ok f =>
      let vecs := rows.map fun r => denseOf 0 (64 * p) (r.map fun q => (q.1, elAt d f q.2))
      let s := arrs.zipIdx.foldl (fun (s : State) aj =>
        let (a, j) := aj
        let s := if t.clearT then s.openTile ctx core a u e.step else s
        let c := s.coreE ctx core
        let x := c.arr a
        let x := if t.swap then { x with active := x.shadow, shadow := x.active,
                                         time := { x.time with swapStart := some st } } else x
        let x := { x with time := { x.time with inStart := some st, cold := false } }
        let x := if u = 0 then { x with time := { x.time with passStart0 := some st } }
                 else { x with time := { x.time with passStart1 := some st } }
        let x := if !t.clearT then x else if u = 0 then { x with tileAs0 := as } else { x with tileAs1 := as }
        let c := { c with arrays := tabSet c.arrays a x }
        let c := if t.clearT then c.clearTile a u else c
        let ft := x.active.fmt.toNat
        let cls := if as then fmtRate ft else fmtRate d.fmt
        let pa := if as then pOf x.active.pcode.toNat else p
        let cols := ((List.range 64).map fun n => (n, column x.active n pa)).filter fun q => q.2.any Option.isSome
        let mine := (if as then vecs else (vecs.drop (64 * j)).take 64).zipIdx.filter fun q => q.1.any Option.isSome
        let c := mine.foldl (fun c vm => cols.foldl (fun c nc =>
          let k := laKey a u vm.2 nc.1
          { c with tiles := tabSet c.tiles k (laPass d.fmt ft cls pa (c.la ctx k) vm.1 nc.2) }) c) c
        let s := s.coreM ctx core fun _ => c
        let n := 32 + 64 + captureBytes ft x.active.elems.length +
          captureBytes d.fmt ((mine.map fun q => (q.1.filter Option.isSome).length).sum)
        let up := if rampOf t (s0.coreE ctx core) (s0.physE core) (issueCycle t (s0.coreE ctx core) ready) = 0 then 2 else 1
        (s.capture ctx core a u n fun h => { h with
          passes := h.passes + 1, takes := h.takes ++ [e], chunks := h.chunks ++ [x.active], vectors := h.vectors ++ [f] }).physM core fun ph => { ph with arrState := tabSet ph.arrState a up, arrIdle := tabSet ph.arrIdle a 0 }) s
      let s := s.runM ctx fun r => { r with arrayCycles := r.arrayCycles + 64 * arrs.length }
      s.doneEntry ctx core 0 e.slot false

/-- Where a DRN puts the LA at row m, column n of the array at mask position j (R81). -/
def drnPlace (g : List Nat) (as : Bool) (j m n : Nat) : List Nat :=
  if as then addIdx g [m, 64 * j + n, 0, 0] else addIdx g [n, 64 * j + m, 0, 0]

/-- The capture of a checked tile closes at its DRN: the instruction, the scale bytes it read, and digests of the resolved LAs and of the bytes written (R341). -/
def State.closeTile (s : State) (ctx core a u : Nat) (las : List LA) (bytes : List (BitVec 8)) (e : QEntry)
    (scales : Fetched) : State :=
  let open_ := (s.coreE ctx core).shadows.any fun h => h.array == a && h.tile == u && !h.closed
  if !open_ then s
  else
    let s := s.capture ctx core a u (32 + 64 + (scales.map fun r => r.2.length).sum + 16) fun h => { h with takes := h.takes ++ [e], scales := scales }
    let la := crcOf 2 (las.flatMap fun l => (l.limb.flatMap fun w => natBytes 8 w.toNat) ++ natBytes 8 (laFlags l))
    let out := crcOf 2 bytes
    s.coreM ctx core fun c => { c with
      shadows := updFirst (fun h => h.array == a && h.tile == u && !h.closed)
        (fun h => { h with closed := true, laDigest := BitVec.ofNat 64 la, outDigest := BitVec.ofNat 64 out }) c.shadows }

/-- A drain resolves every LA of its tiles: one that overflows keeps OVF and OVF_NEG, and its limbs modulo 2^640, until it is cleared
(R63). -/
def CoreCtx.resolveTiles (c : CoreCtx) (arrs : List Nat) (u : Nat) : CoreCtx :=
  { c with tiles := c.tiles.map fun p =>
      if arrs.any fun a => p.1 / 4096 == 2 * a + u then (p.1, if (laResolve p.2).ovf then laResolve p.2 else p.2) else p }

/-- DRN (R63 to R65, R80, R81, R92 to R118). -/
def runDrn (core ready : Nat) (s : State) (ctx : Nat) (e : QEntry) (o : Op) : State :=
  let t := e.word
  let d := e.desc (t.td 0)
  s.mxeStart ctx core e o 0 ready fun s st =>
    let arrs := (arrayList t).zipIdx
    let u := t.tile
    let g := originOf d (t.off 0)
    let s := arrs.foldl (fun s aj => s.coreM ctx core fun c => c.arrM aj.1 fun x =>
      if u = 0 then { x with time := { x.time with drain0 := some st } } else { x with time := { x.time with drain1 := some st } }) s
    let c := s.coreE ctx core
    let s := s.coreM ctx core fun c => c.resolveTiles (arrayList t) u
    let res := fun (a m n : Nat) => laResolve (c.la ctx (laKey a u m n))
    let bad := (List.range 64).find? fun m => arrs.any fun aj => (List.range 64).any fun n => laMismatch (res aj.1 m n)
    let rows := bad.getD 64
    let vals := arrs.flatMap fun aj =>
      let x := c.arr aj.1
      let as := if u = 0 then x.tileAs0 else x.tileAs1
      ((List.range rows).flatMap fun m => (List.range 64).map fun n =>
        (drnPlace g as aj.2 m n, Res.val .nan, aj.1, m, n)).filter (fun q => presentAt d q.1) |>.map
          fun q => (q.1, laValue (res q.2.2.1 q.2.2.2.1 q.2.2.2.2))
    let (s, r) := s.convertTo (agentOf ctx core 2) d (s.convCtx ctx e false) vals
    match r with
    | .error err => s.failAccess ctx core 0 e err true 0
    | .ok out =>
      let s := s.addFlagged ctx out.count
      let (s, nrm) := s.normWritten ctx core t.tag d out.written
      match bad with
      | some m =>
        let at_ := (arrs.flatMap fun aj => (List.range 64).map fun n => (aj.1, n)).find? fun q => laMismatch (res q.1 m q.2)
        match at_ with
        | some q => s.sdcEntry ctx core 0 e (sdcWords (res q.1 m q.2) 0 (packFields [(q.1, 14, 2), (u, 13, 1), (m, 6, 6), (q.2, 0, 6)]) 0 0)
        | none => s
      | none =>
        let s := arrs.foldl (fun s aj =>
          s.closeTile ctx core aj.1 u ((List.range 64).flatMap fun m => (List.range 64).map fun n => res aj.1 m n)
            (streamOf out.bytes) e out.scales) s
        endAfterNorm (s, nrm) ctx core 0 e.slot out.flagged

/-- Takes the MXE instruction at the queue head of a core. -/
def mxeTake (c : CoreN) (sel : Op → Bool) (run : State → Nat → QEntry → Op → State) (s : State) : Out :=
  .next (s.takeHead c.val 0 sel (fun s ctx e o => mxeRest s c.val ctx e o) run)

def execLdw (c : CoreN) (t : Nat) (s : State) : Out := mxeTake c (· == .ldw) (runLoad c.val t) s
def execLdwt (c : CoreN) (t : Nat) (s : State) : Out := mxeTake c (· == .ldwt) (runLoad c.val t) s
def execMmul (c : CoreN) (t : Nat) (s : State) : Out := mxeTake c (· == .mmul) (runPass c.val t) s
def execMmula (c : CoreN) (t : Nat) (s : State) : Out := mxeTake c (· == .mmula) (runPass c.val t) s
def execDrn (c : CoreN) (t : Nat) (s : State) : Out := mxeTake c (· == .drn) (runDrn c.val t) s

/-- ARRAY_RAMP_DOWN (R86, Table 4-9): the idle count, and the state: RAMPING DOWN from 256 idle cycles, COLD from 288; below that the
array's columns stay as they are. -/
def execArrayRampDown (c : CoreN) (a : Fin 4) (idle : Nat) (s : State) : Out :=
  .next (s.physM c.val fun p => { p with
    arrIdle := tabSet p.arrIdle a.val (min idle 511)
    arrState := if idle < 256 then p.arrState else tabSet p.arrState a.val (if 288 ≤ idle then 0 else 3) })

end Sys2Proof.Machine
end

