-- ==== Sys2Proof/Machine/Signals.lean ====
section
/-! DEFINITION. Sync counters: sending signals, their arrival, counters set by hand, and the waits that an increment or a
set satisfies (R200 to R206, R211 to R213, 09_sync_counters.md). -/

namespace Sys2Proof.Machine

/-- Whether a unit, a core or a cluster, holds counters of a context: it is a unit of its job (R200). -/
def State.holdsCtrs (s : State) (ctx : Nat) (u : UnitF) : Bool :=
  if u.level = 0 then (s.runE ctx).jobCores.getLsbD u.coreN else (s.jobClusters ctx).contains u.clusN

/-- Counter i of a core or cluster for a context. -/
def State.ctrE (s : State) (ctx : Nat) (u : UnitF) (i : Nat) : Ctr :=
  if u.level = 0 then tabGet (s.coreE ctx u.coreN).sc i {} else tabGet (s.seqE ctx u.clusN).qc i {}

/-- That counter, put at c. -/
def State.ctrPut (s : State) (ctx : Nat) (u : UnitF) (i : Nat) (c : Ctr) : State :=
  if u.level = 0 then s.coreM ctx u.coreN fun e => { e with sc := tabSet e.sc i c }
  else s.seqM ctx u.clusN fun q => { q with qc := tabSet q.qc i c }

/-- How many counters a unit has (R19). -/
def ctrCount (u : UnitF) : Nat := match u.level with | 0 => 48 | 1 => 32 | _ => 0

/-- A sequencer instruction retires: the PC moves past it (Table 7-6). -/
def SeqCtx.retire (q : SeqCtx) (pc : BitVec 32) : SeqCtx :=
  { q with pc := pc + 4, instret := q.instret + 1, run := .run }

/-- x-register rd written; x0 stays zero (R432). -/
def SeqCtx.setX (q : SeqCtx) (rd : Nat) (v : BitVec 32) : SeqCtx :=
  if rd = 0 then q else { q with x := listSet q.x rd v }

def SeqCtx.getX (q : SeqCtx) (r : Nat) : BitVec 32 := if r = 0 then 0 else q.x.getD r 0

/-- The pending waits of a core's queues on a counter that `sat` finds satisfied at their threshold: SC of the core where
`qc` is false, QC of its sequencer otherwise (R202). -/
def CoreCtx.wake (c : CoreCtx) (qc : Bool) (i : Nat) (sat : Nat → Bool) : CoreCtx :=
  let f := fun (e : QEntry) =>
    if e.waiting && e.word.wscope == qc && e.word.wctr == i && sat e.word.wthresh then { e with waitDone := true } else e
  { c with mxeQ := c.mxeQ.map f, vxeQ := c.vxeQ.map f, dxeQ := c.dxeQ.map f }

/-- A SYNC instruction's pending wait on a counter, satisfied at the cluster positions of `mask` (R199, R202). -/
def SeqCtx.wakeSync (q : SeqCtx) (qc : Bool) (i : Nat) (mask : BitVec 4) (sat : Nat → Bool) : SeqCtx :=
  match q.sync with
  | some e =>
    if q.syncWait && e.word.wscope == qc && e.word.wctr == i && sat e.word.wthresh then { q with syncDone := q.syncDone ||| mask }
    else q
  | none => q

/-- A QCWAIT on a counter, satisfied: the sequencer goes on (R202). -/
def SeqCtx.wakeQc (q : SeqCtx) (i : Nat) (sat : Nat → Bool) : SeqCtx :=
  match q.run with
  | .waitQc c t _ => if c = i && sat t.toNat then q.retire q.pc else q
  | _ => q

/-- Every wait pending on a counter that `sat` finds satisfied. -/
def State.wake (s : State) (ctx : Nat) (u : UnitF) (i : Nat) (sat : Nat → Bool) : State :=
  if u.level = 0 then
    (s.coreM ctx u.coreN fun c => c.wake false i sat).seqM ctx (u.coreN / 4) fun q =>
      q.wakeSync false i (BitVec.ofNat 4 (2 ^ (u.coreN % 4))) sat
  else
    let s := (s.clusCores u.clusN).foldl (fun s n => s.coreM ctx n fun c => c.wake true i sat) s
    s.seqM ctx u.clusN fun q => (q.wakeSync true i 0xF sat).wakeQc i sat

/-- An increment: VALUE + inc modulo 2^16; it satisfies each pending wait that it reaches or jumps past (R201, R202). -/
def State.increment (s : State) (ctx : Nat) (u : UnitF) (i inc : Nat) : State :=
  let c := s.ctrE ctx u i
  let v := c.value.toNat
  let s := s.ctrPut ctx u i { c with value := c.value + BitVec.ofNat 16 inc }
  s.wake ctx u i fun t => (t + 2 ^ 16 - v) % 2 ^ 16 ≤ inc || reached ((v + inc) % 2 ^ 16) t

/-- One signal dropped for its epoch, counted at its target (R213, Table 9-7). -/
def State.countStale (s : State) (u : UnitF) : State :=
  if u.level = 0 then s.physM u.coreN fun p => { p with staleSig := satAdd 0xFFFFFFFF p.staleSig 1 }
  else s.clusM u.clusN fun c => { c with staleSig := satAdd 0xFFFFFFFF c.staleSig 1 }

/-- A signal reaches its target: applied to the context's counter image, or dropped and counted where its epoch differs or
the context has ended (R201, R205, R213, R276). -/
def State.arrive (s : State) (g : Signal) : State :=
  let u := uidFields g.unit
  let st := (s.ctxE g.ctx).state
  if st = .free || st = .scrubbing || (s.holdsCtrs g.ctx u && (s.ctrE g.ctx u g.ctr).epoch != g.epoch) then s.countStale u
  else if s.holdsCtrs g.ctx u && g.ctr < ctrCount u then s.increment g.ctx u g.ctr g.inc.toNat
  else s

/-- SIGNAL_ARRIVAL: the n-th signal in flight reaches its target. -/
def execSignalArrival (n : Nat) (s : State) : Out :=
  .next (match s.sigs[n]? with
  | none => s
  | some g => { s with sigs := s.sigs.eraseIdx n }.arrive g)

/-- A signal leaves for a unit: into flight on this module, to the hub of another one, or dropped where that module has
left the span (R204, R206). -/
def State.sendSignal (s : State) (g : Signal) (fan : Bool := false) : State :=
  let m := (uidFields g.unit).module
  if m = s.modIdx then { s with sigs := s.sigs ++ [g] }
  else if bit s.span.withdrawn m then s.dropFor m
  else if !(bit s.span.admitted m) then s
  else s.emit (.flit m .c (.signal g.unit (BitVec.ofNat 12 g.ctx) (BitVec.ofNat 6 g.ctr) g.inc g.epoch fan))

/-- A signal to every present core beneath a unit of level 1 to 3 (Table 8-2). -/
def State.fanout (s : State) (unit : BitVec 32) (g : Signal) : State :=
  let u := uidFields unit
  if u.module = s.modIdx then (s.coresUnder u).foldl (fun s n => s.sendSignal { g with unit := s.coreUid n }) s
  else s.sendSignal { g with unit := unit } true

/-- The signal of an instruction, by its SSCOPE; `self` are the cores a SELF signal reaches (R181, Table 8-2). -/
def State.signalOf (s : State) (ctx : Nat) (t : TWord) (epoch : BitVec 4) (self : List Nat) : State :=
  let g : Signal := { ctx := ctx, unit := t.w3, ctr := t.sctr, inc := BitVec.ofNat 16 t.sinc, epoch := epoch }
  match t.sscope with
  | 0 => s.sendSignal g
  | 1 => self.foldl (fun s n => s.sendSignal { g with unit := s.coreUid n }) s
  | _ => s.fanout t.w3 g

/-- A counter set by hand: VALUE becomes v, EPOCH stays, the event is recorded, and pending waits are tested against the
new VALUE (R211, Table 16-26). `writer` is D0, `origin` the function whose access it is. -/
def State.setCtr (s : State) (ctx : Nat) (unit : BitVec 32) (i : Nat) (v : BitVec 16) (writer : BitVec 64)
    (origin : Option (Fin 32)) : State :=
  let u := uidFields unit
  let c := s.ctrE ctx u i
  let s := s.ctrPut ctx u i { c with value := v }
  let s := s.raiseRec { unit := s.modUid, cls := 4, code := 0xC1, ctx := BitVec.ofNat 12 ctx, d0 := writer, origin := origin,
                        d1 := reg [(b2n (u.level == 1), 38, 1), (i, 32, 6), (unit.toNat, 0, 32)],
                        d2 := reg [(c.epoch.toNat, 32, 4), (c.value.toNat, 16, 16), (v.toNat, 0, 16)] }
  s.wake ctx u i fun t => reached v.toNat t

/-- Whether an agent has debug privilege: a granted function and its companion cores, a session whose account holds DEBUG,
firmware, and a context that runs with DEBUG set (R21, R211, R263, R392). -/
def State.hasDebug (s : State) (w : Writer) : Bool :=
  match w with
  | .func f => (s.funcE f.val).debug
  | .hart h => match (s.hartE h.val).func with | some f => (s.funcE f).debug | none => false
  | .mgmt i =>
    match s.mgmt.sessions.find? fun e => e.id == i.val with
    | some e => s.nvm.accounts.any fun a => a.name == e.account && bit a.roles 4
    | none => false
  | .firmware _ => true
  | .seqr cl => (s.runE (s.clusE cl.val).ctx).debug
  | .peer _ => false

/-- Whether an agent is the host function that owns a context, or acts for it (R210, R294). -/
def State.ownsCtx (s : State) (w : Writer) (ctx : Nat) : Bool :=
  match w with
  | .func f => s.owner ctx == some f.val
  | .hart h => (s.hartE h.val).func.isSome && s.owner ctx == (s.hartE h.val).func
  | _ => false

/-- Whether an agent may signal a context's counters: its owner, or a sequencer of one of the owner's contexts (R212). -/
def State.signalsCtx (s : State) (w : Writer) (ctx : Nat) : Bool :=
  match w with
  | .seqr cl => s.owner ctx == s.owner (s.clusE cl.val).ctx && (s.owner ctx).isSome
  | _ => s.ownsCtx w ctx

/-- SYNC_SIGNAL: a signal of INC to a counter of the window's unit, from the owner of the context, its companion cores or a
sequencer of one of its contexts; any other write is ignored and recorded (R212). -/
def execSyncSignal (w : Writer) (unit : BitVec 32) (v : BitVec 64) (s : State) : Out :=
  let ctx := bits v 63 52
  let u := uidFields unit
  .next (
    if !(s.unitValid unit && u.module == s.modIdx && u.level ≤ 1 && s.signalsCtx w ctx) then s.infoAccess w unit 0x1018 v
    else if ctrCount u ≤ bits v 37 32 then s
    else s.sendSignal { ctx := ctx, unit := unit, ctr := bits v 37 32, inc := BitVec.ofNat 16 (bits v 31 16),
                        epoch := (s.ctxE ctx).epoch })

/-- DBG_SCSET: VALUE of a counter set with debug privilege, in a context of the function's own; refused otherwise, with a
record (R21, R211). -/
def execDbgScset (w : Writer) (unit : BitVec 32) (v : BitVec 64) (s : State) : Out :=
  let ctx := bits v 63 52
  let u := uidFields unit
  let st := (s.ctxE ctx).state
  let owned := match w with | .func _ | .hart _ | .seqr _ => s.signalsCtx w ctx | _ => true
  .next (
    if !(s.unitValid unit && u.module == s.modIdx && u.level ≤ 1 && s.hasDebug w && owned && ctx != 0) ||
        st = .free || st = .scrubbing || ctrCount u ≤ bits v 37 32 then s.infoAccess w unit 0x8100 v
    else s.setCtr ctx unit (bits v 37 32) (BitVec.ofNat 16 (bits v 15 0)) (writerWord w unit) (s.writerFunc w))

end Sys2Proof.Machine
end

