-- ==== Sys2Proof/Machine/Sequencer.lean ====
section
/-! DEFINITION. The sequencers: exceptions, the issue path with its parameter registers, replay and broadcast, the custom
instructions, the return of reduced scalars, and the SYNC instructions that the issue stage carries out (R154 to R175,
R180 to R182, R199, 07_sequencer_programs.md). -/

namespace Sys2Proof.Machine

/-- The context on a cluster. -/
def State.ctxOn (s : State) (cl : Nat) : Nat := (s.clusE cl).ctx

/-- Whether a cluster's sequencer can go on: a context runs on it and it is out of reset. -/
def State.seqLive (s : State) (cl : Nat) : Bool :=
  !s.frozen && s.ctxOn cl != 0 && (s.runE (s.ctxOn cl)).running && !(s.clusE cl).inReset && !(s.dieE (cl / 4)).inReset &&
    s.clusPresent cl

/-- Whether its processor executes the next instruction. -/
def State.seqReady (s : State) (cl : Nat) : Bool := s.seqLive cl && (s.seqE (s.ctxOn cl) cl).run == .run

/-- The share on a cluster ends with a failure and its sequencer stops (R156, R165, R173). -/
def State.seqFail (s : State) (ctx cl : Nat) (o : Outcm) : State :=
  (s.seqM ctx cl fun q => { q with run := .faulted, ended := q.ended.or (some (o.status, 0, o)) }).setFault ctx o

/-- The CAUSE of a sequencer exception: 0x30 plus a RISC-V code, or a device cause itself (R156). -/
def excCause (code : Nat) : Nat := if code < 16 then 0x30 + code else code

/-- A sequencer exception: SEQ_FAULT keeps the first, a UNC-class record carries it, and the context faults (R156, R175,
Table 8-13). `words` replaces the detail words for a translation fault. -/
def State.seqExc (s : State) (ctx cl code : Nat) (tval pc : BitVec 32)
    (words : Option (BitVec 64 × BitVec 64 × BitVec 64 × BitVec 64) := none) : State :=
  let s := s.clusM cl fun c =>
    if c.fvalid then { c with foverrun := true }
    else { c with fvalid := true, fctx := BitVec.ofNat 12 ctx, fcause := BitVec.ofNat 8 code, ftval := tval, fpc := pc }
  let d := words.getD (BitVec.ofNat 64 tval.toNat, BitVec.ofNat 64 pc.toNat, 0, 0)
  let s := s.failRec (s.clusUid cl) ctx 0 0x10 (excCause code) d
  (s.seqM ctx cl fun q => { q with pc := pc }).seqFail ctx cl
    { status := 0x10, cause := BitVec.ofNat 8 (excCause code), esn := s.lastEsn }

/- Issue. -/

/-- Parameter registers added into the selected fields (R162). -/
def pmPatch (q : SeqCtx) (t : TWord) : TWord :=
  if t.patch then
    ((List.range 4).filter fun k => t.pmask.testBit k && !(t.psrc.testBit k)).foldl
      (fun t k => t.addField k (tabGet q.pm (t.pidx k) 0).toNat) t
  else t

/-- The cores that a broadcast set names on a cluster. -/
def bsetCores (cl : Nat) (m : BitVec 4) : List Nat := (maskList 4 m.toNat).map fun j => 4 * cl + j

/-- The present cores of a cluster, bit j for position j. -/
def State.presentMask (s : State) (cl : Nat) : BitVec 4 :=
  BitVec.ofNat 4 (listMask ((List.range 4).filter fun j => s.corePresent (4 * cl + j)))

/-- The cores of a set whose queue for an engine is full, as a mask (R160, Table 7-8). -/
def State.fullMask (s : State) (ctx cl engine : Nat) (m : BitVec 4) : BitVec 4 :=
  let qn := engineQueue engine
  BitVec.ofNat 4 (listMask ((maskList 4 m.toNat).filter fun j =>
    queueCap qn ≤ ((s.coreE ctx (4 * cl + j)).queue qn).length))

/-- An instruction enters the queue of its engine on every core of its broadcast set (R159, R160). -/
def State.deliver (s : State) (ctx cl : Nat) (e : QEntry) : State :=
  let qn := engineQueue e.word.engine
  (bsetCores cl e.bset).foldl (fun s n => s.coreM ctx n fun c =>
    let l := c.queue qn
    c.setQueue qn (l ++ [{ e with slot := freeSlot l }])) s

/-- The instruction words and descriptors of a sequencer's memories. -/
def SeqCtx.dataBytes (q : SeqCtx) (a n : Nat) : List (BitVec 8) := cellsGet q.dmem a n
def SeqCtx.replayWord (q : SeqCtx) (e : Nat) : TWord :=
  let w := fun i => tabGet q.replay (8 * e + i) 0
  { w0 := w 0, w1 := w 1, w2 := w 2, w3 := w 3, w4 := w 4, w5 := w 5, w6 := w 6, w7 := w 7 }

/-- The issue of one instruction: patches, descriptor copies, broadcast, and the stall for queue room (R159 to R162, R179,
R182). `loc` is its address, the faulting value of a reserved ENGINE code. DESIGN CHOICE (notes/assumptions/35.md): the record of an
instruction with an empty broadcast set takes the words of a queue-take failure, DESC 0xFF, no field and the issue word, with the queue
it would have entered, and 3 for a SYNC instruction; Table 8-13 has no kind for it. -/
def State.issue (s : State) (ctx cl : Nat) (t : TWord) (pc : BitVec 32) (replay : Option Nat) (loc : BitVec 32) : State :=
  let q := s.seqE ctx cl
  if 5 ≤ t.engine then s.seqExc ctx cl 0x23 loc pc
  else
    let t := pmPatch q t
    let tds := match t.op with | some o => copiedTds t o | none => []
    match tds.find? fun i => q.dataExt < 64 * i + 64 with
    | some i => s.seqExc ctx cl 0x22 (BitVec.ofNat 32 (64 * i)) pc
    | none =>
      let e : QEntry := { word := t, descs := tds.eraseDups.map fun i => (i, descOfBytes (q.dataBytes (64 * i) 64)),
                          step := q.step, epoch := (s.ctxE ctx).epoch, cluster := cl, issueNo := q.issueNo, pc := pc,
                          replay := replay, bset := q.bmask &&& s.presentMask cl }
      let s := s.seqM ctx cl fun q => { q with issueNo := q.issueNo + 1 }
      if e.bset = 0 then
        let s := s.failRec (s.clusUid cl) ctx t.opcode 0x13 0 (badWords (badRow 0) (issueWord e (if t.engine = 4 then 3 else engineQueue t.engine)))
        s.setFault ctx { status := 0x13, esn := s.lastEsn }
      else if t.engine = 4 then
        s.seqM ctx cl fun q => { q with sync := some e, syncWait := false, syncDone := 0,
                                        run := if replay.isNone then .waitIssue else q.run }
      else if s.fullMask ctx cl t.engine e.bset = 0 then s.deliver ctx cl e
      else
        let m := s.fullMask ctx cl t.engine e.bset
        s.seqM ctx cl fun q => { q with stalled := [e], run := if replay.isNone then .stallQueue m else q.run }

/- What the processor and the issue stage wait for. -/

/-- Whether every instruction issued to the engines of a mask has completed on every core of the cluster (Table 7-2). -/
def State.drained (s : State) (ctx cl : Nat) (mask : BitVec 4) : Bool :=
  (s.clusCores cl).all fun n =>
    let c := s.coreE ctx n
    (c.mxeQ ++ c.vxeQ ++ c.dxeQ).all fun e => !(mask.getLsbD e.word.engine)

/-- Whether a captured checked tile of a context awaits its comparison (R343). -/
def State.unchecked (s : State) (ctx : Nat) : Bool :=
  (s.coresOf ctx).any fun n => (s.coreE ctx n).shadows.any fun h => h.closed

/-- A TFENCE over a mask ends: rd shows its engines' flags, which it clears (Table 7-2). -/
def SeqCtx.endFence (q : SeqCtx) (mask : BitVec 4) (rd : Nat) : SeqCtx :=
  { (q.setX rd (if q.fence &&& mask = 0 then 0 else 1)).retire q.pc with fence := q.fence &&& ~~~mask }

/-- The share of an ended program completes: norm partials are merged, then DONE or DONE_FLAGGED with a0, or the merge's
failure (R172, R119). -/
def State.endShare (s : State) (ctx cl : Nat) (a0 : BitVec 32) : State :=
  let (s, o) := (s.clusCores cl).foldl (fun (p : State × Option Outcm) n =>
    let (s, o) := p.1.flushNorms ctx n
    (s, p.2.or o)) (s, none)
  s.seqM ctx cl fun q =>
    match o with
    | some o => { q with run := .faulted, ended := some (o.status, 0, o) }
    | none => { q with run := .idle, ended := some (if q.flagged then 1 else 0, a0, {}) }

/-- An issue-class action takes effect (R158). -/
def State.act (s : State) (ctx cl : Nat) (a : IssueAct) : State :=
  let q := s.seqE ctx cl
  let done := fun (f : SeqCtx → SeqCtx) => s.seqM ctx cl fun q => (f q).retire q.pc
  match a with
  | .tissue pc addr =>
    if addr.toNat % 32 ≠ 0 then s.seqExc ctx cl 4 addr pc
    else if q.dataExt < addr.toNat + 32 then s.seqExc ctx cl 5 addr pc
    else (done id).issue ctx cl (twordOfBytes (q.dataBytes addr.toNat 32)) pc none addr
  | .replay pc first count =>
    if count = 0 || 1024 < count.toNat || q.replayExt < first.toNat + count.toNat then s.seqExc ctx cl 0x21 first pc
    else done fun q => { q with replayPos := some (first.toNat, count.toNat), replayPc := pc }
  | .pmset add pm v =>
    done fun q => { q with pm := tabSet q.pm pm (if add then tabGet q.pm pm 0 + v else v) }
  | .qcsig pc unit v =>
    if !(s.unitAt unit 0 1) then s.seqExc ctx cl 0x24 unit pc
    else (done id).sendSignal { ctx := ctx, unit := unit, ctr := bits v 4 0, inc := BitVec.ofNat 16 (bits v 31 16),
                                epoch := (s.ctxE ctx).epoch }
  | .fence _ rd mask =>
    s.seqM ctx cl fun q => { q with run := .waitFence (if mask = 0 then 0xF else mask) rd }
  | .ctrStore addr v =>
    let core := 4 * cl + bits addr 9 8
    if s.corePresent core then
      (done fun q => { q with ctrWrites := q.ctrWrites ++ [(core, q.issueNo, bits addr 7 0, v)] }).applyCtr ctx core
    else done id
  | .repStore addr v => done fun q => { q with replay := tabSet q.replay ((addr.toNat - 0x40000) / 4) v }
  | .bmask v => done fun q => { q with bmask := BitVec.ofNat 4 (bits v 3 0) &&& q.job }
  | .stepadv =>
    if s.unchecked ctx then s.seqM ctx cl fun q => { q with run := .stepWait }
    else done fun q => { q with step := q.step + 1 }

/-- One move of the issue stage or of a waiting processor, where one can be made: a stalled instruction is delivered, the
replay issues an entry, the issue-class action behind it takes effect, a fence, an ending or a step advance completes
(R158, R160, R163, R172, R343). -/
def State.pumpOnce (s : State) (ctx cl : Nat) : Option State :=
  let q := s.seqE ctx cl
  if (s.runE ctx).fault.isSome || q.sync.isSome then none
  else match q.stalled with
    | e :: r =>
      if s.fullMask ctx cl e.word.engine e.bset = 0 then
        some ((s.seqM ctx cl fun q => { q with stalled := r, run := match q.run with | .stallQueue _ => .run | x => x }).deliver ctx cl e)
      else none
    | [] => match q.replayPos with
      | some (i, n + 1) =>
        some ((s.seqM ctx cl fun q => { q with replayPos := if n = 0 then none else some (i + 1, n) }).issue ctx cl
          (q.replayWord i) q.replayPc (some i) (BitVec.ofNat 32 (0x40000 + 32 * i)))
      | _ => match q.run with
        | .waitReplay a => some ((s.seqM ctx cl fun q => { q with run := .run }).act ctx cl a)
        | .waitFence mask rd => if s.drained ctx cl mask then some (s.seqM ctx cl fun q => q.endFence mask rd) else none
        | .ending a0 => if s.drained ctx cl 0xF && !(s.unchecked ctx) then some (s.endShare ctx cl a0) else none
        | .stepWait => if s.unchecked ctx then none else some (s.seqM ctx cl fun q => { q with step := q.step + 1 }.retire q.pc)
        | _ => none

/-- Moves for as long as one can be made; the fuel covers a replay, the action behind it and the replay that starts. -/
def State.pumpN : Nat → State → Nat → Nat → State
  | 0, s, _, _ => s
  | n + 1, s, ctx, cl =>
    match s.pumpOnce ctx cl with
    | some s' => pumpN n s' ctx cl
    | none => s.seqM ctx cl fun q => match q.run, q.stalled with
      | .stallQueue _, e :: _ => { q with run := .stallQueue (s.fullMask ctx cl e.word.engine e.bset) }
      | _, _ => q

def State.pump (s : State) (ctx cl : Nat) : State := s.pumpN 2100 ctx cl

/-- An issue-class instruction: it takes effect, or waits behind a replay in progress (R158). -/
def State.issueClass (s : State) (cl : Nat) (pc : BitVec 32) (a : IssueAct) : State :=
  let ctx := s.ctxOn cl
  if !(s.seqReady cl) then s
  else (s.seqM ctx cl fun q => { q with pc := pc, run := .waitReplay a }).pump ctx cl

/- The custom instructions of Table 7-2 and the stores of R158. -/

def execTissue (cl : Cluster) (pc rs1 : BitVec 32) (s : State) : Out := .next (s.issueClass cl.val pc (.tissue pc rs1))

def execTreplay (cl : Cluster) (pc rs1 rs2 : BitVec 32) (s : State) : Out :=
  .next (s.issueClass cl.val pc (.replay pc rs1 rs2))

def execPmsetW (cl : Cluster) (pc : BitVec 32) (pm : Fin 64) (rs1 : BitVec 32) (s : State) : Out :=
  .next (s.issueClass cl.val pc (.pmset false pm.val rs1))

def execPmsetA (cl : Cluster) (pc : BitVec 32) (pm : Fin 64) (rs1 : BitVec 32) (s : State) : Out :=
  .next (s.issueClass cl.val pc (.pmset true pm.val rs1))

def execQcsig (cl : Cluster) (pc rs1 rs2 : BitVec 32) (s : State) : Out := .next (s.issueClass cl.val pc (.qcsig pc rs1 rs2))

def execTfence (cl : Cluster) (pc : BitVec 32) (rd : Fin 32) (rs1 : BitVec 32) (s : State) : Out :=
  .next (s.issueClass cl.val pc (.fence pc rd.val (BitVec.ofNat 4 (bits rs1 3 0))))

/-- COUNTER_WINDOW_STORE: a 32-bit store at 0x0005_0000 to 0x0005_03FF; a misaligned one is the exception of R155. -/
def execCounterWindowStore (cl : Cluster) (pc addr v : BitVec 32) (s : State) : Out :=
  .next (
    if !(s.seqReady cl.val) || addr.toNat < 0x50000 || 0x50400 ≤ addr.toNat then s
    else if addr.toNat % 4 ≠ 0 then s.seqExc (s.ctxOn cl.val) cl.val 6 addr pc
    else s.issueClass cl.val pc (.ctrStore addr v))

/-- REPLAY_BUFFER_STORE: a 32-bit store into an entry below REPLAY_EXT (Table 7-1). -/
def execReplayBufferStore (cl : Cluster) (pc addr v : BitVec 32) (s : State) : Out :=
  .next (
    if !(s.seqReady cl.val) || addr.toNat < 0x40000 || 0x48000 ≤ addr.toNat then s
    else if addr.toNat % 4 ≠ 0 then s.seqExc (s.ctxOn cl.val) cl.val 6 addr pc
    else if (s.seqE (s.ctxOn cl.val) cl.val).replayExt ≤ (addr.toNat - 0x40000) / 32 then
      s.seqExc (s.ctxOn cl.val) cl.val 7 addr pc
    else s.issueClass cl.val pc (.repStore addr v))

def execSqBmaskWrite (cl : Cluster) (pc v : BitVec 32) (s : State) : Out := .next (s.issueClass cl.val pc (.bmask v))

def execSqStepadv (cl : Cluster) (pc _v : BitVec 32) (s : State) : Out := .next (s.issueClass cl.val pc .stepadv)

/- Reduced scalars. -/

/-- A TAWAIT that waits on a slot takes its oldest value, or fails with a failure token (R165). -/
def State.takeScalar (s : State) (ctx cl : Nat) : State :=
  let q := s.seqE ctx cl
  match q.run with
  | .waitScalar slot rd _ =>
    match tabGet q.slots slot [] with
    | [] => s
    | v :: r =>
      let s := s.seqM ctx cl fun q => { q with slots := tabSet q.slots slot r }
      match v.fail with
      | some o => s.seqFail ctx cl o
      | none => s.seqM ctx cl fun q => (q.setX rd v.bits).retire q.pc
  | _ => s

/-- TAWAIT waits on a return slot, with a timeout class (R165). -/
def State.seqTawait (s : State) (cl : Nat) (pc : BitVec 32) (rd : Nat) (rs1 : BitVec 32) : State :=
  let ctx := s.ctxOn cl
  if !(s.seqReady cl) then s
  else (s.seqM ctx cl fun q => { q with pc := pc, run := .waitScalar (bits rs1 2 0) rd (bits rs1 11 8) }).takeScalar ctx cl

def execTawait (cl : Cluster) (pc : BitVec 32) (rd : Fin 32) (rs1 : BitVec 32) (s : State) : Out :=
  .next (s.seqTawait cl.val pc rd.val rs1)

/-- Whether an earlier VRED that names a slot has yet to put its value or its failure token there (R164). -/
def State.vredBefore (s : State) (ctx cl slot no : Nat) : Bool :=
  (s.seqE ctx cl).tokens.any (fun p => p.1 == slot && p.2.issueNo < no) ||
  (s.clusCores cl).any fun n => (s.coreE ctx n).vxeQ.any fun e =>
    e.cluster == cl && e.issueNo < no && e.result.all (fun o => 0x10 ≤ o.status.toNat) && match e.word.op with
      | some (.vred ph true _) => ph != 1 && ph != 2 && e.word.mod % 8 == slot
      | _ => false

/-- The oldest sum of a slot that the return combiner of a cluster holds, where every core of its VRED's broadcast set has sent its
accumulator, the slot has room and no earlier VRED of the slot is outstanding: its issue number, the accumulators in core order, and the
cores (R57, R135, R164). -/
def State.combined (s : State) (ctx cl slot : Nat) : Option (Nat × List (Nat × Nat × Nat × LA) × List Nat) :=
  let q := s.seqE ctx cl
  let mine := q.combine.filter fun p => p.1 == slot
  match (mine.map fun p => p.2.1).min? with
  | none => none
  | some no =>
    let bset := match mine.find? fun p => p.2.1 == no with
      | some p => (((s.coreE ctx p.2.2.1).vxeQ.find? fun (e : QEntry) => e.issueNo == no).map QEntry.bset).getD 0
      | none => 0
    let want := (maskList 4 bset.toNat).map fun j => 4 * cl + j
    let parts := want.filterMap fun n => mine.find? fun p => p.2.1 == no && p.2.2.1 == n
    if parts.length < want.length || 4 ≤ (tabGet q.slots slot []).length || s.vredBefore ctx cl slot no then none
    else some (no, parts, want)

/-- The sum of the accumulators that the combiner holds of one VRED, resolved (R135). -/
def combineSum (ctx : Nat) (parts : List (Nat × Nat × Nat × LA)) : LA :=
  laResolve (parts.foldl (fun l p => laAddLA l p.2.2.2) (laClear ctx))

/-- Failure tokens enter their slots, each where the slot has room and no earlier VRED of it is outstanding, and go to a waiting TAWAIT
(R164, R165). -/
def State.enterTokens (s : State) (ctx cl : Nat) : State :=
  (s.seqE ctx cl).tokens.foldl (fun (s : State) p =>
    let held := tabGet (s.seqE ctx cl).slots p.1 []
    if 4 ≤ held.length || s.vredBefore ctx cl p.1 p.2.issueNo then s
    else (s.seqM ctx cl fun q => { q with
      tokens := q.tokens.filter (fun t => t != p), slots := tabSet q.slots p.1 (held ++ [p.2]) }).takeScalar ctx cl) s

/-- A sum leaves the combiner. -/
def SeqCtx.uncombine (q : SeqCtx) (slot no : Nat) : SeqCtx :=
  { q with combine := q.combine.filter fun (p : Nat × Nat × Nat × LA) => !(p.1 == slot && p.2.1 == no) }

/-- The VRED of an issue number ends on some cores. -/
def State.endVred (s : State) (ctx no : Nat) (cores : List Nat) (o : Outcm) : State :=
  cores.foldl (fun (s : State) n => s.coreM ctx n fun c =>
    { c with vxeQ := updFirst (fun (e : QEntry) => e.issueNo == no) (fun (e : QEntry) => { e with result := some o }) c.vxeQ }) s

/-- SCALAR_RETURN: the combiner's oldest complete sum for a slot is added, resolved, checked, rounded to F32 with RNE and
delivered where the slot has room; the VRED completes on every core (R135, R164). -/
def execScalarReturn (cl : Cluster) (slot : Fin 8) (s : State) : Out :=
  let ctx := s.ctxOn cl.val
  .next (if s.frozen then s else match s.combined ctx cl.val slot.val with
  | none => s
  | some (no, parts, want) =>
    let sum := combineSum ctx parts
    let s := s.seqM ctx cl.val fun q => q.uncombine slot.val no
    if laMismatch sum then
      let (s, n) := s.sdcRec (s.clusUid cl.val) 0x80 ctx 0 (sdcWords sum 5 0 slot.val 0)
      s.endVred ctx no want { status := 0x18, esn := n }
    else
      let v : RetVal := { bits := BitVec.ofNat 32 (lehrRound 10 true 0 (laValue sum) 127 0 0).code, issueNo := no }
      let s := s.seqM ctx cl.val fun q => { q with slots := tabSet q.slots slot.val (tabGet q.slots slot.val [] ++ [v]) }
      ((s.endVred ctx no want {}).takeScalar ctx cl.val).enterTokens ctx cl.val)

/-- QCWAIT: waits until a counter of this sequencer reaches its threshold (R202). -/
def State.seqQcwait (s : State) (cl : Nat) (pc rs1 rs2 : BitVec 32) : State :=
  let i := bits rs1 4 0
  let t := BitVec.ofNat 16 (bits rs2 15 0)
  if !(s.seqReady cl) then s
  else s.seqM (s.ctxOn cl) cl fun q =>
    if reached (tabGet q.qc i {}).value.toNat t.toNat then q.retire pc
    else { q with pc := pc, run := .waitQc i t (bits rs1 11 8) }

def execQcwait (cl : Cluster) (pc rs1 rs2 : BitVec 32) (s : State) : Out := .next (s.seqQcwait cl.val pc rs1 rs2)

/-- ECALL: with a7 = 0 the program ends once everything it issued has completed; any other a7 is an exception (R172). -/
def State.seqEcall (s : State) (cl : Nat) (pc a7 a0 : BitVec 32) : State :=
  let ctx := s.ctxOn cl
  if !(s.seqReady cl) then s
  else if a7 ≠ 0 then s.seqExc ctx cl 0x25 a7 pc
  else (s.seqM ctx cl fun q => { q with pc := pc, run := .ending a0 }).pump ctx cl

def execEcall (cl : Cluster) (pc a7 a0 : BitVec 32) (s : State) : Out := .next (s.seqEcall cl.val pc a7 a0)

/-- EBREAK: halts for a debugger where the context runs with debug privilege, else the breakpoint exception (R156). -/
def State.seqEbreak (s : State) (cl : Nat) (pc : BitVec 32) : State :=
  let ctx := s.ctxOn cl
  if !(s.seqReady cl) then s
  else if (s.runE ctx).debug then s.seqM ctx cl fun q => { q with pc := pc, run := .halted }
  else s.seqExc ctx cl 3 pc pc

def execEbreak (cl : Cluster) (pc : BitVec 32) (s : State) : Out := .next (s.seqEbreak cl.val pc)

/-- SEQUENCER_STOP: every sequencer of a faulted context stops and its share ends; the other modules of a span job hear of it through the
master (R173). -/
def execSequencerStop (ctx : CtxId) (s : State) : Out :=
  let c := ctx.toNat
  .next (match (s.runE c).fault with
  | none => s
  | some f =>
    let (m, o) := s.faultOut f
    (s.stopSeqs c o).tellStop c o m)

/- SYNC instructions at the issue stage (R199). -/

/-- Row 9 of a SYNC instruction, with the field that fails it: the flag it requires is clear, SCSET has an increment, is patched, or
lacks the debug privilege, which is no field (R177, R199, Table 8-13). -/
def syncRow9 (t : TWord) (o : Op) (debug : Bool) : List Bad :=
  match o with
  | .sig => if t.sigv then [] else [badIn t 9 0 13 1]
  | .wait => if t.waitv then [] else [badIn t 9 0 12 1]
  | _ => (if t.sigv then [] else [badIn t 9 0 13 1]) ++ (if t.sinc = 0 then [] else [badIn t 9 2 16 16]) ++
      (if t.patch then [badPatch t] else []) ++ (if debug then [] else [badRow 9])

/-- The checks of a SYNC instruction: rows 1 to 4, 8 and 9 of Table 8-4 as far as they concern it (R177 to R181, R199). -/
def State.syncBad (s : State) (ctx : Nat) (t : TWord) : Option Bad :=
  match t.op with
  | none => some (badIn t 1 0 0 8)
  | some o =>
    let srcs := (cntFields t).map fun k => badIn t 8 7 (6 * k) 6
    let r8 := (row8 {} { t with w7 := 0 } 4).filter fun b => b.word != 7
    pickBad (row2 t o [] ++ row3 t o ++ s.row4 t o ++ srcs ++ r8 ++ syncRow9 t o (s.runE ctx).debug)

/-- The issue stage has finished with its SYNC instruction. -/
def SeqCtx.leaveSync (q : SeqCtx) : SeqCtx :=
  { q with sync := none, syncWait := false, syncDone := 0, run := match q.run with | .waitIssue => .run | x => x }

/-- What SCSET sets: one counter of each target; a set in another module leaves in class C, a group there with FANOUT (R199, R206). -/
def State.scsetAll (s : State) (ctx cl : Nat) (e : QEntry) : State :=
  let t := e.word
  let v := BitVec.ofNat 16 (bits t.imm 15 0)
  let one := fun (s : State) (u : BitVec 32) (fan : Bool) =>
    if (uidFields u).module = s.modIdx then s.setCtr ctx u t.sctr v (reg [(4, 8, 8)]) none
    else if bit s.span.withdrawn (uidFields u).module then s.dropFor (uidFields u).module
    else s.emit (.flit (uidFields u).module .c (.scset u (BitVec.ofNat 12 ctx) (BitVec.ofNat 6 t.sctr) v fan))
  match t.sscope with
  | 0 => one s t.w3 false
  | 1 => (bsetCores cl e.bset).foldl (fun s n => one s (s.coreUid n) false) s
  | _ =>
    let u := uidFields t.w3
    if u.module = s.modIdx then (s.coresUnder u).foldl (fun s n => one s (s.coreUid n) false) s else one s t.w3 true

/-- The issue stage carries out the SYNC instruction it holds, if it is the one `sel` names: checks, wait, effect. -/
def State.syncRun (s : State) (cl : Nat) (sel : Op → Bool) : State :=
  let ctx := s.ctxOn cl
  let q := s.seqE ctx cl
  if !(s.seqLive cl) || (s.runE ctx).fault.isSome then s
  else match q.sync with
    | none => s
    | some e =>
      let t := e.word
      if !((t.op.map sel).getD true) then s
      else match s.syncBad ctx t with
        | some b =>
          let s := s.failRec (s.clusUid cl) ctx t.opcode b.status b.cause (badWords b (issueWord e 3))
          (s.seqM ctx cl SeqCtx.leaveSync).setFault ctx
            { status := BitVec.ofNat 8 b.status, cause := BitVec.ofNat 8 b.cause, esn := s.lastEsn }
        | none =>
          let now : BitVec 4 :=
            if t.wscope then (if reached (tabGet q.qc t.wctr {}).value.toNat t.wthresh then 0xF else 0)
            else BitVec.ofNat 4 (listMask ((maskList 4 e.bset.toNat).filter fun j =>
              reached (tabGet (s.coreE ctx (4 * cl + j)).sc t.wctr {}).value.toNat t.wthresh))
          let done := q.syncDone ||| now
          if t.waitv && done &&& e.bset != e.bset then s.seqM ctx cl fun q => { q with syncWait := true, syncDone := done }
          else
            let s := s.seqM ctx cl SeqCtx.leaveSync
            let s := match t.op with
              | some .scset => s.scsetAll ctx cl e
              | _ => if t.sigv then s.signalOf ctx t e.epoch (bsetCores cl e.bset) else s
            s.pump ctx cl

def execSig (cl : Cluster) (s : State) : Out := .next (s.syncRun cl.val (· == .sig))

def execWait (cl : Cluster) (s : State) : Out := .next (s.syncRun cl.val (· == .wait))

def execScset (cl : Cluster) (s : State) : Out := .next (s.syncRun cl.val (· == .scset))

end Sys2Proof.Machine
end

