-- ==== Sys2Proof/Machine/Completion.lean ====
section
/-! DEFINITION. How instructions complete, what the fault of a context does everywhere, and waits that time out (R126,
R181, R188, R208, R209, R215). -/

namespace Sys2Proof.Machine

/-- The failure token of a failed VRED with scalar return takes its place in the order of its slot, once for all its cores
(R164, R165). -/
def State.failToken (s : State) (ctx : Nat) (e : QEntry) (o : Outcm) : State :=
  match e.word.op with
  | some (.vred ph true _) =>
    let slot := e.word.mod % 8
    let q := s.seqE ctx e.cluster
    let known := (tabGet q.slots slot [] ++ (q.tokens.filter fun p => p.1 == slot).map Prod.snd).any fun v =>
      v.issueNo == e.issueNo && v.fail.isSome
    if ph = 1 || ph = 2 || known then s
    else (s.seqM ctx e.cluster fun q => { q with tokens := q.tokens ++ [(slot, { fail := some o, issueNo := e.issueNo })] }).enterTokens
      ctx e.cluster
  | _ => s

/-- The context that holds a queue entry on a core: the one that runs there, or one whose old placement behind an open fence
includes the core (R215, R216). -/
def State.entryCtx (s : State) (core q slot : Nat) : Nat :=
  let old := (s.runs.filter fun p => p.2.fence.any fun f => f.cores.getLsbD core).map Prod.fst
  ((s.ctxOn (core / 4) :: old).find? fun c => ((s.entryE c core q slot).any fun e => e.result.isSome)).getD (s.ctxOn (core / 4))

/-- INSTRUCTION_COMPLETE: an instruction whose execution has ended completes: its entry is free, its flag and signal go
out, one of a superseded placement completes with STALE_EPOCH, and what waits for it goes on (R126, R160, R172, R181,
R215). -/
def execInstructionComplete (c : CoreN) (q : Fin 3) (slot : Nat) (s : State) : Out :=
  let core := c.val
  let ctx := s.entryCtx core q.val slot
  .next (match s.entryE ctx core q.val slot with
  | none => s
  | some e =>
    match e.result with
    | none => s
    | some o =>
      if s.frozen then s else
      let stale := e.epoch != (s.ctxE ctx).epoch
      let o : Outcm := if stale then { status := 0x17 } else o
      let s := if e.word.op == some .dcow then s.dcowRelease ctx core slot else s
      let s := s.coreM ctx core fun c =>
        { c.setQueue q.val ((c.queue q.val).filter fun x => x.slot != slot) with
          staleDone := c.staleDone + b2n stale }
      let flag : BitVec 4 := if o.status = 1 then BitVec.ofNat 4 (2 ^ e.word.engine) else 0
      let s := s.seqM ctx e.cluster fun q => { q with fence := q.fence ||| flag, flagged := q.flagged || o.status = 1 }
      let ok := o.status = 0 || o.status = 1
      let s := if ok && e.word.sigv then s.signalOf ctx e.word e.epoch [core] else s
      let s := if ok || stale then s else s.failToken ctx e o
      -- a pass whose arrays ramped up leaves them at speed (R86, Table 4-9)
      let s := match e.word.op with
        | some .mmul | some .mmula => s.physM core fun p => (arrayList e.word).foldl (fun p a =>
            if tabGet p.arrState a 0 = 1 then { p with arrState := tabSet p.arrState a 2 } else p) p
        | _ => s
      s.pump ctx e.cluster)

/-- The fault of a context on one of its cores: an active VXE instruction has ended, the active DXE and CXE instructions end with
that outcome, the untaken ones leave, and the core reports how many (R188). -/
def State.faultCore (s : State) (c n : Nat) (o : Outcm) : State :=
  let s := s.coreM c n fun k => { k with vxeQ := k.vxeQ.map fun e =>
    if e.taken && e.result.isNone then { e with result := some {} } else e }
  let (s, cnt) := s.flushCore c n o
  s.infoOther (s.coreUid n) c 0 (BitVec.ofNat 64 cnt)

/-- CONTEXT_FAULT: the active DXE and CXE instructions of a faulted context end with CAUSE 0x0A, untaken ones complete
without executing, and each core reports how many (R188). -/
def execContextFault (ctx : CtxId) (s : State) : Out :=
  let c := ctx.toNat
  .next (match (s.runE c).fault with
  | none => s
  | some f =>
    if f.flushed then s
    else
      let o : Outcm := { status := 0x10, cause := 0x0A, esn := f.esn }
      let (s, _) := s.dropIssue c
      let s := (s.coresOf c).foldl (fun s n => s.faultCore c n o) s
      let s := s.dropColls c
      s.runM c fun r => { r with fault := some { f with flushed := true } })

/-- The detail words of a WAIT_TIMEOUT record (Table 9-4). -/
def timeoutWords (d0 : BitVec 64) (limit tclass thresh : Nat) (d2 : BitVec 64) (wunit : BitVec 32) :
    BitVec 64 × BitVec 64 × BitVec 64 × BitVec 64 :=
  (d0, reg [(limit, 20, 28), (tclass, 16, 4), (thresh, 0, 16)], d2, reg [(wunit.toNat, 0, 32)])

/-- D0 of Table 9-4 for a counter. -/
def timeoutCtr (c : Ctr) (wepoch : BitVec 4) (qc : Bool) (i : Nat) (unit : BitVec 32) : BitVec 64 :=
  reg [(c.value.toNat, 48, 16), (wepoch.toNat, 44, 4), (c.epoch.toNat, 40, 4), (b2n qc, 38, 1), (i, 32, 6), (unit.toNat, 0, 32)]

/-- A context's timeout of a class, in microseconds (R208). -/
def State.limitOf (s : State) (ctx tclass : Nat) : Nat := ((s.ctxE ctx).timeouts.getD tclass 0).toNat

/-- WAIT_TIMEOUT: a wait that is pending expires: the waiter completes with WAIT_TIMEOUT and its context faults; one that
its counter satisfies is left alone (R203, R208, R209). -/
def execWaitTimeout (w : WaitRef) (s : State) : Out :=
  .next (match w with
  | .engine c q =>
    let ctx := s.ctxOn (c.val / 4)
    match (s.coreE ctx c.val).head q.val with
    | none => s
    | some e =>
      let ctr := s.waitCtr ctx c.val e
      let t := e.word
      if !(s.takes ctx c.val) || !e.waiting || e.waitDone || reached ctr.value.toNat t.wthresh then s
      else
        let unit := if t.wscope then s.clusUid e.cluster else s.coreUid c.val
        s.failEntry ctx c.val q.val e 0x15 0
          (timeoutWords (timeoutCtr ctr (s.ctxE ctx).epoch t.wscope t.wctr unit) (s.limitOf ctx t.tclass) t.tclass t.wthresh
            (issueWord e q.val) (s.coreUid c.val))
  | .issue cl =>
    let ctx := s.ctxOn cl.val
    let q := s.seqE ctx cl.val
    match q.sync with
    | none => s
    | some e =>
      let t := e.word
      if !(s.seqLive cl.val) || !q.syncWait || q.syncDone &&& e.bset = e.bset then s
      else
        let j := ((maskList 4 e.bset.toNat).find? fun j => !(q.syncDone.getLsbD j)).getD 0
        let u : UnitF := if t.wscope then uidFields (s.clusUid cl.val) else uidFields (s.coreUid (4 * cl.val + j))
        let s := s.failRec (s.clusUid cl.val) ctx t.opcode 0x15 0
          (timeoutWords (timeoutCtr (s.ctrE ctx u t.wctr) (s.ctxE ctx).epoch t.wscope t.wctr (uid u)) (s.limitOf ctx t.tclass)
            t.tclass t.wthresh (issueWord e 3) (s.clusUid cl.val))
        (s.seqM ctx cl.val SeqCtx.leaveSync).setFault ctx { status := 0x15, esn := s.lastEsn }
  | .proc cl =>
    let ctx := s.ctxOn cl.val
    let q := s.seqE ctx cl.val
    let d2 := reg [(q.pc.toNat, 32, 32), (4, 0, 4)]
    let fail := fun (d0 : BitVec 64) (tc th : Nat) =>
      let s := s.failRec (s.clusUid cl.val) ctx 0 0x15 0 (timeoutWords d0 (s.limitOf ctx tc) tc th d2 (s.clusUid cl.val))
      s.seqFail ctx cl.val { status := 0x15, esn := s.lastEsn }
    if !(s.seqLive cl.val) then s
    else match q.run with
      | .waitQc i t tc =>
        fail (timeoutCtr (tabGet q.qc i {}) (s.ctxE ctx).epoch true i (s.clusUid cl.val)) tc t.toNat
      | .waitScalar slot _ tc => fail (reg [(slot, 0, 3)]) tc 0
      | _ => s)

end Sys2Proof.Machine
end

