-- ==== Sys2Proof/Machine/Sched.lean ====
section
/-! DEFINITION. Residency, allocations, slices, switches, eviction, moves and placement fences (R174, R205, R214 to R216,
R271 to R273, 12_contexts_isolation.md). -/

namespace Sys2Proof.Machine

/-- Whether SCH serves: slice ends, residency, dispatch, epoch changes and moves wait for it (Table 18-2). -/
def State.schUp (s : State) : Bool := (s.procE 2).served

/-- Whether the CFC of a cluster serves: switches, image checks, scrubs and check intervals wait for it (Table 18-2). -/
def State.cfcUp (s : State) (cl : Nat) : Bool := (s.procE (3 + cl)).served

/- Large ranges of the physical map. -/

/-- n bytes at `dst` become what [src, src+n) holds. -/
def State.copyRange (s : State) (src dst n : Nat) : State :=
  let from_ := s.mem.cells.filter fun c => src ≤ c.1 && c.1 < src + n
  { s with mem := { s.mem with
    cells := from_.foldl (fun cs c => cellPut cs (dst + (c.1 - src)) c.2) (cellsZero s.mem.cells dst n) } }

/-- The stacks of stack memory with the ranges that are interleaved over them: (stacks, base, size) (R244 to R246). -/
def State.regions (s : State) : List (List Nat × Nat × Nat) :=
  let all := s.stackList
  let per := all.length / 4
  if s.sch.interleave || per = 0 then [(all, 0, s.stackCap)]
  else (List.range 4).map fun k => (all.filter fun i => i / 5 == k, k * (per * stackBytes), per * stackBytes)

/-- Lines served in a class, n more (Table 11-16). -/
def Chan.servedN (c : Chan) (cls n : Nat) : Chan :=
  match cls with
  | 0 => { c with linesL := c.linesL + n } | 1 => { c with linesG := c.linesG + n }
  | 2 => { c with linesB := c.linesB + n } | _ => { c with linesS := c.linesS + n }

/-- How many lines of [a, a+n) lie on the channel at place i of a region's cnt stacks (R244, R245). -/
def linesOn (base size cnt i ch a n : Nat) : Nat :=
  let lo := (max a base - base) / 4096
  let hi := (min (a + n) (base + size) - base + 4095) / 4096
  let p := 128 * cnt
  let c := i + cnt * ch
  64 * ((hi + p - 1 - c) / p - (lo + p - 1 - c) / p)

/-- Every line of a range counted as served in a class on its channel (Table 11-16). -/
def State.countLines (s : State) (a n cls : Nat) : State :=
  let count := fun (st ch : Nat) =>
    (s.regions.map fun r => match r.1.findIdx? (· == st) with
      | some i => if a + n ≤ r.2.1 || r.2.1 + r.2.2 ≤ a then 0 else linesOn r.2.1 r.2.2 r.1.length i ch a n
      | none => 0).sum
  let rows := (List.range 20).flatMap fun st =>
    if s.stackList.contains st then (List.range 128).map fun ch => (128 * st + ch, (s.chanE st ch).servedN cls (count st ch))
    else s.mem.chan.filter fun p => p.1 / 128 == st
  if n = 0 then s else { s with mem := { s.mem with chan := rows } }

/-- Every line of a range of stack memory written whole under a key: the lines' own marks, poison and errors are gone, and the host's
copies are called back (R252, R253, R256, R277, R284). -/
def State.fillLines (s : State) (a n key : Nat) : State :=
  let inR := fun (line : Nat) => a ≤ line * 64 && line * 64 < a + n
  let s := (s.mem.snoop.filter inR).foldl State.backInv s
  { s with mem := { s.mem with
    fills := (a, n, key) :: s.mem.fills.filter fun (f : Nat × Nat × Nat) => !(a ≤ f.1 && f.1 + f.2.1 ≤ a + n)
    dom := s.mem.dom.filter fun (p : Nat × Nat) => !(inR p.1)
    poison := s.mem.poison.filter fun l => !(inR l)
    flaws := s.mem.flaws.filter fun (p : Nat × Flaw) => !(inR p.1)
    groupLost := s.mem.groupLost.map fun (p : Nat × List (Nat × Nat)) => (p.1, (a, n) :: p.2) } }

/-- Whole lines of stack memory written under a key domain, their bytes put elsewhere. -/
def State.stackClaim (s : State) (a n dom : Nat) : State := s.fillLines a n (s.keyOf dom)

/-- Whether every line of a range of stack memory reads well. Where a line of it may hold an error, poison or another key's data, or lies
on a channel that does not answer, every line is read, with its records; else the lines are only counted (R249, R253, R255, R256). -/
def State.scanLines (s : State) (a n : Nat) (rq : Req) : State × Bool :=
  let inR := fun (line : Nat) => a ≤ line * 64 && line * 64 < a + n
  let key := s.keyOf rq.dom
  let odd := s.mem.poison.any inR || s.mem.flaws.any (fun p => inR p.1) || s.mem.dom.any (fun p => inR p.1 && p.2 != key) ||
    s.mem.fills.any (fun f => f.1 < a + n && a < f.1 + f.2.1 && f.2.2 != key) ||
    s.mem.chan.any (fun p => p.2.state == 3) || !s.mem.groupOff.isEmpty || !s.mem.groupReset.isEmpty || !s.mem.groupLost.isEmpty ||
    s.dies.any fun p => p.2.inReset
  if !odd then (s.countLines a n rq.cls, true)
  else (linesOf a n).foldl (fun (p : State × Bool) l =>
    let (s, ok) := p.1.readLine (l * 64) rq
    (s, p.2 && ok)) (s, true)

/- The program image. -/

/-- n bytes of an image at an offset, as a number. -/
def imgAt (b : List (BitVec 8)) (o n : Nat) : Nat := bytesNat ((b.drop o).take n)

/-- The fields of a program image's header (Table 7-4). -/
structure Header where
  magic : Nat := 0
  version : Nat := 0
  minCores : Nat := 0
  tiles : Nat := 0
  entry : Nat := 0
  textOff : Nat := 0
  textSize : Nat := 0
  dataExt : Nat := 0
  dataOff : Nat := 0
  dataSize : Nat := 0
  replayOff : Nat := 0
  replayCount : Nat := 0
  replayExt : Nat := 0
  winBase : Nat := 0
  storeBytes : Nat := 0
  poolBytes : Nat := 0
  imageSize : Nat := 0
  check : Nat := 0
  deriving DecidableEq, Repr, Inhabited

/-- The header that 64 bytes spell. -/
def headerOf (b : List (BitVec 8)) : Header :=
  { magic := imgAt b 0 4, version := imgAt b 4 2, minCores := imgAt b 6 1, tiles := imgAt b 7 1, entry := imgAt b 8 4
    textOff := imgAt b 12 4, textSize := imgAt b 16 4, dataExt := imgAt b 20 4, dataOff := imgAt b 24 4
    dataSize := imgAt b 28 4, replayOff := imgAt b 32 4, replayCount := imgAt b 36 2, replayExt := imgAt b 38 2
    winBase := imgAt b 40 8, storeBytes := imgAt b 48 4, poolBytes := imgAt b 52 4, imageSize := imgAt b 56 4
    check := imgAt b 60 4 }

/-- The bounds of Table 7-4 and the sections within IMAGE_SIZE: the byte offset and value of the first field that fails
(R168, Table 8-13). DESIGN CHOICE (notes/assumptions/22.md): IMAGE_SIZE below 64, for which Table 7-4 states no bound, fails as a bound
at byte offset 56; and an empty section whose offset lies beyond IMAGE_SIZE fails as one outside the image. -/
def Header.bad (h : Header) : Option (Nat × Nat) :=
  [ (h.minCores < 1 || 4 < h.minCores, 6, h.minCores),
    (h.entry % 2 != 0 || h.textSize ≤ h.entry, 8, h.entry),
    (16 * 2 ^ 20 < h.textSize, 16, h.textSize),
    (h.dataExt % 256 != 0 || 262144 < h.dataExt, 20, h.dataExt),
    (h.dataExt < h.dataSize, 28, h.dataSize),
    (1024 < h.replayCount, 36, h.replayCount),
    (h.replayExt < h.replayCount || 1024 < h.replayExt, 38, h.replayExt),
    (h.winBase % 2 ^ 31 != 0 || 2 ^ 48 ≤ h.winBase, 40, h.winBase),
    (h.imageSize < 64, 56, h.imageSize),
    (h.imageSize < h.textOff + h.textSize, 12, h.textOff),
    (h.imageSize < h.dataOff + h.dataSize, 24, h.dataOff),
    (h.imageSize < h.replayOff + 32 * h.replayCount, 32, h.replayOff) ].find? (·.1) |>.map (·.2)

/-- The header checked by the CFC, MAGIC, VERSION and CHECK first: the header, or the failing field's offset and the word
VALUE of Table 8-13, or a failed access (R168). -/
def State.checkImage (s : State) (g : Agent) (va : Nat) : State × Except (Nat × BitVec 64 ⊕ AccErr) Header :=
  let (s, r) := s.vaRead g va 64
  match r with
  | .error e => (s, .error (.inr e))
  | .ok b =>
    let h := headerOf b
    if h.magic ≠ 0x5051534F then (s, .error (.inl (0, BitVec.ofNat 64 h.magic)))
    else if h.version ≠ 1 then (s, .error (.inl (4, BitVec.ofNat 64 h.version)))
    else
      let (s, r) := s.vaRead g (va + 64) (h.imageSize - 64)
      match r with
      | .error e => (s, .error (.inr e))
      | .ok rest =>
        let crc := crcOf 1 (b.take 60 ++ rest)
        if crc ≠ h.check then (s, .error (.inl (60, reg [(crc, 32, 32), (h.check, 0, 32)])))
        else match h.bad with
          | some (o, v) => (s, .error (.inl (o, BitVec.ofNat 64 v)))
          | none => (s, .ok h)

/- Allocations. -/

/-- The present cores of this module that a job submitted to a unit may use (R170). -/
def State.jobCoresOf (s : State) (unit : BitVec 32) : List Nat :=
  let u := uidFields unit
  if u.level = 4 then (List.range 64).filter s.corePresent else s.coresUnder u

/-- A length in whole 64 KiB granules (R271). -/
def granules (n : Nat) : Nat := ceilDiv n 65536 * 65536

/-- The store allocation of a context on each of its cores: STORE_BYTES, and 1 MiB for the shadow buffer where CHECKF is not
0 (R271, R340). -/
def storeNeed (storeBytes : Nat) (checkf : BitVec 3) : Nat := granules (storeBytes + (if checkf = 0 then 0 else 0x100000))
/-- The pool allocation that a program needs: POOL_BYTES and the sequencer save area, DATA_EXT + 32 × REPLAY_EXT + 4 KiB (R271). -/
def poolNeed (h : Header) : Nat := granules (h.poolBytes + h.dataExt + 32 * h.replayExt + 4096)
/-- The store allocation that a context holds on each of its cores, and its pool allocation on each of its clusters (R271). -/
def State.storeLen (s : State) (ctx : Nat) : Nat := (s.runE ctx).storeLen
def State.poolLen (s : State) (ctx : Nat) : Nat := (s.runE ctx).poolLen

/-- Whether two ranges are apart. -/
def apart (a n b m : Nat) : Bool := n = 0 || m = 0 || a + n ≤ b || b + m ≤ a

/-- The clusters of a set of cores. -/
def clustersOf (cores : List Nat) : List Nat := (cores.map (· / 4)).eraseDups

/-- The base of the firmware range: the top 1 GiB of the range of D0, or of stack memory in module-wide mode (R261, R412). -/
def State.firmBase (s : State) : Nat :=
  (if s.sch.interleave then s.stackCap else s.stackCap / 4) - 2 ^ 30

/-- Whether the firmware range has opened (R416). -/
def State.firmOpen (s : State) : Bool := s.rangeOpen s.firmBase

/-- What a pool offers for residency: 14 MiB in the one that holds the context table (R416). -/
def State.poolRoom (s : State) (cl : Nat) : Nat :=
  if s.boot.tableInPool && (List.range 4).find? s.clusPresent == some cl then 14 * 2 ^ 20 else 16 * 2 ^ 20

/-- Whether allocations at these offsets meet no allocation of another resident context and none behind an open fence
(R216, R271). -/
def State.allocFits (s : State) (ctx : Nat) (cores : List Nat) (so sl po pl : Nat) : Bool :=
  so % 65536 = 0 && po % 65536 = 0 && so + sl ≤ 8 * 2 ^ 20 &&
  (clustersOf cores).all (fun cl => po + pl ≤ s.poolRoom cl) &&
  s.runs.all fun p =>
    let r := p.2
    let clash := fun (cs : List Nat) (o n q m : Nat) =>
      ((cs.any fun c => cores.contains c) && !(apart so sl o n)) ||
      ((clustersOf cs).any fun k => (clustersOf cores).contains k) && !(apart po pl q m)
    !(p.1 != ctx && r.resident && clash (maskList 64 r.jobCores.toNat) r.storeOff (s.storeLen p.1) r.poolOff (s.poolLen p.1)) &&
    match r.fence with
    | some f => !(clash (maskList 64 f.cores.toNat) f.storeOff f.storeLen f.poolOff f.poolLen)
    | none => true

/-- How many contexts are resident on a cluster (R271). -/
def State.residents (s : State) (cl : Nat) : List Nat :=
  (s.runs.filter fun p => p.2.resident && (s.jobClusters p.1).contains cl).map Prod.fst

/-- Contexts resident on at least one cluster (CTX_SCHED.RESIDENT). -/
def State.residentCount (s : State) : Nat := (s.runs.filter fun p => p.2.resident).length

/- Save areas. -/

/-- The bytes of a save area: STORE_BYTES for every job core, POOL_BYTES for every job cluster, 512 KiB per cluster
(R273). -/
def saveSize (storeBytes poolBytes cores clusters : Nat) : Nat :=
  storeBytes * cores + poolBytes * clusters + 524288 * clusters

/-- The ranges of a context's allocations with their places in its save area, in the order of R273
(notes/assumptions/18.md): (physical base, length, offset in the save area). -/
def State.saveMap (s : State) (ctx : Nat) : List (Nat × Nat × Nat) :=
  let r := s.runE ctx
  let cores := s.jobCoreList ctx
  let cls := s.jobClusters ctx
  (cores.zipIdx.map fun p => (storeBase p.1 + r.storeOff, r.storeBytes, r.storeBytes * p.2)) ++
  (cls.zipIdx.map fun p => (poolBase p.1 + r.poolOff, r.poolBytes, r.storeBytes * cores.length + r.poolBytes * p.2))

/-- Where a context's save area ends, from its base. -/
def State.saveLen (s : State) (ctx : Nat) : Nat :=
  let r := s.runE ctx
  saveSize r.storeBytes r.poolBytes (s.jobCoreList ctx).length (s.jobClusters ctx).length

/-- The request by which SCH and the CFCs move a context's save area, in class L (R249; notes/assumptions/18.md). -/
def State.saveReq (s : State) (ctx : Nat) : Req :=
  { ctx := ctx, cls := 0, unit := s.modUid, dom := (s.ctxE ctx).keydom.toNat }

/-- Whether a context has issuable work: a sequencer of it that does not wait, or an instruction in a queue that does not wait on a
counter (R272). -/
def State.hasWork (s : State) (c : Nat) : Bool :=
  ((s.jobClusters c).any fun k => match (s.seqE c k).run with | .run | .stallQueue _ | .waitReplay _ => true | _ => false) ||
  (s.jobCoreList c).any fun n =>
    let k := s.coreE c n
    (k.mxeQ ++ k.vxeQ ++ k.dxeQ).any fun e => e.result.isNone && !(e.waiting && !e.waitDone)

/-- Whether a context waits for its clusters: RUNNING by its state, resident, and not on them (R272). -/
def State.waitsTurn (s : State) (c : Nat) : Bool :=
  (s.ctxE c).state == .running && (s.runE c).resident && !(s.runE c).running && !(s.runE c).evicted

/-- Effective priority (R272). -/
def State.effPrio (s : State) (c : Nat) : Nat := min 7 ((s.ctxE c).prio.toNat + (s.runE c).waited / 8)

/-- Whether two contexts are resident on a common cluster. -/
def State.shareCluster (s : State) (c d : Nat) : Bool := (s.jobClusters c).any fun k => (s.jobClusters d).contains k

/-- Whether SCH prefers context c to d: work before none, then effective priority, then the least recently run (R272). -/
def State.prefers (s : State) (c d : Nat) : Bool :=
  (s.hasWork c && !(s.hasWork d)) ||
  (s.hasWork c == s.hasWork d &&
    (s.effPrio d < s.effPrio c || s.effPrio c == s.effPrio d && (s.runE c).lastRun < (s.runE d).lastRun))

/-- Whether context c is one that could run now on clusters of d, and comes before d (R272). -/
def State.goesBefore (s : State) (c d : Nat) : Bool := s.waitsTurn c && c != d && s.shareCluster c d && s.prefers c d

/-- Whether the slice of a running context is over: it has ended, or the context has no issuable work (R272). -/
def State.sliceOver (s : State) (c : Nat) : Bool := (s.runE c).expired || !(s.hasWork c)

/-- Whether no MXE instruction of a context is under way (R88). -/
def State.mxeIdle (s : State) (c : Nat) : Bool := (s.jobCoreList c).all fun n => (s.coreE c n).mxeQ.all fun e => !e.taken

/-- Whether a context that runs may leave its clusters: its slice is over, another context waits there that it does not come before, and
no MXE instruction of it is under way (R88, R272). -/
def State.mayLeave (s : State) (c : Nat) : Bool :=
  (s.runE c).running && s.sliceOver c && ((s.runs.map Prod.fst).any fun d => s.goesBefore d c) && s.mxeIdle c

/-- SLICE_EXPIRY: the slice of the context on a cluster ends; each context that waits there while ready has waited one more (R272). -/
def execSliceExpiry (cl : Cluster) (s : State) : Out :=
  .next (if !s.schUp || !(s.cfcUp cl.val) then s else (s.residents cl.val).foldl (fun s c =>
    if (s.ctxE c).state = .running && !(s.runE c).running && s.hasWork c then s.runM c fun r => { r with waited := r.waited + 1 }
    else if (s.runE c).running then s.runM c fun r => { r with expired := true }
    else s) s)

/-- A context leaves its clusters: its norm partials are merged, its arrays become cold, its stationary sets keep their contents but count
as not loaded in the next slice, its translations leave the caches, and the units are free (R79, R88, R119, R174, R272). -/
def State.switchOut (s : State) (ctx : Nat) : State :=
  let s := (s.jobCoreList ctx).foldl (fun (s : State) n =>
    let s := (s.flushNorms ctx n).1
    s.coreM ctx n fun c => { c with
      anchor := none
      arrays := c.arrays.map fun (p : Nat × ArrCtx) => (p.1, { p.2 with
        time := { cold := true }, active := { p.2.active with loaded := false }, shadow := { p.2.shadow with loaded := false } }) }) s
  let s := s.dropLeaves ctx
  let s := (s.jobClusters ctx).foldl (fun (s : State) k =>
    if s.ctxOn k = ctx then s.clusM k fun c => { c with ctx := 0 } else s) s
  let n := s.sch.stamp + 1
  { (s.runM ctx fun r => { r with running := false, lastRun := n }) with sch := { s.sch with stamp := n } }

/-- The entry of a context is read from the context table, in class L: whether its lines read well (R249, R257, R261). Before the firmware
range opens the table lies in a pool (R416). -/
def State.readCtxLines (s : State) (ctx : Nat) : State × Bool :=
  if !s.firmOpen then (s, true) else s.scanLines (s.firmBase + 512 * ctx) 512 { cls := 0, unit := s.modUid }

/-- A context whose entry or save area reads as poison does not run: its job completes with FAILED_FAULT (Table 11-10). -/
def State.cannotRun (s : State) (ctx : Nat) : State :=
  let o : Outcm := { status := 0x10, esn := s.lastEsn }
  (s.setFault ctx o).stopSeqs ctx o

/-- A context's clusters resume it where it stopped; its entry is read again (R174, R263, R272). -/
def State.switchIn (s : State) (ctx : Nat) : State :=
  let (s, ok) := s.readCtxLines ctx
  if !ok then s.cannotRun ctx else
  let e := s.ctxE ctx
  let n := s.sch.stamp + 1
  let dbg := e.debug && (s.funcE e.func.toNat).debug
  let s := { (s.runM ctx fun r => { r with running := true, waited := 0, lastRun := n, debug := dbg, expired := false, epochDue := false }) with
             sch := { s.sch with stamp := n } }
  let s := (s.jobClusters ctx).foldl (fun (s : State) k => s.clusM k fun c => { c with ctx := ctx }) s
  (s.jobClusters ctx).foldl (fun (s : State) k => s.pump ctx k) s

/-- Whether a context can be put on its clusters: it waits for them, they are free, out of reset and awake, and SCH prefers neither another
context nor the one that leaves (R272, R318). -/
def State.mayRun (s : State) (ctx outc : Nat) : Bool :=
  !s.frozen && ctx != 0 && s.waitsTurn ctx && !(s.jobClusters ctx).isEmpty && (s.runE ctx).fence.isNone &&
  ((s.jobClusters ctx).all fun k =>
    (s.ctxOn k == 0 || s.ctxOn k == outc) && !(s.clusE k).inReset && !(s.clusE k).removed && !(s.dieE (k / 4)).inReset) &&
  !(s.asleep (s.ctxDomains ctx)) && !((s.runs.map Prod.fst).any fun c => c != outc && s.goesBefore c ctx) && (outc == 0 || s.prefers ctx outc)

/-- CONTEXT_SWITCH: outc leaves its clusters at the end of its slice, between MXE instructions, then inc, the one SCH must choose, takes
its own; a context alone on its clusters is never switched (R88, R174, R272). -/
def execContextSwitch (outc inc : CtxId) (s : State) : Out :=
  let o := outc.toNat
  let i := inc.toNat
  .next (
    if !s.schUp || !((s.jobClusters o ++ s.jobClusters i).all s.cfcUp) || (o != 0 && !(s.mayLeave o)) || (i != 0 && !(s.mayRun i o)) || o = i then s
    else
      let s := if o = 0 then s else s.switchOut o
      if i = 0 then s else s.switchIn i)

/-- The allocations of an evicted context come back from its save area; a line of it that is poison leaves the context
unable to run, and its job ends with FAILED_FAULT (R273, Table 11-10). -/
def State.restoreSave (s : State) (ctx : Nat) : State :=
  let base := (s.ctxE ctx).saveBase.toNat
  let (s, ok) := s.scanLines base (s.saveLen ctx) (s.saveReq ctx)
  if ok then
    let s := (s.saveMap ctx).foldl (fun (s : State) p => s.copyRange (base + p.2.2) p.1 p.2.1) s
    s.runM ctx fun r => { r with evicted := false }
  else (s.runM ctx fun r => { r with evicted := false }).cannotRun ctx

/-- The job of a context that SCH has still to place. -/
def State.queuedJob (s : State) (ctx : Nat) : Option Job := s.jobs.find? fun j => j.ctx == ctx && j.phase == .queued

/-- What a queued job needs of stores and pools, from the header of its image; nothing where that header fails the checks of R168, which
end the job at its start (R168, R271). -/
def State.jobNeeds (s : State) (j : Job) : Nat × Nat × Nat × Nat :=
  let g : Agent := { ctx := j.ctx, cluster := (clustersOf (s.jobCoresOf j.unit)).headD 0, cls := 0 }
  match (s.checkImage g j.image.toNat).2 with
  | .ok h => (h.storeBytes, h.poolBytes, storeNeed h.storeBytes (s.ctxE j.ctx).checkf, poolNeed h)
  | .error _ => (0, 0, 0, 0)

/-- CONTEXT_RESIDENT: a context with a queued job takes its slots on every cluster of its unit, or an evicted one returns
from its save area, with its allocations at these offsets (R271, R273). -/
def execContextResident (ctx : CtxId) (storeOff poolOff : Nat) (s : State) : Out :=
  let c := ctx.toNat
  let r := s.runE c
  .next (
    if !s.schUp then s
    else if r.evicted then
      let cores := s.jobCoreList c
      if r.resident || r.fence.isSome || !((s.jobClusters c).all fun k => (s.residents k).length < 8) ||
          !(s.allocFits c cores storeOff (s.storeLen c) poolOff (s.poolLen c)) then s
      else (s.runM c fun r => { r with resident := true, storeOff := storeOff, poolOff := poolOff }).restoreSave c
    else match s.queuedJob c with
      | none => s
      | some j =>
        let cores := s.jobCoresOf j.unit
        let cls := clustersOf cores
        let (sb, pb, sl, pl) := s.jobNeeds j
        if cores.isEmpty || r.running || !(cls.all fun k => ((s.residents k).filter (· != c)).length < 8) ||
            !(s.allocFits c cores storeOff sl poolOff pl) || (cores.any fun n => (s.physE n).inReset) ||
            (cls.any fun k => (s.clusE k).removed || (s.clusE k).inReset || (s.dieE (k / 4)).inReset) then s
        else
          let s := s.runM c fun r => { r with
            resident := true, storeOff := storeOff, poolOff := poolOff, storeBytes := sb, poolBytes := pb, storeLen := sl, poolLen := pl
            jobCores := BitVec.ofNat 64 (listMask cores) }
          s.ctxM c fun e => { e with place := BitVec.ofNat 16 (listMask cls), placeUnit := j.unit })

/-- Whether clusters have a free slot and room for allocations of these lengths (R271, R273). -/
def State.hasRoom (s : State) (ctx : Nat) (cores : List Nat) (sl pl : Nat) : Bool :=
  ((clustersOf cores).all fun k => ((s.residents k).filter (· != ctx)).length < 8) &&
  ((List.range 128).any fun i => s.allocFits ctx cores (65536 * i) sl 0 0) &&
  ((List.range 256).any fun i => s.allocFits ctx cores 0 0 (65536 * i) pl)

/-- Whether a QUEUED context cannot become resident for want of slots or space on clusters that context c holds (R273). -/
def State.wanted273 (s : State) (c : Nat) : Bool :=
  s.jobs.any fun j =>
    let cores := s.jobCoresOf j.unit
    let n := s.jobNeeds j
    j.phase == .queued && j.ctx != c && (s.ctxE j.ctx).state == .queued && !(s.runE j.ctx).resident &&
      ((clustersOf cores).any fun k => (s.jobClusters c).contains k) && !(s.hasRoom j.ctx cores n.2.2.1 n.2.2.2)

/-- What stack memory holds after writes to a range, with every retired page of it as it was; each dropped page is recorded (R259). -/
def State.keepRetired (t s : State) (a n : Nat) : State :=
  let pages := s.mem.cullet.filter fun p => p * 65536 < a + n && a < p * 65536 + 65536
  let inP := fun (x : Nat) => pages.contains (x / 65536)
  if pages.isEmpty then t
  else
    let t := { t with mem := { t.mem with
      cells := (s.mem.cells.filter fun c => inP c.1).foldl (fun cs c => cellPut cs c.1 c.2) (t.mem.cells.filter fun c => !(inP c.1))
      poison := (s.mem.poison.filter fun l => inP (64 * l)).foldl setIns t.mem.poison } }
    pages.foldl (fun (t : State) p => t.infoAccess (.firmware 2) 0 (65536 * p) 0) t

/-- CONTEXT_EVICT: while a QUEUED context wants slots or space, a resident context that does not run, the least recently run of those
that share a cluster with it, is saved to its save area and gives up its slots (R259, R273). The bytes of its sequencer and core state
there are free values: the spec gives them no layout (notes/assumptions/18.md). -/
def execContextEvict (ctx : CtxId) (s : State) : Out :=
  let c := ctx.toNat
  let r := s.runE c
  let older := s.runs.any fun p => p.1 != c && p.2.resident && !p.2.running && p.2.lastRun < r.lastRun && s.shareCluster p.1 c
  .next (
    if !s.schUp || !r.resident || r.running || r.evicted || older || !(s.wanted273 c) then s
    else
      let base := (s.ctxE c).saveBase.toNat
      let t := (s.saveMap c).foldl (fun (s : State) p => s.copyRange p.1 (base + p.2.2) p.2.1) s
      let k := (s.jobClusters c).length
      let (t, bs) := t.freeBytes (524288 * k)
      let t := t.putBytes (base + s.saveLen c - 524288 * k) bs
      let t := ((t.stackClaim base (s.saveLen c) (s.ctxE c).keydom.toNat).countLines base (s.saveLen c) 0).keepRetired s base (s.saveLen c)
      { (t.runM c fun r => { r with resident := false, evicted := true }) with
        sch := { t.sch with evictions := t.sch.evictions + 1 } })

/- Moves. -/

/-- Every counter image of a context takes the new epoch, and so do the instructions it holds (R214). -/
def State.newEpoch (s : State) (ctx : Nat) (ep : BitVec 4) (counters : Bool) : State :=
  let s := s.ctxM ctx fun e => { e with epoch := ep }
  if !counters then s
  else
    let q := fun (l : List QEntry) => l.map fun (e : QEntry) => { e with epoch := ep }
    let put := fun (l : List (Nat × Ctr)) (n : Nat) => (List.range n).foldl (fun l i => tabSet l i { (tabGet l i ({} : Ctr)) with epoch := ep }) l
    let s := (s.jobCoreList ctx).foldl (fun (s : State) n => s.coreM ctx n fun c =>
      { c with sc := put c.sc 48, mxeQ := q c.mxeQ, vxeQ := q c.vxeQ, dxeQ := q c.dxeQ }) s
    (s.jobClusters ctx).foldl (fun (s : State) k => s.seqM ctx k fun x =>
      { x with qc := put x.qc 32, stalled := q x.stalled, sync := x.sync.map fun (e : QEntry) => { e with epoch := ep } }) s

/-- A context's state carried from one set of clusters to another: `mv` names the new cluster of an old one; core
positions stay (R214). -/
def State.moveUnits (s : State) (ctx : Nat) (mv : Nat → Nat) : State :=
  let core := fun (n : Nat) => 4 * mv (n / 4) + n % 4
  let fixE := fun (l : List QEntry) => l.map fun (e : QEntry) => { e with cluster := mv e.cluster }
  let oldC := s.cores.filter fun p => p.1 / 64 == ctx
  let oldQ := s.seqs.filter fun p => p.1 / 16 == ctx
  let cores := oldC.foldl (fun (l : List (Nat × CoreCtx)) p =>
    tabSet l (64 * ctx + core (p.1 % 64)) { p.2 with
      mxeQ := fixE p.2.mxeQ, vxeQ := fixE p.2.vxeQ, dxeQ := fixE p.2.dxeQ
      dcows := p.2.dcows.map fun (d : DcowRun) => { d with core := core d.core } })
    (s.cores.filter fun p => p.1 / 64 != ctx)
  let seqs := oldQ.foldl (fun (l : List (Nat × SeqCtx)) p =>
    tabSet l (16 * ctx + mv (p.1 % 16)) { p.2 with
      stalled := fixE p.2.stalled, sync := p.2.sync.map fun (e : QEntry) => { e with cluster := mv e.cluster }
      ctrWrites := p.2.ctrWrites.map fun (w : Nat × Nat × Nat × BitVec 32) => (core w.1, w.2)
      combine := p.2.combine.map fun (w : Nat × Nat × Nat × LA) => (w.1, w.2.1, core w.2.2.1, w.2.2.2) })
    (s.seqs.filter fun p => p.1 / 16 != ctx)
  { s with cores := cores, seqs := seqs
           protect := s.protect.map fun (p : Nat × Nat) => if p.2 / 64 = ctx then (p.1, 64 * ctx + core (p.2 % 64)) else p }

/-- A context's allocations on its clusters are zero, and what they held lies at these offsets on the new clusters (R214, R216). -/
def State.moveAllocs (s : State) (c : Nat) (mv : Nat → Nat) (storeOff poolOff : Nat) : State :=
  let r := s.runE c
  let img := s.mem.cells
  let take := fun (cs : List Host.Cell) (src dst n : Nat) =>
    (img.filter fun p => src ≤ p.1 && p.1 < src + n).foldl (fun cs p => cellPut cs (dst + (p.1 - src)) p.2) (cellsZero cs dst n)
  let cs := (s.jobCoreList c).foldl (fun cs n => cellsZero cs (storeBase n + r.storeOff) (s.storeLen c)) img
  let cs := (s.jobClusters c).foldl (fun cs k => cellsZero cs (poolBase k + r.poolOff) (s.poolLen c)) cs
  let cs := (s.jobCoreList c).foldl (fun cs n =>
    take cs (storeBase n + r.storeOff) (storeBase (4 * mv (n / 4) + n % 4) + storeOff) (s.storeLen c)) cs
  let cs := (s.jobClusters c).foldl (fun cs k => take cs (poolBase k + r.poolOff) (poolBase (mv k) + poolOff) (s.poolLen c)) cs
  { s with mem := { s.mem with cells := cs } }

/-- The master's order to the other modules: a span context takes a new epoch, in a forced or a clean move (R306). -/
def State.orderEpoch (s : State) (ctx : Nat) (ep : BitVec 4) (forced : Bool) : State :=
  if !(s.runsSpan ctx) then s
  else (maskList 16 s.span.admitted.toNat).foldl (fun (s : State) m =>
    if m = s.modIdx then s else s.emit (.flit m .c (.epoch (BitVec.ofNat 12 ctx) ep forced))) s

/-- Whether a context is ready for a clean move: switched out, with no signal of it in flight, no fence open and no fault (R214, R216). -/
def State.quietCtx (s : State) (c : Nat) : Bool :=
  let r := s.runE c
  s.schUp && r.resident && !r.running && (s.ctxE c).state == .running && r.fence.isNone && r.fault.isNone && s.sigs.all fun g => g.ctx != c

/-- CLEAN_MOVE: a context that is switched out moves to clusters of the same shape: its epoch advances, its counters keep their values,
its allocations move and the old ones are scrubbed (R214, R216). That of a span job takes its epoch from the master alone, on every
module at once: a member asks for it, and moves when the order has come (R306; notes/assumptions/10.md). -/
def execCleanMove (ctx : CtxId) (place : BitVec 16) (storeOff poolOff : Nat) (s : State) : Out :=
  let c := ctx.toNat
  let old := s.jobClusters c
  let new := maskList 16 place.toNat
  let mv := fun (k : Nat) => ((old.zip new).find? fun p => p.1 == k).elim k Prod.snd
  let core := fun (n : Nat) => 4 * mv (n / 4) + n % 4
  let cores := (s.jobCoreList c).map core
  let member := s.runsSpan c && !s.leads
  .next (
    if !(s.quietCtx c && old.length == new.length &&
        (old.zip new).all (fun p => s.presentMask p.1 == s.presentMask p.2 && !(s.clusE p.2).inReset && !(s.clusE p.2).removed &&
          !(s.dieE (p.2 / 4)).inReset) &&
        new.all (fun k => ((s.residents k).filter (· != c)).length < 8) &&
        s.allocFits c cores storeOff (s.storeLen c) poolOff (s.poolLen c)) then s
    else if member && !(s.runE c).epochDue then s.emit (.flit s.leader .c (.moveAsk ctx false))
    else
      let ep := (s.ctxE c).epoch + 1
      let s := if member then s else (s.newEpoch c ep true).orderEpoch c ep false
      let s := s.moveAllocs c mv storeOff poolOff
      let s := s.moveUnits c mv
      let s := s.runM c fun r => { r with
        storeOff := storeOff, poolOff := poolOff, jobCores := BitVec.ofNat 64 (listMask cores), epochDue := false }
      let s := { s with jobs := s.jobs.map fun (j : Job) => if j.ctx = c then { j with shares := j.shares.map mv } else j }
      s.ctxM c fun e => { e with place := place })

/-- The old placement of a context goes behind a fence, and its entry takes a new epoch (R215, R216). -/
def State.openMove (s : State) (ctx : Nat) (ep : BitVec 4) : State :=
  let e := s.ctxE ctx
  let r := s.runE ctx
  let f : Fence := { place := e.place, cores := r.jobCores, epoch := e.epoch, forced := true, storeOff := r.storeOff, poolOff := r.poolOff
                     storeLen := if r.resident then s.storeLen ctx else 0, poolLen := if r.resident then s.poolLen ctx else 0 }
  (s.runM ctx fun r => { r with fence := some f }).newEpoch ctx ep false

/-- An epoch change waits for SCH to serve again (Table 18-2). -/
def State.schWait (s : State) (w : SchWait) : State :=
  if s.sch.waits.contains w then s else { s with sch := { s.sch with waits := s.sch.waits ++ [w] } }

/-- A forced move without its failure: the epoch advances at once unless a fence is open already; while SCH is down it waits. The context
of a span job is moved by the master, on every module, and a member asks it to (R215, R216, R306, R366). -/
def State.moveAway (s : State) (ctx : Nat) : State :=
  if !s.schUp then s.schWait (.move ctx)
  else if s.runsSpan ctx && !s.leads then s.emit (.flit s.leader .c (.moveAsk (BitVec.ofNat 12 ctx) true))
  else if (s.runE ctx).fence.isSome then s
  else
    let ep := (s.ctxE ctx).epoch + 1
    (s.openMove ctx ep).orderEpoch ctx ep true

/-- A forced move: the context fails with that outcome and is moved (R215, R216). -/
def State.forcedMove (s : State) (ctx : Nat) (o : Outcm) : State := (s.setFault ctx o).moveAway ctx

/-- The master's order of a new epoch reaches this module (R306). -/
def State.takeEpoch (s : State) (ctx : Nat) (ep : BitVec 4) (forced : Bool) : State :=
  if (s.ctxE ctx).epoch = ep then s
  else if !s.schUp then s.schWait (.order ctx ep forced)
  else if forced then if (s.runE ctx).fence.isSome then s else s.openMove ctx ep
  else (s.newEpoch ctx ep true).runM ctx fun r => { r with epochDue := true }

/-- A member asks for a move of a span context: the master makes it, a clean one where its own part is ready (R306). -/
def State.takeMoveAsk (s : State) (ctx : Nat) (forced : Bool) : State :=
  if !(s.runsSpan ctx) || !s.leads then s
  else if !s.schUp then s.schWait (.ask ctx forced)
  else if forced then s.moveAway ctx
  else if !(s.quietCtx ctx) then s
  else
    let ep := (s.ctxE ctx).epoch + 1
    (s.newEpoch ctx ep true).orderEpoch ctx ep false

/-- SCH serves again: the epoch changes that waited for it are made, in order (R366, Table 18-2). -/
def State.schServes (s : State) : State :=
  s.sch.waits.foldl (fun (s : State) w => match w with
    | .move c => s.moveAway c
    | .order c ep forced => s.takeEpoch c ep forced
    | .ask c forced => s.takeMoveAsk c forced) { s with sch := { s.sch with waits := [] } }

/-- SWITCH_OUT_TIMEOUT: a unit of a running context fails to switch out, and SCH forces a move (R215). -/
def execSwitchOutTimeout (ctx : CtxId) (s : State) : Out :=
  let c := ctx.toNat
  .next (
    if !s.schUp || !(s.runE c).running || (s.runE c).fence.isSome then s
    else
      let s := s.failRec s.modUid c 0 0x10 0 (0, 0, 0, 0)
      s.forcedMove c { status := 0x10, esn := s.lastEsn })

/-- Zero over a context's allocations on some cores and their clusters (R216, R275). -/
def State.scrubUnits (s : State) (cores : List Nat) (so sl po pl : Nat) : State :=
  let s := cores.foldl (fun (s : State) n => s.zeroBytes (storeBase n + so) sl) s
  (clustersOf cores).foldl (fun (s : State) k => s.zeroBytes (poolBase k + po) pl) s

/-- A context's scrub begins (R275). -/
def State.startScrub (s : State) (ctx : Nat) : State := s.ctxM ctx fun e => { e with state := .scrubbing }

/-- A context whose DESTROY waits for its fence, or whose function scrubs every context at a reset, begins its scrub once it is IDLE or
FAULTED with no fence open (R266, R275, R293). -/
def State.scrubIfAsked (s : State) (c : Nat) : State :=
  let st := (s.ctxE c).state
  let mine := fun (e : Func) => e.ctxBusy && e.ctxCmd.toNat == c
  let asked := (s.funcs.any fun p => mine p.2) || mine s.mgmt.ctxCmd
  if !((s.funcE (s.ctxE c).func.toNat).scrubAll || asked) || !(st == .idle || st == .faulted) || (s.runE c).fence.isSome then s
  else
    let done := fun (e : Func) => if mine e then { e with ctxBusy := false } else e
    let s := { s with funcs := s.funcs.map fun (p : Nat × Func) => (p.1, done p.2)
                      mgmt := { s.mgmt with ctxCmd := done s.mgmt.ctxCmd } }
    s.startScrub c

/-- FENCE_CLOSE: every instruction of the old placement has completed and nothing of its epoch is in flight: the units'
STALE_EPOCH completions are recorded, the old allocations are scrubbed and freed, and a DESTROY that waited begins (R215,
R216, R275). -/
def execFenceClose (ctx : CtxId) (s : State) : Out :=
  let c := ctx.toNat
  .next (match (s.runE c).fence with
  | none => s
  | some f =>
    let cores := maskList 64 f.cores.toNat
    let quiet := (cores.all fun n =>
        let k := s.coreE c n
        (k.mxeQ ++ k.vxeQ ++ k.dxeQ).all fun e => e.epoch != f.epoch) &&
      s.sigs.all fun g => !(g.ctx == c && g.epoch == f.epoch)
    if !quiet || !s.schUp then s
    else
      let s := cores.foldl (fun (s : State) n =>
        let k := (s.coreE c n).staleDone
        if k = 0 then s
        else (s.infoOther (s.coreUid n) c 0 (BitVec.ofNat 64 k)).coreM c n fun x => { x with staleDone := 0 }) s
      let s := s.scrubUnits cores f.storeOff f.storeLen f.poolOff f.poolLen
      let same := (s.runE c).jobCores = f.cores
      let s := s.runM c fun r => { r with fence := none, resident := r.resident && !(f.forced && same) }
      s.scrubIfAsked c)

end Sys2Proof.Machine
end

