-- ==== Sys2Proof/Machine/CtxCmds.lean ====
section
/-! DEFINITION. The context commands: CREATE, SET, DESTROY, INVAL, READ and the end of a scrub (R261 to R266, R270, R275,
R276, 12_contexts_isolation.md). -/

namespace Sys2Proof.Machine

/-- STATE of Table 12-2. -/
def CtxState.code (st : CtxState) : Nat :=
  match st with | .free => 0 | .idle => 1 | .queued => 2 | .running => 3 | .faulted => 4 | .scrubbing => 5

/-- The 512 bytes of a context-table entry (Tables 12-1, 12-2). -/
def entryBytes (e : CtxEntry) : List (BitVec 8) :=
  let ctrl := packFields [(b2n e.valid, 63, 1), (e.state.code, 60, 3), (e.epoch.toNat, 56, 4), (e.keydom.toNat, 48, 8),
    (e.func.toNat, 43, 5), (e.checkf.toNat, 40, 3), (b2n e.debug, 39, 1), (e.prio.toNat, 36, 3), (e.slice.toNat, 24, 8)]
  natBytes 8 ctrl ++ natBytes 8 e.ptroot.toNat ++ natBytes 8 e.seed.toNat ++ natBytes 4 e.step.toNat ++
  natBytes 4 e.flagged.toNat ++ ((List.range 16).flatMap fun i => natBytes 4 (e.timeouts.getD i 0).toNat) ++
  natBytes 8 e.normBase.toNat ++ natBytes 8 e.energy.toNat ++ natBytes 8 e.saveBase.toNat ++
  natBytes 8 (packFields [(e.place.toNat, 32, 16), (e.placeUnit.toNat, 0, 32)]) ++
  ((List.range 4).flatMap fun i => let r := e.roots.getD i (0, 0); natBytes 8 r.1.toNat ++ natBytes 8 r.2.toNat) ++
  List.replicate 320 0

/-- An entry with the function-set fields of an image (Tables 12-1, 12-2, R263); `all` adds the CHECKF that the management
port sets. -/
def entryWith (e : CtxEntry) (b : List (BitVec 8)) (all : Bool) : CtxEntry :=
  let ctrl := imgAt b 0 8
  { e with
    debug := ctrl.testBit 39, prio := BitVec.ofNat 3 (fld ctrl 38 36), slice := BitVec.ofNat 8 (fld ctrl 31 24)
    ptroot := BitVec.ofNat 64 (imgAt b 8 8), seed := BitVec.ofNat 64 (imgAt b 16 8), step := BitVec.ofNat 32 (imgAt b 24 4)
    flagged := BitVec.ofNat 32 (imgAt b 28 4)
    timeouts := (List.range 16).map fun i => BitVec.ofNat 32 (imgAt b (32 + 4 * i) 4)
    normBase := BitVec.ofNat 64 (imgAt b 96 8), saveBase := BitVec.ofNat 64 (imgAt b 112 8)
    roots := (List.range 4).map fun i => (BitVec.ofNat 64 (imgAt b (128 + 16 * i) 8), BitVec.ofNat 64 (imgAt b (136 + 16 * i) 8))
    checkf := if all then BitVec.ofNat 3 (fld ctrl 42 40) else e.checkf }

/-- The first 32-bit word of an image whose field fails R264, for an image of function f; `all` where it sets CHECKF, `early`
where addresses are host I/O virtual (R416). -/
def State.badField (s : State) (f : Nat) (b : List (BitVec 8)) (all early : Bool) : Option Nat :=
  let fe := s.funcE f
  let inRange := fun (a n : Nat) => if early then s.inHostWin f a n else fe.base ≤ a && a + n ≤ fe.base + fe.size
  let ctrl := imgAt b 0 8
  let ptroot := imgAt b 8 8
  let save := imgAt b 112 8
  let t := (List.range 16).filterMap fun i =>
    let v := imgAt b (32 + 4 * i) 4
    if v < 1 || 60000000 < v then some (8 + i) else none
  let r := (List.range 4).filterMap fun i => if imgAt b (136 + 16 * i) 8 % 65536 ≠ 0 then some (34 + 4 * i) else none
  let z := (List.range 80).filterMap fun i => if imgAt b (192 + 4 * i) 4 ≠ 0 then some (48 + i) else none
  ((if fld ctrl 23 0 ≠ 0 then [0] else []) ++
   (if (all && 6 ≤ fld ctrl 42 40) || (ctrl.testBit 39 && !fe.debug) || fld ctrl 35 32 ≠ 0 then [1] else []) ++
   (if fld ptroot 63 52 ≠ 0 || fld ptroot 11 0 ≠ 0 || !(inRange ptroot 4096) then [2] else []) ++ t ++
   (if imgAt b 96 8 % 4096 ≠ 0 then [24] else []) ++
   (if save % 65536 ≠ 0 || !(inRange save 524288) then [28] else []) ++ r ++ z).head?

/-- Whether a management session may act in a role (R385, R386); every other agent may. -/
def State.hasRole (s : State) (w : Writer) (role : Nat) : Bool :=
  match w with
  | .mgmt i =>
    match s.mgmt.sessions.find? fun e => e.id == i.val with
    | some e => s.nvm.accounts.any fun a => a.name == e.account && bit a.roles role
    | none => false
  | _ => true

/-- Whether an agent is the management port. -/
def isMgmt (w : Writer) : Bool := match w with | .mgmt _ => true | _ => false
/-- Whether an agent is firmware. -/
def isFirm (w : Writer) : Bool := match w with | .firmware _ => true | _ => false

/-- The function whose instance of a command register an agent uses; none is the management port's own (R265, R360). -/
def State.instOf (s : State) (w : Writer) : Option (Option Nat) :=
  match w with
  | .mgmt i => if i.val < 8 then some none else none
  | _ => (s.writerFunc w).map fun f => some f.val

/-- An instance of the command registers, and it changed. -/
def State.inst (s : State) (i : Option Nat) : Func := match i with | some f => s.funcE f | none => s.mgmt.ctxCmd
def State.instM (s : State) (i : Option Nat) (g : Func → Func) : State :=
  match i with
  | some f => s.funcM f g
  | none => { s with mgmt := { s.mgmt with ctxCmd := g s.mgmt.ctxCmd } }

/-- A command ends with a RESULT and, for a bad field, its FIELD (Table 12-5). -/
def State.ctxResult (s : State) (i : Option Nat) (result field : Nat) : State :=
  s.instM i fun e => { e with ctxBusy := false, ctxRes := BitVec.ofNat 16 (field % 256 * 256 + result) }

/-- The function in whose range, or host windows while R416 holds, an image of an instance lies. -/
def State.imgFunc (s : State) (i : Option Nat) (a : Nat) : Option Nat :=
  let fits := fun (f : Nat) =>
    let fe := s.funcE f
    if s.firmOpen then fe.assigned && fe.base ≤ a && a + 512 ≤ fe.base + fe.size else s.inHostWin f a 512
  match i with
  | some f => if fits f then some f else none
  | none => (List.range 32).find? fits

/-- The 512 bytes of an image, if they can be read (R266, R416); a range without a key domain has none, and RESULT 4 follows
for CREATE. -/
def State.readImg (s : State) (f a : Nat) : State × Option (List (BitVec 8)) :=
  if s.firmOpen then
    if !(s.rangeOpen a) || !(s.rangeOpen (a + 511)) then (s, none)
    else if (s.funcE f).dom.isNone then (s, some (List.replicate 512 0))
    else
      let (s, r) := s.stackRead a 512 { unit := s.modUid, dom := (s.funcE f).dom.getD 0 }
      (s, match r with | .ok b => some b | .error _ => none)
  else if s.sch.hostLink then let (s, b) := s.hostRead f a 512; (s, some b)
  else (s, none)

/-- The common part of a context command: refused while BUSY; RESULT 1 for a context that is not the caller's, or 0; then
`run` with the instance (R265, R266). A FREE context is no one's (notes/assumptions/25.md). -/
def State.ctxCommand (s : State) (w : Writer) (ctx : Nat) (op : Nat) (addr : BitVec 48)
    (run : State → Option Nat → State) : State :=
  let word := reg [(op, 60, 4), (ctx, 48, 12), (addr.toNat, 0, 48)]
  match s.instOf w with
  | none => s.infoAccess w s.modUid 0x240 word
  | some i =>
    if !(s.hasRole w 1) then s
    else if (s.inst i).ctxBusy then s.infoAccess w s.modUid 0x240 word
    else
      let s := s.instM i fun e => { e with ctxBusy := true, ctxCmd := BitVec.ofNat 12 ctx }
      let owned := i.isNone || s.owner ctx == i || (s.ctxE ctx).state == .free
      if ctx = 0 || !owned then s.ctxResult i 1 0 else run s i

/-- The steps of CREATE and SET up to the image: its address, its bytes (RESULT 5 and 6). -/
def State.withImg (s : State) (i : Option Nat) (addr : BitVec 48) (run : State → List (BitVec 8) → State) : State :=
  let a := addr.toNat
  match (if a % 512 = 0 then s.imgFunc i a else none) with
  | none => s.ctxResult i 5 0
  | some f =>
    let (s, b) := s.readImg f a
    match b with
    | none => s.ctxResult i 6 0
    | some b => run s b

/-- How many contexts of a function are outside FREE (R390). -/
def State.ctxCount (s : State) (f : Nat) : Nat :=
  (s.ctxs.filter fun p => p.1 != 0 && p.2.state != .free && p.2.func.toNat == f).length

/-- CTX_CREATE: the entry is written whole, under key domain 0 (R261, R263, R266). -/
def execCtxCreate (w : Writer) (ctx : CtxId) (addr : BitVec 48) (s : State) : Out :=
  let c := ctx.toNat
  .next (s.ctxCommand w c 1 addr fun s i => s.withImg i addr fun s b =>
    let f := i.getD (fld (imgAt b 0 8) 47 43)
    let fe := s.funcE f
    if (s.ctxE c).state ≠ .free || fe.quota ≤ s.ctxCount f then s.ctxResult i 2 0
    else match fe.dom with
      | none => s.ctxResult i 4 0
      | some d =>
        if (s.domE d).state ≠ 1 then s.ctxResult i 4 0
        else match s.badField f b false (!s.firmOpen) with
          | some k => s.ctxResult i 3 k
          | none =>
            let e : CtxEntry := { valid := true, state := .idle, keydom := BitVec.ofNat 8 d, func := BitVec.ofNat 5 f,
                                  checkf := fe.checkf, early := !s.firmOpen }
            let s := s.ctxM c fun _ => entryWith e b false
            let s := if s.firmOpen then s.stackClaim (s.firmBase + 512 * c) 512 0 else s
            (s.runM c fun _ => {}).ctxResult i 0 0)

/-- CTX_SET (R263, R264, R266); from the management port it copies CHECKF too. -/
def execCtxSet (w : Writer) (ctx : CtxId) (addr : BitVec 48) (s : State) : Out :=
  let c := ctx.toNat
  .next (s.ctxCommand w c 2 addr fun s i => s.withImg i addr fun s b =>
    let e := s.ctxE c
    if (e.state ≠ .idle && e.state ≠ .faulted) || (s.runE c).restore.isSome then s.ctxResult i 2 0
    else match s.badField e.func.toNat b i.isNone e.early with
      | some k => s.ctxResult i 3 k
      | none =>
        let s := s.ctxM c fun e => { entryWith e b i.isNone with state := .idle }
        (s.runM c fun r => { r with fault := none }).ctxResult i 0 0)

/-- CTX_DESTROY: the scrub starts, once no placement fence is open (R266, R275). -/
def execCtxDestroy (w : Writer) (ctx : CtxId) (s : State) : Out :=
  let c := ctx.toNat
  .next (s.ctxCommand w c 3 0 fun s i =>
    let st := (s.ctxE c).state
    if (st ≠ .idle && st ≠ .faulted) || (s.runE c).restore.isSome then s.ctxResult i 2 0
    else if (s.runE c).fence.isSome then s.instM i fun e => { e with ctxRes := 0 }
    else (s.startScrub c).ctxResult i 0 0)

/-- CTX_INVAL: every cached translation of the context is dropped (R270). -/
def execCtxInval (w : Writer) (ctx : CtxId) (s : State) : Out :=
  .next (s.ctxCommand w ctx.toNat 4 0 fun s i =>
    if (s.ctxE ctx.toNat).state = .free then s.ctxResult i 2 0 else (s.dropLeaves ctx.toNat).ctxResult i 0 0)

/-- CTX_READ: the whole entry is written to ADDR; a line that cannot take it leaves RESULT 6, the others are written
(R266, R416). -/
def execCtxRead (w : Writer) (ctx : CtxId) (addr : BitVec 48) (s : State) : Out :=
  let a := addr.toNat
  .next (s.ctxCommand w ctx.toNat 5 addr fun s i =>
    match (if a % 512 = 0 then s.imgFunc i a else none) with
    | none => s.ctxResult i 5 0
    | some f =>
      let b := entryBytes (s.ctxE ctx.toNat)
      if s.firmOpen then
        let rq : Req := { unit := s.modUid, dom := (s.funcE f).dom.getD 0 }
        let (s, ok) := (List.range 8).foldl (fun (p : State × Bool) k =>
          let l := a + 64 * k
          if !(p.1.rangeOpen l) || p.1.retired l || (p.1.funcE f).dom.isNone then (p.1, false)
          else
            let (s, e) := p.1.stackWrite l ((b.drop (64 * k)).take 64) rq
            (s, p.2 && e.isNone)) (s, true)
        s.ctxResult i (if ok then 0 else 6) 0
      else if s.sch.hostLink then (s.hostWrite f a b).ctxResult i 0 0
      else s.ctxResult i 6 0)

/-- CONTEXT_SCRUB_END: a SCRUBBING context's on-chip state, allocations and save images are zero, its slots are free and its
entry is FREE; one INFO-class record names it (R275, R276, Table 12-11). -/
def execContextScrubEnd (ctx : CtxId) (s : State) : Out :=
  let c := ctx.toNat
  .next (
    if (s.ctxE c).state ≠ .scrubbing || ((s.runE c).resident && !((s.jobClusters c).all s.cfcUp)) then s
    else
      let r := s.runE c
      let cores := s.jobCoreList c
      let s := if r.resident then s.scrubUnits cores r.storeOff (s.storeLen c) r.poolOff (s.poolLen c) else s
      let s := if r.evicted then
          let base := (s.ctxE c).saveBase.toNat
          ((s.zeroBytes base (s.saveLen c)).stackClaim base (s.saveLen c) (s.ctxE c).keydom.toNat).keepRetired s base (s.saveLen c)
        else s
      let s := s.dropLeaves c
      let s := { s with
        seqs := s.seqs.filter fun (p : Nat × SeqCtx) => p.1 / 16 != c
        cores := s.cores.filter fun (p : Nat × CoreCtx) => p.1 / 64 != c
        runs := tabDel s.runs c
        clus := s.clus.map fun (p : Nat × Clus) => if p.2.fctx == ctx && p.2.fvalid then
            (p.1, { p.2 with fvalid := false, foverrun := false, fctx := 0, fcause := 0, ftval := 0, fpc := 0 }) else p }
      let f := (s.ctxE c).func.toNat
      let s := (s.infoOther 0 c 0 0).ctxM c fun _ => {}
      if s.ctxCount f = 0 then s.funcM f fun e => { e with scrubAll := false } else s)

end Sys2Proof.Machine
end

