-- ==== Sys2Proof/Machine/Jobs.lean ====
section
/-! DEFINITION. Job rings, job acceptance, the start of shares with the image checks, completion rings and completion
records (R167 to R173, R281 to R292, R305, 13_host_link.md). -/

namespace Sys2Proof.Machine

/-- The unit of a window slot (Table 13-3). -/
def State.slotUnit (s : State) (slot : Nat) : BitVec 32 :=
  if slot = 0 then s.modUid
  else if slot = 1 then spanUid
  else if slot < 6 then s.dieUid (slot - 2)
  else if slot < 22 then s.clusUid (slot - 6)
  else s.coreUid (slot - 22)

/-- The key of a job ring in its function's tables. -/
def ringKey (slot ring : Nat) : Nat := 4 * slot + ring
/-- N of a job ring (Table 13-5). -/
def ringN (cfg : BitVec 64) : Nat := 64 * 2 ^ bits cfg 47 44

/-- n bytes of ring memory: of host memory, where only the address is judged and the command brings the bytes, or of device
memory; or the reason of R287 why they cannot be read. A host line that the command brings as none reads as poison. -/
def State.ringRead (s : State) (f : Nat) (dev : Bool) (a n : Nat) : State × Except Nat (List (BitVec 8)) :=
  let fe := s.funcE f
  if dev then
    if !(fe.base ≤ a && a + n ≤ fe.base + fe.size) then (s, .error 2)
    else if !(s.rangeOpen a) || s.retired a then (s, .error 0)
    else
      let (s, r) := s.stackRead a n { unit := s.modUid, dom := fe.dom.getD 0 }
      (s, match r with | .ok b => .ok b | .error _ => .error 0)
  else if !(s.inHostWin f a n) then (s, .error 2) else if s.atsFails f a n then (s, .error 1) else (s, .ok [])

/-- A job ring stops: ERR, a UNC-class record with code 0x50, and vector 0 (R287). -/
def State.ringStop (s : State) (f slot ring addr reason : Nat) (tail : BitVec 32) : State :=
  let k := ringKey slot ring
  let head := tabGet (s.funcE f).jrHead k 0
  let s := s.funcM f fun e => { e with jrErr := setIns e.jrErr k, jrEnable := setDel e.jrEnable k }
  let s := s.raiseRec { unit := s.modUid, cls := 1, code := 0x50, origin := some (Fin.ofNat 32 f)
                        d0 := reg [(addr, 0, 52)]
                        d1 := reg [((s.slotUnit slot).toNat, 0, 32), (ring, 32, 2), (f, 40, 5)]
                        d2 := reg [(reason, 0, 4)], d3 := reg [(tail.toNat, 32, 32), (head.toNat, 0, 32)] }
  s.msix f 0

/-- The hub reads a ring's tail line again; `tail` is what a host line holds where it is known, none where it is poison (R287). -/
def State.readTail (s : State) (f slot ring : Nat) (tail : Option (Option (BitVec 32))) : State :=
  let k := ringKey slot ring
  let fe := s.funcE f
  let cfg := tabGet fe.jrCfg k 0
  let a := bits (tabGet fe.jrTailAddr k 0) 63 6 * 64
  if !(fe.jrEnable.contains k) || (!(bit cfg 61) && !s.sch.hostLink) then s
  else
    let (s, r) := s.ringRead f (bit cfg 61) a 64
    match r with
    | .error why => s.ringStop f slot ring a why (tabGet fe.jrTail k 0)
    | .ok b =>
      match (if bit cfg 61 then some (some (BitVec.ofNat 32 (bytesNat (b.take 4)))) else tail) with
      | none => s
      | some none => s.ringStop f slot ring a 0 (tabGet fe.jrTail k 0)
      | some (some t) =>
        let s := s.funcM f fun e => { e with jrTail := tabSet e.jrTail k t }
        if ringN cfg < (t - tabGet fe.jrHead k 0).toNat then s.ringStop f slot ring 0 3 t else s

def execTailLineTaken (f : FuncN) (slot : SlotN) (ring : Fin 4) (tail : Option (BitVec 32)) (s : State) : Out :=
  .next (s.readTail f.val slot.val ring.val (some tail))

/-- TAIL_LINE_POLL: every watched tail line is read again; `tails` are those host lines whose contents are given, `refused` the
pages for which the host's ATS fails from now on (R285, R287). -/
def execTailLinePoll (tails : List (FuncN × SlotN × Fin 4 × Option (BitVec 32))) (refused : List (FuncN × Nat)) (s : State) : Out :=
  let s := { s with mem := { s.mem with atsRefused := refused.map fun p => (p.1.val, p.2) } }
  .next ((List.range 32).foldl (fun s f => ((s.funcE f).jrEnable).foldl (fun s k =>
    s.readTail f (k / 4) (k % 4) ((tails.find? fun t => t.1.val == f && ringKey t.2.1.val t.2.2.1.val == k).map
      fun t => t.2.2.2)) s) s)

/- Acceptance. -/

/-- The failure words of a job (Table 8-13). -/
def jobWords (j : Job) : BitVec 64 × BitVec 64 × BitVec 64 × BitVec 64 :=
  (reg [(j.idx.toNat, 32, 32), (j.unit.toNat, 0, 32)], reg [(j.func, 8, 5), (j.ring, 0, 2)], j.cookie, 0)

/-- One job of the list, changed. -/
def State.jobM (s : State) (id : Nat) (g : Job → Job) : State :=
  { s with jobs := s.jobs.map fun j => if j.id = id then g j else j }

/-- A job ends without starting, with a UNC-class record (R288). -/
def State.jobFail (s : State) (j : Job) (status cause : Nat)
    (d : Option (BitVec 64 × BitVec 64 × BitVec 64 × BitVec 64) := none) : State :=
  let w := d.getD (jobWords j)
  let s := s.raiseRec { unit := j.unit, cls := 1, code := BitVec.ofNat 8 status, ctx := BitVec.ofNat 12 j.ctx, d0 := w.1,
                        d1 := w.2.1, d2 := w.2.2.1, d3 := w.2.2.2, cause := BitVec.ofNat 8 cause,
                        status := BitVec.ofNat 8 status, origin := some (Fin.ofNat 32 j.func) }
  let e := s.lastEsn
  s.jobM j.id fun k => { k with phase := .ended, res := some { status := BitVec.ofNat 8 status, cause := BitVec.ofNat 8 cause, esn := e } }

/-- Whether a job runs on the span. -/
def Job.spans (j : Job) : Bool := (uidFields j.unit).level == 4
/-- Whether every module of the IMAGE mask is admitted (R305). -/
def State.allAdmitted (s : State) : Bool :=
  (maskList 16 s.spanMask).all fun m => m == s.modIdx && !s.inSpan || bit s.span.admitted m

/-- Whether a job's ORDER condition is met: every earlier job of its ring has completed (Table 13-7). -/
def State.orderMet (s : State) (j : Job) : Bool :=
  !j.order || !(s.jobs.any fun k => k.id < j.id && k.func == j.func && k.unit == j.unit && k.ring == j.ring && k.held.isNone)

/-- Rows 3 to 8 of Table 13-8, then R305 for a span job: the job fails, waits for its ORDER condition, is held, or is accepted
and makes its context QUEUED, on the other modules too. `far` is what rows 2 and 3 of R305 find on the other modules; without it
a span job that has passed row 1 stays held. -/
def State.judgeJob (s : State) (j : Job) (far : Option (Bool × Bool)) : State :=
  let own := s.owner j.ctx
  let st := (s.ctxE j.ctx).state
  let before := s.jobs.any fun k => k.id < j.id && k.ctx == j.ctx && k.op == 1 && k.phase != .ended
  let wait := fun (row1 : Bool) => s.jobM j.id fun k => { k with phase := .held, rowOne := row1 }
  let queue := fun (s : State) => s.ctxM j.ctx fun e => { e with state := .queued }
  let accept := queue (s.jobM j.id fun k => { k with phase := .queued, accepted := true, rowOne := false })
  if j.ctx = 0 || own.any (· != j.func) then s.jobFail j 0x10 0x29
  else if st = .free || st = .scrubbing then s.jobFail j 0x10 0x26
  else if st = .faulted then s.jobFail j 0x10 0x27
  else if j.op = 2 then s.jobM j.id fun k => { k with phase := .fetched }
  else if before || ((st = .queued || st = .running) && !j.accepted) then wait false
  else if !j.spans then accept
  else if !s.allAdmitted then queue ((wait true).jobM j.id fun k => { k with accepted := true })
  else match far with
    | none => wait false
    | some (agree, busy) =>
      if !agree then
        let s := if j.accepted then s.ctxM j.ctx fun e => { e with state := .idle } else s
        (s.jobM j.id fun k => { k with accepted := false, rowOne := false }).jobFail { j with accepted := false } 0x10 0x2A
      else if busy then wait false
      else accept.tellSpan (.queued (BitVec.ofNat 12 j.ctx) true)

/-- Jobs that were held are judged again, in fetch order (R288, R305). -/
def State.promote (s : State) : State :=
  (s.jobs.filter fun j => j.phase == .held).foldl (fun s j =>
    match s.jobs.find? fun k => k.id == j.id with
    | some k => if k.phase = .held then s.judgeJob k none else s
    | none => s) s

/-- JOB_FETCH: the record at HEAD is fetched and judged, while fewer than 16,384 jobs fetched here have not completed (R287 to R289,
R305). `line` is what host memory holds there, none for poison; `peersAgree` and `peersBusy` are what rows 2 and 3 of R305 find on the
other modules. -/
def execJobFetch (f : FuncN) (slot : SlotN) (ring : Fin 4) (line : Option Line) (peersAgree peersBusy : Bool) (s : State) : Out :=
  let fe := s.funcE f.val
  let k := ringKey slot.val ring.val
  let cfg := tabGet fe.jrCfg k 0
  let head := tabGet fe.jrHead k 0
  let a := bits (tabGet fe.jrBase k 0) 63 6 * 64 + 64 * (head.toNat % ringN cfg)
  .next (
    if !(fe.jrEnable.contains k) || head = tabGet fe.jrTail k 0 || fe.disable || fe.cancelling || !fe.busMaster || !s.serving ||
        16384 ≤ (s.jobs.filter fun j => j.master.isNone).length || (!(bit cfg 61) && !s.sch.hostLink) then s
    else
      let (s, r) := s.ringRead f.val (bit cfg 61) a 64
      match r with
      | .error why => s.ringStop f.val slot.val ring.val a why (tabGet fe.jrTail k 0)
      | .ok b =>
        if !(bit cfg 61) && line.isNone then s.ringStop f.val slot.val ring.val a 0 (tabGet fe.jrTail k 0) else
        let dw := fun (i : Nat) => if bit cfg 61 then BitVec.ofNat 64 (bytesNat ((b.drop (8 * i)).take 8)) else (line.getD []).getD i 0
        let unit := s.slotUnit slot.val
        let j : Job := { id := s.sch.jobNo, func := f.val, unit := unit, ring := ring.val, idx := head, cq := bits cfg 52 48,
                         ctx := bits (dw 0) 11 0, op := BitVec.ofNat 8 (bits (dw 0) 23 16), irq := bit (dw 0) 24,
                         order := bit (dw 0) 25, arg := BitVec.ofNat 32 (bits (dw 0) 63 32), image := dw 1, cookie := dw 2 }
        let s := s.funcM f.val fun e => { e with jrHead := tabSet e.jrHead k (head + 1) }
        let s := { s with jobs := s.jobs ++ [j], sch := { s.sch with jobNo := s.sch.jobNo + 1 } }
        let reserved := bits (dw 0) 15 12 != 0 || bits (dw 0) 31 26 != 0 || bits (dw 1) 63 48 != 0 ||
          dw 3 != 0 || dw 4 != 0 || dw 5 != 0 || dw 6 != 0 || dw 7 != 0
        if reserved || (j.op != 1 && j.op != 2) then s.jobFail j 0x10 0x28
        else if !(s.unitValid unit) then s.jobFail j 0x13 0
        else s.judgeJob j (some (peersAgree, peersBusy)))

/- The image. -/

/-- The other modules of a span job. -/
def State.otherModules (s : State) (j : Job) : List Nat := if j.spans then (maskList 16 s.spanMask).filter (· != s.modIdx) else []

/-- How many cores each present cluster of another module has (R3, R303). -/
def State.peerClusters (s : State) (m : Nat) : List Nat :=
  ((List.range 16).map fun k => ((List.range 4).filter fun i => bit (s.coresOfModule m) (4 * k + i)).length).filter (· != 0)

/-- How many sequencers of other modules come before, and in all (R170). -/
def State.ranksBefore (s : State) (j : Job) : Nat × Nat :=
  let count := fun (l : List Nat) => (l.map fun m => (s.peerClusters m).length).sum
  (count ((s.otherModules j).filter (· < s.modIdx)), count (s.otherModules j))

/-- The state of Table 7-5 on one cluster and its job cores, and the sequencer fault registers cleared (R175, R432). -/
def State.startShare (s : State) (j : Job) (h : Header) (cl rank count : Nat) (data replay : List (BitVec 8)) : State :=
  let c := j.ctx
  let e := s.ctxE c
  let cores := (s.jobCoreList c).filter fun n => n / 4 == cl
  let job := BitVec.ofNat 4 (listMask (cores.map (· % 4)))
  let ctrs := fun (n : Nat) => if e.epoch = 0 then [] else (List.range n).map fun i => (i, ({ epoch := e.epoch } : Ctr))
  let words := (List.range (replay.length / 4)).foldl (fun (l : List (Nat × BitVec 32)) i =>
    tabSet l i (BitVec.ofNat 32 (imgAt replay (4 * i) 4))) []
  let x := ((List.replicate 32 (0 : BitVec 32)).set 10 j.arg).set 11 (BitVec.ofNat 32 (packFields [(count, 16, 16), (rank, 0, 16)]))
  let q : SeqCtx := { x := x, pc := BitVec.ofNat 32 (0x10000000 + h.entry), dmem := cellsPut [] 0 data, replay := words
                      text := j.image.toNat + h.textOff, image := j.image.toNat, textSize := h.textSize, dataExt := h.dataExt
                      replayExt := h.replayExt, winBase := BitVec.ofNat 64 h.winBase, tilesDecl := BitVec.ofNat 8 h.tiles
                      qc := ctrs 32, bmask := job, step := e.step, job := job, rank := BitVec.ofNat 16 rank
                      count := BitVec.ofNat 16 count, run := .run }
  let s := s.seqM c cl fun _ => q
  let s := cores.foldl (fun (s : State) n => s.coreM c n fun k => { sc := ctrs 48, staleDone := k.staleDone }) s
  s.clusM cl fun k => { k with fvalid := false, foverrun := false, fctx := 0, fcause := 0, ftval := 0, fpc := 0 }

/-- The order that the span's master sends every other member of a span job that it starts: the job's number (R305). -/
def State.orderShares (s : State) (j : Job) : State :=
  (s.otherModules j).foldl (fun (s : State) m => s.emit (.spanC m 8 (BitVec.ofNat 64 j.id))) s

/-- The start of a job's shares: the context's entry is read, the image is checked, then MIN_CORES on every module of the job, the save
area and the allocations; a resident context's shares start in the state of Table 7-5 once every power domain they need is awake, and it
runs where its clusters are free (R168, R170, R171, R261, R271, R273, R318, R432). -/
def State.startJob (s : State) (job : Nat) : State :=
  match s.jobs.find? fun j => j.id == job with
  | none => s
  | some j =>
    let c := j.ctx
    let cores := s.jobCoresOf j.unit
    let cls := clustersOf cores
    if j.phase ≠ .queued || !(s.orderMet j) || !s.serving || !s.schUp || !(cls.all s.cfcUp) || (j.spans && !s.allAdmitted) then s
    else
      let (s, ok) := s.readCtxLines c
      if !ok then s.jobFail j 0x10 0 else
      let e := s.ctxE c
      let g : Agent := { ctx := c, core := none, cluster := cls.headD 0, cls := 0 }
      let (s, r) := s.checkImage g j.image.toNat
      match r with
      | .error (.inl (o, v)) =>
        s.jobFail j 0x10 0x20 (some (reg [(o, 0, 8)], v, j.image, 0))
      | .error (.inr err) =>
        let (d0, d1, d3) := accDetail err false
        s.jobFail j 0x10 (accCause err) (some (d0, d1, 0, d3))
      | .ok h =>
        let fe := s.funcE e.func.toNat
        let size := saveSize h.storeBytes h.poolBytes cores.length cls.length
        let areaBad := if e.early then !(s.inHostWin e.func.toNat e.saveBase.toNat size)
          else fe.base + fe.size < e.saveBase.toNat + size
        let sl := storeNeed h.storeBytes e.checkf
        let pl := poolNeed h
        let r := s.runE c
        if (cls.any fun k => (s.clusCores k).length < h.minCores) ||
            (s.otherModules j).any (fun m => (s.peerClusters m).any (· < h.minCores)) then s.jobFail j 0x13 0
        else if areaBad || 8 * 2 ^ 20 < sl || 16 * 2 ^ 20 < pl then s.jobFail j 0x10 0x26
        else if !r.resident || r.evicted || s.jobCoreList c != cores || r.storeBytes != h.storeBytes || r.poolBytes != h.poolBytes ||
            r.storeLen != sl || r.poolLen != pl ||
            (r.fence.any fun f => cores.any fun n => f.cores.getLsbD n) ||
            s.asleep (s.ctxDomains c ++ (s.otherModules j).map fun m => linkDomain (s.linkTo m)) then s
        else
          let (s, data) := s.vaRead g (j.image.toNat + h.dataOff) h.dataSize
          let (s, rep) := s.vaRead g (j.image.toNat + h.replayOff) (32 * h.replayCount)
          match data, rep with
          | .ok data, .ok rep =>
            let (before, others) := s.ranksBefore j
            let s := s.runM c fun r => { r with fault := none }
            let s := (cls.zipIdx).foldl (fun (s : State) p =>
              s.startShare j h p.1 (before + p.2) (cls.length + others) data rep) s
            let s := s.ctxM c fun e => { e with state := .running }
            let s := s.jobM j.id fun k => { k with
              phase := .running, shares := cls,
              peers := if j.master.isNone then s.otherModules j else [] }
            let s := if j.master.isNone then s.orderShares j else s
            if s.mayRun c 0 then s.switchIn c else s
          | .error err, _ =>
            let (d0, d1, d3) := accDetail err false
            s.jobFail j 0x10 (accCause err) (some (d0, d1, 0, d3))
          | _, .error err =>
            let (d0, d1, d3) := accDetail err false
            s.jobFail j 0x10 (accCause err) (some (d0, d1, 0, d3))

/-- A member takes its share of a span job that the master starts: its context, where it has it, is QUEUED (R170, R305). -/
def State.takeOrder (s : State) (job : Nat) (ctx : Nat) (image : BitVec 64) (arg : BitVec 32) : State :=
  let st := (s.ctxE ctx).state
  if s.isMaster || s.span.selfOut || s.jobs.any (fun j => j.master == some job) || !(st == .idle || st == .queued) ||
      s.jobs.any (fun j => j.ctx == ctx && j.accepted && j.phase != .ended) then s
  else
    let j : Job := { id := s.sch.jobNo, func := (s.ctxE ctx).func.toNat, unit := spanUid, ctx := ctx, op := 1, arg := arg, image := image
                     phase := .queued, accepted := true, master := some job }
    let s := { s with jobs := s.jobs ++ [j], sch := { s.sch with jobNo := s.sch.jobNo + 1 } }
    s.ctxM ctx fun e => { e with state := .queued }

/-- The master's word that a span job's context is QUEUED, or no longer, because the job ended without starting (R305). -/
def State.takeQueued (s : State) (ctx : Nat) (on : Bool) : State :=
  let st := (s.ctxE ctx).state
  if s.leads || s.jobs.any (fun j => j.ctx == ctx && j.accepted && j.phase != .ended) then s
  else if on && st == .idle then s.ctxM ctx fun e => { e with state := .queued }
  else if !on && st == .queued then (s.ctxM ctx fun e => { e with state := .idle }).promote
  else s

/-- SHARE_START (R168, R170): of a job of this module, where a held span job is judged first by what R305 finds on the other modules
(`agree`, `busy`); or, with the master's order, of this member's share of a span job, which the order brings first. -/
def execShareStart (job : Nat) (order : ShareAsk) (s : State) : Out :=
  .next (match order with
  | .own agree busy =>
    match s.jobs.find? fun j => j.id == job && j.phase == .held && j.spans with
    | some j => (s.judgeJob j (some (agree, busy))).startJob job
    | none => s.startJob job
  | .ordered ctx image arg =>
    match s.jobs.find? fun j => j.master == some job with
    | some j => s.startJob j.id
    | none => s.takeOrder job ctx.toNat image arg)

/- Completion rings. -/

/-- CR_CFG of a completion ring. -/
def Func.crc (e : Func) (cq : Nat) : BitVec 64 := tabGet e.crCfg cq (1 <<< 48)

/-- The interrupt of a completion ring: an MSI-X vector, or an identity pending in a companion core's interrupt file (R290, R296). -/
def State.crInterrupt (s : State) (f cq : Nat) : State :=
  let cfg := (s.funcE f).crc cq
  let s := s.funcM f fun e => { e with irqCount := tabSet e.irqCount cq 0 }
  let v := bits cfg 10 0
  if bit cfg 62 then
    (s.hartM (bits cfg 20 16) fun h => { h with file := setIns h.file v }).emit (.hartIrq (bits cfg 20 16) v)
  else s.msix f (v % 64)

/-- The 32 bytes of a completion record with its PHASE (Table 13-12). -/
def recordBytes (r : List (BitVec 64)) (phase : Nat) : List (BitVec 8) :=
  (List.range 4).flatMap fun i => natBytes 8 (if i = 1 then setBits (r.getD 1 0) 40 40 phase else r.getD i 0).toNat

/-- Whether a function's records are written: a ring in host memory needs the link and Bus Master Enable (R292, R293). -/
def State.crOpen (s : State) (f cq : Nat) : Bool :=
  let e := s.funcE f
  let cfg := e.crc cq
  let n := 256 * 2 ^ bits cfg 31 28
  bit cfg 63 && e.busMaster && (tabGet e.crTail cq 0 - tabGet e.crHead cq 0).toNat < n

/-- One record written to its ring: the count of IRQ records and the interrupt follow; a failed write stops the ring with ERR
and code 0x51. Answers whether it was written (R290 to R292). -/
def State.crWrite (s : State) (f cq : Nat) (irq : Bool) (rec_ : List (BitVec 64)) : State × Bool :=
  if !(s.crOpen f cq) then (s, false)
  else
    let e := s.funcE f
    let cfg := e.crc cq
    let n := 256 * 2 ^ bits cfg 31 28
    let p := (tabGet e.crTail cq 0).toNat
    let a := bits (tabGet e.crBase cq 0) 63 8 * 256 + 32 * (p % n)
    let b := recordBytes rec_ (1 - (p / n) % 2)
    let fail := fun (s : State) =>
      let s := s.funcM f fun e => { e with crCfg := tabSet e.crCfg cq (setBits (setBits cfg 63 63 0) 61 61 1) }
      let s := s.raiseRec { unit := s.modUid, cls := 1, code := 0x51, d0 := reg [(a, 0, 52)], d1 := reg [(cq, 0, 5), (f, 8, 5)]
                            origin := some (Fin.ofNat 32 f) }
      (s.msix f 0, false)
    let done := fun (s : State) =>
      let s := s.funcM f fun e => { e with crTail := tabSet e.crTail cq (BitVec.ofNat 32 (p + 1)) }
      if !irq then (s, true)
      else
        let k := tabGet (s.funcE f).irqCount cq 0 + 1
        let s := s.funcM f fun e => { e with irqCount := tabSet e.irqCount cq k }
        (if max 1 (bits cfg 55 48) ≤ k then s.crInterrupt f cq else s, true)
    if bit cfg 62 then
      if e.base ≤ a && a + 32 ≤ e.base + e.size && s.rangeOpen a && !(s.retired a) then
        let (s, err) := s.stackWrite a b { unit := s.modUid, dom := e.dom.getD 0 }
        if err.isSome then fail s else done s
      else fail s
    else if s.sch.hostLink && s.inHostWin f a 32 && !(s.atsFails f a 32) then done (s.hostWrite f a b)
    else fail s

/-- A held job among others in the order in which they finished. -/
def insHeld (j : Job) : List Job → List Job
  | [] => [j]
  | k :: r => if j.held.getD 0 ≤ k.held.getD 0 then j :: k :: r else k :: insHeld j r

/-- The fetch head of a job's ring (JHEAD, Table 13-12). -/
def State.jheadOf (s : State) (j : Job) : BitVec 32 :=
  let at_ := fun (k : Nat) => tabGet (s.funcE j.func).jrHead (ringKey k j.ring) 0
  if j.unit = spanUid then at_ 1 else ((List.range 86).find? fun k => s.slotUnit k == j.unit).elim 0 at_

/-- The unit and JHEAD doubleword of a job's completion record as it is written now (Table 13-12). -/
def State.unitWord (s : State) (j : Job) : BitVec 64 := reg [(j.unit.toNat, 0, 32), ((s.jheadOf j).toNat, 32, 32)]

/-- Records that were held for a ring are written in completion order while it takes them (R292). -/
def State.flushHeld (s : State) (f cq : Nat) : State :=
  let mine := (s.jobs.filter fun j => j.func == f && j.cq == cq && j.held.isSome).foldr insHeld []
  mine.foldl (fun (s : State) j =>
    let (s, ok) := s.crWrite f cq j.irq (j.record.set 2 (s.unitWord j))
    if ok then { s with jobs := s.jobs.filter fun k => k.id != j.id } else s) s

/-- Whether every fetched job of a function has completed; a held record does not count (R293). -/
def State.funcIdle (s : State) (f : Nat) : Bool := s.jobs.all fun j => j.func != f || j.held.isSome

/-- A stop of a function that has ended its jobs is reported, where FUNC_CTL.DISABLE or a cleared Bus Master Enable made it: DISABLED, and
vector 0 for the first (R282, R293, Table 13-14). -/
def State.stopDone (s : State) (f : Nat) : State :=
  let e := s.funcE f
  if e.cancelling && s.funcIdle f then
    let s := s.funcM f fun x => { x with cancelling := false, disabled := x.disabled || e.disable || !e.busMaster }
    if e.disable then s.msix f 0 else s
  else s

/-- The completion record of a job (Table 13-12). -/
def State.jobRecord (s : State) (j : Job) (o : Outcm) (exit : BitVec 32) : List (BitVec 64) :=
  let cause := if o.status = 0x10 then o.cause.toNat else 0
  [j.cookie, reg [(exit.toNat, 0, 32), (o.status.toNat, 32, 8), (cause, 48, 8), (j.ring, 56, 2)],
    s.unitWord j, BitVec.ofNat 64 o.esn]

/-- A finished job's record goes to its ring or is held in its place; it is discarded where the host link went down while the job was
in flight, or where its function was reset and its ring is disabled, stopped, or without Bus Master Enable (R291 to R293). -/
def State.finishJob (s : State) (j : Job) (o : Outcm) (exit : BitVec 32) : State :=
  let rec_ := s.jobRecord j o exit
  let e := s.funcE j.func
  let gone := fun (s : State) => { s with jobs := s.jobs.filter fun k => k.id != j.id }
  let hold := fun (s : State) =>
    let n := s.sch.stamp + 1
    { (s.jobM j.id fun k => { k with phase := .ended, record := rec_, held := some n }) with sch := { s.sch with stamp := n } }
  let s := if j.discard || (j.flr && !(bit (e.crc j.cq) 63 && e.busMaster)) then gone s
    else if s.jobs.any fun k => k.func == j.func && k.cq == j.cq && k.held.isSome then hold s
    else
      let (s, ok) := s.crWrite j.func j.cq j.irq rec_
      if ok then gone s else if j.flr then gone s else hold s
  s.stopDone j.func

/-- The cluster of rank 0 of a job: the first of the lowest-indexed module (R170). -/
def State.rank0Unit (s : State) (j : Job) : BitVec 32 :=
  let first := fun (m : Nat) => clusUidOf m (((List.range 16).find? fun k => bit (s.coresOfModule m) (4 * k) ||
    bit (s.coresOfModule m) (4 * k + 1) || bit (s.coresOfModule m) (4 * k + 2) || bit (s.coresOfModule m) (4 * k + 3)).getD 0)
  if j.spans && (s.otherModules j).any (· < s.modIdx) then first ((s.otherModules j).headD 0)
  else s.clusUid (j.shares.headD 0)

/-- The end of a context's job: STEP and STATE of its entry, an event for each sequencer whose step differs from that of rank 0, and its
clusters are free (R166, R266, R293). `rank0` is the step of a rank 0 that lies on another module. -/
def State.endCtxJob (s : State) (j : Job) (status : Nat) (rank0 : Option (BitVec 32) := none) : State :=
  let c := j.ctx
  let s := if (s.runE c).running then s.switchOut c else s
  let s := match j.shares with
    | [] => s
    | k :: _ =>
      let step := rank0.getD (s.seqE c k).step
      let unit := s.rank0Unit j
      let s := s.ctxM c fun e => { e with step := step }
      (j.shares.filter fun m => (s.seqE c m).step != step).foldl (fun (s : State) m =>
        s.infoOther unit c 0 (BitVec.ofNat 64 (s.clusUid m).toNat)) s
  let s := (s.ctxM c fun e => { e with state := if statusFaults status then .faulted else .idle }).dropColls c
  s.scrubIfAsked c

/-- The failures of this module that a job has met: its context's fault, what ended it before, and what ended its shares, but for what other
modules told. -/
def State.ownFailures (s : State) (j : Job) : List (Nat × Outcm) :=
  let f := (s.runE j.ctx).fault
  let told := (f.toList.map s.faultOut).filter (fun p => p.1 != s.modIdx) ++ j.peerRes.toList
  let mine := (f.toList.map s.faultOut).filter (fun p => p.1 == s.modIdx) ++ (j.res.toList.map fun o => (s.modIdx, o)) ++
    ((j.shares.filterMap fun k => (s.seqE j.ctx k).ended).filter fun e => 0x10 ≤ e.1.toNat).map fun e => (s.modIdx, e.2.2)
  mine.filter fun p => !(told.any fun t => t.2 == p.2)

/-- The status of a job whose shares have ended, by the failures that decide it: the first in the order of R15, else DONE_FLAGGED where a
share ended so, else DONE (R15, R173, R309). -/
def State.statusBy (s : State) (j : Job) (l : List (Nat × Outcm)) : Outcm :=
  match firstFailure l with
  | some p => p.2
  | none => if j.flagged || j.shares.any fun k => (s.seqE j.ctx k).ended.any fun e => e.1 == 1 then { status := 1 } else {}

/-- The status of a job: of the failures of every module. -/
def State.jobStatus (s : State) (j : Job) : Outcm :=
  s.statusBy j (s.ownFailures j ++ ((s.runE j.ctx).fault.toList.map s.faultOut).filter (fun p => p.1 != s.modIdx) ++ j.peerRes.toList)

/-- Whether the shares of a running job have ended here and on every member, and what its context's fault does is done (R172,
R188, R309). Instructions of a superseded placement are not waited for (R215). -/
def State.sharesEnded (s : State) (j : Job) : Bool :=
  let r := s.runE j.ctx
  (j.shares.all fun k => (s.seqE j.ctx k).ended.isSome) && j.peers.isEmpty && (r.fault.all fun f => f.flushed) &&
  (s.coresOf j.ctx).all fun n =>
    let k := s.coreE j.ctx n
    (k.mxeQ ++ k.vxeQ ++ k.dxeQ).all fun e => e.epoch != (s.ctxE j.ctx).epoch

/-- Whether rank 0 of a span job lies on another module, one of a lower index (R306). -/
def State.rankElsewhere (s : State) (j : Job) : Bool := j.spans && (s.ranksBefore j).1 != 0

/-- The end of this member's share of a span job is reported to the module that acts for the master, in place of a completion record, with
the failure that the share met here; where this module acts for it, no record is written (R309, R314). -/
def State.reportShare (s : State) (j : Job) : State :=
  let o := s.statusBy j (s.ownFailures j)
  let s := { s with jobs := s.jobs.filter fun k => k.id != j.id }
  if s.leads then s
  else s.emit (.flit s.leader .c (.shareEnd (j.master.getD 0) o.status o.cause o.esn (j.flagged || o.status == 1)))

/-- JOB_COMPLETE: a job whose shares have ended, or that ended without starting, gets its completion record, and the jobs held
behind it are judged; a member reports its share of a span job to the master (R172, R288, R291, R306, R309). -/
def execJobComplete (job : Nat) (rank0 : Option (BitVec 32 × BitVec 32)) (s : State) : Out :=
  .next (match s.jobs.find? fun (j : Job) => j.id == job with
  | none => s
  | some j =>
    match j.phase with
    | .fetched => if s.orderMet j then (s.finishJob j {} 0).promote else s
    | .ended =>
      if j.held.isSome then s
      else
        let o := j.res.getD {}
        let s := if j.master.isSome then s.reportShare j else s.finishJob j o 0
        let s := if j.spans && j.accepted && j.master.isNone then s.tellSpan (.queued (BitVec.ofNat 12 j.ctx) false) else s
        (if j.accepted then s.endCtxJob { j with shares := [] } o.status.toNat else s).promote
    | .running =>
      if !(s.sharesEnded j) || (s.rankElsewhere j && rank0.isNone) then s
      else
        let o := s.jobStatus j
        let far := if s.rankElsewhere j then rank0 else none
        let own := match j.shares.head? with | some k => ((s.seqE j.ctx k).ended.elim 0 fun e => e.2.1) | none => 0
        let exit := if o.status = 0 || o.status = 1 then (far.map Prod.snd).getD own else 0
        let s := if j.master.isSome then s.reportShare j else s.finishJob j o exit
        (s.endCtxJob j o.status.toNat (far.map Prod.fst)).promote
    | _ => s)

/-- CR_DELAY_EXPIRY: DELAY has passed since the oldest uninterrupted record of an IRQ job (R290). -/
def execCrDelayExpiry (f : FuncN) (cq : Fin 32) (s : State) : Out :=
  let e := s.funcE f.val
  .next (if tabGet e.irqCount cq.val 0 = 0 || bits (e.crc cq.val) 47 32 = 0 then s else s.crInterrupt f.val cq.val)

/-- The bits of JR_CFG that software sets beside ENABLE and ERR: LOC, CQ, LOG2N (Table 13-5). -/
def jrCfgMask : BitVec 64 := 0x201FF00000000000
/-- The bits of CR_CFG that software sets beside ENABLE and ERR (Table 13-10). -/
def crCfgMask : BitVec 64 := 0x40FFFFFFF01F07FF

/-- JR_ENABLE: JR_CFG written with ENABLE: HEAD takes the current TAIL, unless LOG2N is reserved; while ENABLE is set, the other
fields keep their value and a change of them is recorded (R286, R287). -/
def execJrEnable (f : FuncN) (slot : SlotN) (ring : Fin 4) (v : BitVec 64) (tail : Option (BitVec 32)) (s : State) : Out :=
  let k := ringKey slot.val ring.val
  let e := s.funcE f.val
  let cfg := tabGet e.jrCfg k 0
  .next (
    if !(bit v 63) then s
    else if !(s.unitValid (s.slotUnit slot.val)) || (slot.val = 1 && !s.isMaster) then
      if slot.val = 1 then s.emit (.spanC s.masterIdx 10 v)
      else s.infoAccess (.func f) (s.slotUnit slot.val) (0x408 + 0x40 * ring.val) v
    else
      let s := if bit v 62 then s.funcM f.val fun e => { e with jrErr := setDel e.jrErr k } else s
      if e.jrEnable.contains k then
        if cfg &&& jrCfgMask = v &&& jrCfgMask then s
        else s.infoAccess (.func f) (s.slotUnit slot.val) (0x408 + 0x40 * ring.val) v
      else
        let s := s.funcM f.val fun e => { e with jrCfg := tabSet e.jrCfg k (v &&& jrCfgMask) }
        if 11 ≤ bits v 47 44 then s
        else
          let a := bits (tabGet e.jrTailAddr k 0) 63 6 * 64
          let s := s.funcM f.val fun e => { e with jrEnable := setIns e.jrEnable k }
          let (s, r) := s.ringRead f.val (bit v 61) a 64
          match r with
          | .error why => s.ringStop f.val slot.val ring.val a why 0
          | .ok b =>
            match (if bit v 61 then some (BitVec.ofNat 32 (bytesNat (b.take 4))) else tail) with
            | none => s.ringStop f.val slot.val ring.val a 0 0
            | some t => s.funcM f.val fun e => { e with jrHead := tabSet e.jrHead k t, jrTail := tabSet e.jrTail k t })

/-- CR_ENABLE: CR_CFG written with ENABLE: TAIL and HEAD become zero and held records go out; LOG2N 9 to 15 leaves ENABLE
clear (R290, R292). -/
def execCrEnable (f : FuncN) (cq : Fin 32) (v : BitVec 64) (s : State) : Out :=
  let e := s.funcE f.val
  let cfg := e.crc cq.val
  let err := bit cfg 61 && !(bit v 61)
  let word := fun (on : Bool) => setBits (setBits (v &&& crCfgMask) 61 61 (b2n err)) 63 63 (b2n on)
  .next (
    if !(bit v 63) then s
    else if bit cfg 63 then s.funcM f.val fun e => { e with crCfg := tabSet e.crCfg cq.val (word (bits v 31 28 < 9)) }
    else if 9 ≤ bits v 31 28 then s.funcM f.val fun e => { e with crCfg := tabSet e.crCfg cq.val (word false) }
    else
      let s := s.funcM f.val fun e => { e with
        crCfg := tabSet e.crCfg cq.val (word true), crTail := tabSet e.crTail cq.val 0, crHead := tabSet e.crHead cq.val 0
        irqCount := tabSet e.irqCount cq.val 0 }
      (s.flushHeld f.val cq.val).stopDone f.val)

/-- CR_HEAD_WRITE: HEAD advances and held records follow; a HEAD beyond TAIL has no effect (R292). -/
def execCrHeadWrite (f : FuncN) (cq : Fin 32) (head : BitVec 32) (s : State) : Out :=
  let e := s.funcE f.val
  let tail := tabGet e.crTail cq.val 0
  let old := tabGet e.crHead cq.val 0
  .next (
    if (tail - old).toNat < (head - old).toNat then
      s.infoAccess (.func f) s.modUid (0x610 + 0x20 * cq.val) (BitVec.ofNat 64 head.toNat)
    else (s.funcM f.val fun e => { e with crHead := tabSet e.crHead cq.val head }).flushHeld f.val cq.val)

end Sys2Proof.Machine
end

