-- ==== Sys2Proof/Machine/HostLink.lean ====
section
/-! DEFINITION. How a function stops, the host link, host accesses to device memory, and the companion cores (R280 to R285,
R293 to R296, 13_host_link.md). -/

namespace Sys2Proof.Machine

/-- A companion core's power domain, in the order of Table 15-1. -/
def hartDomain (h : Nat) : Nat := 464 + h

/-- A companion core is stopped, reset and powered off (R294, Table 15-1). -/
def State.hartOff (s : State) (h : Nat) : State :=
  let s := s.hartM h fun e => { func := e.func }
  { s with pwr := { s.pwr with off := setIns s.pwr.off (hartDomain h) } }

/-- The companion cores of a function are stopped (R294). -/
def State.stopHarts (s : State) (f : Nat) : State :=
  ((s.harts.filter fun p => p.2.func == some f).map Prod.fst).foldl (fun s h => s.hartOff h) s

/-- Every fetched job of a function ends with CANCELLED_DISABLE; held jobs behind them are theirs too (R293). -/
def State.stopFunc (s : State) (f : Nat) : State :=
  let s := s.cancelJobs (fun j => j.func == f) { status := 0x12 }
  (s.funcM f fun e => { e with cancelling := true }).stopHarts f

/-- The contexts of a function are destroyed and scrubbed, those with a job once it has ended (R275, R293). -/
def State.destroyAll (s : State) (f : Nat) : State :=
  let mine := (s.ctxs.filter fun p => p.2.state != .free && p.2.func.toNat == f).map Prod.fst
  let s := if mine.isEmpty then s else s.funcM f fun e => { e with scrubAll := true }
  mine.foldl (fun s c =>
    let st := (s.ctxE c).state
    if (st = .idle || st = .faulted) && (s.runE c).fence.isNone then s.startScrub c else s) s

/-- The INFO-class record of a reset (R371). -/
def State.resetRec (s : State) (domain what : Nat) : State :=
  let s := s.info s.modUid 0xA6 0 (packFields [(domain, 0, 4), (what, 32, 32)]) 0
  { s with rst := { s.rst with count := s.rst.count + 1 } }

/-- A function-level reset: its jobs end, records of disabled or stopped rings are discarded, those of jobs still to complete too, its
contexts are destroyed (R292, R293, R371). -/
def State.funcReset (s : State) (f : Nat) : State :=
  let s := s.resetRec 5 f
  let s := s.stopFunc f
  let s := { s with jobs := (s.jobs.filter fun (j : Job) =>
    !(j.func == f && j.held.isSome && (!(bit ((s.funcE f).crc j.cq) 63) || !(s.funcE f).busMaster))).map fun (j : Job) =>
      if j.func = f then { j with flr := true } else j }
  let s := (s.funcM f fun e => { e with jrEnable := [] }).destroyAll f
  ({ s with rst := { s.rst with active := s.rst.active ++ [(5, f)] } }).stopDone f

/-- FUNC_DISABLE: every job ring of the function loses ENABLE and its jobs end; one written while jobs are being cancelled has
no further effect (R293). -/
def execFuncDisable (f : FuncN) (s : State) : Out :=
  let e := s.funcE f.val
  .next (if e.cancelling || e.disable then s
    else
      let s := s.funcM f.val fun e => { e with disable := true, jrEnable := [] }
      (s.stopFunc f.val).stopDone f.val)

/-- FUNC_REENABLE: DISABLE = 0 re-enables the function after DISABLED (Table 13-15). -/
def execFuncReenable (f : FuncN) (s : State) : Out :=
  .next (if (s.funcE f.val).disabled then s.funcM f.val fun e => { e with disable := false, disabled := false } else s)

def execFlr (f : FuncN) (s : State) : Out := .next (s.funcReset f.val)

/-- VF_ENABLE_CLEAR: every enabled VF stops as at an FLR (R293). -/
def execVfEnableClear (s : State) : Out :=
  .next ((List.range 31).foldl (fun s i =>
    if (s.funcE (i + 1)).enabled then (s.funcReset (i + 1)).funcM (i + 1) fun e => { e with enabled := false } else s) s)

/-- BUS_MASTER_DISABLE: the function's jobs end and their records are held until it is set again (R293). -/
def execBusMasterDisable (f : FuncN) (s : State) : Out :=
  .next (if !(s.funcE f.val).busMaster then s
    else ((s.funcM f.val fun e => { e with busMaster := false }).stopFunc f.val).stopDone f.val)

/-- BUS_MASTER_ENABLE: held records go out (R292, R293). -/
def execBusMasterEnable (f : FuncN) (s : State) : Out :=
  let s := s.funcM f.val fun e => { e with busMaster := true, disabled := e.disabled && e.disable }
  .next ((List.range 32).foldl (fun s cq => s.flushHeld f.val cq) s)

/-- The host link goes down: every function stops, the records of its jobs are discarded, its contexts are destroyed, and one
INFO-class record counts the records (R280, R293). -/
def State.linkDown (s : State) : State :=
  if !s.sch.hostLink then s
  else
    let n := (s.jobs.filter fun j => j.master.isNone).length
    let s := { s with sch := { s.sch with hostLink := false }, jobs := s.jobs.map fun (j : Job) => { j with discard := true } }
    let s := (List.range 32).foldl (fun s f => (s.stopFunc f).destroyAll f) s
    let s := { s with jobs := s.jobs.filter fun j => j.held.isNone }
    let s := (List.range 32).foldl (fun s f => s.stopDone f) s
    s.infoOther 0 0 0 (BitVec.ofNat 64 n)

def execLinkDown (s : State) : Out := .next s.linkDown

/-- BACK_INVALIDATE_TIMEOUT: a host that does not answer takes the link down (R284). -/
def execBackInvalidateTimeout (line : Nat) (s : State) : Out :=
  .next (if s.out.contains (.backInvalidate line) then s.linkDown else s)

/-- Whether a capability shows in a function's configuration and component registers: those of Table 13-1, the SR-IOV capability and the
DOE mailbox on PF0 alone (R279; notes/assumptions/24.md). -/
def capShows (f : Nat) (c : Cap) : Bool :=
  match c with
  | .sriov | .doe => f = 0
  | .ats | .cxlCache | .cxlMem | .hdmDb | .ide => true
  | .ideSkid | .interleave | .multiLogical | .portRouting | .dynamicCapacity | .fabricMemory => false

/-- The request that waited at the port is served: it shows the link in L0, and which request the host makes next nothing here states
(R280, R408; notes/assumptions/24.md). -/
def State.requestTaken (s : State) : State :=
  { s with sch := { s.sch with hostLink := true }, boot := { s.boot with request := Config.hostRequest s.free }, free := s.free + 1 }

/-- CONFIG_REQUEST: retry status until the port is ready, with the request still waiting; a request that succeeds answers what a capability
shows or sets a BAR0 base or an HDM decoder's window (R279 to R281, R283, R408). -/
def execConfigRequest (s : State) : Out :=
  .next (
    if !s.boot.configUp then s.emit (.config true)
    else
      let q := s.boot.request
      let s := s.requestTaken
      match q with
      | .ask f c => s.emit (.configCap ((f.val = 0 || (s.funcE f.val).enabled) && capShows f.val c))
      | .bar f base => (s.funcM f.val fun e => { e with bar0 := base &&& ~~~0xFFFFFF#64 }).emit (.config false)
      | .decoder f base => (s.funcM f.val fun e => { e with hdmWin := some base.toNat }).emit (.config false)
      | .other => s.emit (.config false))

/- Host accesses to device memory. -/

/-- The device physical address that decoder f maps a host physical address to; none below its window, or where it has none (R283). -/
def State.hdmMap (s : State) (f a : Nat) : Option Nat :=
  let e := s.funcE f
  match e.hdmWin with
  | none => none
  | some w => if w ≤ a then some (e.base + (a - w)) else none

/-- What stands against a host access through decoder f to device memory [a, a+n): none, or whether an INFO-class record follows (R277,
R283, R372). -/
def State.hdmBar (s : State) (f a n : Nat) : Option Bool :=
  let e := s.funcE f
  match e.dom with
  | none => some true
  | some d =>
    if !(e.base ≤ a && a + n ≤ e.base + e.size) then some true
    else if (s.domE d).state = 2 then some false
    else none

/-- Lines that the host now holds enter the snoop filter; a full filter gives up its oldest first (R284). -/
def State.snoopAdd (s : State) (lines : List Nat) : State :=
  lines.foldl (fun s l =>
    if s.mem.snoop.contains l then s
    else
      let s := match s.mem.snoop with
        | o :: _ => if 4194304 ≤ s.mem.snoop.length then s.backInv o else s
        | [] => s
      { s with mem := { s.mem with snoop := s.mem.snoop ++ [l] } }) s

/-- The request of a host access. -/
def State.hdmReq (s : State) (f : Nat) : Req := { cls := 2, unit := s.modUid, dom := (s.funcE f).dom.getD 0 }

/-- HDM_READ: data under the function's key domain, or the poison indication (R257, R259, R277, R283, R413). `addr` is a host physical
address, which the decoder maps; `flaws` are errors now in lines of memory. -/
def execHdmRead (dec : FuncN) (addr : Nat) (n : Nat) (flaws : List (Nat × Flaw)) (s : State) : Out :=
  let f := dec.val
  let s := { s with mem := { s.mem with flaws := flaws.foldl (fun l p => tabSet l p.1 p.2) s.mem.flaws } }
  .next (
    if !s.sch.hostLink then s
    else match s.hdmMap f addr with
      | none => (s.infoAccess (.func dec) 0 addr 0).emit (.hdmData none)
      | some a => match s.hdmBar f a n with
        | some true => (s.infoAccess (.func dec) 0 addr 0).emit (.hdmData none)
        | some false => s.emit (.hdmData none)
        | none =>
          if (linesOf a n).any fun l => !(s.rangeOpen (64 * l)) || s.retired (64 * l) then s.emit (.hdmData none)
          else
            let (s, r) := s.stackRead a n (s.hdmReq f)
            match r with
            | .ok b => (s.snoopAdd (linesOf a n)).emit (.hdmData (some b))
            | .error _ => s.emit (.hdmData none))

/-- HDM_WRITE: written under the function's key domain; dropped where the decoder, the page or the range takes none; held where
a page is protected until it has been copied (R256, R259, R277, R283, R357, R413). `addr` is a host physical address. -/
def execHdmWrite (dec : FuncN) (addr : Nat) (bytes : List (BitVec 8)) (s : State) : Out :=
  let f := dec.val
  let n := bytes.length
  let d0 := BitVec.ofNat 64 (bytesNat (bytes.take 8))
  .next (
    if !s.sch.hostLink then s
    else match s.hdmMap f addr with
      | none => s.infoAccess (.func dec) 0 addr d0
      | some a => match s.hdmBar f a n with
        | some true => s.infoAccess (.func dec) 0 addr d0
        | some false =>
          if (s.funcE f).dom.any fun d => (s.domE d).state == 2 then
            { s with kdStat := { s.kdStat with discards := satAdd 0x3FFFFF s.kdStat.discards 1 } }
          else s
        | none =>
          if (linesOf a n).any fun l => !(s.rangeOpen (64 * l)) || s.retired (64 * l) then s.infoAccess (.func dec) 0 addr d0
          else if (linesOf a n).any fun l => (s.protector (l / 1024)).isSome then
            { s with mem := { s.mem with hostHeld := s.mem.hostHeld ++ [(a, (s.funcE f).dom.getD 0, bytes)] } }
          else
            let s := { s with mem := { s.mem with snoop := s.mem.snoop.filter fun l => !((linesOf a n).contains l) } }
            (s.stackWrite a bytes (s.hdmReq f) false).1)

/- Companion cores. -/

/-- A write of a PF0-only register of the function block by anyone but PF0, its companion cores and the management port follows R9 (R294). -/
def State.pf0Only (s : State) (w : Writer) (off : Nat) (v : BitVec 64) (act : State → State) : State :=
  match w with
  | .func f => if f.val = 0 then act s else s.infoAccess w 0 off v
  | .hart _ => if s.writerFunc w = some 0 then act s else s.infoAccess w 0 off v
  | .mgmt _ => if s.hasRole w 1 then act s else s
  | _ => s.infoAccess w 0 off v

/-- COMP_ASSIGN: a stopped hart is given to one function (R294, Table 13-19). -/
def execCompAssign (w : Writer) (h : Fin 32) (f : FuncN) (s : State) : Out :=
  .next (s.pf0Only w 0xE10108 (reg [(h.val, 32, 5), (f.val, 24, 5), (1, 0, 2)]) fun s =>
    if (s.hartE h.val).running then s else s.hartM h.val fun e => { e with func := some f.val })

/-- COMP_START: the hart begins in supervisor mode at COMP_BOOT, which must lie in its function's range (R295). -/
def execCompStart (w : Writer) (h : Fin 32) (s : State) : Out :=
  let v := reg [(h.val, 32, 5), (2, 0, 2)]
  .next (s.pf0Only w 0xE10108 v fun s =>
    let e := s.hartE h.val
    match e.func with
    | none => s.infoAccess w 0 0xE10108 v
    | some f =>
      let fe := s.funcE f
      let a := s.sch.compBoot.toNat
      if e.running then s
      else if fe.base ≤ a && a < fe.base + fe.size && !(s.dieE (h.val / 8)).inReset && !fe.disable then
        let s := { s with pwr := { s.pwr with off := setDel s.pwr.off (hartDomain h.val) } }
        s.hartM h.val fun e => { e with running := true, pc := s.sch.compBoot, supervisor := true }
      else s.infoAccess w 0 0xE10108 v)

/-- COMP_STOP (R294). -/
def execCompStop (w : Writer) (h : Fin 32) (s : State) : Out :=
  .next (s.pf0Only w 0xE10108 (reg [(h.val, 32, 5), (3, 0, 2)]) fun s => s.hartOff h.val)

end Sys2Proof.Machine
end

