-- ==== Sys2Proof/Machine/StackMem.lean ====
section
/-! DEFINITION. The stacks' own events: patrol scrub, refresh, lost channels, and the cullet list (R242, R243, R255 to R260,
11_stacked_memory.md). -/

namespace Sys2Proof.Machine

/-- Whether an agent is PF0, with its companion cores, or the management port with its role (R259, R294). -/
def State.pf0OrMgmt (s : State) (w : Writer) : Bool :=
  match w with
  | .func f => f.val = 0
  | .hart _ => s.writerFunc w = some 0
  | .mgmt _ => s.hasRole w 1
  | _ => false

/-- MEM_CULLADD: the page is retired at once; an index already listed changes nothing, one beyond capacity, from another
function or to a full list is refused with a record (R259). -/
def execMemCulladd (w : Writer) (v : BitVec 64) (s : State) : Out :=
  let p := bits v 24 0
  .next (
    if !(s.pf0OrMgmt w) || s.stackCap ≤ p * 65536 then s.infoAccess w s.modUid 0x200 v
    else if s.mem.cullet.contains p then s
    else if 4096 ≤ s.mem.cullet.length then
      ({ s with mem := { s.mem with cullFull := true } }).infoAccess w s.modUid 0x200 v
    else { s with mem := { s.mem with cullet := s.mem.cullet ++ [p] } })

/-- PERSIST: the live list starts on its way to NVM, after an emergency where one is in force; none while BUSY (R260). -/
def execPersist (w : Writer) (s : State) : Out :=
  .next (
    if !(s.pf0OrMgmt w) then s.infoAccess w s.modUid 0x210 1
    else if s.mem.persistBusy then s
    else
      let s := { s with mem := { s.mem with persistBusy := true } }
      if s.pwr.emerg then { s with pwr := { s.pwr with deferred := s.pwr.deferred ++ [.persist] } } else s)

/-- The copy of the configuration image that is newest and valid; the defaults where none is (R405, R406). -/
def Nvm.newest (n : Nvm) : CfgImage :=
  match n.copy0.valid, n.copy1.valid with
  | true, true => if n.copy1.gen < n.copy0.gen then n.copy0 else n.copy1
  | true, false => n.copy0
  | false, true => n.copy1
  | false, false => {}

/-- One write of the configuration image: the copy of lower GENERATION takes the fields with GENERATION + 1, and code 0xB7
(R406). -/
def State.writeImage (s : State) (g : CfgImage → CfgImage) : State :=
  let n := s.nvm
  let cur := n.newest
  let new := { g cur with gen := cur.gen + 1, valid := true }
  let to1 := if !n.copy1.valid then n.copy0.valid else n.copy0.valid && n.copy1.gen ≤ n.copy0.gen
  let n := if to1 then { n with copy1 := new } else { n with copy0 := new }
  ({ s with nvm := n }).info s.modUid 0xB7 0 new.gen 0

/-- The component of a processor: 0 SEC, 1 PMC, 2 SCH, 3 CFC (Table 18-1, R403). -/
def compOf (p : Nat) : Nat := min p 3
/-- The processors of a component, in the order of their activation (R378). -/
def procsOf (comp : Nat) : List Nat := if comp < 3 then [comp] else (List.range 16).map (3 + ·)

/-- An image of a component in a bank (R403): reset holds the one that Rolry shipped. -/
def State.imgOf (s : State) (bank : Bool) (comp : Nat) : Img := tabGet (if bank then s.nvm.imgB else s.nvm.imgA) comp {}
def State.imgM (s : State) (bank : Bool) (comp : Nat) (g : Img → Img) : State :=
  let i := g (s.imgOf bank comp)
  { s with nvm := if bank then { s.nvm with imgB := tabSet s.nvm.imgB comp i } else { s.nvm with imgA := tabSet s.nvm.imgA comp i } }

/-- The active bank of a component: the one that its first processor runs from (R378, R405). -/
def State.bankOf (s : State) (comp : Nat) : Bool := (s.procE comp).bank

/-- PERSIST_DONE: the NVM write ends: the image copy of lower GENERATION takes the live list (R406); a failed one leaves the list in NVM as it was, sets PERSIST_ERR and writes a UNC-class
record, whose code the spec does not give (R260, notes/assumptions/11.md). -/
def execPersistDone (ok : Bool) (s : State) : Out :=
  .next (
    if !s.mem.persistBusy || s.pwr.deferred.contains .persist then s
    else if ok then
      let s := s.writeImage fun c => { c with cull := s.mem.cullet }
      { s with mem := { s.mem with persistBusy := false, persistErr := false, persisted := s.mem.cullet.length } }
    else
      let (s, c) := s.freeWord64
      let s := { s with mem := { s.mem with persistBusy := false, persistErr := true } }
      s.raiseRec { unit := s.modUid, cls := 1, code := c.setWidth 8 })

/-- Whether a line lies in present stack memory whose stack has joined. -/
def State.joinedLine (s : State) (a : Nat) : Bool := a < s.stackCap && bit s.boot.joined (s.lineAt a).stack

/-- PATROL_SCRUB: one line is read in class S and corrected or poisoned; never in a group that is in reset or powered down
(R255, R256, R258). -/
def execPatrolScrub (line : Nat) (flaw : Option Flaw) (s : State) : Out :=
  let a := 64 * line
  let l := s.lineAt a
  .next (
    if !(s.joinedLine a) || !(s.chanUp l) then s
    else
      let s := match flaw with
        | some f => { s with mem := { s.mem with flaws := tabSet s.mem.flaws line f } }
        | none => s
      (s.readLine a { cls := 3, unit := s.dieUid (l.stack / 5) } true).1)

/-- REFRESH: one bank is refreshed (R243, Table 11-4). -/
def execRefresh (st : Fin 20) (ch : Fin 128) (bank : Fin 16) (s : State) : Out :=
  .next (
    if !(bit s.part.stackMap st.val) || !(s.chanUp { stack := st.val, chan := ch.val }) then s
    else s.chanM st.val ch.val fun c => { c with refreshed := tabSet c.refreshed bank.val (tabGet c.refreshed bank.val 0 + 1) })

/-- CHANNEL_LOST: a channel in service stops answering at an access, with code 0x44 and that requester; from then on every access to it
returns poison (R256, Tables 11-8, 11-9). -/
def execChannelLost (st : Fin 20) (ch : Fin 128) (access : LostAccess) (s : State) : Out :=
  let l := s.lineAt access.addr
  .next (
    if !(s.joinedLine access.addr) || l.stack ≠ st.val || l.chan ≠ ch.val || !(s.chanUp l) then s
    else
      let s := s.chanM st.val ch.val fun c => { c with state := 3 }
      s.memRec 0x44 1 access.addr { ctx := access.ctx.toNat, cls := access.cls.val, unit := access.unit } none)

end Sys2Proof.Machine
end

