-- ==== Sys2Proof/Machine/Power.lean ====
section
/-! DEFINITION. The governor, its throttle reasons, the cap and duty cycling, the meter, and the power registers (R318 to R327,
R329, R330, 15_power_thermal.md). -/

namespace Sys2Proof.Machine

/-- The key of a reason on a die. -/
def reasonKey (die r : Nat) : Nat := 8 * die + r
/-- Whether a reason of Table 15-3 is active on a die. -/
def Pwr.has (p : Pwr) (die r : Nat) : Bool := p.reason.contains (reasonKey die r)
/-- A reason put in force on a die or taken off it. -/
def Pwr.put (p : Pwr) (die r : Nat) (on : Bool) : Pwr := { p with reason := setPut p.reason (reasonKey die r) on }
/-- The same on every die. -/
def Pwr.putAll (p : Pwr) (r : Nat) (on : Bool) : Pwr := [0, 1, 2, 3].foldl (fun p d => p.put d r on) p

/-- Whether the power-management core serves (Table 18-2). -/
def State.pmcUp (s : State) : Bool := (s.procE 1).served

/-- The coolant limit in W; `floor` is the power at the floor (R325). -/
def coolantLimit (inlet flow floor : Nat) (noFlow : Bool) : Nat :=
  let base := 2600 - 250 * (inlet - 40)
  if noFlow then floor else if 16 ≤ flow && flow ≤ 19 then base * flow / 20 else base

/-- The point limit that the active reasons set a die: the floor under a trip or without flow, else what reasons 0 to 2 have worked down to
(R320, R325). -/
def Pwr.reasonLimit (p : Pwr) (die : Nat) : Nat := if p.trip || p.noFlow then 0 else p.limit.getD die 23

/-- The point that the limits of R320 leave a die, without the management limit; an EARLY die takes code 3 whatever PWR_MODE holds
(R415). -/
def Pwr.otherLimit (p : Pwr) (die : Nat) (early : Bool) : Nat :=
  min (if early then 3 else if p.fixed then min 18 p.fixedPoint else 23) (p.reasonLimit die)

/-- Whether a die may rise above code 18, but for reason 5 (R321). -/
def Pwr.boost (p : Pwr) (die : Nat) : Bool :=
  !p.fixed && !((List.range 8).any fun r => r != 5 && p.has die r) && p.power + 100 ≤ p.effective && p.tj.getD die 0 < 95

/-- The point a die would take without the management limit (R320, R321). -/
def Pwr.wish (p : Pwr) (die : Nat) (early : Bool) : Nat :=
  let g := p.otherLimit die early
  if 18 < g && !(p.boost die) then max 18 (min (p.point.getD die 0) g) else g

/-- One evaluation of the limits that reasons 0 to 2 work down: the dies at the highest point, or this one each millisecond,
one code lower; no such reason frees the die. With the PMC down only reason 2 lowers it (R320, R327, Table 15-3). -/
def Pwr.workDown (p : Pwr) (die : Nat) (ms up : Bool) : Nat :=
  let top := p.point.foldl max 0
  let pt := p.point.getD die 0
  let lim := p.limit.getD die 23
  if up && p.has die 0 && pt = top then min lim pt - 1
  else if (up && p.has die 1 || p.has die 2) && ms then min lim pt - 1
  else if p.has die 0 || p.has die 1 || p.has die 2 then lim
  else 23

/-- The point a die goes to: the floor at once under a trip or a junction at 105 °C; else one code towards the lowest of its limits, never
above 18 while a reason is active; with the PMC down it never rises and only reason 2 lowers it (R319 to R321, R324, R327). -/
def Pwr.nextPoint (p : Pwr) (die : Nat) (up early : Bool) : Nat :=
  let now := p.point.getD die 0
  let g := if early then p.wish die early else min (p.wish die early) p.mgmtMax
  let goal :=
    if !up then (if p.has die 2 then min now (p.limit.getD die 23) else now)
    else if 18 < g && p.has die 5 then max 18 (min now g) else g
  if p.trip || (p.has die 1 && p.limit.getD die 23 = 0 && 105 ≤ p.tj.getD die 0) then 0
  else if goal < now then now - 1
  else if now < goal && up then now + 1
  else now

/-- The governor's evaluation (R319 to R323, R327, R415): every active reason's time is counted, on its die and under
key 32 + reason for the module (R20), the limits and reason 5 are judged, and each die's point moves; DISTURBED is set where a reason holds a
die below FIXED_POINT. -/
def Pwr.evaluate (p : Pwr) (us : Nat) (up : Bool) (early : Nat → Bool) : Pwr :=
  let ms := (p.tick + 1) % 10 = 0
  let anyDie := ((List.range 8).filter fun r => (List.range 4).any fun d => p.has d r).map (reasonKey 4)
  let p := { p with
    thrCnt := (p.reason ++ anyDie).foldl (fun l k => tabSet l k (tabGet l k 0 + us)) p.thrCnt
    tick := (p.tick + 1) % 10 }
  let limit := [0, 1, 2, 3].map fun d => p.workDown d ms up
  let p := { p with limit := limit }
  let p := if up then [0, 1, 2, 3].foldl (fun (p : Pwr) d => p.put d 5 (!(early d) && p.mgmtMax < p.wish d (early d))) p else p
  let p := { p with point := [0, 1, 2, 3].map fun d => p.nextPoint d up (early d) }
  let held := p.fixed && [0, 1, 2, 3].any fun d =>
    p.point.getD d 0 < p.fixedPoint && min (p.reasonLimit d) p.mgmtMax < p.fixedPoint
  { p with disturbed := p.disturbed || held }

/-- Whether a die runs at point code 3: before phase 4, and then while its range has not opened (R407, R415, R417). -/
def State.dieEarly (s : State) (d : Nat) : Bool :=
  s.boot.phase < 4 || !(if s.sch.interleave then s.boot.open_ == 0xF#4 else bit s.boot.open_ d)

/-- Whether a core has a resident context, with a store allocation where `store` is set (Table 15-1). -/
def State.coreBusy (s : State) (n : Nat) (store : Bool) : Bool :=
  s.runs.any fun p => p.2.resident && !p.2.evicted && p.2.jobCores.getLsbD n && (!store || 0 < p.2.storeLen)

/-- The domains of cores, dies and span links whose condition in Table 15-1 to be off holds. -/
def State.sleepable (s : State) : List Nat :=
  ((List.range 64).flatMap fun n =>
    (if s.coreBusy n false then [] else coreDomains n) ++ if s.coreBusy n true then [] else [storeDomain n]) ++
  ((List.range 4).filter fun d => (s.dieE d).inReset).flatMap dieDomains ++
  ((List.range 16).filter fun l => (s.linkE l).state == 0 || (s.linkE l).state == 3).map linkDomain

/-- The PMC switches off what may sleep (R318; DESIGN CHOICE, notes/assumptions/41.md: all of it, at each evaluation). -/
def State.domainsOff (s : State) : State :=
  if s.pmcUp then { s with pwr := { s.pwr with off := s.sleepable.foldl setIns s.pwr.off } } else s

def execGovernorEval (us : Nat) (s : State) : Out :=
  .next (if !s.pwr.mainOn then s else { s with pwr := s.pwr.evaluate us s.pmcUp s.dieEarly }.domainsOff)

/-- Whether the average with k stopped windows of ten fits under a cap (R326). -/
def dutyFits (k run stop cap : Nat) : Bool := run * (10 - k) + stop * k ≤ 10 * cap

/-- Duty cycling at the end of an interval: k moves one step towards the smallest count that fits; idle hold begins where ten
windows do not fit and ends where nine do (R326). Answers whether idle hold began. -/
def Pwr.duty (p : Pwr) (avg run stop : Nat) : Pwr × Bool :=
  let floor := p.point.all (· == 0)
  let above := floor && (p.effective < avg || 0 < p.stopped)
  if p.unattain then
    if dutyFits 9 run stop p.effective then ({ p with unattain := false, stopped := 9 }, false) else (p, false)
  else if !above then ({ p with stopped := p.stopped - 1 }, false)
  else
    let goal := ((List.range 11).find? fun k => dutyFits k run stop p.effective).getD 10
    let k := if p.stopped < goal then p.stopped + 1 else if goal < p.stopped then p.stopped - 1 else p.stopped
    let hold := p.stopped = 10 && !(dutyFits 10 run stop p.effective)
    ({ p with stopped := k, unattain := hold }, hold)

/-- The energy of an interval divided among contexts by their array-cycles; the rest is context 0's (R330). -/
def State.shareEnergy (s : State) : State :=
  let e := s.pwr.uj
  let total := (s.runs.map fun p => p.2.arrayCycles).sum
  let part := fun (a : Nat) => if total = 0 then 0 else e * a / total
  let given := (s.runs.map fun p => part p.2.arrayCycles).sum
  let add := fun (s : State) (c v : Nat) =>
    if v = 0 then s else s.ctxM c fun x => { x with energy := BitVec.ofNat 64 (satAdd (2 ^ 64 - 1) x.energy.toNat v) }
  let s := s.runs.foldl (fun s p => add s p.1 (part p.2.arrayCycles)) s
  let s := add s 0 (e - given)
  { s with pwr := { s.pwr with uj := 0 }, runs := s.runs.map fun (p : Nat × CtxRun) => (p.1, { p.2 with arrayCycles := 0 }) }

/-- POWER_INTERVAL: the end of a 1 ms interval: the cap written before takes effect, the coolant limit and the average are
judged, duty cycling steps, and the interval's energy is divided; with the PMC down the cap and the reasons stay (R325 to R327, R330). -/
def execPowerInterval (avg run stop : Nat) (s : State) : Out :=
  .next (
    let p := s.pwr
    let cap := if s.pmcUp then p.capNext.getD p.cap else p.cap
    let cool := coolantLimit p.inlet p.flow run p.noFlow
    let p := { p with cap := cap, capNext := if s.pmcUp then none else p.capNext, power := avg
                      effective := if s.pmcUp then min cap cool else p.effective }
    let (p, hold) :=
      if s.pmcUp then
        let p := p.putAll 7 (cool < 2600)
        let p := if p.effective < avg then p.putAll 0 true else if avg + 50 ≤ p.effective then p.putAll 0 false else p
        let (p, hold) := p.duty avg run stop
        (p.putAll 6 (0 < p.stopped), hold)
      else (p, false)
    let s := { s with pwr := p }
    let s := if hold then
        let s := s.raiseRec { unit := s.modUid, cls := 4, code := 0x72 }
        s.fmpEventAll 0x1A
      else s
    s.shareEnergy)

/-- DOMAIN_WAKE: PMC wakes a sleeping domain; a channel group that woke has lost its contents (R242, R318, Table 18-2). -/
def execDomainWake (d : Fin 528) (s : State) : Out :=
  .next (
    if !(s.pwr.off.contains d.val) || !s.pmcUp then s
    else
      let s := { s with pwr := { s.pwr with off := setDel s.pwr.off d.val } }
      if 384 ≤ d.val && d.val < 464 then { s with mem := { s.mem with groupOff := setDel s.mem.groupOff (d.val - 384) } } else s)

/-- ENERGY_SAMPLE: 100 us of the main input's power, in whole microjoules (R329; notes/assumptions/26.md). -/
def execEnergySample (mv ma : Nat) (s : State) : Out :=
  .next (
    let uj := mv * ma / 10000
    let p := s.pwr
    { s with pwr := { p with uj := p.uj + uj, ujRest := (p.ujRest + uj) % 1000, energy := (p.energy + (p.ujRest + uj) / 1000) % 2 ^ 64 } })

/-- INPUT_CURRENT_TRIP: above 56 A every die goes to the floor at once, and an emergency is in force (R319, R323, R324). -/
def execInputCurrentTrip (ma : Nat) (s : State) : Out :=
  .next (
    if ma ≤ 56000 || !s.pwr.mainOn then s
    else { s with pwr := { (s.pwr.putAll 3 true) with trip := true, emerg := true, point := [0, 0, 0, 0] } })

/-- CURRENT_TRIP_RELEASE (Table 15-3). -/
def execCurrentTripRelease (s : State) : Out :=
  .next { s with pwr := { (s.pwr.putAll 3 false) with trip := false } }

/-- DROOP_DETECT: the die's clocks are stretched; reason 4 is active (Table 15-3). -/
def execDroopDetect (d : Fin 4) (s : State) : Out := .next { s with pwr := s.pwr.put d.val 4 true }

def execDroopRecovery (d : Fin 4) (s : State) : Out := .next { s with pwr := s.pwr.put d.val 4 false }

/-- Whether a condition of R324 holds now. -/
def Pwr.hotNow (p : Pwr) : Bool :=
  (p.tj.any fun t => 105 ≤ t) || (p.stackT.any fun x => 95 ≤ x.2) || p.trip || p.noFlow

/-- What a report changes, beside a critical trip; with the PMC down a junction below 105 °C puts no reason in force (R243, R323 to R325,
R327). -/
def Pwr.report (p : Pwr) (sensor : Sensor) (v : Nat) (up : Bool) : Pwr :=
  let p : Pwr := match sensor with
    | .junction d =>
      let p := { p with tj := listSet p.tj d.val v }
      if 105 ≤ v then { (p.put d.val 1 true) with limit := listSet p.limit d.val 0, point := listSet p.point d.val 0 }
      else if 100 ≤ v then (if up then p.put d.val 1 true else p)
      else if v < 98 then p.put d.val 1 false
      else p
    | .stack st =>
      let p := { p with stackT := tabSet p.stackT st.val v
                        hot := if 85 < v then setIns p.hot st.val else if v ≤ 83 then setDel p.hot st.val else p.hot }
      let die := st.val / 5
      p.put die 2 (p.stackT.any fun x => x.1 / 5 == die && 90 ≤ x.2)
    | .inlet => { p with inlet := v }
    | .flow => { p with flow := v, noFlow := v < 16 }
  { p with emerg := p.emerg || p.hotNow }

/-- PWR_CAP_WRITE: management only, 900 to 2,600 W, in force at the next interval (R327, Table 15-6). -/
def execPwrCapWrite (w : Writer) (v : BitVec 64) (s : State) : Out :=
  let c := bits v 11 0
  .next (
    if !(isMgmt w) || c < 900 || 2600 < c then s.infoAccess w s.modUid 0x3100 v
    else if !(s.hasRole w 1) then s
    else { s with pwr := { s.pwr with capNext := some c } })

/-- PWR_MODE_WRITE: management only; a point code above 23 leaves its field and is recorded (Table 15-7). -/
def execPwrModeWrite (w : Writer) (v : BitVec 64) (s : State) : Out :=
  let m := bits v 12 8
  let f := bits v 6 2
  .next (
    if !(isMgmt w) then s.infoAccess w s.modUid 0x3108 v
    else if !(s.hasRole w 1) then s
    else
      let p := s.pwr
      let s := { s with pwr := { p with mgmtMax := if m ≤ 23 then m else p.mgmtMax
                                        fixedPoint := if f ≤ 23 then f else p.fixedPoint, fixed := bit v 0 } }
      if 23 < m || 23 < f then s.infoAccess w s.modUid 0x3108 v else s)

/-- Whether a function range or the firmware range maps a channel group of a stack: every range of whole GiB meets every
channel of the stacks that its addresses interleave (Table 15-1, R244, R245). -/
def State.groupMapped (s : State) (stack : Nat) : Bool :=
  let per := s.stackCap / 4
  let meets := fun (a n : Nat) =>
    n != 0 && (s.sch.interleave || (per != 0 && a / per ≤ stack / 5 && stack / 5 ≤ (a + n - 1) / per))
  meets s.firmBase (2 ^ 30) || s.funcs.any fun p => p.2.assigned && meets p.2.base p.2.size

/-- The lines of a channel group lose their contents (R242). -/
def State.loseGroup (s : State) (g : Nat) : State :=
  let mine := fun (a : Nat) => a < s.stackCap && (let l := s.lineAt a; 4 * l.stack + l.chan / 32 == g)
  { s with mem := { s.mem with
    cells := s.mem.cells.filter fun (c : Host.Cell) => !(mine c.1)
    dom := s.mem.dom.filter fun (p : Nat × Nat) => !(mine (64 * p.1))
    poison := s.mem.poison.filter fun l => !(mine (64 * l))
    flaws := s.mem.flaws.filter fun (p : Nat × Flaw) => !(mine (64 * p.1))
    groupLost := tabSet s.mem.groupLost g [] } }

/-- CHANNEL_GROUP_POWER_DOWN: management powers down a group that no range maps; its contents are lost (R242, R318, Table
15-1). -/
def execChannelGroupPowerDown (id : Fin 8) (g : Fin 80) (s : State) : Out :=
  .next (
    if !(s.hasRole (.mgmt ⟨id.val, by omega⟩) 1) || s.groupMapped (g.val / 4) || !(bit s.part.stackMap (g.val / 4)) ||
        s.mem.groupOff.contains g.val then s
    else
      let s := s.loseGroup g.val
      { s with mem := { s.mem with groupOff := setIns s.mem.groupOff g.val }
               pwr := { s.pwr with off := setIns s.pwr.off (384 + g.val) } })

end Sys2Proof.Machine
end

