-- ==== Sys2Proof/Machine/Crust.lean ====
section
/-! DEFINITION. The crust writer: dumps, their words and their commit to NVM (R374 to R376, 18_firmware_recovery.md). -/

namespace Sys2Proof.Machine

/-- Bytes of a dump: header, body and validity map (R376). -/
def Dump.size (d : Dump) : Nat := 64 + 8 * d.words + ceilDiv d.words 8

/-- The dump area, oldest first, less the oldest dumps that must give way for the rest to fit in `room` bytes; a pinned dump, or
one being made, stays (R374). -/
def dropOldest : Nat → List Dump → List Dump
  | _, [] => []
  | room, d :: r =>
    if ((d :: r).map Dump.size).sum ≤ room then d :: r
    else if d.pinned || d.open_ then d :: dropOldest (room - d.size) r
    else dropOldest room r

/-- The dump area in bytes. -/
def crustArea : Nat := 3 * 2 ^ 20

/-- The waits pending on a counter of a unit for a context (Table 9-9). -/
def State.waiters (s : State) (ctx : Nat) (u : UnitF) (i : Nat) : Nat :=
  let cl := u.clusN
  let q := s.seqE ctx cl
  let of := fun (n : Nat) =>
    let c := s.coreE ctx n
    ((c.mxeQ ++ c.vxeQ ++ c.dxeQ).filter fun e =>
      e.waiting && !e.waitDone && e.word.wscope == (u.level == 1) && e.word.wctr == i).length
  let sync := match q.sync with
    | some e => if q.syncWait && e.word.wscope == (u.level == 1) && e.word.wctr == i then e.bset &&& ~~~q.syncDone else 0
    | none => 0
  if u.level = 0 then of u.coreN + b2n (bit sync (u.coreN % 4))
  else
    ((s.clusCores cl).map of).sum + b2n (sync != 0) +
      (match q.run with | .waitQc c _ _ => b2n (c == i) | _ => 0)

/- The body of a dump. What the words of a section hold the spec says, how they lie in them it does not: the layout is a DESIGN
CHOICE (notes/assumptions/11.md). -/

/-- A section: its introducing word, and its words (R376). -/
def dumpSection (kind : Nat) (ws : List (BitVec 64)) : List (BitVec 64) := reg [(kind, 48, 16), (ws.length, 0, 32)] :: ws

/-- A word that names a context, a core or cluster, a queue or array, and two counts. -/
def dumpHead (ctx unit q hi lo : Nat) : BitVec 64 := reg [(ctx, 52, 12), (unit, 44, 8), (q, 40, 4), (hi, 20, 20), (lo, 0, 20)]

def TWord.words (t : TWord) : List (BitVec 64) := [t.w1 ++ t.w0, t.w3 ++ t.w2, t.w5 ++ t.w4, t.w7 ++ t.w6]

/-- A queue entry with its descriptor copies. -/
def QEntry.words (e : QEntry) : List (BitVec 64) :=
  [reg [(e.slot, 0, 8), (b2n e.taken, 8, 1), (b2n e.waiting, 9, 1), (e.descs.length, 16, 8), (e.epoch.toNat, 24, 4), (e.bset.toNat, 28, 4),
    (e.pc.toNat, 32, 32)]] ++ e.word.words ++
  e.descs.flatMap fun p => [BitVec.ofNat 64 p.1, p.2.d0, p.2.d1, p.2.d2, p.2.d3, p.2.d4, p.2.d5, p.2.d6, p.2.d7]

/-- A queue with its head and its length, and its entries. -/
def queueWords (ctx core q : Nat) (es : List QEntry) : List (BitVec 64) :=
  dumpHead ctx core q ((es.head?.map QEntry.slot).getD 0) es.length :: es.flatMap QEntry.words

/-- Section 1: the queues of the cores, and where the sequencers of their clusters stand (R374). -/
def State.dumpQueues (s : State) (cores cls : List Nat) : List (BitVec 64) :=
  (s.cores.filter fun p => cores.contains (p.1 % 64)).flatMap (fun p =>
    let (c, n) := (p.1 / 64, p.1 % 64)
    queueWords c n 0 p.2.mxeQ ++ queueWords c n 1 p.2.vxeQ ++ queueWords c n 2 p.2.dxeQ) ++
  (s.seqs.filter fun p => cls.contains (p.1 % 16)).flatMap fun p =>
    let r := p.2.replayPos.getD (0, 0)
    [dumpHead (p.1 / 16) (p.1 % 16) 15 r.1 r.2, reg [(p.2.pc.toNat, 32, 32), (p.2.issueNo, 0, 32)]]

/-- Section 2: every counter of every context on the unit, SC of its cores and, of a cluster or more, QC (R374). -/
def State.dumpCounters (s : State) (cores cls : List Nat) : List (BitVec 64) :=
  let word := fun (ctx unit : Nat) (u : UnitF) (i : Nat) (c : Ctr) =>
    reg [(ctx, 52, 12), (unit, 44, 8), (i, 36, 8), (s.waiters ctx u i, 20, 16), (c.epoch.toNat, 16, 4), (c.value.toNat, 0, 16)]
  (s.cores.filter fun p => cores.contains (p.1 % 64)).flatMap (fun p => (List.range 48).map fun i =>
    word (p.1 / 64) (p.1 % 64) (uidFields (s.coreUid (p.1 % 64))) i (tabGet p.2.sc i {})) ++
  (s.seqs.filter fun p => cls.contains (p.1 % 16)).flatMap fun p => (List.range 32).map fun i =>
    word (p.1 / 16) (p.1 % 16) (uidFields (s.clusUid (p.1 % 16))) i (tabGet p.2.qc i {})

/-- A cycle as a word; all ones where there is none. -/
def cycleWord (c : Option Int) : BitVec 64 := match c with | some i => BitVec.ofInt 64 i | none => BitVec.allOnes 64

/-- The busy windows and the tile pointers of an array. -/
def ArrCtx.words (a : ArrCtx) : List (BitVec 64) :=
  let t := a.time
  reg [(b2n a.tileAs0, 0, 1), (b2n a.tileAs1, 1, 1), (t.loadKind.toNat, 2, 2), (t.loadN, 4, 4), (t.loadL, 16, 32)] ::
    [t.loadStart, t.loadEnd, t.passStart0, t.passStart1, t.drain0, t.drain1, t.swapStart, t.inStart].map cycleWord

/-- One of the 16 DXE instructions, at 12 words: where it stands, its progress and its words (R139, R374). -/
def activeWords (ctx prog : Nat) (e : QEntry) : List (BitVec 64) :=
  [reg [(ctx, 52, 12), (e.slot, 0, 8)], BitVec.ofNat 64 prog] ++ e.word.words ++ List.replicate 6 0

/-- Section 3 of a core: its arrays and accumulators in use in each context, and the 16 active DXE instructions (R374). -/
def State.dumpEngines (s : State) (n : Nat) : List (BitVec 64) :=
  let cs := s.cores.filter fun p => p.1 % 64 == n
  let p := s.physE n
  let act := (cs.flatMap fun p => (p.2.dxeQ.filter fun e => e.taken).map fun e => (p.1 / 64, e)).take 16
  cs.flatMap (fun p =>
    p.2.arrays.flatMap (fun a => dumpHead (p.1 / 64) n a.1 0 0 :: a.2.words) ++
    (List.range 16).map fun i => BitVec.ofNat 64 (listMask ((p.2.vacc.map Prod.fst).filterMap fun k =>
      if k / 64 = i then some (k % 64) else none))) ++
  act.flatMap (fun x => activeWords x.1 (tabGet p.prog 2 0) x.2) ++ List.replicate (12 * (16 - act.length)) 0

/-- The firmware processors of a reset domain (Tables 18-1, 18-4). -/
def domainProcs (domain : Nat) (u : UnitF) : List Nat :=
  match domain with | 0 => [] | 1 => [3 + u.clusN] | 2 => (List.range 4).map (3 + 4 * u.die + ·) | _ => List.range 19

/-- Words that a dump of so many bytes holds, with its header and map (R376). -/
def roomWords (bytes : Nat) : Nat := (bytes - 64) * 8 / 65

/-- The body of a dump of a unit (R374, R376): `procs` are the processors dumped, each as 32 registers, its PC, its trap cause and the
top of its stack, whose contents are free values; section 1 gives way where the whole would pass 48 KiB of a core, else 1.5 MiB. -/
def State.dumpBody (s : State) (domain : Nat) (u : UnitF) (procs : List Nat) : List (BitVec 64) :=
  let cores := s.coresUnder u
  let cls := s.clustersUnder u
  let rest := dumpSection 1 (s.dumpCounters cores (if domain = 0 then [] else cls)) ++
    dumpSection 2 (cores.flatMap s.dumpEngines) ++
    dumpSection 3 ((List.range (1041 * procs.length)).map fun i => Config.freeWord (s.free + i))
  let room := roomWords (if domain = 0 then 48 * 2 ^ 10 else 3 * 2 ^ 19)
  (dumpSection 0 ((s.dumpQueues cores cls).take (room - 1 - rest.length)) ++ rest).take room

/-- The crust writer begins a dump of a unit, before the reset of that domain; `esn` is the triggering record, or 0, and `by_` the
processors outside a core's domain that caused its reset (R374). -/
def State.openDump (s : State) (domain : Nat) (unit : BitVec 32) (esn : Nat) (by_ : List Nat := []) : State :=
  let u := uidFields unit
  let procs := domainProcs domain u ++ by_
  let d : Dump := { index := s.crust.next % 65536, domain := BitVec.ofNat 4 domain, unit := unit, esn := esn, open_ := true
                    body := s.dumpBody domain u procs }
  { s with crust := { s.crust with dumps := s.crust.dumps ++ [d], next := s.crust.next + 1 }, free := s.free + 1041 * procs.length }

/-- The index that the next dump will have. -/
def State.nextDump (s : State) : Nat := s.crust.next % 65536

/-- A dump that is being made, of a unit. -/
def State.dumpOf (s : State) (domain : Nat) (unit : BitVec 32) : Option Dump :=
  s.crust.dumps.find? fun d => d.open_ && d.domain.toNat == domain && d.unit == unit

/-- The dump of that index of a unit, while it is being made. -/
def State.dumpAt (s : State) (domain : Nat) (unit : BitVec 32) (index : Nat) : Option Dump :=
  s.crust.dumps.find? fun d => d.open_ && d.domain.toNat == domain && d.unit == unit && d.index == index

/-- A dump as it stands once it is complete, or once it is cut short after `got` words, those not read being the pattern (R373, R426). -/
def Dump.closed (d : Dump) (cut : Option Nat) : Dump :=
  let n := d.body.length
  let got := cut.getD n
  { d with
    words := n, incomplete := cut.isSome, open_ := false
    badWords := forN got (n - got) (fun i l => setIns l i) (d.badWords.filter fun w => decide (w < n)) }

/-- A dump is complete, or cut short, at a word that nothing states: older ones give way, and code 0xA5 gives its index; where pinned
dumps leave no room it is not made, and a UNC-class record says so, whose code the spec does not give (R374, R375;
notes/assumptions/11.md). -/
def State.closeDump (s : State) (index : Nat) (cut : Bool) : State :=
  match s.crust.dumps.find? fun d => d.open_ && d.index == index with
  | none => s
  | some d =>
    let d := d.closed (if cut then some (Config.freeLen s.free) else none)
    let s := { s with free := s.free + b2n cut }
    let rest := s.crust.dumps.filter fun e => !(e.open_ && e.index == index)
    let left := dropOldest (crustArea - d.size) rest
    if d.size + (left.map Dump.size).sum ≤ crustArea then
      let s := { s with crust := { s.crust with dumps := left ++ [d] } }
      s.info s.modUid 0xA5 0 (index % 65536) 0
    else
      let s := { s with crust := { s.crust with dumps := rest } }
      let (s, c) := s.freeWord64
      s.raiseRec { unit := s.modUid, cls := 1, code := c.setWidth 8 }

/-- DUMP_WORD_TIMEOUT: one word of a dump being made could not be read; the 64th in a row within one unit gives up the rest of
that unit's section, whose end is `unitEnd` (R375). -/
def execDumpWordTimeout (index word unitEnd : Nat) (s : State) : Out :=
  let act := fun (d : Dump) =>
    let run := if 0 < word && d.badWords.contains (word - 1) then d.consec + 1 else 1
    let bad := setIns d.badWords word
    if 64 ≤ run then { d with badWords := forN (word + 1) (unitEnd - (word + 1)) (fun i l => setIns l i) bad, consec := 0 }
    else { d with badWords := bad, consec := run }
  .next { s with crust := { s.crust with dumps := updFirst (fun d => d.open_ && d.index == index) act s.crust.dumps } }

/-- The body words as the dump holds them: the pattern where a read timed out (R375). -/
def Dump.bodyWords (d : Dump) : List (BitVec 64) :=
  (d.body.take d.words).zipIdx.map fun p => if d.badWords.contains p.2 then 0xDEADC0DEDEADC0DE else p.1

/-- The validity map of a dump (R376). -/
def Dump.map (d : Dump) : List (BitVec 8) :=
  (List.range (ceilDiv d.words 8)).map fun b => BitVec.ofNat 8 (listMask ((List.range 8).filter fun i =>
    decide (8 * b + i < d.words) && !(d.badWords.contains (8 * b + i))))

/-- The bytes of a dump as management reads it: header, body, map (R376, Table 18-6). -/
def Dump.bytes (d : Dump) : List (BitVec 8) :=
  let body := d.bodyWords.flatMap fun w => natBytes 8 w.toNat
  let flags := b2n d.incomplete + 2 * b2n d.pinned + 4 * b2n d.committed
  let h := natBytes 4 0x504D5544 ++ natBytes 2 1 ++ [BitVec.ofNat 8 d.domain.toNat, BitVec.ofNat 8 flags] ++ natBytes 8 d.esn ++
    natBytes 4 d.unit.toNat ++ natBytes 4 d.words ++ natBytes 4 (64 + 8 * d.words) ++ natBytes 4 d.badWords.length ++
    List.replicate 28 0
  h ++ natBytes 4 (crcOf 1 (h ++ body ++ d.map)) ++ body ++ d.map

/-- The NVM log partition in bytes (R403): how much of it dumps may take is not stated; the model lets them take all of it
(notes/assumptions/28.md). -/
def logBytes : Nat := 8 * 2 ^ 20

/-- DUMP_COMMIT: a completed dump goes to the NVM log partition, whose oldest unpinned dumps give way (R376). -/
def execDumpCommit (index : Nat) (s : State) : Out :=
  .next (match s.crust.dumps.find? fun d => d.index == index && !d.open_ && !d.committed with
  | none => s
  | some d =>
    let d := { d with committed := true }
    let dumps := updFirst (fun e : Dump => e.index == index && !e.open_) (fun _ => d) s.crust.dumps
    ({ s with crust := { s.crust with dumps := dumps, nvmDumps := dropOldest (logBytes - d.size) s.crust.nvmDumps ++ [d] } }).nvmCommit)

end Sys2Proof.Machine
end

