-- ==== Sys2Proof/Machine/Resets.lean ====
section
/-! DEFINITION. Reset domains, what each clears, and the ends of a module's work: critical trip, latch path, loss of power
(R328, R371 to R373, R426 to R429, 18_firmware_recovery.md, 21_module_hardware.md). -/

namespace Sys2Proof.Machine

/- What survives. -/

/-- What a processor keeps over a module reset: the bank it runs from, and an activation that waits (Table 18-5). -/
def Proc.afterReset (p : Proc) : Proc := { bank := p.bank, state := if p.state = 4 then 4 else 0 }

/-- What a function keeps over a module warm reset: what the management plane gave it (R390, R392, R407). -/
def Func.afterWarm (f : Func) : Func :=
  { base := f.base, size := f.size, quota := f.quota, checkf := f.checkf, assigned := f.assigned, dom := f.dom,
    debug := f.debug, enabled := f.enabled }

/-- Everything outside the management island at its reset value, with fresh keys for every domain; the ledger, the crust, the
live cullet list, PWR_ENERGY and the throttle counters survive (R371, R372, Table 18-5). -/
def State.warmClear (s : State) : State :=
  let img := s.boot.image
  { s with
    part := { s.part with failedCores := 0 }
    boot := { phase := b2n s.pwr.mainOn, ended := [0], image := img, copy := s.boot.copy, dflt := s.boot.dflt,
              count := s.boot.count + 1 }
    health := { replace := s.health.replace, replaceNvm := s.health.replaceNvm, state := if s.pwr.mainOn then 1 else 0 }
    mem := { cullet := s.mem.cullet, cullFull := s.mem.cullFull, persistErr := s.mem.persistErr,
             persistBusy := s.mem.persistBusy, persisted := s.mem.persisted, hostMem := s.mem.hostMem,
             atsRefused := s.mem.atsRefused }
    ctxs := [], runs := [], seqs := [], cores := [], clus := [], phys := [], dies := [], kdStat := {}, jobs := [], sigs := []
    colls := [], joins := [], collHeld := [], tlb := [], protect := [], dig := {}, hcv := [], ldgSel := [], rst := {}, span := {}, harts := []
    funcs := s.funcs.map fun (p : Nat × Func) => (p.1, p.2.afterWarm)
    doms := s.doms.map fun (p : Nat × Dom) => (p.1, { p.2 with gen := p.2.gen + 1 })
    pwr := { cap := img.cap, effective := img.cap, fixed := img.fixed, energy := s.pwr.energy, ujRest := s.pwr.ujRest
             thrCnt := s.pwr.thrCnt, inlet := s.pwr.inlet, flow := s.pwr.flow, tj := s.pwr.tj, stackT := s.pwr.stackT
             hot := s.pwr.hot, reason := s.pwr.reason, trip := s.pwr.trip, noFlow := s.pwr.noFlow, emerg := s.pwr.emerg
             mainOn := s.pwr.mainOn, tripped := s.pwr.tripped, deferred := s.pwr.deferred }
    procs := s.procs.map fun (p : Nat × Proc) => (p.1, p.2.afterReset)
    mgmt := { s.mgmt with resetGrant := false, ctxCmd := {}, spdmBusy := false }
    panel := { s.panel with identify := false }
    sch := { interleave := img.interleave, jobNo := s.sch.jobNo, stamp := s.sch.stamp } }

/-- Everything at its reset value but for what fuses, NVM and hands hold, and the ESN, which only a cold power loss resets
(R30, R371, Table 18-5). -/
def State.coldClear (s : State) (power : Bool) : State :=
  { State.reset with
    pending := s.pending, out := s.out, free := s.free
    part := { s.part with failedCores := 0 }
    ident := { s.ident with locked := false, device := [], aliasKey := [], cdi := 0, tcbDigest := 0, tcbSvn := 0 }
    nvm := s.nvm
    boot := { count := s.boot.count + 1 }
    health := { replace := s.nvm.replace, replaceNvm := true }
    led := { esn := if power then (s.nvm.esn / 2 ^ 32 + 1) * 2 ^ 32 else s.led.esn }
    mem := { hostMem := s.mem.hostMem, atsRefused := s.mem.atsRefused }
    crust := { nvmDumps := s.crust.nvmDumps, next := s.crust.next }
    mgmt := { fuseF := s.mgmt.fuseF, ethUp := s.mgmt.ethUp && !power, i3cUp := s.mgmt.i3cUp && !power }
    pwr := { mainOn := s.pwr.mainOn && !power, tripped := s.pwr.tripped && !power, inlet := s.pwr.inlet, flow := s.pwr.flow
             tj := s.pwr.tj, stackT := s.pwr.stackT }
    panel := { pres0 := s.panel.pres0, pres1 := s.panel.pres1, latch := s.panel.latch, button := s.panel.button
               aux := !power, latchDone := s.panel.latchDone && !power }
    sch := { jobNo := s.sch.jobNo, stamp := s.sch.stamp } }

/- The end of all work. -/

/-- The outcome of a job that the module fails as a whole: one already reached stands (R352, R429). -/
def State.wholeOutcome (s : State) (j : Job) (o : Outcm) : Outcm :=
  match j.res with
  | some r => r
  | none => if j.phase = .running && ((s.runE j.ctx).fault.isSome) then s.jobStatus j else o

/-- One record to its ring, if the ring can be reached and takes it; the interrupt is not counted. Answers whether it was
written (R427). -/
def State.lastRecord (s : State) (j : Job) (rec_ : List (BitVec 64)) : State × Bool :=
  let dev := bit ((s.funcE j.func).crc j.cq) 62
  if (dev && s.pwr.mainOn) || (!dev && s.sch.hostLink) then s.crWrite j.func j.cq false rec_ else (s, false)

/-- Every fetched job ends: held records go first, then one record for each other job; each ring that received one has its
interrupt once; a record its ring does not take is discarded. Answers how many were written and discarded (R328, R427). -/
def State.failAll (s : State) (o : Outcm) : State × Nat × Nat :=
  let held := (s.jobs.filter fun j => j.held.isSome).foldr insHeld []
  let rest := s.jobs.filter fun j => j.held.isNone && j.master.isNone
  let put := fun (p : State × List (Nat × Nat) × Nat) (j : Job) (rec_ : List (BitVec 64)) =>
    let (s, ok) := p.1.lastRecord j rec_
    (s, if ok && !(p.2.1.contains (j.func, j.cq)) then p.2.1 ++ [(j.func, j.cq)] else p.2.1, p.2.2 + b2n ok)
  let p := held.foldl (fun (p : State × List (Nat × Nat) × Nat) (j : Job) => put p j j.record) (s, [], 0)
  let p := rest.foldl (fun (p : State × List (Nat × Nat) × Nat) (j : Job) =>
    put p j (p.1.jobRecord j (p.1.wholeOutcome j o) 0)) p
  let s' := p.2.1.foldl (fun (s : State) r => s.crInterrupt r.1 r.2) p.1
  ({ s' with jobs := [] }, p.2.2, held.length + rest.length - p.2.2)

/-- Main power leaves the compute dies, the stacks and the hub: what they held is lost, and bring-up waits in phase 0's state
(R328, R426, Table 20-4). -/
def State.powerOff (s : State) : State :=
  (({ s with pwr := { s.pwr with mainOn := false } }).warmClear).noted s

/-- The record of code 0x94 with its counts (Table 21-5). -/
def State.fillLatchRec (s : State) (esn written lost index bad : Nat) : State :=
  let f := fun (r : Rec) => if r.esn = esn then { r with
    d0 := reg [(lost, 32, 32), (written, 0, 32)], d1 := reg [(index, 0, 16)], d2 := reg [(bad, 0, 32)] } else r
  { s with led := { s.led with recs := s.led.recs.map f, tail := s.led.tail.map f } }

/-- The records that the latch path commits: its own, and every SDC, FATAL and UNC record not acknowledged, and its
dump's header and section 1, within 256 KiB (R428). -/
def State.latchCommit (s : State) (esn : Nat) : State :=
  let own := s.led.recs.filter fun r => r.esn == esn
  let keep := (own ++ s.led.recs.filter fun r => r.esn != esn && (r.cls == 1 || r.cls == 2 || r.cls == 3)).take 4095
  let cut := (s.crust.dumps.filter fun d => d.domain == 6 && d.esn == esn).map fun (d : Dump) =>
    let n := min d.words (min (1 + bits (d.body.headD 0) 31 0) (roomWords (2 ^ 18 - 64 * keep.length)))
    { d with words := n, badWords := d.badWords.filter fun w => decide (w < n), committed := true }
  ({ s with nvm := { s.nvm with records := keep }
            crust := { s.crust with nvmDumps := dropOldest logBytes (s.crust.nvmDumps ++ cut) } }).nvmCommit

/-- Steps 4 and 5 of the latch path, once its dump is complete or cut off: every job ends with cause 0x2F, main power goes off,
and the log is committed (R426 to R428). -/
def State.latchFinish (s : State) : State :=
  let esn := s.panel.latchEsn
  let d := (s.crust.dumps.find? fun d => d.domain == 6 && d.esn == esn).getD {}
  let (s, w, l) := s.failAll { status := 0x10, cause := 0x2F, esn := esn }
  let s := s.fillLatchRec esn w l d.index d.badWords.length
  let s := { s.powerOff with panel := { s.panel with latchPath := false, latchDone := true } }
  s.latchCommit esn

/-- The end of a critical trip: peers see a withdrawal with cause 0, every job in flight gets a failed record with cause 0x2B,
and main power goes off (R328). -/
def State.tripFinish (s : State) (esn : Nat) : State :=
  ((s.noticeAll 0).failAll { status := 0x10, cause := 0x2B, esn := esn }).1.powerOff

/- Reset of parts. -/

/-- Whether a reset in progress takes in a unit of a domain: of its own, or of a wider one (R373). -/
def takesIn (active : List (BitVec 4 × Nat)) (domain n : Nat) : Bool :=
  active.any fun p =>
    let d := p.1.toNat
    (d == 6 && domain != 7) || d == 7 || (d == domain && p.2 == n) ||
    (domain == 0 && ((d == 1 && p.2 == n / 4) || (d == 2 && p.2 == n / 16))) || (domain == 1 && d == 2 && p.2 == n / 4) ||
    (domain == 3 && d == 2 && p.2 == n / 20)

/-- The unit ID of a core, cluster, die or the module as a reset names it. -/
def State.resetUnit (s : State) (domain n : Nat) : BitVec 32 :=
  match domain with | 0 => s.coreUid n | 1 => s.clusUid n | 2 => s.dieUid n | _ => s.modUid

/-- A reset of a core, cluster, die or the module is asked for, and its dump begins; one that a reset in progress takes in is
absorbed (R373, R374). Answers whether it was absorbed. -/
def State.askReset (s : State) (domain n esn : Nat) (by_ : List Nat := []) : State × Bool :=
  if takesIn s.rst.active domain n then (s, true)
  else
    let s := { s with rst := { s.rst with active := s.rst.active ++ [(BitVec.ofNat 4 domain, n)] } }
    (s.openDump domain (s.resetUnit domain n) esn by_, false)

/-- A context that loses units to a reset: it faults with cause 0x2D, unless it has faulted already, and is moved from its
placement; one whose job has not started, or that has none, becomes FAULTED (R215, R372). -/
def State.ctxHit (s : State) (unit : BitVec 32) (c : Nat) : State :=
  if (s.runE c).fence.isSome then s
  else
    let (s, o) : State × Outcm := match (s.runE c).fault with
      | some f => (s, { status := f.status, cause := f.cause, esn := f.esn })
      | none =>
        let s := s.failRec unit c 0 0x10 0x2D (0, 0, 0, 0)
        (s, { status := 0x10, cause := 0x2D, esn := s.lastEsn })
    let s := s.forcedMove c o
    match (s.ctxE c).state with
    | .idle => s.ctxM c fun e => { e with state := .faulted }
    | .queued => { s with jobs := s.jobs.map fun (j : Job) =>
        if j.ctx = c && j.accepted then { j with phase := .ended, res := some o } else j }
    | _ => s

/-- The contexts whose allocations lie on any of these cores. -/
def State.ctxsOn (s : State) (cores : List Nat) : List Nat :=
  (s.runs.filter fun p => p.2.resident && cores.any fun n => bit p.2.jobCores n).map Prod.fst

/-- A core's state is cleared: instructions of a superseded placement end there with STALE_EPOCH (R215, R216, Table 18-4). -/
def State.clearCore (s : State) (n : Nat) : State :=
  let s := (s.cores.filter fun (p : Nat × CoreCtx) => p.1 % 64 == n).foldl (fun (s : State) p =>
    p.2.dcows.foldl (fun (s : State) r => s.dcowRelease (p.1 / 64) n r.slot) s) s
  let clear := fun (p : Nat × CoreCtx) =>
    if p.1 % 64 ≠ n then p
    else
      let ep := (s.ctxE (p.1 / 64)).epoch
      let late := ((p.2.mxeQ ++ p.2.vxeQ ++ p.2.dxeQ).filter fun (e : QEntry) => e.epoch != ep).length
      (p.1, ({ staleDone := p.2.staleDone + late } : CoreCtx))
  let s := { s with cores := s.cores.map clear }
  (s.zeroBytes (storeBase n) 0x800000).physM n fun p => { p with inReset := true, arrState := [], arrIdle := [], peekBusy := false }

/-- A cluster's own state is cleared: its pool, its sequencers with their replay buffers and return slots (Table 18-4). -/
def State.clearCluster (s : State) (k : Nat) : State :=
  let clear := fun (p : Nat × SeqCtx) =>
    if p.1 % 16 ≠ k then p
    else
      let o : Outcm := match (s.runE (p.1 / 16)).fault with
        | some f => { status := f.status, cause := f.cause, esn := f.esn }
        | none => { status := 0x10, cause := 0x2D }
      match p.2.run with
      | .idle => (p.1, { step := p.2.step })
      | _ => (p.1, { step := p.2.step, run := .faulted, ended := p.2.ended.or (some (o.status, 0, o)) })
  let s := { s with seqs := s.seqs.map clear }
  (s.zeroBytes (poolBase k) 0x1000000).clusM k fun (c : Clus) =>
    { ctx := c.ctx, removed := c.removed, staleSig := c.staleSig, ctxSel := c.ctxSel, inReset := true }

/-- A reset takes in a component's processor that is activating an image: the activation is cancelled, the bank bit goes back, the image
is staged again, and its processors that have not started from it keep, or restart in, the image they ran (R373). -/
def State.cancelComp (s : State) (comp : Nat) : State :=
  match (procsOf comp).find? fun p => (s.procE p).state == 3 with
  | none => s
  | some p =>
    let old := (s.procE p).bank == (s.procE p).served
    let s := s.writeImage fun c => { c with banks := setBits c.banks comp comp (b2n old) }
    let s := s.imgM (!old) comp fun i => { i with staged := true }
    (procsOf comp).foldl (fun (s : State) p => s.procM p fun e =>
      if e.state = 3 then { e with state := if e.served then 0 else 1, bank := old, fresh := none }
      else if e.state = 2 then { e with bank := old } else e) s

/-- The activations of the components with a processor among these are cancelled (R373). -/
def State.cancelActivations (s : State) (procs : List Nat) : State :=
  [0, 1, 2, 3].foldl (fun (s : State) comp =>
    if procs.any fun p => compOf p == comp && (s.procE p).state == 3 then s.cancelComp comp else s) s

/-- A core, cluster or die reset takes effect once its dump is made (R371, R372). -/
def State.unitReset (s : State) (domain n : Nat) : State :=
  let unit := s.resetUnit domain n
  let cores := (List.range 64).filter fun c => s.corePresent c &&
    (match domain with | 0 => c == n | 1 => c / 4 == n | _ => c / 16 == n)
  let s := (s.resetRec domain unit.toNat).cancelActivations (domainProcs domain (uidFields unit))
  let s := (s.ctxsOn cores).foldl (fun (s : State) c => s.ctxHit unit c) s
  let s := cores.foldl (fun (s : State) c => s.clearCore c) s
  if domain = 0 then s
  else
    let s := (clustersOf cores).foldl (fun (s : State) k => s.clearCluster k) s
    if domain = 1 then s.clusM n fun c => { c with inReset := true }
    else
      let s := (List.range 8).foldl (fun (s : State) h => s.hartOff (8 * n + h)) s
      let s := ({ s with tlb := s.tlb.filter fun p => !(tlbOfDie n p.1) }).dieM n fun d => { d with inReset := true }
      { s with health := { s.health with dieState := s.health.dieState.set n 0 } }

/-- A module warm reset takes effect: peers see cause 0, every fetched job gets a failed record with cause 0x2D while the host
link is up, and everything outside the management island is cleared; bring-up reruns from phase 1 (R371, R372). -/
def State.warmReset (s : State) : State :=
  let s := if s.sch.hostLink then ((s.noticeAll 0).failAll { status := 0x10, cause := 0x2D }).1 else s.noticeAll 0
  ((s.resetRec 6 0).cancelActivations (List.range 19)).warmClear.noted s

/-- A module cold reset takes effect: everything is cleared, and bring-up reruns from phase 0 (R371). -/
def State.coldReset (s : State) : State := ((((s.noticeAll 0).resetRec 7 0).cancelActivations (List.range 19)).coldClear false).noted s

/-- CRUST_DUMP: a dump of a unit is complete, dumps within it are cut short, and what waited for it goes on: the reset of the
unit, the latch path or a critical trip (R328, R373 to R375, R426). -/
def execCrustDump (domain : BitVec 4) (unit : BitVec 32) (index : Nat) (s : State) : Out :=
  .next (match s.dumpAt domain.toNat unit index with
  | none => s
  | some d =>
    let dm := domain.toNat
    let n := let u := uidFields unit; match dm with | 0 => u.coreN | 1 => u.clusN | 2 => u.die | _ => 0
    let inner := s.rst.active.filter fun p =>
      !(p.1 == domain && p.2 == n) && takesIn [(domain, n)] p.1.toNat p.2
    let s := inner.foldl (fun (s : State) p =>
      let s := match s.dumpOf p.1.toNat (s.resetUnit p.1.toNat p.2) with
        | some e => s.closeDump e.index true
        | none => s
      { s with rst := { s.rst with active := s.rst.active.filter fun q => q != p } }) s
    let s := s.closeDump d.index false
    if dm = 6 then
      if s.panel.latchPath then s.latchFinish
      else if s.pwr.tripped then s.tripFinish d.esn
      else s.warmReset
    else if dm = 7 then s.coldReset
    else s.unitReset dm n)

/- Requests through RST_CTL. -/

/-- The word that RST_CTL is written with (Table 18-9). -/
def rstWord (domain : Nat) (unit : BitVec 32) (part : BitVec 8) : BitVec 64 :=
  reg [(unit.toNat, 32, 32), (part.toNat, 16, 8), (domain + 1, 0, 4)]

/-- A request through RST_CTL: management only; RESULT 1 for a bad unit or part, 2 while BUSY, 3 where it is absorbed; else BUSY
and LAST, and the reset goes on by `run` (R371, R373, Tables 18-9, 18-10). -/
def State.rstRequest (s : State) (w : Writer) (domain : Nat) (unit : BitVec 32) (part : BitVec 8) (good : Bool) (n : Nat)
    (run : State → State × Bool) : State :=
  if !(isMgmt w) then s.infoAccess w s.modUid 0x24C0 (rstWord domain unit part)
  else if !(s.hasRole w 1) then s
  else if s.rst.busy then { s with rst := { s.rst with result := 2 } }
  else if !good then { s with rst := { s.rst with result := 1 } }
  else if takesIn s.rst.active domain n then
    { s with rst := { s.rst with last := BitVec.ofNat 4 domain, result := 3 } }
  else
    let s := { s with rst := { s.rst with busy := true, last := BitVec.ofNat 4 domain, result := 0 } }
    (run s).1

/-- A request for a core, cluster or die (levels 0 to 2) of this module. -/
def State.rstUnit (s : State) (w : Writer) (domain : Nat) (unit : BitVec 32) : State :=
  let u := uidFields unit
  let good := s.unitValid unit && u.level == domain && u.module == s.modIdx
  let n := match domain with | 0 => u.coreN | 1 => u.clusN | _ => u.die
  s.rstRequest w domain unit 0 good n fun s => s.askReset domain n 0

def execResetCore (w : Writer) (unit : BitVec 32) (s : State) : Out := .next (s.rstUnit w 0 unit)
def execResetCluster (w : Writer) (unit : BitVec 32) (s : State) : Out := .next (s.rstUnit w 1 unit)
def execResetDie (w : Writer) (unit : BitVec 32) (s : State) : Out := .next (s.rstUnit w 2 unit)

/-- A reset that needs no dump is in progress at once, with its record (R371, R374). -/
def State.plainReset (s : State) (domain what : Nat) : State :=
  let s := s.resetRec domain what
  { s with rst := { s.rst with active := s.rst.active ++ [(BitVec.ofNat 4 domain, what)] } }

/-- RESET_CHANNEL_GROUP: the group's channels are cleared, contents included; until full-line writes, its lines read as poison
(R242, R371, R372). -/
def execResetChannelGroup (w : Writer) (part : BitVec 8) (s : State) : Out :=
  let g := part.toNat
  .next (s.rstRequest w 3 0 part (g < 80 && bit s.part.stackMap (g / 4)) g fun s =>
    let s := (s.plainReset 3 g).loseGroup g
    let s := (List.range 32).foldl (fun (s : State) i => s.chanM (g / 4) (32 * (g % 4) + i) fun _ => { state := 4 }) s
    ({ s with mem := { s.mem with groupReset := setIns s.mem.groupReset g } }, false))

/-- RESET_SPAN_LINK: the link's state and counters are cleared, and one that serves a module of the span trains again (R298, R302, R371). -/
def execResetSpanLink (w : Writer) (part : BitVec 8) (s : State) : Out :=
  let l := part.toNat
  .next (s.rstRequest w 4 0 part (l < 16) l fun s =>
    let s := s.plainReset 4 l
    ({ s with span := { s.span with links := tabSet s.span.links l { state := s.linkStart l } } }, false))

/-- RESET_HOST_FUNCTION: as a function-level reset (R293, R371). -/
def execResetHostFunction (w : Writer) (part : BitVec 8) (s : State) : Out :=
  let f := part.toNat
  .next (s.rstRequest w 5 0 part (f < 32) f fun s => (s.funcReset f, false))

def execResetModuleWarm (w : Writer) (s : State) : Out := .next (s.rstRequest w 6 0 0 true 0 fun s => s.askReset 6 0 0)
def execResetModuleCold (w : Writer) (s : State) : Out := .next (s.rstRequest w 7 0 0 true 0 fun s =>
  ({ s with rst := { s.rst with active := [(7, 0)] } }.openDump 7 s.modUid 0, false))

/-- STATE of a die out of reset: SERVICE where its range is open, else EARLY, and the module's own while it takes no work
(R18, R412). -/
def State.dieStateNow (s : State) (k : Nat) : BitVec 4 :=
  if s.health.state = 2 || s.health.state = 3 then
    (if (if s.sch.interleave then s.boot.open_ == 0xF#4 else bit s.boot.open_ k) then 3 else 2)
  else if s.health.state = 6 then 5 else s.health.state

/-- RESET_COMPLETE: a reset in progress ends, and what it held is out of reset (R371, R373). A function's registers are at their
reset values once its jobs and contexts are gone (R293). -/
def execResetComplete (domain : BitVec 4) (what : Nat) (s : State) : Out :=
  let dm := domain.toNat
  .next (
    if !(s.rst.active.contains (domain, what)) || (dm < 3 && (s.dumpOf dm (s.resetUnit dm what)).isSome) || 6 ≤ dm ||
        (dm == 5 && !(s.funcIdle what && s.ctxCount what == 0)) then s
    else
      let s := { s with rst := { s.rst with active := s.rst.active.filter fun p => p != (domain, what)
                                            busy := s.rst.busy && s.rst.last != domain } }
      match dm with
      | 0 => s.physM what fun p => { p with inReset := false }
      | 1 =>
        let s := (s.clusCores what).foldl (fun (s : State) n => s.physM n fun p => { p with inReset := false }) s
        s.clusM what fun c => { c with inReset := c.removed }
      | 2 =>
        let s := ((List.range 64).filter fun n => n / 16 == what && s.corePresent n).foldl
          (fun (s : State) n => s.physM n fun p => { p with inReset := false }) s
        let s := ((List.range 4).map (4 * what + ·)).foldl
          (fun (s : State) k => s.clusM k fun c => { c with inReset := c.removed }) s
        let s := s.dieM what fun d => { d with inReset := false }
        { s with health := { s.health with dieState := s.health.dieState.set what (s.dieStateNow what) } }
      | 3 =>
        let s := { s with mem := { s.mem with groupReset := setDel s.mem.groupReset what } }
        (List.range 32).foldl (fun (s : State) i => s.chanM (what / 4) (32 * (what % 4) + i) fun _ => { state := 2 }) s
      | 5 => s.funcM what Func.afterWarm
      | _ => s)

/-- MGMT_RSTREQ: REQ = 1 from PF0 with the grant starts a module warm reset; any other write is recorded (R393, Table 19-8). -/
def execMgmtRstreq (w : Writer) (v : BitVec 64) (s : State) : Out :=
  let pf0 := match w with | .func f => f.val == 0 | _ => false
  .next (
    if !pf0 || (bit v 0 && !s.mgmt.resetGrant) then s.infoAccess w s.modUid 0x2A8 v
    else if bit v 0 then (s.askReset 6 0 0).1
    else s)

/-- FENCE_TIMEOUT: a forced move's fence is still open: each core of the old placement that holds instructions of the context is
reset (R216). -/
def execFenceTimeout (ctx : CtxId) (s : State) : Out :=
  let c := ctx.toNat
  .next (match (s.runE c).fence with
  | none => s
  | some f =>
    if !f.forced || !s.schUp then s
    else
      ((maskList 64 f.cores.toNat).filter fun n =>
        let k := s.coreE c n
        (k.mxeQ ++ k.vxeQ ++ k.dxeQ).any fun e => e.epoch == f.epoch).foldl (fun (s : State) n => (s.askReset 0 n 0 [2]).1) s)

/-- ENGINE_HANG: an instruction on a VXE, DXE or CXE makes no progress past its context's limit: code 0xA4, the context's fault,
the instruction's outcome, and the dump and reset of the core (R369, R370, Table 18-3). -/
def execEngineHang (c : CoreN) (e : Fin 4) (slot : Nat) (s : State) : Out :=
  let n := c.val
  let q := if e.val = 1 then 1 else 2
  let ctx := s.ctxOn (n / 4)
  .next (
    if e.val = 0 || !(s.cfcUp (n / 4)) || !(s.takes ctx n) then s
    else match s.entryE ctx n q slot with
      | none => s
      | some x =>
        let cxe := 3 ≤ x.word.engine
        if !x.taken || x.result.isSome || (q == 2 && cxe != (e.val == 3)) then s
        else
          let prog := tabGet (s.physE n).prog e.val 0
          let s := s.raiseRec {
            unit := s.coreUid n, cls := 1, code := 0xA4, ctx := BitVec.ofNat 12 ctx, opcode := BitVec.ofNat 8 x.word.opcode
            cause := 0x2C, status := 0x10
            d0 := reg [(slot, 0, 8)], d1 := reg [(s.limitOf ctx 15, 32, 32), (e.val, 0, 4)], d2 := BitVec.ofNat 64 prog
            d3 := reg [(s.nextDump, 0, 16)] }
          let o : Outcm := { status := 0x10, cause := 0x2C, esn := s.lastEsn }
          let s := (s.endEntry ctx n q slot o).setFault ctx o
          (s.askReset 0 n o.esn [3 + n / 4]).1)

/- Loss of power. -/

/-- COLD_POWER_LOSS: both inputs are lost; a cold start follows, from phase 0 (R30, R371, Table 20-4). -/
def execColdPowerLoss (s : State) : Out := .next ((s.coldClear true).noted s)

/-- Main power goes: the host link and all work are lost, and bring-up waits in phase 0's state; on the latch path only the power
goes (R429, Table 20-4). -/
def State.mainLost (s : State) : State :=
  if !s.pwr.mainOn then s
  else if s.panel.latchPath then
    { s with pwr := { s.pwr with mainOn := false }, sch := { s.sch with hostLink := false } }
  else s.linkDown.powerOff

def execMainPowerLoss (s : State) : Out := .next s.mainLost

/- Temperature. -/

/-- Whether a report is a critical trip: a junction at 112 °C, a stack at 100 °C (R328). -/
def criticalTrip (sensor : Sensor) (v : Nat) : Bool :=
  match sensor with | .junction _ => 112 ≤ v | .stack _ => 100 ≤ v | _ => false

/-- The number by which code 0x74 names its sensor: a die 0 to 3, or 16 + s for stack s; the spec does not give the form
(notes/assumptions/29.md). -/
def sensorWord (sensor : Sensor) : Nat :=
  match sensor with | .junction d => d.val | .stack st => 16 + st.val | .inlet => 64 | .flow => 65

/-- TEMPERATURE_REPORT: a sensor reports; a critical trip stops every engine, records code 0x74 and has the crust written, after
which the jobs end and main power goes off; on the latch path it changes the light alone (R323 to R325, R328, R429). -/
def execTemperatureReport (sensor : Sensor) (v : Nat) (s : State) : Out :=
  .next (
    let s := { s with pwr := s.pwr.report sensor v s.pmcUp }
    if !(criticalTrip sensor v) || s.pwr.tripped || !s.pwr.mainOn then s
    else if s.panel.latchPath then { s with pwr := { s.pwr with tripped := true } }
    else
      let s := s.raiseRec { unit := s.modUid, cls := 3, code := 0x74, d0 := BitVec.ofNat 64 (sensorWord sensor)
                            d1 := BitVec.ofNat 64 v }
      ({ s with pwr := { s.pwr with tripped := true } }).openDump 6 s.modUid s.lastEsn)

end Sys2Proof.Machine
end

