-- ==== Sys2Proof/Machine/Firmware.lean ====
section
/-! DEFINITION. The firmware processors: heartbeats, watchdogs, restarts, held processors, activation and fallback
(R363 to R369, R377 to R380, 18_firmware_recovery.md). -/

namespace Sys2Proof.Machine

/-- Layer 0: at a cold start the SEC ROM reads the device secret, derives the DeviceID keys from it alone, and locks the fuses (R395). -/
def Ident.layer0 (i : Ident) : Ident :=
  if i.locked then i else { i with locked := true, device := [Config.deviceKey 0 i.secret, Config.deviceKey 1 i.secret] }

/-- Layer 1: the compound device identifier of the SEC image, the Alias keys and the TcbInfo of their certificates (R395). -/
def Ident.layer1 (i : Ident) (img : Img) : Ident :=
  let cdi := Config.compoundId i.secret img.digest
  { i with cdi := cdi, aliasKey := [Config.aliasKey 0 cdi, Config.aliasKey 1 cdi], tcbDigest := img.digest, tcbSvn := img.svn }

/-- SEC starts in its active image. -/
def State.secStarts (s : State) : State := { s with ident := s.ident.layer0.layer1 (s.imgOf (s.bankOf 0) 0) }

/-- Every FMP session drops (R385, Table 18-2). -/
def State.dropSessions (s : State) (sel : Sess → Bool) (reason : Nat) : State :=
  let gone := s.mgmt.sessions.filter sel
  let s := { s with mgmt := { s.mgmt with
    sessions := s.mgmt.sessions.filter fun x => !(sel x)
    loading := if gone.any fun x => s.mgmt.loading == some x.id then none else s.mgmt.loading
    stream := if gone.any fun x => s.mgmt.stream == some x.id then none else s.mgmt.stream } }
  gone.foldl (fun (s : State) x => (s.emit (.fmpClosed x.id)).info s.modUid 0xB1 0 x.id reason) s

/-- A processor goes down to start again, in the image of a bank (R365, R366, R385, R387, Table 18-2). -/
def State.goDown (s : State) (p : Nat) (state : BitVec 3) (bank : Bool) : State :=
  let s := s.procM p fun e => { e with
    state := state, served := false, restarts := satAdd 0xFF e.restarts 1, bank := bank }
  if p = 0 then
    let s := s.dropSessions (fun _ => true) 1
    { s with mgmt := { s.mgmt with loading := none, spdmBusy := state == 3 } }
  else s

/-- A processor is held: code 0xA3; a held CFC has its cluster reset and removed from dispatch (R368). -/
def State.hold (s : State) (p : Nat) : State :=
  let s := s.raiseRec { unit := s.modUid, cls := 3, code := 0xA3, d0 := BitVec.ofNat 64 p }
  let s := s.procM p fun e => { e with state := 2, served := false }
  if p < 3 then s
  else
    let s := s.clusM (p - 3) fun c => { c with removed := true }
    (s.askReset 1 (p - 3) s.lastEsn).1

/-- An activated component falls back to the other bank: its bank bit is switched back, its processors restart from there with
their count cleared, and code 0xA7 (R379). -/
def State.fallback (s : State) (comp : Nat) : State :=
  let back := !(s.bankOf comp)
  let s := s.writeImage fun c => { c with banks := setBits c.banks comp comp (b2n back) }
  let s := (procsOf comp).foldl (fun (s : State) p =>
    (s.procM p fun e => { e with recent := [], fresh := none }).goDown p 1 back) s
  s.raiseRec { unit := s.modUid, cls := 1, code := 0xA7, d0 := BitVec.ofNat 64 comp }

/-- A restart of a processor after a failure; the third within 60 s holds it, unless it was activated within 10 s. One that waits for its
turn in an activation starts from the new image (R365, R368, R378, R379). -/
def State.restart (s : State) (p : Nat) : State :=
  let e := s.procE p
  if !e.served || e.state = 2 then s
  else
    let recent := e.recent ++ [0]
    let turn := e.state == 3 && e.served
    let s := (s.goDown p (if e.state = 3 then 3 else 1) (e.bank != turn)).procM p fun e => { e with
      recent := recent, fresh := if turn then some 0 else e.fresh }
    if recent.length < 3 then s
    else if e.fresh.isSome then
      (s.raiseRec { unit := s.modUid, cls := 3, code := 0xA3, d0 := BitVec.ofNat 64 p }).fallback (compOf p)
    else s.hold p

/-- HEARTBEAT: one each millisecond of the processor's own local time, with its progress word; by them the model counts the
60 s and the 10 s of that time (R364, R368, R379; notes/assumptions/30.md). -/
def execHeartbeat (p : ProcN) (progress : BitVec 64) (s : State) : Out :=
  .next (
    if !(s.procE p.val).served then s
    else s.procM p.val fun e => { e with
      progress := progress, beatAge := 0
      recent := (e.recent.map (· + 1)).filter fun t => decide (t < 60000)
      fresh := match e.fresh with | some t => if t + 1 < 10000 then some (t + 1) else none | none => none })

/-- HEARTBEAT_MISS: no heartbeat for 3 ms: code 0xA0 and a restart (R364). A held processor posts none and is not restarted. -/
def execHeartbeatMiss (p : ProcN) (s : State) : Out :=
  .next (
    if (s.procE p.val).state = 2 then s
    else
      let s := s.raiseRec { unit := s.modUid, cls := 1, code := 0xA0, d0 := BitVec.ofNat 64 p.val }
      (s.procM p.val fun e => { e with beatAge := 3 }).restart p.val)

/-- WATCHDOG_EXPIRY: code 0xA1 and a restart; after a missed heartbeat of the same failure there is only the record (R365). -/
def execWatchdogExpiry (p : ProcN) (s : State) : Out :=
  .next (
    if (s.procE p.val).state = 2 then s
    else (s.raiseRec { unit := s.modUid, cls := 1, code := 0xA1, d0 := BitVec.ofNat 64 p.val }).restart p.val)

/-- The next processor of a component under activation goes down, or code 0xAA ends the activation (R378). -/
def State.activateNext (s : State) (comp : Nat) : State :=
  if (procsOf comp).any fun p => (s.procE p).state == 3 && !(s.procE p).served then s
  else match (procsOf comp).find? fun p => (s.procE p).state == 3 with
  | some p => (s.procM p fun e => { e with fresh := some 0, recent := [] }).goDown p 3 (!(s.procE p).bank)
  | none =>
    let v := s.imgOf (s.bankOf comp) comp
    s.info s.modUid 0xAA 0 comp v.version.toNat

/-- Activation of a staged component begins: the bank bit in the image is switched, and its processors restart one at a time
(R378). Those that wait their turn show ACTIVATING and go on serving; one that is down already, or held, is to start from the new image. -/
def State.startActivation (s : State) (comp : Nat) : State :=
  let new := !(s.bankOf comp)
  if !(s.imgOf new comp).staged then s
  else
    let s := s.writeImage fun c => { c with banks := setBits c.banks comp comp (b2n new) }
    let s := s.imgM new comp fun i => { i with staged := false }
    let s := (procsOf comp).foldl (fun (s : State) p =>
      s.procM p fun e =>
        if e.state = 2 then { e with bank := new }
        else if e.served then { e with state := 3 }
        else { e with state := 3, bank := new, fresh := some 0 }) s
    s.activateNext comp

/-- Records that a CFC latched reach the hub in order (R367). -/
def State.flushLatch (s : State) (p : Nat) : State :=
  let l := (s.procE p).latch
  let s := s.procM p fun e => { e with latch := [] }
  l.foldl State.takeRec s

/-- PROCESSOR_SERVING: a processor that went down serves again: code 0xA2, a CFC's latched records, and the next step of an
activation; SCH makes the epoch changes that waited; SEC makes its Alias keys and certificates anew from the image it runs (R366, R367, R378, R395). -/
def execProcessorServing (p : ProcN) (s : State) : Out :=
  let n := p.val
  let e := s.procE n
  .next (
    if e.served || (e.state != 1 && e.state != 3) then s
    else
      let act := e.state == 3
      let s := s.procM n fun e => { e with
        state := if s.pwr.deferred.contains (.activate (compOf n)) then 4 else 0, served := true, beatAge := 0 }
      let s := if n = 0 then { s.secStarts with mgmt := { s.mgmt with spdmBusy := false } } else s
      let s := s.info s.modUid 0xA2 0 n 0
      let s := if 3 ≤ n then s.flushLatch n else if n = 2 then s.schServes else s
      let s := if act then s.activateNext (compOf n) else s
      -- a CFC that serves again lets the steps that waited for it go on (R343)
      if 3 ≤ n && s.ctxOn (n - 3) != 0 then s.pump (s.ctxOn (n - 3)) (n - 3) else s)

end Sys2Proof.Machine
end

