-- ==== Sys2Proof/Machine/Checks.lean ====
section
/-! DEFINITION. The error ledger as it arrives and as it is read, check intervals, digest messages, hub check-value units, the drain
and REPLACE (R331 to R353, 16_fault_detection.md). -/

namespace Sys2Proof.Machine

/- The ledger. -/

/-- A record that is not stored is counted under its class (R334, R367). -/
def State.countLost (s : State) (cls : Nat) : State :=
  let l := s.led
  { s with led := match cls with
    | 0 => { l with lostCorr := satAdd 0xFFFF l.lostCorr 1 }
    | 1 => { l with lostUnc := satAdd 0xFFFF l.lostUnc 1 }
    | 4 => { l with lostInfo := satAdd 0xFFFF l.lostInfo 1 }
    | _ => l }

/-- LEDGER_RECORD_ARRIVAL: a record that a part of the module formed reaches the hub; one of a CFC that is down waits in its latch
of 64 (R28, R334 to R336, R367). An SDC-class record has its effects on the context and the module (R338, R349). -/
def execLedgerRecordArrival (unit : BitVec 32) (cls code : BitVec 8) (ctx : CtxId) (d0 d1 d2 d3 : BitVec 64)
    (opcode cause status : BitVec 8) (cfc : Option Cluster) (s : State) : Out :=
  let r : Rec := { unit := unit, cls := cls, code := code, ctx := ctx, d0 := d0, d1 := d1, d2 := d2, d3 := d3, opcode := opcode
                   cause := cause, status := status }
  .next (
    if 4 < cls.toNat then s
    else match cfc with
      | some cl =>
        if s.cfcUp cl.val then s.takeRec r
        else if (s.procE (3 + cl.val)).latch.length < 64 then
          s.procM (3 + cl.val) fun e => { e with latch := e.latch ++ [r] }
        else s.countLost cls.toNat
      | none => s.takeRec r)

/-- The reader whose instance of LDG_SEL and whose view of the ledger an agent has: a function 0 to 31, the management port 32,
firmware 33 (R337). -/
def State.readerOf (s : State) (w : Writer) : Option Nat :=
  match w with
  | .mgmt _ => some 32
  | .firmware _ => some 33
  | _ => (s.writerFunc w).map Fin.val

/-- Whether a reporting unit lies at or beneath a unit of this module, or of the span (R337). -/
def beneath (view unit : BitVec 32) : Bool :=
  let v := uidFields view
  let u := uidFields unit
  match v.level with
  | 4 => true
  | 3 => u.level == 4 || u.module == v.module
  | 2 => u.level ≤ 2 && u.module == v.module && u.die == v.die
  | 1 => u.level ≤ 1 && u.module == v.module && u.clusN == v.clusN
  | _ => unit == view

/-- The records of the buffer that a reader may see in a unit's view, newest first, each with its FLAGS (R336, R337). -/
def State.visible (s : State) (reader : Nat) (unit : BitVec 32) : List (Rec × Nat) :=
  (s.led.recs.reverse.filter fun r => beneath unit r.unit && (32 ≤ reader || r.entitled reader)).map fun r =>
    if 32 ≤ reader then (r, 0) else let c := r.copyFor reader; (c.1, if c.2 then 2 else 0)

/-- LDG_COUNT (Table 16-4). -/
def State.ldgCount (s : State) (reader : Nat) (unit : BitVec 32) : BitVec 64 :=
  let n := fun (c : Nat) => min 4095 ((s.visible reader unit).filter fun p => p.1.cls.toNat == c).length
  reg [(n 4, 48, 12), (n 3, 36, 12), (n 2, 24, 12), (n 1, 12, 12), (n 0, 0, 12)]

/-- The key of a reader's LDG_SEL in a unit window. -/
def selKey (reader : Nat) (unit : BitVec 32) : Nat := 65536 * reader + unit.toNat >>> 19

/-- The record that a reader's LDG_SEL selects; none before it is written and beyond the held records (R337). -/
def State.selected (s : State) (reader : Nat) (unit : BitVec 32) : Option (Rec × Nat) :=
  match tabFind s.ldgSel (selKey reader unit) with
  | none => none
  | some v => (s.visible reader unit)[bits v 13 0]?

/-- LDG_SEL_WRITE: the reader's own N in that window (R337, Table 16-5). -/
def execLdgSelWrite (w : Writer) (unit : BitVec 32) (v : BitVec 64) (s : State) : Out :=
  .next (match (if s.unitValid unit then s.readerOf w else none) with
  | none => s.infoAccess w unit 0x2008 v
  | some r => { s with ldgSel := tabSet s.ldgSel (selKey r unit) (reg [(v.toNat, 0, 14)]) })

/- Shadow tiles. -/

/-- The shadow core of a job core (R340). -/
def State.shadowCore (s : State) (ctx core : Nat) : Nat :=
  let next := fun (l : List Nat) => ((l.dropWhile (· != core)).drop 1 ++ l.takeWhile (· != core)).headD core
  let job := s.jobCoreList ctx
  if 1 < job.length then next job
  else
    let c := next (s.clusCores (core / 4))
    if c ≠ core then c else next ((List.range 64).filter s.corePresent)

/-- The tiles of a context that await comparison: each job core in order with its closed captures (R342). -/
def State.captured (s : State) (ctx : Nat) : List (Nat × Shadow) :=
  (s.jobCoreList ctx).flatMap fun n => ((s.coreE ctx n).shadows.filter fun h => h.closed).map fun h => (n, h)

/-- One tile compared: CHECKED counts it, and a difference is an SDC-class record with code 0x81 (R342, R344, Tables 16-12,
16-17). -/
def State.compareTile (s : State) (ctx : Nat) (t : (Nat × Shadow) × (BitVec 64 × BitVec 64)) : State :=
  let n := t.1.1
  let h := t.1.2
  let s := s.physM n fun p => { p with checked := satAdd 0xFFFFFFFF p.checked 1 }
  let s := s.runM ctx fun r => { r with arrayCycles := r.arrayCycles + 64 * h.passes }
  let la := h.laDigest != t.2.1
  let out := h.outDigest != t.2.2
  if !la && !out then s
  else (s.sdcRec (s.coreUid (s.shadowCore ctx n)) 0x81 ctx 0
    (reg [((s.coreUid (s.shadowCore ctx n)).toNat, 32, 32), ((s.coreUid n).toNat, 0, 32)],
     reg [(h.step.toNat, 32, 32), (min 255 h.seq, 16, 8), (h.array, 14, 2), (h.tile, 13, 1), (b2n out, 1, 1), (b2n la, 0, 1)],
     h.laDigest, t.2.1)).1

/-- Whether a check interval is due: a shadow buffer of the context is three-quarters full, or a step advance or the end of its program waits
for one (R342, R343). -/
def State.checkDue (s : State) (ctx : Nat) : Bool :=
  ((s.jobCoreList ctx).any fun n => 3 * 2 ^ 18 ≤ ((s.coreE ctx n).shadows.map fun h => h.bytes).sum) ||
  (s.jobClusters ctx).any fun k => match (s.seqE ctx k).run with | .stepWait | .ending _ => true | _ => false

/-- CHECK_INTERVAL: the context is switched out between MXE instructions, its shadow cores re-execute the captured tiles, in job-core order, and find these
LA and output digests; the buffers are freed, and it resumes with cold arrays, so that a waiting step advance or ending goes on
unless a tile differed (R342 to R344). -/
def execCheckInterval (ctx : CtxId) (digests : List (BitVec 64 × BitVec 64)) (s : State) : Out :=
  let c := ctx.toNat
  let tiles := s.captured c
  .next (
    if !(s.runE c).running || (s.runE c).fault.isSome || s.frozen || !(s.checkDue c) || !(s.mxeIdle c) || tiles.length ≠ digests.length ||
        !((s.jobClusters c).all s.cfcUp) then s
    else
      let s := s.switchOut c
      let s := (tiles.zip digests).foldl (fun (s : State) t => s.compareTile c t) s
      let s := (s.jobCoreList c).foldl (fun (s : State) n =>
        s.coreM c n fun k => { k with shadows := k.shadows.filter fun h => !h.closed }) s
      s.switchIn c)

/- Replica digests. -/

/-- DIGEST_MESSAGE: a digest message reaches the hub of the span's master (R345 to R347). -/
def execDigestMessage (m : ModN) (ctx : CtxId) (step tag : BitVec 32) (origin count : BitVec 64) (digest : BitVec 64)
    (s : State) : Out :=
  .next (if !s.isMaster || bit s.span.withdrawn m.val then s
    else s.digestArrive m.val ctx.toNat step tag origin.toNat count.toNat digest)

/-- DIGEST_COLLECT_END: 1 ms after the first disagreement for a key (R347). -/
def execDigestCollectEnd (ctx : CtxId) (step tag : BitVec 32) (origin count : BitVec 64) (s : State) : Out :=
  .next (s.digestEnd ctx.toNat step tag origin.toNat count.toNat)

/- Hub check-value units. -/

/-- A write of HCV_CFGn: its fields, INIT and the W1C of DONE; VALUE keeps only the bits that POLY uses (R348, Tables 6-10, 16-15). -/
def Hcv.write (h : Hcv) (v : BitVec 64) : Hcv :=
  let poly := bits v 3 2
  { ctx := BitVec.ofNat 12 (bits v 63 52), path := bit v 45, link := BitVec.ofNat 4 (bits v 44 41), dir := bit v 40
    done := h.done && !(bit v 8), poly := BitVec.ofNat 2 poly, arm := bit v 0 && poly != 3
    value := cvMask (BitVec.ofNat 2 poly) (if bit v 7 then crcInit poly else h.value.toNat) }

/-- Only the management port and PF0 write the HCV registers (R348). -/
def State.hcvWriter (s : State) (w : Writer) (off : Nat) (v : BitVec 64) (act : State → State) : State :=
  match w with
  | .mgmt _ => if s.hasRole w 1 then act s else s
  | .func f => if f.val = 0 then act s else s.infoAccess w s.modUid off v
  | _ => s.infoAccess w s.modUid off v

/-- HCV_INIT: HCV_CFGn written with INIT (R348). -/
def execHcvInit (w : Writer) (n : Fin 8) (v : BitVec 64) (s : State) : Out :=
  .next (s.hcvWriter w (0x2200 + 0x20 * n.val) v fun s => s.hcvM n.val fun h => h.write (setBits v 7 7 1))

/-- HCV_REARM: 1 written to DONE (R348). -/
def execHcvRearm (w : Writer) (n : Fin 8) (s : State) : Out :=
  .next (s.hcvWriter w (0x2200 + 0x20 * n.val) (reg [(1, 8, 1)]) fun s => s.hcvM n.val fun h => { h with done := false })

/- The drain and REPLACE. -/

/-- STATE of a module out of a drain: what its bring-up has reached (R349, Tables 20-3, 20-4). -/
def State.upState (s : State) : BitVec 4 :=
  if !s.pwr.mainOn then 0 else if s.boot.phase = 4 then 3 else if s.boot.ended.contains 2 && s.boot.image.early then 2 else 1

/-- The dies' STATE as it now stands (R18, R412). -/
def State.freshDies (s : State) : State :=
  let d : List (BitVec 4) := [0, 1, 2, 3].map fun k => if (s.dieE k).inReset then 0 else s.dieStateNow k
  { s with health := { s.health with dieState := d } }

/-- A drain is asked for by the button (1) or by management (2): it starts, changes nothing in DRAINING, and in DRAINED or REPLACE
only writes its record (R349, R351). -/
def State.askDrain (s : State) (cause : Nat) : State :=
  if s.drainable then s.startDrain cause 0 0
  else if s.health.state = 5 || s.health.state = 6 then s.info s.modUid 0x90 0 cause 0
  else s

/-- A write of MOD_DRAINCTL: management only (Table 16-23). -/
def State.drainCtl (s : State) (w : Writer) (op : Nat) (act : State → State) : State :=
  if !(isMgmt w) then s.infoAccess w s.modUid 0x21A0 (BitVec.ofNat 64 op) else if s.hasRole w 1 then act s else s

def execDrain (w : Writer) (s : State) : Out := .next (s.drainCtl w 1 fun s => s.askDrain 2)

/-- DRAIN_COMPLETE: every job of a DRAINING module has completed: it withdraws from its span with cause 1, writes code 0x91 with its
counts, and is DRAINED, or REPLACE (R349). -/
def execDrainComplete (s : State) : Out :=
  .next (
    if s.health.state ≠ 4 || !(s.jobs.all fun j => j.held.isSome) then s
    else
      let s := s.noticeAll 1
      let s := s.raiseRec { unit := s.modUid, cls := 4, code := 0x91, d2 := BitVec.ofNat 64 s.sch.drainJobs
                            d3 := BitVec.ofNat 64 s.sch.drainInstrs }
      s.setStateAll (if s.health.replace then 6 else 5))

/-- RESUME: only a DRAINED module returns to service (R349, R351). -/
def execResume (w : Writer) (s : State) : Out :=
  .next (s.drainCtl w 2 fun s =>
    if s.health.state ≠ 5 then s.infoAccess w s.modUid 0x21A0 2
    else
      (s.setStateAll s.upState).freshDies)

/-- REPLACE leaves the flag and the NVM log (R350). -/
def State.dropReplace (s : State) : State :=
  (State.noted { s with
    health := { s.health with replace := false, replaceNvm := true }
    nvm := { s.nvm with replace := false } } s).nvmCommit

/-- CLEAR_REPLACE: the flag is cleared here and in NVM, with code 0x93; a module in REPLACE is left DRAINED (R350). -/
def execClearReplace (w : Writer) (s : State) : Out :=
  .next (s.drainCtl w 3 fun s =>
    if s.health.replace then
      let t := s.dropReplace.info s.modUid 0x93 0 0 0
      if t.health.state = 6 then t.setStateAll 5 else t
    else s)

/-- REPLACE_NVM_RETRY: the write of REPLACE to NVM is tried again (R350). -/
def execReplaceNvmRetry (ok : Bool) (s : State) : Out :=
  .next (
    if !s.health.replace || s.health.replaceNvm || !ok then s
    else ({ s with health := { s.health with replaceNvm := true }, nvm := { s.nvm with replace := true } }).nvmCommit)

end Sys2Proof.Machine
end

