-- ==== Sys2Proof/Machine/Checkpoint.lean ====
section
/-! DEFINITION. Restore of a context from a checkpoint: BEGIN, LOAD, END and ABORT (R360 to R362, 17_checkpoints.md). -/

namespace Sys2Proof.Machine

/-- The word of CKP_CMD (Table 17-2). -/
def ckpWord (op ctx src m : Nat) : BitVec 64 := reg [(op, 60, 4), (ctx, 48, 12), (src, 46, 2), (m, 42, 4)]

/-- A command ends with a RESULT and a PAGE (Table 17-4). -/
def State.ckpResult (s : State) (i : Option Nat) (result page : Nat) : State :=
  s.instM i fun e => { e with ckpBusy := false, ckpRes := BitVec.ofNat 8 result, ckpPage := BitVec.ofNat 32 page, ckpLoad := [] }

/-- The common part of a restore command: one written while BUSY is recorded and has no effect; RESULT 1 for a context that is not
the caller's; then `run` (R265, R360). -/
def State.ckpCommand (s : State) (w : Writer) (op ctx src m : Nat) (run : State → Option Nat → State) : State :=
  match s.instOf w with
  | none => s.infoAccess w s.modUid 0x280 (ckpWord op ctx src m)
  | some i =>
    if !(s.hasRole w 1) then s
    else if (s.inst i).ckpBusy then s.infoAccess w s.modUid 0x280 (ckpWord op ctx src m)
    else
      let s := s.instM i fun e => { e with ckpCtx := BitVec.ofNat 12 ctx }
      let owned := i.isNone || s.owner ctx == i || (s.ctxE ctx).state == .free
      if ctx = 0 || !owned then s.ckpResult i 1 0 else run s i

/-- BEGIN: from IDLE or FAULTED, the context becomes FAULTED with a restore open (R360). -/
def execCkpBegin (w : Writer) (ctx : CtxId) (s : State) : Out :=
  let c := ctx.toNat
  .next (s.ckpCommand w 1 c 0 0 fun s i =>
    let st := (s.ctxE c).state
    if st ≠ .idle && st ≠ .faulted then s.ckpResult i 2 0
    else
      let s := s.ctxM c fun e => { e with state := .faulted }
      (s.runM c fun r => { r with restore := some {} }).ckpResult i 0 0)

/-- LOAD: the command starts; it ends with RESTORE_LOAD_DONE (R360). -/
def execCkpLoad (w : Writer) (ctx : CtxId) (src : Fin 4) (m : ModN) (s : State) : Out :=
  let c := ctx.toNat
  .next (s.ckpCommand w 2 c src.val m.val fun s i =>
    if (s.runE c).restore.isNone then s.ckpResult i 9 0
    else s.instM i fun e => { e with ckpBusy := true, ckpLoad := [ckpWord 2 c src.val m.val, e.ckpAddr] })

/-- n bytes of a restore's source: host memory in the function's windows, its own range, or the context's virtual memory on a
module of the span; none where they cannot be read (R360, Table 17-2). Bytes of another module are not this module's to know
(notes/assumptions/10.md). -/
def State.ckpRead (s : State) (f c src m a n : Nat) : State × Option (List (BitVec 8)) :=
  let fe := s.funcE f
  match src with
  | 0 =>
    if s.sch.hostLink && s.inHostWin f a n && !(s.atsFails f a n) then let (s, b) := s.hostRead f a n; (s, some b) else (s, none)
  | 1 =>
    if fe.dom.isNone || !(fe.base ≤ a && a + n ≤ fe.base + fe.size) || (pagePieces a n).any fun p => !(s.rangeOpen p.1) || s.retired p.1 then (s, none)
    else
      let (s, r) := s.stackRead a n { unit := s.modUid, dom := fe.dom.getD 0 }
      (s, match r with | .ok b => some b | .error _ => none)
  | 2 =>
    if 2 ^ 48 ≤ a then (s, none)
    else if m = s.modIdx then
      let (s, r) := s.vaRead { ctx := c } a n
      (s, match r with | .ok b => some b | .error _ => none)
    else if bit s.span.admitted m then let (s, b) := s.freeBytes n; (s, some b)
    else (s, none)
  | _ => (s, none)

/-- One page of a LOAD: read, written through the context's tables, its digest verified: none, or the RESULT that it fails with
(R360, R361). -/
def State.loadPage (s : State) (f c src m addr va : Nat) (digest : Nat) : State × Option Nat :=
  let (s, b) := s.ckpRead f c src m addr 65536
  match b with
  | none => (s, some 5)
  | some b =>
    let (s, err) := s.vaWrite { ctx := c } va b
    if err.isSome then (s, some 6)
    else if crcFinal 2 (crcStream 2 (crcInit 2) b) ≠ digest then (s, some 4)
    else (s, none)

/-- The pages that a failed LOAD has written hold undefined contents (R361). -/
def State.spoilPages (s : State) (c va n : Nat) : State :=
  (List.range n).foldl (fun (s : State) i =>
    let (s, b) := s.freeBytes 65536
    (s.vaWrite { ctx := c } (va + 65536 * i) b).1) s

/-- A LOAD of the manifest at `a`: the RESULT and the PAGE, and the restore with the region where it succeeded (R360, R361,
Tables 17-1, 17-4). -/
def State.doLoad (s : State) (i : Option Nat) (f c src m a : Nat) : State :=
  let fail := fun (s : State) (result page : Nat) =>
    (s.runM c fun r => { r with restore := r.restore.map fun x => { x with failed := tabSet x.failed a result } }).ckpResult i result page
  let (s, hb) := s.ckpRead f c src m a 64
  match hb with
  | none => fail s 5 0
  | some h =>
    if imgAt h 0 4 ≠ 0x4B434E47 || imgAt h 4 2 ≠ 1 || imgAt h 6 2 ≠ c then fail s 3 0
    else
      let pages := imgAt h 20 4
      let va := imgAt h 24 8
      let (s, eb) := s.ckpRead f c src m (a + 64) (8 * pages)
      match eb with
      | none => fail s 5 0
      | some e =>
        if crcOf 1 (h.take 60 ++ e) ≠ imgAt h 60 4 || a < 65536 * pages then fail s 3 0
        else
          let p := (List.range pages).foldl (fun (p : State × Option (Nat × Nat)) k =>
            if p.2.isSome then p
            else
              let (s, r) := p.1.loadPage f c src m (a - 65536 * (pages - k)) (va + 65536 * k) (imgAt e (8 * k) 8)
              (s, r.map fun x => (x, k))) (s, none)
          match p.2 with
          | some (result, k) => fail (p.1.spoilPages c va (if result = 4 then k + 1 else k)) result k
          | none =>
            let seed := BitVec.ofNat 64 (imgAt h 8 8)
            let step := BitVec.ofNat 32 (imgAt h 16 4)
            (p.1.runM c fun r => { r with restore := r.restore.map fun x => { x with
              seed := some (x.seed.getD seed), step := some (x.step.getD step)
              agree := x.agree && x.seed.getD seed == seed && x.step.getD step == step
              failed := tabDel x.failed a, regions := x.regions ++ [(va, 65536 * pages)] } }).ckpResult i 0 pages

/-- RESTORE_LOAD_DONE: the LOAD of an instance has copied and verified its pages (R360, R361). -/
def execRestoreLoadDone (w : Writer) (s : State) : Out :=
  .next (match s.instOf w with
  | none => s
  | some i =>
    match (s.inst i).ckpLoad with
    | [word, addr] =>
      let c := bits word 59 48
      if (s.runE c).restore.isNone then s.ckpResult i 9 0
      else s.doLoad i (i.getD (s.ctxE c).func.toNat) c (bits word 47 46) (bits word 45 42) (bits addr 63 6 * 64)
    | _ => s)

/-- How far regions cover an interval from `pos` on: each round extends by any region that meets it. -/
def coverTo : Nat → List (Nat × Nat) → Nat → Nat
  | 0, _, pos => pos
  | k + 1, l, pos => coverTo k l (l.foldl (fun pos r => if r.1 ≤ pos then max pos (r.1 + r.2) else pos) pos)

/-- Whether the regions cover [a, a+n). -/
def covers (l : List (Nat × Nat)) (a n : Nat) : Bool := n = 0 || a + n ≤ coverTo l.length l a

/-- END: every LOAD succeeded, the manifests agree and the regions cover every LEDGER_ROOT; SEED and STEP go into the entry, and the
context is IDLE (R360). A LOAD that failed gives its own RESULT (notes/assumptions/31.md). -/
def execCkpEnd (w : Writer) (ctx : CtxId) (s : State) : Out :=
  let c := ctx.toNat
  .next (s.ckpCommand w 3 c 0 0 fun s i =>
    match (s.runE c).restore with
    | none => s.ckpResult i 9 0
    | some x =>
      match x.failed with
      | (_, r) :: _ => s.ckpResult i r 0
      | [] =>
        if !x.agree then s.ckpResult i 7 0
        else if !((s.ctxE c).roots.all fun r => covers x.regions r.1.toNat r.2.toNat) then s.ckpResult i 8 0
        else
          let s := s.ctxM c fun e => { e with state := .idle, seed := x.seed.getD e.seed, step := x.step.getD e.step }
          (s.runM c fun r => { r with restore := none, fault := none }).ckpResult i 0 0)

/-- ABORT: the restore is closed, and the context stays FAULTED (R360). -/
def execCkpAbort (w : Writer) (ctx : CtxId) (s : State) : Out :=
  let c := ctx.toNat
  .next (s.ckpCommand w 4 c 0 0 fun s i =>
    if (s.runE c).restore.isNone then s.ckpResult i 9 0
    else (s.runM c fun r => { r with restore := none }).ckpResult i 0 0)

end Sys2Proof.Machine
end

