-- ==== Sys2Proof/Machine/Dxe.lean ====
section
/-! DEFINITION. The data engine: moves, gathers, exact scatter-add, copy-on-first-touch and check streams (R138 to R149,
R218, R348, R354 to R359). -/

namespace Sys2Proof.Machine

/- Streams and check values. -/

/-- The window's positions with the padding of its last blocks, dimension 0 fastest (R146). -/
def paddedXs (v : View) : List (List Nat) :=
  let ext := (List.range 4).map fun i =>
    let hi := v.g.getD i 0 + v.e.getD i 0
    (if v.d.dim i ≤ hi then v.d.padded i else hi) - v.g.getD i 0
  (windowIdx ext).map (addIdx v.g)

/-- Addresses with the repeats that follow one another dropped. -/
def dedupAdj (l : List Nat) : List Nat :=
  (l.foldl (fun (r : List Nat) a => if r.head? == some a then r else a :: r) []).reverse

/-- Elements with the padding positions that lie beside them in their blocks, in logical order (R44, R146). -/
def paddedOf (d : Desc) (xs : List (List Nat)) : List (List Nat) :=
  let p := d.padded
  let near := fun (x : List Nat) =>
    (windowIdx ((List.range 4).map fun i => if x.getD i 0 + 1 = d.dim i then p i - x.getD i 0 else 1)).map (addIdx x)
  let no := fun (x : List Nat) => x.getD 0 0 + p 0 * (x.getD 1 0 + p 1 * (x.getD 2 0 + p 2 * x.getD 3 0))
  (((xs.flatMap near).map no).foldl setIns []).map fun n =>
    [n % p 0, n / p 0 % p 1, n / p 0 / p 1 % p 2, n / p 0 / p 1 / p 2]

/-- The three parts of a stream as addresses, from elements and the same with their padding: element plane, scale entries
in block order, sub-scale bytes (R146). -/
def streamParts (d : Desc) (ps xs : List (List Nat)) : List Nat × List Nat × List Nat :=
  (dedupAdj (ps.flatMap (elemBytes d)),
    if fmtIsBlock d.fmt then
      (((xs.map (blockNo d)).eraseDups).foldl setIns []).flatMap fun j => [entryAddr d j, entryAddr d j + 1]
    else [],
    if fmtHasSub d.fmt then dedupAdj (xs.map fun x => (subAddr d x).1) else [])

/-- The stream of a window as addresses (R146). -/
def streamAddrs (v : View) : List Nat :=
  let p := streamParts v.d (paddedXs v) v.xs
  p.1 ++ p.2.1 ++ p.2.2

/-- The stream of a list of elements as addresses (R146). -/
def listStream (d : Desc) (xs : List (List Nat)) : List Nat :=
  let p := streamParts d (paddedOf d xs) xs
  p.1 ++ p.2.1 ++ p.2.2

/-- The source stream from bytes read. -/
def readStream (v : View) (f : Fetched) : List (BitVec 8) := (streamAddrs v).map fun a => BitVec.ofNat 8 (f.get a)

/-- The bytes written at some addresses, in the order of the addresses; one that was not written is not in the stream. -/
def writtenAt (as : List Nat) (l : List MByte) : List (BitVec 8) :=
  as.filterMap fun a => match l.filter fun b => b.1 == a with
    | [] => none
    | q => some (BitVec.ofNat 8 (q.foldl (fun v b => (v &&& (255 ^^^ b.2.1)) ||| (b.2.2 &&& b.2.1)) 0))

/-- The destination stream from bytes written. -/
def writtenStream (v : View) (l : List MByte) : List (BitVec 8) := writtenAt (streamAddrs v) l

/-- A value put into VALUE: only the bits that POLY uses are held (R148, Table 6-10). -/
def CvUnit.putValue (u : CvUnit) (v : BitVec 64) : CvUnit := { u with value := cvMask u.poly v.toNat }

/-- A unit takes a stream in, where it is armed and its POLY is not the reserved one (R146 to R148). -/
def CvUnit.feed (u : CvUnit) (side : Bool) (bs : List (BitVec 8)) : CvUnit :=
  if u.arm && u.poly != 3 && u.side == side then
    { u with value := BitVec.ofNat 64 (crcStream u.poly.toNat u.value.toNat bs) }
  else u

/-- Both units of a core take a stream; CV1 not while a DCOW holds it (R146, R358). -/
def CoreCtx.feedCv (c : CoreCtx) (side : Bool) (bs : List (BitVec 8)) : CoreCtx :=
  { c with cv0 := c.cv0.feed side bs, cv1 := if c.dcows.isEmpty then c.cv1.feed side bs else c.cv1 }

/-- Where an operand's pages lie. -/
def State.locsOf (s : State) (g : Agent) (rs : List (Nat × Nat)) (u : Use) : List Loc :=
  (touched rs).filterMap fun a => match (s.translate g a u).2 with | .ok (l, _) => some l | .error _ => none

/-- Whether a stream crosses the path that a hub unit watches (R348, Table 16-15). -/
def State.crosses (s : State) (h : Hcv) (src dst : List Loc) : Bool :=
  (if h.dir then src else dst).any fun l => match l with
    | .host _ => !h.path
    | .peer m _ => h.path && s.linkTo m == h.link.toNat
    | _ => false

/-- The hub's armed units take the stream of a CHECK instruction that crosses their path; DONE stops them (R348). -/
def State.feedHcv (s : State) (ctx : Nat) (src dst : List Loc) (bs : List (BitVec 8)) : State :=
  (List.range 8).foldl (fun s n =>
    let h := s.hcvE n
    if h.arm && !h.done && h.poly != 3 && h.ctx.toNat == ctx && s.crosses h src dst then
      s.hcvM n fun h => { h with done := true, value := BitVec.ofNat 64 (crcStream h.poly.toNat h.value.toNat bs) }
    else s) s

/-- What CHECK does with the two streams of an instruction (R146, R348). -/
def State.checkStreams (s : State) (ctx core : Nat) (e : QEntry) (g : Agent) (src dst : List (Nat × Nat))
    (sb db : List (BitVec 8)) : State :=
  if !e.word.check then s
  else
    let s := s.coreM ctx core fun c => (c.feedCv false sb).feedCv true db
    s.feedHcv ctx (s.locsOf g src .read) (s.locsOf g dst .write) db

/- Failures. -/

/-- Whether the write of some bytes must wait for a protected page (R357). -/
def State.bytesWait (s : State) (g : Agent) (l : List MByte) : Bool :=
  (touched (l.map fun b => (b.1, 1))).any fun a =>
    match (s.translate g a .write).2 with
    | .ok (.phys p, _) => s.pageWaits (p / 65536)
    | _ => false

/-- The instruction waits: it stays at the queue head, its checks made (R144, R357). -/
def State.holdEntry (s : State) (ctx core q slot : Nat) : State :=
  s.entryM ctx core q slot fun e => { e with taken := false }

/-- What a failed instruction leaves in its destination region: every byte that can be written holds a free value, page by page, and
each destination line in stack memory whose source is poison is written as poison (R145, R257; notes/assumptions/11.md). `pairs` are
(source, destination) addresses, each source with the agent that reads it. -/
def State.moveRemainder (s : State) (g : Agent) (l : List MByte) (pairs : List (Agent × Nat × Nat)) : State :=
  let (s, bs) := s.freeBytes l.length
  let free := (l.zip bs).map fun p => (p.1.1, p.1.2.1, p.2.toNat &&& p.1.2.1)
  let s := ((free.map fun b => b.1 / 65536).eraseDups).foldl (fun (s : State) page =>
    (s.writeMasked g (free.filter fun b => b.1 / 65536 == page)).1) s
  pairs.foldl (fun (s : State) p =>
    match (s.translate p.1 p.2.1 .read).2, (s.translate g p.2.2 .write).2 with
    | .ok (.phys a, _), .ok (.phys b, _) =>
      if s.place a == .stack && s.place b == .stack && s.mem.poison.contains (a / 64) && !(s.mem.poison.contains (b / 64))
      then s.writePoison b (s.reqOf g 2) else s
    | _, _ => s) s

/- Moves. -/

/-- The bytes that a move writes, from elements as bits. -/
def moveBytes (d : Desc) (l : List (List Nat × Bits)) : List MByte := joinMasked (putBits d l)

/-- The pairs of byte addresses that a move joins, read by an agent: elements, scale entries and sub-scales. -/
def movePairs (g : Agent) (sd dd : Desc) (l : List (List Nat × List Nat)) : List (Agent × Nat × Nat) :=
  (l.flatMap fun p => (elemBytes sd p.1).zip (elemBytes dd p.2) ++
    (if fmtIsBlock sd.fmt then [(entryAddr sd (blockNo sd p.1), entryAddr dd (blockNo dd p.2))] else []) ++
    (if fmtHasSub sd.fmt then [((subAddr sd p.1).1, (subAddr dd p.2).1)] else [])).map fun p => (g, p)

/-- The same bytes at the same store offsets of the other cores of the cluster that a mask names, where the whole
destination lies in the issuing core's store (R140). -/
def State.broadcast (s : State) (g : Agent) (core mask : Nat) (l : List MByte) : State :=
  let locs := (l.map fun b => b.1).map fun a => (s.translate g a .write).2
  let own := locs.all fun r => match r with
    | .ok (.phys a, _) => (match s.place a with | .store n _ => n == core | _ => false)
    | _ => false
  if mask % 16 = 0 || !own then s
  else
    let phys := locs.filterMap fun r => match r with | .ok (.phys a, _) => some a | _ => none
    (maskList 4 mask).foldl (fun (s : State) j =>
      let n := core / 4 * 4 + j
      if n = core || !(s.corePresent n) then s
      else phys.foldl (fun (s : State) a => s.putBytes (a - storeBase core + storeBase n) [s.byteAt a]) s) s

/-- Rows 6 of a move: equal formats and block shapes (R140). -/
def moveShape (e : QEntry) : List Bad :=
  let d := e.view 0
  let a := e.view 1
  (if d.d.fmt = a.d.fmt then [] else [badTd a.d (e.word.td 1) 6 0 48 4]) ++
    (if fmtIsBlock d.d.fmt && d.d.isTile != a.d.isTile then [badTd a.d (e.word.td 1) 6 0 56 1] else [])

/-- Whether operand k is a destination that a DXE or CXE instruction writes without the lehr (Table 8-6). -/
def opCopiesInto (o : Op) (k : Nat) : Bool :=
  match o with | .dmov | .dgth | .dcow | .save | .cbcs | .ca2a => k == 0 | _ => false

/-- Row 6 that every DXE operand meets on its own; `skip` names operands that the instruction does not use here. -/
def dxePolicy (e : QEntry) (o : Op) (debug : Bool) (skip : List Nat := []) : List Bad :=
  ((operandsOf e.word o).filter fun p => !(skip.contains p.key)).flatMap fun p => operandPolicy e.word o p (e.desc p.td) ++
    (if opCopiesInto o p.key then roundPolicy o debug p.td (e.desc p.td) else [])

/-- Rows 6, 7 and 9 of a DXE instruction: row 7 where rows 5 and 6 pass. -/
def dxeRows (s : State) (core ctx : Nat) (e : QEntry) (o : Op) (r6 r9 : List Bad) (ranges : List (List (Nat × Nat) × Use))
    (skip : List Nat := []) : State × List Bad × List Bad × List Bad :=
  let r6 := dxePolicy e o (s.runE ctx).debug skip ++ r6
  if !r6.isEmpty || (operandsOf e.word o).any fun p => !(descBad (e.desc p.td) p.td).isEmpty then (s, r6, [], r9)
  else
    let (s, r7) := s.row7All (dmaOf ctx core 2 e.slot) (ranges.map fun r => (r.1, r.2, none))
    (s, r6, r7, r9)

/-- A take of the DXE instruction at the queue head of a core. -/
def dxeTake (c : CoreN) (sel : Op → Bool)
    (rest : State → Nat → Nat → QEntry → Op → State × List Bad × List Bad × List Bad)
    (run : Nat → State → Nat → QEntry → Op → State) (s : State) : Out :=
  .next (s.takeHead c.val 2 sel (fun s ctx e o => rest s c.val ctx e o) (run c.val))

def dmovRest (s : State) (core ctx : Nat) (e : QEntry) (o : Op) : State × List Bad × List Bad × List Bad :=
  let d := e.view 0
  let a := e.view 1
  dxeRows s core ctx e o (moveShape e ++ shapeBad d a (e.word.td 1)) [] [(planeRanges d, .write), (planeRanges a, .read)]

/-- The elements that a DMOV copies: those present in both windows, as (source, destination) positions. -/
def dmovElems (d a : View) : List (List Nat × List Nat) :=
  ((windowIdx d.e).map fun i => (addIdx a.g i, addIdx d.g i)).filter fun p => presentAt a.d p.1 && presentAt d.d p.2

/-- DMOV (R140, R145). -/
def runDmov (core : Nat) (s : State) (ctx : Nat) (e : QEntry) (_o : Op) : State :=
  let d := e.view 0
  let a := e.view 1
  let g := dmaOf ctx core 2 e.slot
  let els := dmovElems d a
  let shape := moveBytes d.d (els.map fun p => (p.2, ({ x := p.1 } : Bits)))
  if s.bytesWait g shape then s.holdEntry ctx core 2 e.slot
  else
    let (s, r) := s.fetchAt g (copyAddrs a.d (els.map Prod.fst) ++ (if e.word.check then streamAddrs a else []))
    match r with
    | .error err => (s.moveRemainder g shape (movePairs g a.d d.d els)).failAccess ctx core 2 e err false 2
    | .ok f =>
      let bytes := moveBytes d.d (els.map fun p => (p.2, bitsAt a.d f p.1))
      let (s, err) := s.writeMasked g bytes
      match err with
      | some err => (s.moveRemainder g shape []).failAccess ctx core 2 e err true 2
      | none =>
        let s := s.broadcast g core (e.word.imm.toNat % 16) bytes
        let s := s.checkStreams ctx core e g (planeRanges a) (planeRanges d) (readStream a f) (writtenStream d bytes)
        s.doneEntry ctx core 2 e.slot false

/-- DMOV; `flaws` are the bit errors now in memory lines (R255, R256). -/
def execDmov (c : CoreN) (flaws : List (Nat × Flaw)) (s : State) : Out :=
  dxeTake c (· == .dmov) dmovRest runDmov
    { s with mem := { s.mem with flaws := flaws.foldl (fun l p =>
        if s.mem.poison.contains p.1 || s.stackCap ≤ p.1 * 64 then l else tabSet l p.1 p.2) s.mem.flaws } }

/- DGTH. -/

/-- The present members of a group unit, in increasing member index, each as the agent that its shard's address is resolved for; none
stands for a member on another module, which is named (R141). DESIGN CHOICE (notes/assumptions/22.md): which core or cluster a shard's
own-store or own-pool leaf is resolved for the spec says only of a core member: a cluster member resolves it for that cluster and no
core, a die member and this module for the core that gathers. -/
def State.gatherMembers (s : State) (ctx core slot : Nat) (u : UnitF) : List (Option Agent × Nat) :=
  let far := fun (lo n step : Nat) => (List.range n).filterMap fun j =>
    if (List.range step).any fun i => bit (s.coresOfModule u.module) (lo + step * j + i) then some ((none : Option Agent), u.module) else none
  if u.level < 4 && u.module ≠ s.modIdx then
    match u.level with | 1 => far (4 * u.clusN) 4 1 | 2 => far (16 * u.die) 4 4 | _ => far 0 4 16
  else match u.level with
  | 1 => (s.clusCores u.clusN).map fun n => (some (dmaOf ctx n 1 slot), n)
  | 2 => ((List.range 4).map fun j => 4 * u.die + j).filterMap fun k =>
      if s.clusPresent k then some (some { ctx := ctx, core := none, cluster := k, cls := 1 }, k) else none
  | 3 => (List.range 4).filterMap fun k => if s.diePresent k then some (some (dmaOf ctx core 1 slot), k) else none
  | _ => (maskList 16 s.spanMask).filterMap fun m =>
      if m = s.modIdx then some (some (dmaOf ctx core 1 slot), m)
      else if bit s.span.admitted m || bit s.span.withdrawn m then some (none, m) else none

/-- The bytes that a gather reads of each shard. -/
def gatherAddrs (e : QEntry) : List Nat :=
  copyAddrs (e.view 1).d (e.view 1).xs ++ (if e.word.check then streamAddrs (e.view 1) else [])

/-- A shard of another module: the read requests go out, and the bytes are free values (R299, R307; notes/assumptions/10.md). -/
def State.freeShard (s : State) (g : Agent) (m : Nat) (as : List Nat) : State × Fetched :=
  (runsOf as).foldl (fun (p : State × Fetched) r =>
    let s := p.1.emit (.flit m .c (.read (BitVec.ofNat 12 g.ctx) (BitVec.ofNat 48 r.1) r.2 g.tag))
    let (s, bs) := s.freeBytes r.2
    (s, p.2 ++ [(r.1, bs)])) (s, [])

/-- Whether a position lies in a window (R186). -/
def View.holds (v : View) (x : List Nat) : Bool :=
  (List.range 4).all fun i => v.g.getD i 0 ≤ x.getD i 0 && x.getD i 0 < v.g.getD i 0 + v.e.getD i 0

/-- Where element j of shard i goes: destination linear index i × (shard element count) + j from the origin (R141). The shard is op1's
window (R219); what falls outside the window of op0, the instruction's index space, is not written (R186). -/
def gatherPlace (d : Desc) (o count i j : Nat) : List Nat := originOf d (o + i * count + j)

/-- The elements of shard i of a gather that have a place: (shard element, destination) (R141). -/
def gatherElems (e : QEntry) (i : Nat) : List (List Nat × List Nat) :=
  let y := e.view 0
  let xs := (e.view 1).xs
  (xs.zipIdx.map fun q => (q.1, gatherPlace y.d (e.word.off 0) xs.length i q.2)).filter fun p => presentAt y.d p.2 && y.holds p.2

def dgthRest (s : State) (core ctx : Nat) (e : QEntry) (o : Op) : State × List Bad × List Bad × List Bad :=
  let t := e.word
  let ms := s.gatherMembers ctx core e.slot (uidFields t.imm)
  let ys := (List.range ms.length).flatMap fun i => (gatherElems e i).map Prod.snd
  dxeRows s core ctx e o (moveShape e) (if t.patch then [badPatch t] else [])
    [(runsOf (copyAddrs (e.view 0).d ys), .write), (planeRanges (e.view 1), .read)]

/-- The shards of a gather read in member order; one of another module is free. -/
def State.gatherRead (s : State) (g : Agent) (e : QEntry) (ms : List ((Option Agent × Nat) × Nat)) :
    State × Except AccErr (List (Nat × Fetched)) :=
  ms.foldl (fun (p : State × Except AccErr (List (Nat × Fetched))) m =>
    match p.2 with
    | .error _ => p
    | .ok fs =>
      match m.1.1 with
      | none => let (s, f) := p.1.freeShard g m.1.2 (gatherAddrs e); (s, .ok (fs ++ [(m.2, f)]))
      | some ag =>
        let (s, r) := p.1.fetchAt ag (gatherAddrs e)
        match r with
        | .error err => (s, .error err)
        | .ok f => (s, .ok (fs ++ [(m.2, f)]))) (s, .ok [])

/-- What a gather writes: the bits of every shard's elements at their places. -/
def gatherBytes (e : QEntry) (fs : List (Nat × Fetched)) : List MByte :=
  moveBytes (e.desc (e.word.td 0)) (fs.flatMap fun q => (gatherElems e q.1).map fun p => (p.2, bitsAt (e.view 1).d q.2 p.1))

/-- The bytes that a gather writes, before its shards are read. -/
def gatherShape (e : QEntry) (ms : List ((Option Agent × Nat) × Nat)) : List MByte :=
  ms.flatMap fun m => moveBytes (e.desc (e.word.td 0)) ((gatherElems e m.2).map fun p => (p.2, ({ x := p.1 } : Bits)))

/-- The source stream of a gather: each part of R146 from the shards in member order. -/
def gatherRead (e : QEntry) (fs : List (Nat × Fetched)) : List (BitVec 8) :=
  let a := e.view 1
  let p := streamParts a.d (paddedXs a) a.xs
  let part := fun (as : List Nat) => fs.flatMap fun q => as.map fun x => BitVec.ofNat 8 (q.2.get x)
  part p.1 ++ part p.2.1 ++ part p.2.2

/-- The destination stream of a gather. -/
def gatherWritten (e : QEntry) (fs : List (Nat × Fetched)) : List (BitVec 8) :=
  writtenAt (listStream (e.desc (e.word.td 0)) (fs.flatMap fun q => (gatherElems e q.1).map Prod.snd)) (gatherBytes e fs)

/-- DGTH (R141, R218). -/
def runDgth (core : Nat) (s : State) (ctx : Nat) (e : QEntry) (_o : Op) : State :=
  let a := e.view 1
  let g := dmaOf ctx core 1 e.slot
  let ms := (s.gatherMembers ctx core e.slot (uidFields e.word.imm)).zipIdx
  let shape := gatherShape e ms
  if s.bytesWait g shape then s.holdEntry ctx core 2 e.slot
  else
    match ms.find? fun m => m.1.1.isNone && bit s.span.withdrawn m.1.2 with
    | some m => s.failAccess ctx core 2 e (.gone m.1.2) false 2
    | none =>
      let (s, r) := s.gatherRead g e ms
      match r with
      | .error err =>
        let pairs := ms.flatMap fun m => match m.1.1 with
          | some ag => movePairs ag a.d (e.view 0).d (gatherElems e m.2)
          | none => []
        (s.moveRemainder g shape pairs).failAccess ctx core 2 e err false 2
      | .ok fs =>
        let bytes := gatherBytes e fs
        let (s, err) := s.writeMasked g bytes
        match err with
        | some err => (s.moveRemainder g shape []).failAccess ctx core 2 e err true 2
        | none =>
          let s := s.checkStreams ctx core e g (planeRanges a) (runsOf (bytes.map fun b => b.1)) (gatherRead e fs)
            (gatherWritten e fs)
          s.doneEntry ctx core 2 e.slot false

def execDgth (c : CoreN) (s : State) : Out := dxeTake c (· == .dgth) dgthRest runDgth s

/- DSCT. -/

/-- The element of a list at an element offset from its origin (R142, R186). -/
def listAt (v : View) (k : Nat) : List Nat := originOf v.d (linearIdx v.d v.g + k)

/-- Index r of a list from its bytes (R142). -/
def listIndex (v : View) (f : Fetched) (r : Nat) : Nat :=
  bytesNat ((List.range 4).map fun j => BitVec.ofNat 8 (f.get (elemAddr v.d (listAt v (4 * r + j)))))

/-- The byte addresses of the first n indices of a list. -/
def listAddrs (v : View) (n : Nat) : List Nat := (List.range (4 * n)).map fun k => elemAddr v.d (listAt v k)

/-- The source of a DSCT: the rows that its list names (R142). -/
def dsctSrc (e : QEntry) : View := (e.view 1).withExt [(e.view 1).e.getD 0 0, (e.view 1).e.getD 1 0, 1, 1]

/-- The destination elements of a DSCT: row, column and place, each row once, rows rising. -/
def dsctPlaces (e : QEntry) (idx : List Nat) : List (Nat × Nat × List Nat) :=
  let d := e.view 0
  (((idx.eraseDups).foldl setIns []).flatMap fun q => (List.range ((e.view 1).e.getD 0 0)).map fun i0 =>
    (q, i0, [d.g.getD 0 0 + i0, q, d.g.getD 2 0, d.g.getD 3 0])).filter fun y => presentAt d.d y.2.2

def dsctRest (s : State) (core ctx : Nat) (e : QEntry) (o : Op) : State × List Bad × List Bad × List Bad :=
  let t := e.word
  let d := e.view 0
  let a := e.view 1
  let x := e.view 2
  let e1 := a.e.getD 1 0
  let r6 := (if x.d.fmt = 3 then [] else [badTd x.d (t.td 2) 6 0 48 4]) ++
    (if d.d.isTile then [badTd d.d (t.td 0) 6 0 56 1] else []) ++
    (if 2048 < d.d.padded 0 then [badTd d.d (t.td 0) 6 3 32 32] else []) ++
    (if d.d.dim 0 = a.d.dim 0 then [] else [badTd a.d (t.td 1) 6 3 32 32]) ++
    (if d.e.getD 0 0 = a.e.getD 0 0 then [] else [badTd d.d (t.td 0) 6 7 0 16]) ++
    (if (List.range (4 * e1)).all fun k => presentAt x.d (listAt x k) then [] else [badTd x.d (t.td 2) 6 3 32 32]) ++
    destPolicy o (s.runE ctx).debug (t.td 0) d.d d.g [d.e.getD 0 0, 1, 1, 1]
  -- row 7 of the destination covers the rows that the list names, where the list can be read
  let rows := match (s.fetchAt (dmaOf ctx core 2 e.slot) (listAddrs x e1)).2 with
    | .ok fl => (dsctPlaces e ((List.range e1).map (listIndex x fl))).map fun y => y.2.2
    | .error _ => []
  dxeRows s core ctx e o r6 [] [(runsOf (copyAddrs d.d rows), .write), (planeRanges (dsctSrc e), .read), (runsOf (listAddrs x e1), .read)]

/-- The sums of a DSCT: each destination element with every source element that its row is the target of, exactly (R142). -/
def dsctSums (ctx : Nat) (e : QEntry) (idx : List Nat) (f : Fetched) : List (List Nat × LA) :=
  let d := e.view 0
  let a := e.view 1
  (dsctPlaces e idx).map fun y =>
    let l := laAddTerm (laClear ctx) (valAt d.d f y.2.2)
    (y.2.2, laResolve (idx.zipIdx.foldl (fun l q =>
      let z := addIdx a.g [y.2.1, q.2, 0, 0]
      if q.1 = y.1 && presentAt a.d z then laAddTerm l (valAt a.d f z) else l) l))

/-- The bytes that a DSCT reads: its source rows and the destination rows that its list names. -/
def dsctAddrs (e : QEntry) (idx : List Nat) : List Nat :=
  readAddrs (e.view 1).d (dsctSrc e).xs ++ readAddrs (e.view 0).d ((dsctPlaces e idx).map fun y => y.2.2) ++
    (if e.word.check then streamAddrs (dsctSrc e) else [])

/-- The bytes of the destination elements of a DSCT, with their entries and sub-scales. -/
def dsctShape (e : QEntry) (idx : List Nat) : List MByte :=
  moveBytes (e.view 0).d ((dsctPlaces e idx).map fun y => (y.2.2, ({ x := y.2.2 } : Bits)))

/-- The pairs of byte addresses that a DSCT joins: every source element with the destination element it is added into, whose line is
named by its first byte. -/
def dsctPairs (g : Agent) (e : QEntry) (idx : List Nat) : List (Agent × Nat × Nat) :=
  let d := e.view 0
  let a := e.view 1
  idx.zipIdx.flatMap fun q => (List.range (a.e.getD 0 0)).flatMap fun i0 =>
    let z := addIdx a.g [i0, q.2, 0, 0]
    let y := [d.g.getD 0 0 + i0, q.1, d.g.getD 2 0, d.g.getD 3 0]
    if presentAt a.d z && presentAt d.d y then (readAddrs a.d [z]).map fun b => (g, b, elemAddr d.d y) else []

/-- The destination stream of a DSCT (R146). -/
def dsctWritten (e : QEntry) (idx : List Nat) (bytes : List MByte) : List (BitVec 8) :=
  writtenAt (listStream (e.view 0).d ((dsctPlaces e idx).map fun y => y.2.2)) bytes

/-- DSCT: every destination row that the list names receives, element by element, the exact sum of itself and its source
rows, rounded once (R142, R143). -/
def runDsct (core : Nat) (s : State) (ctx : Nat) (e : QEntry) (_o : Op) : State :=
  let d := e.view 0
  let a := e.view 1
  let x := e.view 2
  let g := dmaOf ctx core 2 e.slot
  let e1 := a.e.getD 1 0
  let (s, r) := s.fetchAt g (listAddrs x e1)
  match r with
  | .error err => s.failAccess ctx core 2 e err false 2
  | .ok fl =>
    let idx := (List.range e1).map (listIndex x fl)
    match idx.findIdx? fun q => d.d.dim 1 ≤ q with
    | some pos =>
      s.failEntry ctx core 2 e 0x10 0
        (BitVec.ofNat 64 (idx.getD pos 0), BitVec.ofNat 64 pos, issueWord e 2, BitVec.ofNat 64 (d.d.dim 1))
    | none =>
      if s.bytesWait g ((dsctPlaces e idx).flatMap fun y => codeBytes d.d y.2.2 0) then s.holdEntry ctx core 2 e.slot
      else
        let (s, r) := s.fetchAt g (dsctAddrs e idx)
        match r with
        | .error err => (s.moveRemainder g (dsctShape e idx) (dsctPairs g e idx)).failAccess ctx core 2 e err false 2
        | .ok f =>
          let sums := dsctSums ctx e idx f
          let bad := sums.find? fun p => laMismatch p.2
          let good := sums.takeWhile fun p => !(laMismatch p.2)
          let (s, r) := s.convertTo g d.d (s.convCtx ctx e false) (good.map fun p => (p.1, laValue p.2))
          match r with
          | .error err => (s.moveRemainder g (dsctShape e idx) []).failAccess ctx core 2 e err true 2
          | .ok out =>
            let s := s.addFlagged ctx out.count
            match bad with
            | some p => s.sdcEntry ctx core 2 e (sdcWords p.2 3 0 (linearIdx d.d p.1) 0)
            | none =>
              let s := s.checkStreams ctx core e g (planeRanges (dsctSrc e)) (runsOf (out.bytes.map fun b => b.1))
                (readStream (dsctSrc e) f) (dsctWritten e idx out.bytes)
              s.doneEntry ctx core 2 e.slot out.flagged

def execDsct (c : CoreN) (s : State) : Out := dxeTake c (· == .dsct) dsctRest runDsct s

/- DCOW. -/

/-- How many pages a DCOW's source has. -/
def cowPages (a : Desc) : Nat := 4 * a.dim 0 / 65536

/-- Row 6 of DCOW (R354). -/
def dcowPolicy (e : QEntry) : List Bad :=
  let t := e.word
  let d := e.desc (t.td 0)
  let a := e.desc (t.td 1)
  let one := fun (x : Desc) (i k : Nat) =>
    (if x.fmt = 10 then [] else [badTd x i 6 0 48 4]) ++ (if x.rank = 1 then [] else [badTd x i 6 0 52 2]) ++
      (if t.off k = 0 then [] else [badIn t 6 (4 + k) 6 26])
  one d (t.td 0) 0 ++ one a (t.td 1) 1 ++
    (if a.base % 65536 = 0 then [] else [badTd a (t.td 1) 6 0 0 48]) ++
    (if 4 * a.dim 0 % 65536 = 0 then [] else [badTd a (t.td 1) 6 3 32 32]) ++
    (if d.base % 64 = 0 then [] else [badTd d (t.td 0) 6 0 0 48]) ++
    (if 4 * a.dim 0 + 64 + 8 * cowPages a ≤ 4 * d.dim 0 then [] else [badTd d (t.td 0) 6 3 32 32])

/-- The pages of a region translated: each must lie in memory (source) or in host or peer memory (destination); the physical
pages of the source, or the first failure with a leaf of the wrong kind as a failed check (R354). -/
def State.cowResolve (s : State) (g : Agent) (va n : Nat) (source : Bool) : State × Except AccErr (List Nat) :=
  (pagePieces va n).foldl (fun (p : State × Except AccErr (List Nat)) piece =>
    match p.2 with
    | .error _ => p
    | .ok l =>
      let (s, r) := p.1.translate g piece.1 (if source then .read else .write)
      match r with
      | .error err => (s, .error err)
      | .ok (loc, w) =>
        match source, loc with
        | true, .phys a => if s.place a == .stack then (s, .ok (l ++ [a / 65536])) else (s, .error (.trans piece.1 1 (s.leafLevel g piece.1) w))
        | false, .host _ => (s, .ok l)
        | false, .peer _ _ => (s, .ok l)
        | _, _ => (s, .error (.trans piece.1 1 (s.leafLevel g piece.1) w))) (s, .ok [])

/-- Rows 6, 7 and 9 of DCOW (R354, R355). -/
def dcowRest (s : State) (core ctx : Nat) (e : QEntry) (o : Op) : State × List Bad × List Bad × List Bad :=
  let t := e.word
  let d := e.desc (t.td 0)
  let a := e.desc (t.td 1)
  let r6 := dxePolicy e o (s.runE ctx).debug ++ dcowPolicy e
  if !r6.isEmpty || (operandsOf t o).any fun p => !(descBad (e.desc p.td) p.td).isEmpty then (s, r6, [], [])
  else
    let g := dmaOf ctx core 3 e.slot
    let (s, src) := s.cowResolve g a.base (4 * a.dim 0) true
    match src with
    | .error err => (s, [], [{ badRow 7 with acc := some (err, false) }], [])
    | .ok pages =>
      let (s, dst) := s.cowResolve g d.base (4 * d.dim 0) false
      match dst with
      | .error err => (s, [], [{ badRow 7 with acc := some (err, true) }], [])
      | .ok _ =>
        let active := (s.cores.flatMap fun p => p.2.dcows.flatMap fun r => r.pages)
        let full := 1048576 < s.protect.length + pages.length || pages.any active.contains
        (s, [], [], if full then [badRow 9] else [])

/-- DCOW at its take: every page is protected, and bytes 0 to 7 of the manifest place become zero (R356); CV1 is given over
to it (R358). -/
def runDcow (core : Nat) (s : State) (ctx : Nat) (e : QEntry) (_o : Op) : State :=
  let t := e.word
  let d := e.desc (t.td 0)
  let a := e.desc (t.td 1)
  let g := dmaOf ctx core 3 e.slot
  let (s, src) := s.cowResolve g a.base (4 * a.dim 0) true
  match src with
  | .error err => s.failAccess ctx core 2 e err false 2
  | .ok pages =>
    let s := { s with protect := pages.foldl (fun l p => tabSet l p (64 * ctx + core)) s.protect }
    let (s, err) := s.outWrite g false (d.base + 65536 * pages.length) (List.replicate 8 0)
    let c := s.coreE ctx core
    let save := match c.dcows with | r :: _ => r.cvSave | [] => c.cv1
    let s := s.coreM ctx core fun c => { c with dcows := c.dcows ++ [{
      slot := e.slot, core := core, ctx := ctx, srcVa := a.base, dstVa := d.base, pages := pages,
      todo := List.range pages.length, cvSave := save, step := e.step }] }
    match err with
    | some err => s.failAccess ctx core 2 e err true 2
    | none => s

def execDcow (c : CoreN) (s : State) : Out := dxeTake c (· == .dcow) dcowRest runDcow s

/-- DCOW_PAGE_COPY: a page that a host write waits for next, else the next page in page order (R357). -/
def execDcowPageCopy (c : CoreN) (slot : Nat) (s : State) : Out :=
  let ctx := (s.clusE (c.val / 4)).ctx
  .next (if ctx = 0 || !(s.runE ctx).running || s.frozen then s
  else match (s.coreE ctx c.val).dcows.find? fun r => r.slot == slot with
  | none => s
  | some r =>
    let held := s.mem.hostHeld.findSome? fun h => r.todo.find? fun i => r.pages.getD i 0 == h.1 / 65536
    match held with
    | some i => s.dcowCopy ctx c.val slot i 2
    | none => match r.todo with
      | i :: _ => s.dcowCopy ctx c.val slot i 3
      | [] => s)

/- DCRC. -/

def feedRest (s : State) (core ctx : Nat) (e : QEntry) (o : Op) : State × List Bad × List Bad × List Bad :=
  dxeRows s core ctx e o [] [] [(planeRanges (e.view 1), .read)]

/-- DCRC.FEED: the source stream to the armed units, and nothing written (R149). -/
def runFeed (core : Nat) (s : State) (ctx : Nat) (e : QEntry) (_o : Op) : State :=
  let a := e.view 1
  let g := dmaOf ctx core 2 e.slot
  let (s, r) := s.fetchAt g (streamAddrs a)
  match r with
  | .error err => s.failAccess ctx core 2 e err false 2
  | .ok f =>
    let bs := readStream a f
    let s := s.coreM ctx core fun c => (c.feedCv false bs).feedCv true bs
    let s := if e.word.check then s.feedHcv ctx (s.locsOf g (planeRanges a) .read) [] bs else s
    s.doneEntry ctx core 2 e.slot false

def execDcrcFeed (c : CoreN) (s : State) : Out := dxeTake c (· == .feed) feedRest runFeed s

/-- The 16 bytes of DCRC.SAVE and DCRC.LOAD: those at the origin of operand k (R186). -/
def crcAt (e : QEntry) (k : Nat) : Nat := let v := e.view k; elemAddr v.d v.g

def saveRest (s : State) (core ctx : Nat) (e : QEntry) (o : Op) : State × List Bad × List Bad × List Bad :=
  dxeRows s core ctx e o [] [] [([(crcAt e 0, 16)], .write)]

/-- DCRC.SAVE: VALUE of CV0 and then CV1 (R149). -/
def runSave (core : Nat) (s : State) (ctx : Nat) (e : QEntry) (_o : Op) : State :=
  let c := s.coreE ctx core
  let g := dmaOf ctx core 2 e.slot
  let bs := natBytes 8 (cvMask c.cv0.poly c.cv0.value.toNat).toNat ++ natBytes 8 (cvMask c.cv1.poly c.cv1.value.toNat).toNat
  let a := crcAt e 0
  if s.bytesWait g ((List.range 16).map fun i => (a + i, 255, 0)) then s.holdEntry ctx core 2 e.slot
  else
    let (s, err) := s.vaWrite g a bs
    match err with
    | some err => s.failAccess ctx core 2 e err true 2
    | none => (s.checkStreams ctx core e g [] [(a, 16)] [] bs).doneEntry ctx core 2 e.slot false

def execDcrcSave (c : CoreN) (s : State) : Out := dxeTake c (· == .save) saveRest runSave s

def loadRest (s : State) (core ctx : Nat) (e : QEntry) (o : Op) : State × List Bad × List Bad × List Bad :=
  dxeRows s core ctx e o [] [] [([(crcAt e 1, 16)], .read)]

/-- DCRC.LOAD: both VALUEs from 16 bytes (R149). -/
def runCrcLoad (core : Nat) (s : State) (ctx : Nat) (e : QEntry) (_o : Op) : State :=
  let g := dmaOf ctx core 2 e.slot
  let a := crcAt e 1
  let (s, r) := s.vaRead g a 16
  match r with
  | .error err => s.failAccess ctx core 2 e err false 2
  | .ok bs =>
    let s := s.coreM ctx core fun c => { c with
      cv0 := c.cv0.putValue (BitVec.ofNat 64 (bytesNat (bs.take 8))),
      cv1 := c.cv1.putValue (BitVec.ofNat 64 (bytesNat (bs.drop 8))) }
    (s.checkStreams ctx core e g [(a, 16)] [] bs []).doneEntry ctx core 2 e.slot false

def execDcrcLoad (c : CoreN) (s : State) : Out := dxeTake c (· == .load) loadRest runCrcLoad s

end Sys2Proof.Machine
end

