-- ==== Sys2Proof/Machine/Wire.lean ====
section
/-! DEFINITION. The words that partial sums travel in: bounded and trimmed long words and chunk headers (R225 to R228). -/

namespace Sys2Proof.Machine

/-- A bounded long word: W as an integer, and POS (Table 10-2). -/
structure Blw where
  w : Int := 0
  pos : Nat := 0
  deriving DecidableEq, Repr, Inhabited

/-- The 16 bytes of a BLW (Table 10-2). -/
def blwBytes (b : Blw) : List (BitVec 8) := natBytes 15 (BitVec.ofInt 120 b.w).toNat ++ [BitVec.ofNat 8 b.pos]

/-- A BLW from its 16 bytes. -/
def blwOfBytes (bs : List (BitVec 8)) : Blw :=
  { w := sgn 120 (bytesNat (bs.take 15)), pos := (bs.getD 15 0).toNat }

/-- POS values that Table 10-2 defines. -/
def blwPosOk (p : Nat) : Bool := p ≤ 0x41 || p == 0xFE || p == 0xFF

/-- A TLW: flags, first limb, and Z with the number of limbs that carry it (Table 10-3). -/
structure Tlw where
  first : Nat := 0
  count : Nat := 1
  pinf : Bool := false
  ninf : Bool := false
  nan : Bool := false
  nzero : Bool := false
  ovf : Bool := false
  ovfNeg : Bool := false
  z : Int := 0
  deriving DecidableEq, Repr, Inhabited

/-- The bytes of a TLW (Table 10-3). -/
def tlwBytes (t : Tlw) : List (BitVec 8) :=
  natBytes 8 (packFields [(t.first, 0, 4), (t.count, 4, 4), (b2n t.pinf, 8, 1), (b2n t.ninf, 9, 1), (b2n t.nan, 10, 1),
    (b2n t.nzero, 11, 1), (b2n t.ovf, 12, 1), (b2n t.ovfNeg, 13, 1)]) ++
  natBytes (8 * t.count) (t.z % (2 ^ (64 * t.count) : Nat)).toNat

/-- A TLW from its bytes, where its header is one that Table 10-3 allows. -/
def tlwOfBytes (bs : List (BitVec 8)) : Option Tlw :=
  let h := bytesNat (bs.take 8)
  let first := fld h 3 0
  let count := fld h 7 4
  if bs.length < 8 || h / 2 ^ 14 ≠ 0 || count = 0 || 10 < first + count || bs.length ≠ 8 + 8 * count then none
  else some { first := first, count := count, pinf := h.testBit 8, ninf := h.testBit 9, nan := h.testBit 10,
              nzero := h.testBit 11, ovf := h.testBit 12, ovfNeg := h.testBit 13,
              z := sgn (64 * count) (bytesNat (bs.drop 8)) }

/-- The lowest set bit of a natural number; 0 for 0. -/
def lowBit (n : Nat) : Nat := ((List.range (n.log2 + 1)).find? n.testBit).getD 0

/-- Whether v fits n-bit two's complement. -/
def fitsInt (n : Nat) (v : Int) : Bool := -(2 ^ (n - 1) : Nat) ≤ v && v < (2 ^ (n - 1) : Nat)

/-- Whether a resolved LA holds a special flag (R227). -/
def laSpecial (l : LA) : Bool := l.pinf || l.ninf || l.nan || l.ovf

/-- The BLW that a sender sends for a resolved partial sum: POS 0xFF where a TLW must follow (R227). -/
def blwOf (l : LA) : Blw :=
  let n := laPhys l
  if laSpecial l then { pos := 0xFF }
  else if n = 0 then { pos := if l.nzero then 0xFE else 0 }
  else
    let p := lowBit n.natAbs / 8
    let w := n / (2 ^ (8 * p) : Nat)
    if fitsInt 120 w then { w := w, pos := p } else { pos := 0xFF }

/-- The TLW of a resolved partial sum (R227): from the lowest non-zero limb, with the fewest limbs that carry the sign. -/
def tlwOf (l : LA) : Tlw :=
  let n := laPhys l
  let first := if n = 0 then 0 else lowBit n.natAbs / 64
  let z := n / (2 ^ (64 * first) : Nat)
  let count := (((List.range 10).find? fun c => fitsInt (64 * (c + 1)) z).map (· + 1)).getD 10
  { first := first, count := count, pinf := l.pinf, ninf := l.ninf, nan := l.nan, nzero := l.nzero, ovf := l.ovf,
    ovfNeg := l.ovfNeg, z := z }

/-- v modulo 255, as stage 3 of a resolution forms the residue of limbs (R230). -/
def wordResidue (v : Int) : Nat := (v % 255).toNat

/-- A received BLW added into an LA: its value, its flags and its residue; a marker adds nothing of itself (R225, R230). -/
def laAddBlw (l : LA) (b : Blw) : LA :=
  if b.pos = 0xFF then l
  else laMark (if b.pos = 0xFE then l else laAddInt l b.w (8 * b.pos)) { any := true, nzero := b.pos == 0xFE } (wordResidue b.w)

/-- A received TLW added into an LA (R226, R230, R235). -/
def laAddTlw (l : LA) (t : Tlw) : LA :=
  let l' := laMark (laAddInt l t.z (64 * t.first))
    { pinf := t.pinf, ninf := t.ninf, nan := t.nan, any := true, nzero := t.nzero } (wordResidue t.z)
  { l' with ovf := l.ovf || t.ovf, ovfNeg := if l.ovf then l.ovfNeg else if t.ovf then t.ovfNeg else l.ovfNeg }

/-- A chunk header (Table 10-4). -/
structure ChunkHdr where
  chunk : Nat := 0
  count : Nat := 0
  sparse : Bool := false
  resSum : Nat := 0
  deriving DecidableEq, Repr, Inhabited

def chunkHdrOf (bs : List (BitVec 8)) : ChunkHdr :=
  let h := bytesNat (bs.take 8)
  { chunk := fld h 63 32, count := fld h 17 9, sparse := h.testBit 8, resSum := fld h 7 0 }

/-- The words of a chunk: each with its linear index where the chunk is sparse (R228). -/
def chunkWords (h : ChunkHdr) (bs : List (BitVec 8)) : List (Option Nat × Blw) :=
  let body := bs.drop 16
  (List.range h.count).map fun i =>
    if h.sparse then
      let e := (body.drop (20 * i)).take 20
      (some (bytesNat (e.take 4)), blwOfBytes (e.drop 4))
    else (none, blwOfBytes ((body.drop (16 * i)).take 16))

end Sys2Proof.Machine
end

