-- ==== Sys2Proof/Machine/Cxe.lean ====
section
/-! DEFINITION. The collective engine: joining, exact sums, their exchange with other modules, and the bit moves
(R198, R220 to R231, R235). -/

namespace Sys2Proof.Machine

/- Participants. -/

/-- The participants of a group unit on this module, in increasing Cn (R220). -/
def State.parts (s : State) (ctx : Nat) (u : UnitF) : List Nat :=
  if u.level ≠ 4 && u.module ≠ s.modIdx then []
  else (s.jobCoreList ctx).filter (s.coresUnder u).contains

/-- The other modules whose cores take part: those admitted, where the unit is the span and the job a span job
(notes/assumptions/10.md). -/
def State.partPeers (s : State) (ctx : Nat) (u : UnitF) : List Nat :=
  if u.level = 4 && s.runsSpan ctx then (maskList 16 s.spanMask).filter fun m => m ≠ s.modIdx && bit s.span.admitted m else []

/-- The participants of a group unit on one module: on another, its present cores (R3, R220). -/
def State.partsOn (s : State) (ctx : Nat) (u : UnitF) (m : Nat) : Nat :=
  if m = s.modIdx then (s.parts ctx u).length else (maskList 64 (s.coresOfModule m).toNat).length

/-- The modules of a collective, in increasing index. -/
def State.partModules (s : State) (ctx : Nat) (u : UnitF) : List Nat := setIns (s.partPeers ctx u) s.modIdx

/-- How many participants a collective has, and the position of the first of a module (R220). -/
def State.partCount (s : State) (ctx : Nat) (u : UnitF) : Nat := ((s.partModules ctx u).map (s.partsOn ctx u)).sum
def State.partBase (s : State) (ctx : Nat) (u : UnitF) (m : Nat) : Nat :=
  (((s.partModules ctx u).filter (· < m)).map (s.partsOn ctx u)).sum

/-- The entry of a core that joined collective k of a unit and has not ended. -/
def State.joinedEntry (s : State) (ctx core : Nat) (unit : BitVec 32) (k : Nat) : Option QEntry :=
  (s.coreE ctx core).dxeQ.find? fun e => e.taken && e.result.isNone && e.joined == some k && e.word.imm == unit

/-- The collective of a context, by unit and number. -/
def State.collE (s : State) (ctx : Nat) (unit : BitVec 32) (k : Nat) : Option Coll :=
  s.colls.find? fun c => c.ctx == ctx && c.unit == unit && c.k == k

def State.collM (s : State) (ctx : Nat) (unit : BitVec 32) (k : Nat) (f : Coll → Coll) : State :=
  { s with colls := updFirst (fun c => c.ctx == ctx && c.unit == unit && c.k == k) f s.colls }

/-- A collective is forgotten once no participant of this module is left in it. -/
def State.collEnd (s : State) (ctx : Nat) (unit : BitVec 32) (k : Nat) : State :=
  if (List.range 64).any fun n => (s.joinedEntry ctx n unit k).isSome then s
  else { s with colls := s.colls.filter fun c => !(c.ctx == ctx && c.unit == unit && c.k == k) }

/- Queue-take. -/

/-- Rows 6 of CRED and CRSC: R222, R223, R114. -/
def sumPolicy (e : QEntry) (o : Op) (debug : Bool) : List Bad :=
  let t := e.word
  let d := e.view 0
  let a := e.view 1
  let dims := match (List.range 4).find? fun i => d.d.dim i != a.d.dim i with
    | some i => [let f := dimField i; badTd d.d (t.td 0) 6 f.1 f.2 32]
    | none => []
  let win := (List.range 4).find? fun i =>
    let lo := d.g.getD i 0
    let lo' := a.g.getD i 0
    if o == .cred then lo != lo' || d.e.getD i 0 != a.e.getD i 0
    else !(lo' ≤ lo && lo + d.e.getD i 0 ≤ lo' + a.e.getD i 0)
  dims ++ (match win with | some i => [badTd d.d (t.td 0) 6 7 (16 * i) 16] | none => []) ++
    (if 2 ^ 32 ≤ d.count then [badTd d.d (t.td 0) 6 7 0 16] else []) ++
    destPolicy o debug (t.td 0) d.d d.g d.e

/-- The dimension along which CA2A splits: the highest whose extent exceeds 1 (R224). -/
def splitDim (e : List Nat) : Nat := ([3, 2, 1, 0].find? fun i => 1 < e.getD i 0).getD 0

/-- Part j of n of a window (R224). -/
def View.part (v : View) (n j : Nat) : View :=
  let k := splitDim v.e
  let w := v.e.getD k 0 / n
  { v with g := v.g.set k (v.g.getD k 0 + j * w), e := v.e.set k w }

/-- Row 6 of CA2A: an extent that n does not divide, or a part that breaks R114 (R224). -/
def splitPolicy (v : View) (i n : Nat) : List Bad :=
  let k := splitDim v.e
  if n = 0 || v.e.getD k 0 % n != 0 then [badTd v.d i 6 7 (16 * k) 16]
  else ((List.range n).filterMap fun j => let p := v.part n j; splitBlock v.d p.g p.e).map fun k => badTd v.d i 6 7 (16 * k) 16

/-- Whether a core is the root of a CBCS: the participant at position MOD (R224, Table 8-6). -/
def State.isRoot (s : State) (core ctx : Nat) (t : TWord) : Bool :=
  let u := uidFields t.imm
  s.partBase ctx u s.modIdx + ((s.parts ctx u).findIdx fun n => n == core) == t.mod

/-- The rows of a CXE instruction. In a CBCS op1 is the root's alone, and with PATCH, which row 9 refuses, the participants are not
known, so that no rule that counts them is judged (R177, R221 to R224, Table 8-6). -/
def cxeRest (s : State) (core ctx : Nat) (e : QEntry) (o : Op) : State × List Bad × List Bad × List Bad :=
  let t := e.word
  let n := s.partCount ctx (uidFields t.imm)
  let r9 := (if t.patch then [badPatch t] else []) ++
    (match o with | .cbcs => if n ≤ t.mod && !t.patch then [badIn t 9 1 28 4] else [] | _ => [])
  match o with
  | .credNorm => (s, [], [], r9)
  | _ =>
    let d := e.view 0
    let a := e.view 1
    let far := o == .cbcs && !(s.isRoot core ctx t)
    let r6 := match o with
      | .cbcs => if far then [] else moveShape e ++ shapeBad d a (t.td 1)
      | .ca2a => moveShape e ++ shapeBad d a (t.td 1) ++
          (if t.patch then [] else splitPolicy a (t.td 1) n ++ splitPolicy d (t.td 0) n)
      | _ => sumPolicy e o (s.runE ctx).debug
    dxeRows s core ctx e o r6 r9 ([(planeRanges d, .write)] ++ (if far then [] else [(planeRanges a, .read)]))
      (if far then [1] else [])

/- Joining. -/

/-- What participants must agree on: opcode, MOD, TAG and the source's DIMi (R221). -/
def joinKey (e : QEntry) : List Nat :=
  let d := e.desc (e.word.td 1)
  [e.word.opcode, e.word.mod, e.word.tag] ++
    (if e.word.opcode = 2 then [] else (List.range 4).map d.dim)

/-- The participants of this module that have joined a collective, in increasing Cn. -/
def State.joinedAll (s : State) (ctx : Nat) (unit : BitVec 32) (k : Nat) : List (Nat × QEntry) :=
  (s.parts ctx (uidFields unit)).filterMap fun n => (s.joinedEntry ctx n unit k).map fun e => (n, e)

/-- Whether every participant of this module, of which there is one, has joined (R221). -/
def State.hereJoined (s : State) (ctx : Nat) (unit : BitVec 32) (k : Nat) : Bool :=
  !(s.parts ctx (uidFields unit)).isEmpty && (s.joinedAll ctx unit k).length == (s.parts ctx (uidFields unit)).length

/-- The elements that this module's destinations name, in the order of R105: what a peer's stream carries (R228, R231). -/
def State.wanted (s : State) (ctx : Nat) (unit : BitVec 32) (k : Nat) : List Nat :=
  (((s.joinedAll ctx unit k).flatMap fun p => let v := p.2.view 0; v.xs.map (linearIdx v.d)).eraseDups).foldl setIns []

/-- What a CBCS's destinations must match: format, block shape and extents of a window (R224). -/
def View.form (v : View) : List Nat := [v.d.fmt, b2n v.d.isTile] ++ v.e

/-- What the modules of a collective tell each other: for a sum the elements wanted, for a CBCS its source's form from the root's
module (notes/assumptions/10.md). -/
def State.tells (s : State) (ctx : Nat) (unit : BitVec 32) (k : Nat) (o : Op) : List Nat :=
  match o with
  | .cred | .crsc => s.wanted ctx unit k
  | .cbcs => ((s.joinedAll ctx unit k).find? fun p => s.isRoot p.1 ctx p.2.word).elim [] fun p => (p.2.view 1).form
  | _ => []

/-- When the last participant of this module joins, the other modules hear what its participants agree on, or that they disagree
(R221; notes/assumptions/10.md). -/
def State.announce (s : State) (ctx : Nat) (unit : BitVec 32) (k : Nat) (o : Op) : State :=
  if !(s.hereJoined ctx unit k) then s
  else
    let load : FlitLoad := match ((s.joinedAll ctx unit k).map fun p => joinKey p.2).eraseDups with
      | [key] => .joined (BitVec.ofNat 12 ctx) unit k key (s.tells ctx unit k o)
      | _ => .differ (BitVec.ofNat 12 ctx) unit k
    (s.partPeers ctx (uidFields unit)).foldl (fun (s : State) m => s.emit (.flit m .c load)) s

/-- Another module's word about a collective (R221). -/
def State.peerJoins (s : State) (j : Join) : State :=
  { s with joins := (s.joins.filter fun x => !(x.ctx == j.ctx && x.unit == j.unit && x.k == j.k && x.from_ == j.from_)) ++ [j] }

/-- What module m has said of a collective. -/
def State.joinOf (s : State) (ctx : Nat) (unit : BitVec 32) (k m : Nat) : Option Join :=
  s.joins.find? fun x => x.ctx == ctx && x.unit == unit && x.k == k && x.from_ == m

/-- A CXE instruction joins the next collective of its unit on its core; a sum keeps the scale bytes of its destination as they stand at
this take (R110, R221). -/
def joinColl (core : Nat) (s : State) (ctx : Nat) (e : QEntry) (o : Op) : State :=
  let u := e.word.imm.toNat
  let k := tabGet (s.coreE ctx core).collNo u 0
  let d := e.view 0
  let (s, r) : State × Except AccErr Fetched :=
    if o == .cred || o == .crsc then s.takeScales (dmaOf ctx core 2 e.slot) d.d d.xs else (s, .ok [])
  match r with
  | .error err => s.failAccess ctx core 2 e err false 2
  | .ok f =>
    ((s.coreM ctx core fun c => { c with collNo := tabSet c.collNo u (k + 1) }).entryM ctx core 2 e.slot fun e =>
      { e with joined := some k, scales := f }).announce ctx e.word.imm k o

/- Sums. -/

/-- Every participant of a collective on this module ends with an outcome; the collective is gone. -/
def State.endAll (s : State) (ctx : Nat) (unit : BitVec 32) (k : Nat) (o : Outcm) : State :=
  let s := (List.range 64).foldl (fun s n =>
    match s.joinedEntry ctx n unit k with
    | some e => s.endEntry ctx n 2 e.slot o
    | none => s) s
  s.collEnd ctx unit k

/-- The terms of one participant's source window added to the elements of a collective (R222). -/
def addTerms (ctx : Nat) (a : View) (f : Fetched) (els : List (Nat × LA)) : List (Nat × LA) :=
  a.xs.foldl (fun (l : List (Nat × LA)) x =>
    let i := linearIdx a.d x
    tabSet l i (laAddTerm (tabGet l i (laClear ctx)) (valAt a.d f x))) els

/-- Whether escape traffic slows a stream: its TLW bytes exceed 11/128 of its BLW bytes (R229). -/
def escapeBound (blw tlw : Nat) : Bool := blw * 11 < tlw * 128

/-- The words of a stream of partial sums (R227). -/
def streamWords (els : List (Nat × LA)) : List (Nat × LA × Blw) :=
  els.map fun p => let l := laResolve p.2; (p.1, l, blwOf l)

/-- The TLWs of a stream, in the order of their markers (R227, R229). -/
def streamTlws (ws : List (Nat × LA × Blw)) : List (List (BitVec 8)) :=
  (ws.filter fun w => w.2.2.pos == 0xFF).map fun w => tlwBytes (tlwOf w.2.1)

/-- Whether a stream of n words is escape-bound for its TLWs (R229). -/
def streamBound (ws : List (Nat × LA × Blw)) : Bool := escapeBound (16 * ws.length) ((streamTlws ws).map List.length).sum

/-- One chunk of a stream: the sparse form where at most 204 elements are listed, else the dense one (R228, Table 10-4). -/
def chunkBytes (no : Nat) (ws : List (Nat × LA × Blw)) : List (BitVec 8) :=
  let listed := ws.filter fun w => w.2.2 != { }
  let sparse := listed.length ≤ 204
  let body := if sparse then listed else ws
  let sum := (body.map fun w => w.2.1.resAcc).sum % 255
  natBytes 8 (packFields [(no, 32, 32), (body.length, 9, 9), (b2n sparse, 8, 1), (sum, 0, 8)]) ++ List.replicate 8 0 ++
    body.flatMap fun w => (if sparse then natBytes 4 w.1 else []) ++ blwBytes w.2.2

/-- A stream to another module: its chunks in class X, its TLWs in class E (R228, R229, R231, R299). -/
def State.sendStream (s : State) (ctx : Nat) (unit : BitVec 32) (k m : Nat) (ws : List (Nat × LA × Blw)) : State :=
  let n := (ws.length + 255) / 256
  let s := (List.range n).foldl (fun (s : State) i =>
    s.emit (.flit m .x (.chunk (BitVec.ofNat 12 ctx) unit k (chunkBytes i ((ws.drop (256 * i)).take 256)) (i + 1 == n)))) s
  (streamTlws ws).foldl (fun (s : State) b => s.emit (.flit m .e (.tlw (BitVec.ofNat 12 ctx) unit k b))) s

/-- The sums of every die's participants, die by die (R222, R228), or the participant whose source could not be read. -/
def State.sumDies (s : State) (ctx : Nat) (ps : List (Nat × QEntry)) :
    State × Except (Nat × QEntry × AccErr) (List (Nat × List (Nat × LA))) :=
  ps.foldl (fun (p : State × Except (Nat × QEntry × AccErr) (List (Nat × List (Nat × LA)))) c =>
    match p.2 with
    | .error _ => p
    | .ok dies =>
      let a := c.2.view 1
      let (s, r) := p.1.fetchAt (dmaOf ctx c.1 2 c.2.slot) (readAddrs a.d a.xs)
      match r with
      | .error err => (s, .error (c.1, c.2, err))
      | .ok f => (s, .ok (tabSet dies (c.1 / 16) (addTerms ctx a f (tabGet dies (c.1 / 16) []))))) (s, .ok [])

/-- The sums of the dies added together. -/
def addDies (ctx : Nat) (dies : List (Nat × List (Nat × LA))) : List (Nat × LA) :=
  dies.foldl (fun (l : List (Nat × LA)) d =>
    d.2.foldl (fun l p => tabSet l p.1 (laAddLA (tabGet l p.1 (laClear ctx)) p.2)) l) []

/-- CRED and CRSC start: every participant's terms are summed; sums leave a die or the module as BLWs and TLWs, to each module the
elements that its destinations name (R222, R227 to R231). -/
def State.startSum (s : State) (ctx : Nat) (unit : BitVec 32) (k : Nat) (ps : List (Nat × QEntry)) (peers : List Nat) : State :=
  let (s, r) := s.sumDies ctx ps
  match r with
  | .error (n, e, err) => s.failAccess ctx n 2 e err false 2
  | .ok dies =>
    let up := if 1 < dies.length || !peers.isEmpty then dies.map fun d => (d.1, streamWords d.2) else []
    let els := addDies ctx dies
    let away := peers.map fun m => (m, streamWords
      (((s.joinOf ctx unit k m).elim [] Join.wants).map fun i => (i, tabGet els i (laClear ctx))))
    let s := away.foldl (fun (s : State) w => s.sendStream ctx unit k w.1 w.2) s
    { s with colls := s.colls ++ [{
        ctx := ctx, unit := unit, k := k, elems := els
        peers := if (s.wanted ctx unit k).isEmpty then [] else peers
        escBound := (up ++ away).any fun w => streamBound w.2
        tlws := up.map fun w => (w.1, (streamTlws w.2).length) }] }

/-- The participants' norm slots, in increasing Cn (R235). -/
def State.readSlots (s : State) (ctx : Nat) (ps : List (Nat × QEntry)) : State × Except (Nat × QEntry × AccErr) (List LA) :=
  ps.foldl (fun (p : State × Except (Nat × QEntry × AccErr) (List LA)) c =>
    match p.2 with
    | .error _ => p
    | .ok l =>
      let (s, r) := p.1.vaRead (dmaOf ctx c.1 2 c.2.slot) (p.1.normAddr ctx (c.2.word.mod % 4 * 256 + c.2.word.tag)) 96
      match r with
      | .error err => (s, .error (c.1, c.2, err))
      | .ok bs => (s, .ok (l ++ [slotOfBytes bs]))) (s, .ok [])

/-- CRED.NORM starts: the participants' slots are summed, and each travels to every other module as one TLW (R235). -/
def State.startNorm (s : State) (ctx : Nat) (unit : BitVec 32) (k : Nat) (ps : List (Nat × QEntry)) (peers : List Nat) : State :=
  let (s, r) := s.readSlots ctx ps
  match r with
  | .error (n, e, err) => s.failAccess ctx n 2 e err false 2
  | .ok ls =>
    let s := peers.foldl (fun (s : State) m => ls.foldl (fun (s : State) l =>
      s.emit (.flit m .e (.tlw (BitVec.ofNat 12 ctx) unit k (tlwBytes (tlwOf (laResolve l)))))) s) s
    { s with colls := s.colls ++ [{ ctx := ctx, unit := unit, k := k, peers := peers,
                                    slots := [(s.modIdx, ls.foldl laAddLA (laClear ctx))] }] }

/- Bit moves. -/

/-- What a participant at position q of n receives: destination views, each with the position of its source (R224). -/
def cxeMoves (o : Op) (n root : Nat) (d : View) : List (View × Nat) :=
  match o with
  | .ca2a => (List.range n).map fun p => (d.part n p, p)
  | _ => [(d, root)]

/-- The source window of what goes from one participant to position q (R224). -/
def cxeSource (o : Op) (n q : Nat) (a : View) : View := match o with | .ca2a => a.part n q | _ => a

/-- A window's elements as the bytes that travel: the codes packed in order, a scale entry for each block, a sub-scale for each group
(R146, R224; notes/assumptions/10.md). -/
def packPart (d : Desc) (l : List (List Nat × Bits)) : List (BitVec 8) :=
  let w := fmtBits d.fmt
  let codes := (l.zipIdx.map fun p => p.1.2.code % 2 ^ w * 2 ^ (w * p.2)).sum
  natBytes ((w * l.length + 7) / 8) codes ++
    (if fmtIsBlock d.fmt then (groupBlocks d l).flatMap fun b =>
      let e := ((b.2.head?.map fun p => p.2.entry).getD (127, 0))
      [BitVec.ofNat 8 e.1, BitVec.ofNat 8 e.2] else []) ++
    (if fmtHasSub d.fmt then l.map fun p => BitVec.ofNat 8 p.2.sub else [])

/-- The elements of a destination window from the bytes that travelled. -/
def unpackPart (d : Desc) (xs : List (List Nat)) (bs : List (BitVec 8)) : List (List Nat × Bits) :=
  let w := fmtBits d.fmt
  let n := (w * xs.length + 7) / 8
  let codes := bytesNat (bs.take n)
  let blocks := (groupBlocks d (xs.map fun x => (x, ()))).map Prod.fst
  let ent := bs.drop n
  let sub := ent.drop (if fmtIsBlock d.fmt then 2 * blocks.length else 0)
  xs.zipIdx.map fun p =>
    let b := blocks.findIdx fun j => j == blockNo d p.1
    (p.1, { x := p.1, code := codes / 2 ^ (w * p.2) % 2 ^ w,
            entry := if fmtIsBlock d.fmt then ((ent.getD (2 * b) 0).toNat, (ent.getD (2 * b + 1) 0).toNat) else (127, 0),
            sub := if fmtHasSub d.fmt then (sub.getD p.2 0).toNat else 0 })

/-- The participants' entries at their positions. -/
def atPositions (base : Nat) (ps : List (Nat × QEntry)) : List (Nat × Nat × QEntry) := ps.zipIdx.map fun p => (base + p.2, p.1)

/-- The bytes that one participant of CBCS or CA2A receives from participants of this module (R224). -/
def State.gatherMove (s : State) (ctx : Nat) (ps : List (Nat × Nat × QEntry)) (o : Op) (n : Nat) (me : Nat × Nat × QEntry) :
    State × Except AccErr (List MByte) :=
  let e := me.2.2
  (cxeMoves o n e.word.mod (e.view 0)).foldl (fun (p : State × Except AccErr (List MByte)) mv =>
    match p.2, ps.find? fun x => x.1 == mv.2 with
    | .ok acc, some x =>
      let sv := cxeSource o n me.1 (x.2.2.view 1)
      let els := dmovElems mv.1 sv
      let (s, f) := p.1.fetchAt (dmaOf ctx x.2.1 2 x.2.2.slot) (copyAddrs sv.d (els.map Prod.fst))
      match f with
      | .error err => (s, .error err)
      | .ok f => (s, .ok (acc ++ moveBytes mv.1.d (els.map fun x => (x.2, bitsAt sv.d f x.1))))
    | _, _ => p) (s, .ok [])

/-- The first thing in which a CBCS's destination window does not match the root's source (R224). -/
def formBad (e : QEntry) (form : List Nat) : Option Bad :=
  let d := e.view 0
  let i := e.word.td 0
  ((List.range 6).find? fun j => form.getD j 0 != d.form.getD j 0 && (j != 1 || fmtIsBlock d.d.fmt)).map fun j =>
    match j with
    | 0 => badTd d.d i 6 0 48 4
    | 1 => badTd d.d i 6 0 56 1
    | j => badTd d.d i 6 7 (16 * (j - 2)) 16

/-- One participant of CBCS or CA2A receives its bits; it ends unless parts of it come from other modules (R224). -/
def State.moveOne (s : State) (ctx : Nat) (ps : List (Nat × Nat × QEntry)) (o : Op) (n : Nat) (form : List Nat)
    (me : Nat × Nat × QEntry) : State :=
  let (core, e) := me.2
  match if o == .cbcs then formBad e form else none with
  | some b => s.failEntry ctx core 2 e b.status b.cause (badWords b (issueWord e 2))
  | none =>
    let (s, r) := s.gatherMove ctx ps o n me
    match r with
    | .error err => s.failAccess ctx core 2 e err false 2
    | .ok bytes =>
      let (s, err) := s.writeMasked (s.dmaLate ctx core e) bytes
      match err with
      | some err => s.failAccess ctx core 2 e err true 2
      | none =>
        if (cxeMoves o n e.word.mod (e.view 0)).all fun mv => ps.any fun x => x.1 == mv.2 then s.doneEntry ctx core 2 e.slot false
        else s

/-- What one participant sends to a position on another module, in class D (R224, R299). -/
def State.sendPart (s : State) (ctx : Nat) (unit : BitVec 32) (k m : Nat) (o : Op) (n q : Nat) (x : Nat × Nat × QEntry) : State :=
  let (core, e) := x.2
  let sv := cxeSource o n q (e.view 1)
  let (s, f) := s.fetchAt (dmaOf ctx core 2 e.slot) (copyAddrs sv.d sv.xs)
  match f with
  | .error err => s.failAccess ctx core 2 e err false 2
  | .ok f => s.emit (.flit m .d (.part (BitVec.ofNat 12 ctx) unit k x.1 q (packPart sv.d (sv.xs.map fun y => (y, bitsAt sv.d f y)))))

/-- CBCS and CA2A: bits move to every participant, here and on the other modules (R224). -/
def State.startMove (s : State) (ctx : Nat) (unit : BitVec 32) (k : Nat) (ps : List (Nat × QEntry)) (o : Op) (peers : List Nat) : State :=
  let u := uidFields unit
  let n := s.partCount ctx u
  let at_ := atPositions (s.partBase ctx u s.modIdx) ps
  let root := (ps.head?.map fun p => p.2.word.mod).getD 0
  let senders := if o == .ca2a then at_ else at_.filter fun x => x.1 == root
  let form := match senders with
    | x :: _ => (x.2.2.view 1).form
    | [] => ((peers.filterMap fun m => s.joinOf ctx unit k m).find? fun j => !j.wants.isEmpty).elim [] Join.wants
  let s := peers.foldl (fun (s : State) m => (List.range (s.partsOn ctx u m)).foldl (fun (s : State) i =>
    senders.foldl (fun (s : State) x => s.sendPart ctx unit k m o n (s.partBase ctx u m + i) x) s) s) s
  let due := at_.flatMap fun x => ((cxeMoves o n x.2.2.word.mod (x.2.2.view 0)).filter fun mv =>
    !(at_.any fun y => y.1 == mv.2)).map fun mv => (mv.2, x.1)
  let s := if due.isEmpty then s else { s with colls := s.colls ++ [{ ctx := ctx, unit := unit, k := k, pending := due }] }
  (at_.foldl (fun (s : State) me => s.moveOne ctx at_ o n form me) s).collEnd ctx unit k

/-- A part of a CBCS or CA2A from another module: written at its destination, whose instruction ends with its last part; one that the
collective does not await is dropped (R224). -/
def State.partIn (s : State) (ctx : Nat) (unit : BitVec 32) (k source dest : Nat) (bytes : List (BitVec 8)) : State :=
  match s.collE ctx unit k with
  | none => s
  | some c =>
    if !(c.pending.contains (source, dest)) then s
    else
      let u := uidFields unit
      let s := s.collM ctx unit k fun c => { c with pending := c.pending.erase (source, dest) }
      match (s.parts ctx u)[dest - s.partBase ctx u s.modIdx]? with
      | none => s
      | some core =>
        match s.joinedEntry ctx core unit k with
        | none => s
        | some e =>
          let o := (e.word.op).getD .ca2a
          let v := if o == .ca2a then (e.view 0).part (s.partCount ctx u) source else e.view 0
          let (s, err) := s.writeMasked (s.dmaLate ctx core e) (moveBytes v.d (unpackPart v.d v.xs bytes))
          let last := !(c.pending.any fun p => p.2 == dest && p.1 != source)
          (match err with
          | some err => s.failAccess ctx core 2 e err true 2
          | none => if last then s.doneEntry ctx core 2 e.slot false else s).collEnd ctx unit k

/- Arrivals from other modules. -/

/-- The path of a span link in records (Table 16-11). -/
def State.linkPath (s : State) (m : Nat) : Nat := 16 + s.linkTo m

/-- A word that no sender sends: every participant fails and a record names the link (R227). -/
def State.wireFault (s : State) (ctx : Nat) (unit : BitVec 32) (k m : Nat) : State :=
  let s := s.failRec s.modUid ctx 0 0x10 0x07 (BitVec.ofNat 64 (s.linkPath m), 0, 0, 0)
  let o : Outcm := { status := 0x10, cause := 0x07, esn := s.lastEsn }
  (s.endAll ctx unit k o).setFault ctx o

/-- A chunk whose residues disagree: SDC for every participant, with the path and the chunk (R230, Table 16-11). -/
def State.chunkSdc (s : State) (ctx : Nat) (unit : BitVec 32) (k m chunk want got : Nat) : State :=
  let (s, n) := s.sdcRec s.modUid 0x80 ctx 0
    (reg [(want, 56, 8), (got, 48, 8), (7, 44, 4)], reg [(chunk, 32, 32)], BitVec.ofNat 64 (s.linkPath m), 0)
  s.endAll ctx unit k { status := 0x18, esn := n }

/-- What the stream of a sender has brought so far, more (R229). -/
def Coll.lane (c : Coll) (m blw tlw : Nat) : Coll :=
  let old := (tabFind c.laneIn m).getD (0, 0)
  { c with laneIn := tabSet c.laneIn m (old.1 + blw, old.2 + tlw) }

/-- A whole chunk taken into a collective: each word added, the elements a sparse chunk does not list as +0, the residue
checked once no TLW is awaited (R225 to R230). -/
def State.chunkIn (s : State) (ctx : Nat) (unit : BitVec 32) (k m : Nat) (bytes : List (BitVec 8)) (last : Bool) : State :=
  let h := chunkHdrOf bytes
  let ws := chunkWords h bytes
  let range := ((s.wanted ctx unit k).drop (256 * h.chunk)).take 256
  let listed := ws.zipIdx.map fun p => (p.1.1.getD (range.getD p.2 0), p.1.2)
  if ws.any fun p => !(blwPosOk p.2.pos) then s.wireFault ctx unit k m
  else
    let esc := (listed.filter fun p => p.2.pos == 0xFF).map Prod.fst
    let sum := (listed.map fun p => if p.2.pos = 0xFF then 0 else wordResidue p.2.w).sum % 255
    if esc.isEmpty && sum != h.resSum % 255 then s.chunkSdc ctx unit k m h.chunk h.resSum sum
    else s.collM ctx unit k fun c =>
      let els := listed.foldl (fun (l : List (Nat × LA)) p =>
        if p.2.pos = 0xFF then l else tabSet l p.1 (laAddBlw (tabGet l p.1 (laClear ctx)) p.2)) c.elems
      let els := if !h.sparse then els else
        (range.filter fun i => !(listed.any fun p => p.1 == i)).foldl (fun (l : List (Nat × LA)) i =>
          tabSet l i (laMark (tabGet l i (laClear ctx)) { any := true, nzero := false } 0)) els
      { (c.lane m (16 * h.count) 0) with
               elems := els, escapes := c.escapes ++ esc.map fun i => (m, i),
               resWant := if esc.isEmpty then c.resWant else c.resWant ++ [(m, h.chunk, h.resSum % 255, sum, esc.length)],
               peers := if last then setDel c.peers m else c.peers }

/-- A TLW taken into a collective: the next escaped element of its sender, or the slot of the next participant of its sender, whose
stream ends with its last (R226, R229, R230, R235). -/
def State.tlwIn (s : State) (ctx : Nat) (unit : BitVec 32) (k m : Nat) (c : Coll) (t : Tlw) : State :=
  if !c.slots.isEmpty then
    let got := ((tabFind c.laneIn m).getD (0, 0)).2 + 1
    s.collM ctx unit k fun c => { (c.lane m 0 1) with
      slots := tabSet c.slots m (laAddTlw (tabGet c.slots m (laClear ctx)) t)
      peers := if s.partsOn ctx (uidFields unit) m ≤ got then setDel c.peers m else c.peers }
  else match c.escapes.find? fun p => p.1 == m, c.resWant.find? fun p => p.1 == m with
    | some (_, i), some (_, chunk, want, sum, left) =>
      let sum := (sum + wordResidue t.z) % 255
      if left = 1 && sum != want then s.chunkSdc ctx unit k m chunk want sum
      else s.collM ctx unit k fun c => { (c.lane m 0 (8 + 8 * t.count)) with
        elems := tabSet c.elems i (laAddTlw (tabGet c.elems i (laClear ctx)) t),
        escapes := c.escapes.erase (m, i),
        resWant := (updFirst (fun (p : Nat × Nat × Nat × Nat × Nat) => p.1 == m) (fun _ => (m, chunk, want, sum, left - 1))
          c.resWant).filter fun (p : Nat × Nat × Nat × Nat × Nat) => p.2.2.2.2 != 0 }
    | _, _ => s

/-- What a peer's word of a collective does: words of one that has not started here are held until it starts (R221, R224 to R228). -/
def State.collWord (s : State) (m : Nat) (f : FlitLoad) : State :=
  let wait := fun (ctx : CtxId) (unit : BitVec 32) (k : Nat) (act : Coll → State) =>
    match s.collE ctx.toNat unit k with
    | some c => act c
    | none =>
      if (s.partPeers ctx.toNat (uidFields unit)).contains m then { s with collHeld := s.collHeld ++ [(m, f)] } else s
  match f with
  | .chunk ctx unit k bytes last =>
    wait ctx unit k fun c => if c.peers.contains m then s.chunkIn ctx.toNat unit k m bytes last else s
  | .tlw ctx unit k bytes =>
    wait ctx unit k fun c => match tlwOfBytes bytes with
      | some t => s.tlwIn ctx.toNat unit k m c t
      | none => s.wireFault ctx.toNat unit k m
  | .part ctx unit k source dest bytes => wait ctx unit k fun _ => s.partIn ctx.toNat unit k source dest bytes
  | _ => s

/-- CHUNK_RECEIVE. -/
def execChunkReceive (ctx : CtxId) (unit : BitVec 32) (k : Nat) (m : ModN) (bytes : List (BitVec 8)) (last : Bool)
    (s : State) : Out := .next (s.collWord m.val (.chunk ctx unit k bytes last))

/-- TLW_RECEIVE. -/
def execTlwReceive (ctx : CtxId) (unit : BitVec 32) (k : Nat) (m : ModN) (bytes : List (BitVec 8)) (s : State) : Out :=
  .next (s.collWord m.val (.tlw ctx unit k bytes))

/-- Whether a held word belongs to a collective. -/
def heldFor (ctx : Nat) (unit : BitVec 32) (k : Nat) (f : FlitLoad) : Bool :=
  match f with
  | .chunk c u n _ _ | .tlw c u n _ | .part c u n _ _ _ => c.toNat == ctx && u == unit && n == k
  | _ => false

/-- A collective has started: what other modules said of it is done with, and the words of it that are held are taken in order. -/
def State.collOpen (s : State) (ctx : Nat) (unit : BitVec 32) (k : Nat) : State :=
  let mine := s.collHeld.filter fun p => heldFor ctx unit k p.2
  let joins := s.joins.filter fun j => !(j.ctx == ctx && j.unit == unit && j.k == k)
  let s := { s with collHeld := s.collHeld.filter (fun (p : Nat × FlitLoad) => !(heldFor ctx unit k p.2)), joins := joins }
  mine.foldl (fun (s : State) p => if (s.collE ctx unit k).isSome then s.collWord p.1 p.2 else s) s

/-- COLLECTIVE_START: the k-th collective of a unit starts once every participant has joined it, those of other modules by their word;
participants that disagree all fail (R221). -/
def execCollectiveStart (ctx : CtxId) (unit : BitVec 32) (k : Nat) (s : State) : Out :=
  let c := ctx.toNat
  let peers := s.partPeers c (uidFields unit)
  let ps := s.joinedAll c unit k
  let js := peers.filterMap fun m => s.joinOf c unit k m
  .next (if c = 0 || !(s.hereJoined c unit k) || js.length ≠ peers.length || (s.collE c unit k).isSome then s
  else if js.any Join.differ || !(((ps.map fun p => joinKey p.2) ++ js.map Join.key).eraseDups.length == 1) then
    (ps.foldl (fun (s : State) p =>
      let b := badRow 9
      s.failEntry c p.1 2 p.2 b.status b.cause (badWords b (issueWord p.2 2))) s).collOpen c unit k
  else match ps with
    | (_, e) :: _ =>
      (match e.word.op with
      | some .credNorm => s.startNorm c unit k ps peers
      | some .cbcs => s.startMove c unit k ps .cbcs peers
      | some .ca2a => s.startMove c unit k ps .ca2a peers
      | _ => s.startSum c unit k ps peers).collOpen c unit k
    | [] => s)

/- The end of a collective at a participant. -/

/-- Whether every term of a collective has arrived. -/
def Coll.whole (c : Coll) : Bool := c.peers.isEmpty && c.escapes.isEmpty && c.resWant.isEmpty && c.pending.isEmpty

/-- Whether a path of a collective slowed it, here or in what arrived (R229). -/
def Coll.slowed (c : Coll) : Bool := c.escBound || c.laneIn.any fun l => escapeBound l.2.1 l.2.2

/-- The INFO record of an escape-bound collective; D0 counts the TLWs that the participant's die sent for it (R229;
notes/assumptions/40.md). -/
def State.escRec (s : State) (ctx core : Nat) (c : Coll) (flagged : Bool) : State :=
  let u := uidFields c.unit
  let pos := s.partBase ctx u s.modIdx + ((s.parts ctx u).findIdx fun n => n == core)
  s.raiseRec { unit := s.coreUid core, cls := 4, code := 0xC2, ctx := BitVec.ofNat 12 ctx,
               d0 := BitVec.ofNat 64 (tabGet c.tlws (core / 16) 0),
               d1 := reg [(pos, 0, 10)], d2 := reg [(1, 0, 1), (b2n flagged, 1, 1)] }

/-- A participant of CRED or CRSC rounds the sums of its destination once, with the scale bytes that it read at its take (R110, R222,
R230). -/
def State.finishSum (s : State) (ctx core : Nat) (e : QEntry) (c : Coll) : State :=
  let d := e.view 0
  let g := s.dmaLate ctx core e
  let xs := d.xs
  if s.bytesWait g (xs.flatMap fun x => codeBytes d.d x 0) then s
  else
    let sum := fun (x : List Nat) => laResolve (tabGet c.elems (linearIdx d.d x) (laClear ctx))
    let bad := xs.find? fun x => laMismatch (sum x)
    let good := xs.takeWhile fun x => !(laMismatch (sum x))
    let (s, r) := s.convertTo g d.d (s.convCtx ctx e false) (good.map fun x => (x, laValue (sum x))) e.scales
    match r with
    | .error err => s.failAccess ctx core 2 e err true 2
    | .ok out =>
      let s := s.addFlagged ctx out.count
      match bad with
      | some x => s.sdcEntry ctx core 2 e (sdcWords (sum x) 6 0 (linearIdx d.d x) 4)
      | none =>
        let s := if c.slowed then s.escRec ctx core c out.flagged else s
        s.doneEntry ctx core 2 e.slot (out.flagged || c.slowed)

/-- A participant of CRED.NORM writes the summed slot: the modules' slots in increasing index (R63, R198, R235). -/
def State.finishNorm (s : State) (ctx core : Nat) (e : QEntry) (c : Coll) : State :=
  let sum := laResolve ((c.slots.map Prod.snd).foldl laAddLA (laClear ctx))
  let slot := e.word.mod % 4 * 256 + e.word.tag
  if laMismatch sum then s.sdcEntry ctx core 2 e (sdcWords sum 6 0 slot 4)
  else
    let (s, err) := s.vaWrite (s.dmaLate ctx core e) (s.normAddr ctx slot) (bytesOfSlot sum)
    match err with
    | some err => s.failAccess ctx core 2 e err true 2
    | none => s.doneEntry ctx core 2 e.slot false

/-- One CXE command on a core: its oldest instruction of that opcode whose collective is whole finishes; where there is
none, the instruction at the queue head is taken and joins (R221, R231). -/
def cxeTake (c : CoreN) (sel : Op → Bool) (s : State) : State :=
  let ctx := (s.clusE (c.val / 4)).ctx
  let ready := (s.coreE ctx c.val).dxeQ.findSome? fun e =>
    match e.joined, e.word.op with
    | some k, some o =>
      if e.taken && e.result.isNone && sel o then
        match s.collE ctx e.word.imm k with
        | some cl => if cl.whole then some (e, cl) else none
        | none => none
      else none
    | _, _ => none
  match ready with
  | some (e, cl) =>
    if ctx = 0 || !(s.runE ctx).running then s
    else
      let s := if e.word.op == some .credNorm then s.finishNorm ctx c.val e cl else s.finishSum ctx c.val e cl
      (s.progress c.val 3).collEnd ctx cl.unit cl.k
  | none => s.takeHead c.val 2 sel (fun s ctx e o => cxeRest s c.val ctx e o) (joinColl c.val)

def execCred (c : CoreN) (s : State) : Out := .next (cxeTake c (· == .cred) s)
def execCredNorm (c : CoreN) (s : State) : Out := .next (cxeTake c (· == .credNorm) s)
def execCrsc (c : CoreN) (s : State) : Out := .next (cxeTake c (· == .crsc) s)
def execCbcs (c : CoreN) (s : State) : Out := .next (cxeTake c (· == .cbcs) s)
def execCa2a (c : CoreN) (s : State) : Out := .next (cxeTake c (· == .ca2a) s)

end Sys2Proof.Machine
end

