-- ==== Sys2Proof/Machine/SpanCmds.lean ====
section
/-! DEFINITION. Span links, admission, withdrawal and the end of span jobs (R297 to R317, R402, 14_span_cascade.md). -/

namespace Sys2Proof.Machine

/-- A mask with one module in it, or without it. -/
def maskPut (v : BitVec 16) (m : Nat) (on : Bool) : BitVec 16 :=
  if on then v ||| BitVec.ofNat 16 (2 ^ m) else v &&& ~~~(BitVec.ofNat 16 (2 ^ m))

/-- Whether a span job runs (R303). -/
def State.spanBusy (s : State) : Bool := s.jobs.any fun j => j.spans && j.phase == .running

/-- The UNC-class record of a link event with its two detail words. -/
def State.linkRec (s : State) (code d0 d1 : Nat) : State :=
  s.raiseRec { unit := s.modUid, cls := 1, code := BitVec.ofNat 8 code, d0 := BitVec.ofNat 64 d0, d1 := BitVec.ofNat 64 d1 }

/- Losing a module. -/

/-- One completion with PARTNER_WITHDRAWN: its record names the module in D0 (R313). -/
def State.goneRec (s : State) (unit : BitVec 32) (ctx opcode m : Nat) : State × Outcm :=
  let s := s.failRec unit ctx opcode 0x16 0 (BitVec.ofNat 64 m, 0, 0, 0)
  (s, { status := 0x16, esn := s.lastEsn })

/-- Every pending wait of a context, and every collective of the span that it takes part in, completes with PARTNER_WITHDRAWN; the first
of these failures is the context's (R310, R313). -/
def State.goneWaits (s : State) (c m : Nat) : State × Option Outcm :=
  let engine := fun (p : State × Option Outcm) (n : Nat) (e : QEntry × Nat) =>
    let (s, o) := p.1.goneRec (p.1.coreUid n) c e.1.word.opcode m
    (s.endEntry c n e.2 e.1.slot o, p.2.or (some o))
  let spans := fun (e : QEntry) => e.joined.isSome && (uidFields e.word.imm).level == 4
  let p := (s.coresOf c).foldl (fun (p : State × Option Outcm) n =>
    let k := p.1.coreE c n
    let l := [0, 1, 2].flatMap fun q => ((k.queue q).filter fun e =>
      e.result.isNone && ((e.waiting && !e.taken && !e.waitDone) || (e.taken && spans e))).map fun e => (e, q)
    l.foldl (fun p e => engine p n e) p) (s, none)
  (s.jobClusters c).foldl (fun (p : State × Option Outcm) k =>
    let q := p.1.seqE c k
    let stop := fun (p : State × Option Outcm) (opcode : Nat) (g : State → Outcm → State) =>
      let (s, o) := p.1.goneRec (p.1.clusUid k) c opcode m
      (g s o, p.2.or (some o))
    let p := match q.sync with
      | some e => if q.syncWait then stop p e.word.opcode fun s _ => s.seqM c k SeqCtx.leaveSync else p
      | none => p
    match q.run with
    | .waitQc _ _ _ => stop p 0 fun s o => s.seqFail c k o
    | .waitScalar _ _ _ => stop p 0 fun s o => s.seqFail c k o
    | _ => p) p

/-- The collectives of a context over the span are forgotten (R310). -/
def State.dropSpanColls (s : State) (ctx : Nat) : State :=
  { s.dropColls ctx with colls := s.colls.filter fun c => !(c.ctx == ctx && (uidFields c.unit).level == 4) }

/-- Whether a running span job is ending under R313 already. -/
def State.goneAlready (s : State) (j : Job) : Bool := (s.runE j.ctx).fault.any fun f => f.status == 0x16

/-- The span jobs that run here end: their waits complete and their contexts fault; the module that acts for the master moves them on every
module. A job that ends so already keeps its status, and no longer waits for module m (R313 to R315). -/
def State.endSpanJobs (s : State) (m : Nat) : State :=
  (s.jobs.filter fun j => j.spans && j.phase == .running).foldl (fun (s : State) j =>
    let s := s.jobM j.id fun j => { j with peers := j.peers.filter (· != m) }
    if s.goneAlready j then s
    else
      let (s, o) := s.goneWaits j.ctx m
      let (s, o) : State × Outcm := match o with
        | some o => (s, o)
        | none => s.goneRec s.modUid j.ctx 0 m
      let s := (s.dropSpanColls j.ctx).setFault j.ctx o
      if s.leads then s.moveAway j.ctx else s) s

/-- The answer to a read that another module had to make: over FMP to a session, else to the agent's register read (R308, R387). -/
def State.answerRead (s : State) (w : Writer) (x : BitVec 64) : State :=
  match w with
  | .mgmt i => if i.val < 8 then ((s.emit (.fmp i.val 0)).fmpSent i.val).emit (.fmpBody i.val [x]) else s.emit (.readData x)
  | _ => s.emit (.readData x)

/-- Forwarded accesses that a module has not answered are lost: each is recorded, and a read returns all ones (R308). -/
def State.dropForwards (s : State) (m : Nat) : State :=
  let mine := s.span.forwards.filter fun f => f.1 == m
  let s := { s with span := { s.span with forwards := s.span.forwards.filter fun (f : Nat × Nat × Writer × Bool) => f.1 != m } }
  mine.foldl (fun (s : State) f =>
    let s := s.infoAccess f.2.2.1 0 f.2.1 0
    if f.2.2.2 then s else s.answerRead f.2.2.1 (BitVec.allOnes 64)) s

/-- The record of a withdrawal: cause, link and module, and the span jobs that it ends here (Table 14-5). -/
def State.lossRec (s : State) (m cause l : Nat) : State :=
  let n := (s.jobs.filter fun j => j.spans && j.phase == .running && !(s.goneAlready j)).length
  s.raiseRec { unit := s.modUid, cls := 1, code := 0x60, d0 := reg [(cause, 16, 4), (l, 8, 4), (m, 0, 4)], d1 := reg [(n, 0, 32)] }

/-- A module of the span is marked WITHDRAWN: its link, code 0x60, the span jobs, and the span unit where it was the master; one
that is out already is counted once, and one that was not admitted only leaves (R311 to R315, Table 14-5). -/
def State.memberLost (s : State) (m cause : Nat) : State :=
  let l := s.linkTo m
  if bit s.span.withdrawn m then s
  else
    let was := bit s.span.admitted m
    let s := s.linkM l fun k => { k with state := 3, dropped := 0 }
    let s := { s with span := { s.span with
      admitted := maskPut s.span.admitted m false
      withdrawn := maskPut s.span.withdrawn m was
      peerState := tabSet s.span.peerState m 7
      withdrawals := s.span.withdrawals + (if was then 1 else 0)
      reset := s.span.reset || (was && m == s.masterIdx) } }
    let s := s.dropForwards m
    if !was then s
    else
      let s := s.lossRec m cause l
      let e := s.lastEsn
      (s.linkM l fun k => { k with lossEsn := e }).endSpanJobs m

/-- This module is out of its span at the word of its master, or because its link to another is DOWN: no module is admitted in its view
any more (R312). DESIGN CHOICE (notes/assumptions/10.md): it records its own withdrawal as the others do. -/
def State.selfLost (s : State) (cause l : Nat) : State :=
  if s.span.selfOut then s
  else
    let s := s.lossRec s.modIdx cause l
    ({ s with span := { s.span with selfOut := true, admitted := 0 } }).endSpanJobs s.modIdx

/-- A notice of the master to every admitted member about module m (Table 14-4). -/
def State.relay (s : State) (m cause : Nat) : State :=
  (maskList 16 s.span.admitted.toNat).foldl (fun (s : State) k =>
    if k = s.modIdx then s else s.emit (.spanC k 1 (noticeWord m cause))) s

/-- A link goes DOWN: between two admitted modules the master withdraws the one that is not the master, or that of the higher
index; it never trains again while both are in the span (R300, R301, R312). -/
def State.linkFails (s : State) (l cause : Nat) : State :=
  match s.linkPeer l with
  | none => s
  | some m =>
    if (s.linkE l).state ≠ 2 then s
    else
      let s := s.linkM l fun k => { k with state := 4, keyed := false }
      if !(bit s.span.admitted m) || !(bit s.span.admitted s.modIdx) then s
      else
        let out := if m = s.masterIdx then s.modIdx else if s.isMaster then m else max m s.modIdx
        if s.isMaster then (s.relay m cause).memberLost m cause
        else
          let s := if m = s.masterIdx then s else s.emit (.spanC s.masterIdx 15 (noticeWord out cause))
          if out = s.modIdx then s.selfLost cause l else s

/- Links. -/

/-- Whether a link can finish training: it is in TRAINING, or its peer, which is not in the span, comes back on a link that was WITHDRAWN,
DOWN or MISWIRED (R300, R316). -/
def State.mayTrain (s : State) (l m : Nat) : Bool :=
  let st := (s.linkE l).state
  s.spanMask.testBit m && (st == 1 || ((st == 3 || st == 4 || st == 5) && !(bit s.span.admitted m)))

/-- SPAN_LINK_TRAINED: the SECs prove each other, or code 0x63 and TRAINING; then the span identity is checked, or MISWIRED with
code 0x62; a module flagged REPLACE is shown MISWIRED; a module that comes back by bring-up is no longer expelled; a link
that sleeps trains once it is awake (R301, R302, R316, R317, R318, R402). -/
def execSpanLinkTrained (l : Fin 16) (proved : Bool) (spanId : BitVec 32) (index master : BitVec 4) (members : BitVec 16)
    (replace : Bool) (s : State) : Out :=
  let n := l.val
  let again := (s.linkE n).state ≠ 1
  .next (match s.linkPeer n with
  | none => s
  | some m =>
    if !(s.mayTrain n m) || s.asleep [linkDomain n] then s
    else if !proved && (again || !(s.linkE n).keyed) then
      (s.linkM n fun k => { k with state := 1, keyed := false }).linkRec 0x63 n 0
    else
      let s := s.linkM n fun k => { k with keyed := true }
      let img := s.boot.image
      if replace || s.health.replace then s.linkM n fun k => { k with state := 5 }
      else if spanId ≠ img.spanId || index.toNat ≠ m || master ≠ img.master || members ≠ img.members then
        (s.linkM n fun k => { k with state := 5 }).linkRec 0x62 s.modIdx index.toNat
      else
        let s := if again then { s with span := { s.span with expelled := maskPut s.span.expelled m false } } else s
        s.linkM n fun k => { k with state := 2, seqNo := 0, retried := none })

/-- LINK_HANDSHAKE_RETRY: the handshake of a link in TRAINING is tried again (R402). -/
def execLinkHandshakeRetry (l : Fin 16) (proved : Bool) (s : State) : Out :=
  let k := s.linkE l.val
  .next (
    if k.state ≠ 1 || k.keyed then s
    else if proved then s.linkM l.val fun k => { k with keyed := true }
    else s.linkRec 0x63 l.val 0)

/- Span jobs. -/

/-- A failure or cancellation of a span job on another module, `origin`, stops its shares here; the module that acts for the master tells
the others (R173, R309). -/
def State.stopIn (s : State) (job : Nat) (o : Outcm) (origin : Nat) : State :=
  match s.jobs.find? fun j => if j.master.isNone then s.leads && j.id == job else j.master == some job with
  | none => s
  | some j =>
    if !j.spans || j.phase ≠ .running || o.status.toNat < 0x10 || origin = s.modIdx then s
    else
      let s := s.jobM j.id fun k => { k with peerRes := firstFailure (k.peerRes.toList ++ [(origin, o)]), told := k.told || !s.leads }
      let s := if s.leads then s.tellStop j.ctx o origin else s
      if statusFaults o.status.toNat then s.setFault j.ctx o (some origin) else s.cancelJobs (fun k => k.id == j.id) o

/-- The end of module m's shares of a span job of this master, with the failure that it met (R172, R309). -/
def State.shareEndIn (s : State) (m job : Nat) (o : Outcm) (flagged : Bool) : State :=
  match s.jobs.find? fun j => j.master.isNone && j.id == job with
  | none => s
  | some j =>
    if !j.spans || j.phase ≠ .running then s
    else (s.jobM j.id fun k => { k with peers := k.peers.filter (· != m), flagged := k.flagged || flagged }).stopIn job o m

/-- SHARE_END_NOTICE: a member reports the end of its shares of a span job; a failure stops the other shares, and the lowest module
decides the status (R15, R173, R309). On a member it is the word of the module that acts for the master that the job has failed. -/
def execShareEndNotice (m : ModN) (job : Nat) (ended : ShareEnd) (flagged : Bool) (s : State) : Out :=
  let o : Outcm := { status := ended.status, cause := ended.cause, esn := ended.esn }
  .next (if s.leads then s.shareEndIn m.val job o flagged else if m.val = s.leader then s.stopIn job o m.val else s)

/- Flits. -/

/-- Payload bytes of what a flit carries: those of its data, 8 for a control message and for each listed index. -/
def flitSize (f : FlitLoad) : Nat :=
  match f with
  | .idle => 0
  | .write _ _ _ b _ | .data _ b | .tlw _ _ _ b | .chunk _ _ _ b _ | .part _ _ _ _ _ b => b.length
  | .fault _ _ _ _ => 24
  | .joined _ _ _ key wants => 8 + 8 * key.length + 8 * wants.length
  | .other n => n
  | .signal _ _ _ _ _ _ | .scset _ _ _ _ _ | .read _ _ _ _ | .differ _ _ _ | .epoch _ _ _ | .moveAsk _ _ | .queued _ _
  | .shareEnd _ _ _ _ _ | .stop _ _ _ _ _ | .state _ _ => 8

/-- A peer's SCSET: one counter of this module, or that of every present core beneath a unit (R199, R211). -/
def State.scsetIn (s : State) (unit : BitVec 32) (ctx ctr : Nat) (v : BitVec 16) (fan : Bool) (m : Nat) : State :=
  let u := uidFields unit
  let word := writerWord (.peer (Fin.ofNat 16 m)) unit
  if !(s.unitValid unit) || u.module ≠ s.modIdx then s
  else if fan then (s.coresUnder u).foldl (fun (s : State) n => s.setCtr ctx (s.coreUid n) ctr v word none) s
  else if ctr < ctrCount u then s.setCtr ctx unit ctr v word none else s

/-- An access of this module to a peer has failed there: its instruction ends with FAILED_FAULT, or its sequencer takes the load
exception, with the words of the fault (R269, R307). -/
def State.peerFault (s : State) (tag : BitVec 16) (d0 d1 d3 : BitVec 64) : State :=
  let t := tag.toNat
  if 0x8000 ≤ t then
    let cl := t - 0x8000
    let ctx := s.ctxOn cl
    if ctx = 0 || !(s.runsSpan ctx) then s
    else
      let pc := (s.seqE ctx cl).pc
      s.seqExc ctx cl 5 (d0.setWidth 32) pc (some (d0, d1, reg [(pc.toNat, 32, 32)], d3))
  else
    let ctx := s.entryCtx (t / 128) 2 (t % 128)
    match s.entryE ctx (t / 128) 2 (t % 128) with
    | some e => if e.taken && s.runsSpan ctx then s.failEntry ctx (t / 128) 2 e 0x10 0x07 (d0, d1, issueWord e 2, d3) else s
    | none => s

/-- What a flit of a peer does here (R173, R199, R204, R213, R215, R221, R224 to R228, R305 to R309). A peer's access goes through the
context's tables under its key domain and never on to a third module; its failure goes back (R297, R307). -/
def State.flitApply (s : State) (m : Nat) (f : FlitLoad) : State :=
  let back := fun (s : State) (tag : BitVec 16) (write : Bool) (e : AccErr) =>
    let (d0, d1, d3) := accDetail e write
    s.emit (.flit m .d (.fault tag d0 d1 d3))
  match f with
  | .signal unit ctx ctr inc epoch fan =>
    let g : Signal := { ctx := ctx.toNat, unit := unit, ctr := ctr.toNat, inc := inc, epoch := epoch }
    if !(s.unitValid unit) || (uidFields unit).module ≠ s.modIdx then s
    else if fan then s.fanout unit g
    else s.sendSignal g
  | .scset unit ctx ctr v fan => s.scsetIn unit ctx.toNat ctr.toNat v fan m
  | .write ctx epoch va bytes tag =>
    if epoch ≠ (s.ctxE ctx.toNat).epoch then s.dropStale none
    else match s.vaWrite { ctx := ctx.toNat, peer := true } va.toNat bytes with
      | (s, none) => s
      | (s, some e) => back s tag true e
  | .read ctx va n tag =>
    match s.vaRead { ctx := ctx.toNat, peer := true } va.toNat n with
    | (s, .ok b) => s.emit (.flit m .d (.data tag b))
    | (s, .error e) => back s tag false e
  | .data _ _ => s
  | .fault tag d0 d1 d3 => s.peerFault tag d0 d1 d3
  | .joined ctx unit k key wants => s.peerJoins { ctx := ctx.toNat, unit := unit, k := k, from_ := m, key := key, wants := wants }
  | .differ ctx unit k => s.peerJoins { ctx := ctx.toNat, unit := unit, k := k, from_ := m, differ := true }
  | .tlw _ _ _ _ | .chunk _ _ _ _ _ | .part _ _ _ _ _ _ => s.collWord m f
  | .epoch ctx ep forced => if m = s.leader && !s.leads then s.takeEpoch ctx.toNat ep forced else s
  | .moveAsk ctx forced => s.takeMoveAsk ctx.toNat forced
  | .queued ctx on => if m = s.leader then s.takeQueued ctx.toNat on else s
  | .shareEnd job status cause esn flagged => s.shareEndIn m job { status := status, cause := cause, esn := esn } flagged
  | .stop job status cause esn origin =>
    if s.leads || m = s.leader then s.stopIn job { status := status, cause := cause, esn := esn } origin.toNat else s
  | .state k st => { s with span := { s.span with peerState := tabSet s.span.peerState k.val st } }
  | .idle | .other _ => s

/-- FLIT_RECEIVE: CRC, sequence number and tag are checked; a flit that fails once is replayed, with every later one after it; one that
fails twice, or in its tag, takes the link DOWN; a good one is applied. What comes from a module that is out is discarded (R299 to R301,
R311, Table 14-8). -/
def execFlitReceive (l : Fin 16) (seq : Nat) (crcOk tagOk fec : Bool) (load : FlitLoad) (s : State) : Out :=
  let n := l.val
  let k := s.linkE n
  .next (match s.linkPeer n with
  | none => s
  | some m =>
    if k.state ≠ 2 then s
    else
      let s := if fec then s.linkM n fun k => { k with corrected := satAdd 0xFFFFFFFF k.corrected 1 } else s
      if seq = k.seqNo && crcOk && !tagOk then s.linkFails n 5
      else if seq = k.seqNo && crcOk then
        (s.linkM n fun k => { k with seqNo := k.seqNo + 1, retried := none, rxBytes := k.rxBytes + flitSize load }).flitApply m load
      else if k.retried = some k.seqNo then (if seq = k.seqNo then s.linkFails n 3 else s)
      else s.linkM n fun k => { k with retried := some k.seqNo, replays := satAdd 0xFFFF k.replays 1 })

def execLaneLockLoss (l : Fin 16) (s : State) : Out := .next (s.linkFails l.val 3)

/-- PEER_SILENCE: no valid flit for 2.0 µs on a peer's link (R311, Table 14-4). -/
def execPeerSilence (l : Fin 16) (s : State) : Out :=
  .next (match s.linkPeer l.val with
  | none => s
  | some m => if (s.linkE l.val).state = 2 then s.memberLost m 2 else s)

/-- WITHDRAWAL_NOTICE: a notice arrives on a link that is UP: of the peer itself, or of the module that acts for the master about another.
To that module it may report a link that is DOWN between two others, and it relays what it withdraws (R311, R312, Table 14-4). -/
def execWithdrawalNotice (l : Fin 16) (m : ModN) (cause : BitVec 4) (s : State) : Out :=
  let c := cause.toNat
  .next (match s.linkPeer l.val with
  | none => s
  | some p =>
    if (s.linkE l.val).state ≠ 2 then s
    else if s.leads then
      if m.val = s.modIdx || !(bit s.span.admitted m.val) then s
      else if (c = 3 || c = 5) && bit s.span.admitted p then (s.relay m.val c).memberLost m.val c
      else if p = m.val then s.memberLost m.val c
      else s
    else if p ≠ m.val && p ≠ s.leader then s
    else if m.val = s.modIdx then s.selfLost c l.val
    else s.memberLost m.val c)

/- Admission. -/

/-- A module is admitted with its present cores: it counts in every participant set from the next span job on (R303). -/
def State.admitMember (s : State) (m : Nat) (cores : BitVec 64) : State :=
  { s with span := { s.span with
    admitted := maskPut s.span.admitted m true, withdrawn := maskPut s.span.withdrawn m false
    peerState := tabSet s.span.peerState m 3, peerCores := tabSet s.span.peerCores m cores
    selfOut := s.span.selfOut && m != s.modIdx, reset := s.span.reset && m != s.masterIdx } }

/-- MEMBER_ADMIT: the master admits a member whose links to it and to every admitted member are UP, while no span job runs, and tells
every member; on a member, the notice of it. Whether the member has an EARLY die is seen on that member (R303, R306, R316, R415). -/
def execMemberAdmit (m : Newcomer) (s : State) : Out :=
  let ⟨m, cores, peersUp⟩ := m
  .next (
    if !s.inSpan || !(s.spanMask.testBit m.val) || bit s.span.admitted m.val then s
    else if s.isMaster then
      if !s.schUp || s.spanBusy || bit s.span.expelled m.val || !(bit s.span.admitted s.modIdx) || !peersUp ||
          (s.linkE (s.linkTo m.val)).state ≠ 2 then s
      else ((maskList 16 (s.admitMember m.val cores).span.admitted.toNat).foldl (fun (s : State) k =>
        if k = s.modIdx then s else s.emit (.spanC k 14 (BitVec.ofNat 64 m.val))) (s.admitMember m.val cores)).promote
    else s.admitMember m.val cores)

/-- A write of SPAN_CTL: the master's management port alone, of a member of the span (R317). -/
def State.spanCtl (s : State) (w : Writer) (op m : Nat) (act : State → State) : State :=
  if !(isMgmt w) || !s.isMaster || m = s.masterIdx || !(s.spanMask.testBit m) then
    s.infoAccess w spanUid 0x210 (reg [(m, 4, 4), (op, 0, 2)])
  else if s.hasRole w 1 then act s else s

/-- EXPEL: every member hears that m withdraws with cause 4 (R317). -/
def execExpel (w : Writer) (m : ModN) (s : State) : Out :=
  .next (s.spanCtl w 1 m.val fun s =>
    let s := (s.relay m.val 4).memberLost m.val 4
    { s with span := { s.span with expelled := maskPut s.span.expelled m.val true } })

/-- READMIT: an expelled module's link trains again (R316, R317). -/
def execReadmit (w : Writer) (m : ModN) (s : State) : Out :=
  .next (s.spanCtl w 2 m.val fun s =>
    if !(bit s.span.expelled m.val) then s
    else ({ s with span := { s.span with expelled := maskPut s.span.expelled m.val false } }).linkM (s.linkTo m.val)
      fun k => { k with state := 1, keyed := false })

end Sys2Proof.Machine
end

