-- ==== Sys2Proof/Machine/Mgmt.lean ====
section
/-! DEFINITION. The management port: FMP sessions and operations, accounts, function assignment, key-domain binding, firmware
loading, SPDM and PLDM answers (R377 to R401, 19_management_security.md). Cryptography is an operand: whether signatures
verify (notes/assumptions/6.md). -/

namespace Sys2Proof.Machine

/- Answers. -/

/-- An FMP response with its STATUS (Table 19-3). -/
def State.fmpAns (s : State) (id : Fin 8) (status : Nat) : State :=
  (s.emit (.fmp id.val (BitVec.ofNat 8 status))).fmpSent id.val

/-- An FMP request in an open session whose account holds the role; any other session's is answered DENIED. A session in which the
module has sent 2^32 records closes at its next request (R384, R386). -/
def State.fmpOp (s : State) (id : Fin 8) (role : Nat) (run : State → State) : State :=
  if !(s.mgmt.sessions.any fun e => e.id == id.val) then s
  else if s.mgmt.sessions.any fun e => e.id == id.val && decide (2 ^ 32 ≤ e.sent) then s.dropSessions (fun e => e.id == id.val) 5
  else if s.hasRole (.mgmt (id.castLE (by omega))) role then run s
  else s.fmpAns id 1

/- Sessions. -/

/-- An opening fails: code 0xB2, and the eighth failure of a source bars it (R384, R385). -/
def State.openFails (s : State) (source : Nat) : State :=
  let n := tabGet s.mgmt.failures source 0 + 1
  let s := { s with mgmt := { s.mgmt with failures := tabSet s.mgmt.failures source n
                                          barred := if 8 ≤ n then setIns s.mgmt.barred source else s.mgmt.barred } }
  s.raiseRec { unit := s.modUid, cls := 1, code := 0xB2, d1 := BitVec.ofNat 64 source }

/-- FMP_SESSION_OPEN: a client's proof is judged: signatures, account and lockout; at most 8 sessions; none while SEC is down, and
none with an empty account list (R384, R385, R388, R401, Table 18-2). -/
def execFmpSessionOpen (source : Nat) (account : String) (verified : Bool) (s : State) : Out :=
  let open_ := s.mgmt.sessions
  let free := (List.range 8).find? fun i => !(open_.any fun e => e.id == i)
  .next (match (if s.panel.aux && (s.procE 0).served then free else none) with
  | none => s
  | some i =>
    if s.mgmt.barred.contains source then
      s.raiseRec { unit := s.modUid, cls := 1, code := 0xB2, d1 := BitVec.ofNat 64 source }
    else match s.nvm.accounts.findIdx? fun a => a.name == account with
      | none => s.openFails source
      | some k =>
        if !verified then s.openFails source
        else
          let s := { s with mgmt := { s.mgmt with sessions := open_ ++ [({ id := i, account := account, source := source } : Sess)] } }
          s.info s.modUid 0xB0 0 k source)

/-- FMP_SESSION_IDLE: 600 s without a message (R385). -/
def execFmpSessionIdle (id : Fin 8) (s : State) : Out := .next (s.dropSessions (fun x => x.id == id.val) 2)

/-- FMP_LOCKOUT_EXPIRY: 60 s have passed for a source: it is no longer barred, and its failures no longer count (R385). -/
def execFmpLockoutExpiry (source : Nat) (s : State) : Out :=
  .next { s with mgmt := { s.mgmt with failures := tabDel s.mgmt.failures source, barred := setDel s.mgmt.barred source } }

/- The ledger stream. -/

/-- LEDGER_STREAM: the stream moves to this session, and every stored record is delivered in ESN order (R394). -/
def execLedgerStream (id : Fin 8) (s : State) : Out :=
  .next (s.fmpOp id 0 fun s =>
    let s := s.fmpAns id 0
    let s := match s.mgmt.stream with
      | some old => if old = id.val then s else s.fmpEvent old 0x10
      | none => s
    let s := s.led.recs.foldl (fun (s : State) r => (s.emit (.ledgerEvent id.val r.esn)).fmpSent id.val) s
    { s with mgmt := { s.mgmt with stream := some id.val }
             led := { s.led with recs := s.led.recs.map fun (r : Rec) => { r with delivered := true } } })

/-- LEDGER_ACK: every delivered record up to an ESN leaves the buffer (R394). -/
def execLedgerAck (id : Fin 8) (esn : BitVec 64) (s : State) : Out :=
  .next (s.fmpOp id 0 fun s =>
    ({ s with led := { s.led with recs := s.led.recs.filter fun r => !(r.delivered && r.esn ≤ esn.toNat) } }).fmpAns id 0)

/- Functions and key domains. -/

/-- Whether a range is one that a function may have: whole GiB, a size that R283 admits or none, within the present capacity, apart
from every other function's and from the firmware range (R283, R390). -/
def State.rangeFits (s : State) (f base size : Nat) : Bool :=
  base % 2 ^ 30 == 0 && size % 2 ^ 30 == 0 && base + size ≤ s.stackCap && apart base size s.firmBase (2 ^ 30) &&
  s.funcs.all fun p => p.1 == f || apart base size p.2.base p.2.size

/-- FUNC_ASSIGN: range, quota and CHECKF of one function, kept in the NVM log, with code 0xB6 (R390, R403). -/
def execFuncAssign (id : Fin 8) (f : FuncN) (base size : BitVec 52) (quota : BitVec 12) (checkf : BitVec 3) (s : State) : Out :=
  let n := f.val
  .next (s.fmpOp id 2 fun s =>
    let e := s.funcE n
    let moved := base.toNat ≠ e.base || size.toNat ≠ e.size
    if 5 < checkf.toNat || (moved && !(s.rangeFits n base.toNat size.toNat)) then s.fmpAns id 2
    else if moved && (e.dom.isSome || s.ctxCount n ≠ 0) then s.fmpAns id 5
    else
      let s := s.funcM n fun e => { e with
        base := base.toNat, size := size.toNat, quota := quota.toNat, checkf := checkf, assigned := true, enabled := true }
      let s := { s with nvm := { s.nvm with funcs := tabSet s.nvm.funcs n (base.toNat, size.toNat, quota.toNat, checkf) } }
      ((s.info s.modUid 0xB6 0 n 0).nvmCommit).fmpAns id 0)

/-- KD_BIND: a FREE domain is bound to a function with none; domain 0 is firmware's (R274, R391). -/
def execKdBind (id : Fin 8) (f : FuncN) (d : BitVec 8) (s : State) : Out :=
  let n := d.toNat
  .next (s.fmpOp id 2 fun s =>
    if n = 0 || (s.domE n).state ≠ 0 || (s.funcE f.val).dom.isSome then s.fmpAns id 5
    else
      let s := (s.domM n fun e => { e with state := 1 }).funcM f.val fun e => { e with dom := some n }
      let s := { s with nvm := { s.nvm with binds := tabSet s.nvm.binds f.val n } }
      ((s.info s.modUid 0xB5 0 n f.val).nvmCommit).fmpAns id 0)

/-- The function that a domain is bound to. -/
def State.domFunc (s : State) (d : Nat) : Option Nat := (s.funcs.find? fun p => p.2.dom == some d).map Prod.fst

/-- KD_RELEASE: a BOUND domain whose function has no context outside FREE becomes RETIRING: its keys are destroyed, fresh ones are
made, and the zero fill begins (R277, R391, Table 12-11). -/
def execKdRelease (id : Fin 8) (d : BitVec 8) (s : State) : Out :=
  let n := d.toNat
  .next (s.fmpOp id 2 fun s => match s.domFunc n with
    | none => s.fmpAns id 5
    | some f =>
      if (s.domE n).state ≠ 1 || s.ctxCount f ≠ 0 then s.fmpAns id 5
      else
        let e := s.funcE f
        let s := s.domM n fun x => { x with state := 2, gen := x.gen + 1, base := e.base, size := e.size, func := f }
        let s := { s with kdStat := { domain := d }, nvm := { s.nvm with binds := tabDel s.nvm.binds f } }
        (s.infoOther 0 0 0 (BitVec.ofNat 64 n)).nvmCommit.fmpAns id 0)

/-- The zero fill of a range under the keys of a domain, in class S; writes to a retired page are dropped (R253, R259, R277). -/
def State.freshZero (s : State) (a n dom : Nat) : State :=
  (((s.zeroBytes a n).stackClaim a n dom).countLines a n 3).keepRetired s a n

/-- KD_FILL_DONE: the zero fill of a RETIRING domain's range ends: the domain is FREE, its function has none, and every session hears
of it (R277, R391). -/
def execKdFillDone (d : BitVec 8) (s : State) : Out :=
  let n := d.toNat
  let e := s.domE n
  .next (
    if e.state ≠ 2 then s
    else
      let s := s.freshZero e.base e.size n
      let s := (s.domM n fun x => { x with state := 0, base := 0, size := 0, func := 0 }).funcM e.func fun f => { f with dom := none }
      let s := { s with kdStat := { s.kdStat with doneMib := if s.kdStat.domain = d then e.size / 2 ^ 20 else s.kdStat.doneMib } }
      (s.infoOther 0 0 0 (BitVec.ofNat 64 n)).fmpEventAll 0x21)

/- The configuration image and firmware. -/

/-- A new image's fields, but for the cullet list (R387, R406). -/
def State.putImage (s : State) (img : CfgImage) : State := s.writeImage fun c => { img with cull := c.cull }

/-- Whether every field of an image that management writes lies in its range (R404, Table 20-2). -/
def cfgFits (g : CfgImage) : Bool := 900 ≤ g.cap && g.cap ≤ 2600 && g.checkf.toNat ≤ 5

/-- CONFIG_WRITE: the image's fields are written; deferred while an emergency is in force (R387, R406). -/
def execConfigWrite (id : Fin 8) (img : CfgImage) (s : State) : Out :=
  .next (s.fmpOp id 2 fun s =>
    if !(cfgFits img) then s.fmpAns id 2
    else if s.pwr.emerg then
      ({ s with pwr := { s.pwr with deferred := s.pwr.deferred ++ [Defer.configWrite img] } }).fmpAns id 4
    else (s.putImage img).fmpAns id 0)

/-- The check of R377 that an image fails: 0 and 1 a signature, 2 the component, 3 the security version. -/
def State.imageFault (s : State) (comp slotComp : Nat) (svn : BitVec 8) (sigEd sigMl : Bool) : Option Nat :=
  if !sigEd then some 0 else if !sigMl then some 1 else if comp ≠ slotComp then some 2
  else if svn.toNat < s.mgmt.fuseF.toNat then some 3 else none

/-- FW_LOAD: a part of an image; after the last one, which says the image's component, SEC judges it and stages it in that component's
inactive bank; BUSY while another session's load runs (R377, R387). -/
def execFwLoad (id : Fin 8) (comp : Option (Fin 4)) (slotComp : Fin 4) (version : BitVec 16) (svn : BitVec 8) (digest : BitVec 384)
    (sigEd sigMl : Bool) (s : State) : Out :=
  .next (s.fmpOp id 3 fun s =>
    if s.mgmt.loading.any (· != id.val) then s.fmpAns id 3
    else match comp with
    | none => ({ s with mgmt := { s.mgmt with loading := some id.val } }).fmpAns id 0
    | some comp =>
      let s := { s with mgmt := { s.mgmt with loading := none } }
      match s.imageFault comp.val slotComp.val svn sigEd sigMl with
      | some k => (s.raiseRec { unit := s.modUid, cls := 1, code := 0xAB, d0 := BitVec.ofNat 64 k }).fmpAns id 5
      | none =>
        let s := s.imgM (!(s.bankOf comp.val)) comp.val fun _ =>
          { valid := true, version := version, svn := svn, digest := digest, staged := true }
        (s.info s.modUid 0xA8 0 comp.val version.toNat).fmpAns id 0)

/-- The processors of a component wait for their activation (R378). -/
def State.putOff (s : State) (comp : Nat) : State :=
  let s := (procsOf comp).foldl (fun (s : State) p =>
    if (s.procE p).state = 0 then s.procM p fun e => { e with state := 4 } else s) s
  if s.pwr.deferred.contains (Defer.activate comp) then s
  else { s with pwr := { s.pwr with deferred := s.pwr.deferred ++ [Defer.activate comp] } }

/-- FW_ACTIVATE: a staged component is activated; deferred by an emergency, with code 0xA9, and until phase 4 begins (R378, R387,
Table 20-4). -/
def execFwActivate (id : Fin 8) (comp : Fin 4) (s : State) : Out :=
  .next (s.fmpOp id 3 fun s =>
    if !(s.imgOf (!(s.bankOf comp.val)) comp.val).staged then s.fmpAns id 5
    else if s.pwr.emerg then ((s.putOff comp.val).info s.modUid 0xA9 0 comp.val 0).fmpAns id 4
    else if s.boot.phase < 4 then (s.putOff comp.val).fmpAns id 4
    else (s.fmpAns id 0).startActivation comp.val)

/-- FW_COMMIT: F rises to the SVN of the active image, where that exceeds it; F has 64 steps (R380). -/
def execFwCommit (id : Fin 8) (comp : Fin 4) (s : State) : Out :=
  .next (s.fmpOp id 3 fun s =>
    let v := min 64 (s.imgOf (s.bankOf comp.val) comp.val).svn.toNat
    if v ≤ s.mgmt.fuseF.toNat then s.fmpAns id 5
    else
      let s := { s with mgmt := { s.mgmt with fuseF := BitVec.ofNat 8 v } }
      (s.info s.modUid 0xAC 0 v 0).fmpAns id 0)

/-- Deferred operations take effect in their order; an activation waits further for phase 4 (R260, R378, R387). -/
def State.takeDeferred (s : State) : State :=
  let ops := s.pwr.deferred
  let wait := fun (d : Defer) => match d with | .activate _ => decide (s.boot.phase < 4) | _ => false
  let s' := { s with pwr := { s.pwr with deferred := ops.filter wait } }
  (ops.filter fun d => !(wait d)).foldl (fun (s : State) d => match d with
    | .persist => s
    | .configWrite img => (s.putImage img).fmpEventAll 0x22
    | .activate c => (s.fmpEventAll 0x31).startActivation c) s'

/-- EMERGENCY_END: 1 s after the last condition of R324 cleared, EMERG clears and deferred work goes on (R324, R387). -/
def execEmergencyEnd (s : State) : Out :=
  .next (
    if !s.pwr.emerg || s.pwr.hotNow then s
    else ({ s with pwr := { s.pwr with emerg := false } }).takeDeferred)

/-- PROC_RELEASE: a held processor is restarted; a CFC's cluster comes back once its reset is over (R368). -/
def execProcRelease (id : Fin 8) (p : ProcN) (s : State) : Out :=
  let n := p.val
  .next (s.fmpOp id 1 fun s =>
    if (s.procE n).state ≠ 2 then s.fmpAns id 5
    else
      let s := ((s.procM n fun e => { e with recent := [], fresh := none }).goDown n 1 (s.procE n).bank).fmpAns id 0
      if n < 3 then s
      else s.clusM (n - 3) fun c => { c with removed := false, inReset := takesIn s.rst.active 1 (n - 3) })

/- Power and grants. -/

/-- Main power reaches the module: the hub powers up and phase 1 runs, once phase 0 has ended (R407, R421). -/
def State.mainArrives (s : State) : State :=
  let s := { s with pwr := { s.pwr with mainOn := true } }
  if s.boot.ended.contains 0 && !s.boot.halted then
    State.noted { s with boot := { s.boot with phase := 1 }, health := { s.health with state := 1, dieState := [1, 1, 1, 1] } } s
  else s

/-- MAIN_POWER_ON: after a critical trip or a latch path, main power returns to a present module with its latch closed, as a warm
reset (R328, R421, R429, Table 18-4). -/
def execMainPowerOn (id : Fin 8) (s : State) : Out :=
  .next (s.fmpOp id 1 fun s =>
    if !(s.pwr.tripped || s.panel.latchDone) || s.pwr.mainOn || s.panel.latchPath ||
        !(s.panel.pres0 && s.panel.pres1 && s.panel.latch) then s.fmpAns id 5
    else
      let s := { s with pwr := { s.pwr with tripped := false }, panel := { s.panel with latchDone := false } }
      ((s.resetRec 6 0).mainArrives).fmpAns id 0)

/-- RESET_GRANT (R393). -/
def execResetGrant (id : Fin 8) (on : Bool) (s : State) : Out :=
  .next (s.fmpOp id 1 fun s => ({ s with mgmt := { s.mgmt with resetGrant := on } }).fmpAns id 0)

/-- DEBUG_GRANT: debug of one function, with code 0xB4; refused where the image's policy is NODEBUG (R392, Table 20-2). -/
def execDebugGrant (id : Fin 8) (f : FuncN) (on : Bool) (s : State) : Out :=
  .next (s.fmpOp id 4 fun s =>
    if s.boot.image.nodebug then s.fmpAns id 5
    else ((s.funcM f.val fun e => { e with debug := on }).info s.modUid 0xB4 0 f.val (b2n on)).fmpAns id 0)

/- Dumps. -/

/-- The dumps that management sees, by index: those in the dump area, then committed ones that have left it (R376). -/
def State.dumps (s : State) : List Dump :=
  let here := s.crust.dumps.filter fun d => !d.open_
  here ++ s.crust.nvmDumps.filter fun d => !(here.any fun e => e.index == d.index)

/-- DUMP_LIST: index, domain, flags, size and unit of each dump (R374, R376). -/
def execDumpList (id : Fin 8) (s : State) : Out :=
  .next (s.fmpOp id 4 fun s =>
    (s.fmpAns id 0).emit (.fmpBody id.val (s.dumps.map fun d =>
      reg [(d.unit.toNat, 32, 32), (b2n d.incomplete + 2 * b2n d.pinned + 4 * b2n d.committed, 24, 8), (d.domain.toNat, 16, 8),
           (d.index, 0, 16)])))

/-- Bytes as 64-bit words of a message body. -/
def bodyWords (b : List (BitVec 8)) : List (BitVec 64) := (chunksOf 8 b).map fun c => BitVec.ofNat 64 (bytesNat c)

/-- DUMP_READ: the bytes of a dump (R376, Table 18-6). -/
def execDumpRead (id : Fin 8) (index : Nat) (s : State) : Out :=
  .next (s.fmpOp id 4 fun s => match s.dumps.find? fun d => d.index == index with
    | none => s.fmpAns id 6
    | some d => (s.fmpAns id 0).emit (.fmpBody id.val (bodyWords d.bytes)))

/-- DUMP_PIN (R374). -/
def execDumpPin (id : Fin 8) (index : Nat) (on : Bool) (s : State) : Out :=
  let pin := fun (l : List Dump) => l.map fun (d : Dump) => if d.index = index && !d.open_ then { d with pinned := on } else d
  .next (s.fmpOp id 4 fun s =>
    if !(s.dumps.any fun d => d.index == index) then s.fmpAns id 6
    else ({ s with crust := { s.crust with dumps := pin s.crust.dumps, nvmDumps := pin s.crust.nvmDumps } }).fmpAns id 0)

/- Accounts. -/

/-- The account list changes: it is committed with code 0xB3 (R385, R389). -/
def State.putAccounts (s : State) (l : List Account) : State :=
  (({ s with nvm := { s.nvm with accounts := l } }).info s.modUid 0xB3 0 l.length 0).nvmCommit

/-- ACCOUNT_ADD: a new account, or a replaced one of that name; at most 16, with names of at most 32 bytes (R385, R389). -/
def execAccountAdd (id : Fin 8) (a : Account) (s : State) : Out :=
  .next (s.fmpOp id 5 fun s =>
    let l := s.nvm.accounts
    if 32 < a.name.utf8ByteSize then s.fmpAns id 2
    else if l.any fun e => e.name == a.name then
      (s.putAccounts (l.map fun e => if e.name = a.name then a else e)).fmpAns id 0
    else if 16 ≤ l.length then s.fmpAns id 5
    else (s.putAccounts (l ++ [a])).fmpAns id 0)

/-- ACCOUNT_REMOVE: the last account with SECURITY stays; a removed account's sessions close after the response (R389). -/
def execAccountRemove (id : Fin 8) (name : String) (s : State) : Out :=
  .next (s.fmpOp id 5 fun s =>
    let l := s.nvm.accounts
    let rest := l.filter fun e => e.name != name
    if rest.length = l.length then s.fmpAns id 6
    else if (l.any fun e => e.name == name && bit e.roles 5) && !(rest.any fun e => bit e.roles 5) then s.fmpAns id 5
    else ((s.putAccounts rest).fmpAns id 0).dropSessions (fun x => x.account == name) 3)

/-- ACCOUNT_CLEAR: waits for a touch of the identify pad (R389). -/
def execAccountClear (id : Fin 8) (s : State) : Out :=
  .next (s.fmpOp id 5 fun s => ({ s with mgmt := { s.mgmt with clearPending := true } }).fmpAns id 0)

/-- ACCOUNT_CLEAR_LAPSE: 30 s without a touch (R389). -/
def execAccountClearLapse (s : State) : Out := .next { s with mgmt := { s.mgmt with clearPending := false } }

/-- The clear takes effect: every account goes, every debug grant is revoked, every session closes (R389). -/
def State.clearAccounts (s : State) : State :=
  let s := { s with mgmt := { s.mgmt with clearPending := false }
                    funcs := s.funcs.map fun (p : Nat × Func) => (p.1, { p.2 with debug := false }) }
  (s.putAccounts []).dropSessions (fun _ => true) 4

/-- ENROLMENT: an empty list takes one account with every role, over I3C (R388). -/
def execEnrolment (a : Account) (s : State) : Out :=
  .next (
    if !s.nvm.accounts.isEmpty || 32 < a.name.utf8ByteSize || !s.panel.aux then s
    else (({ s with nvm := { s.nvm with accounts := [{ a with roles := 0x3F }] } }).info s.modUid 0xBB 0 0 0).nvmCommit)

/- Attestation. -/

/-- One block of the measurement report: INDEX, STATE (0 RUNNING, 1 STAGED, 2 RESETTING), processors that run the image, processors
of the component, and its digest (R398 to R400, Table 19-6). -/
structure Block where
  index : Nat := 0
  state : Nat := 0
  running : Nat := 0
  count : Nat := 0
  digest : BitVec 384 := 0
  deriving DecidableEq, Repr, Inhabited

/-- Whether a processor serves the image of a bank. -/
def State.serves (s : State) (p : Nat) (bank : Bool) : Bool := (s.procE p).served && (s.procE p).bank == bank

/-- Whether a processor is restarting, activating, held or inside a reset domain (R400). A processor that waits its turn in an
activation still serves. -/
def State.procResets (s : State) (p : Nat) : Bool := !(s.procE p).served || (3 ≤ p && (s.clusE (p - 3)).inReset)

/-- The block of a component's active bank (R398, R400). -/
def State.ownBlock (s : State) (c : Nat) : Block :=
  let l := procsOf c
  let bank := s.bankOf c
  let act := l.any fun p => s.procResets p || (s.procE p).state == 3
  { index := 2 + c, state := if act then 2 else 0, running := (l.filter fun p => s.serves p bank).length, count := l.length
    digest := (s.imgOf bank c).digest }

/-- The block of its other bank, present while that image is STAGED or still runs (R398, R400). -/
def State.otherBlock (s : State) (c : Nat) : Option Block :=
  let l := procsOf c
  let bank := !(s.bankOf c)
  let n := (l.filter fun p => s.serves p bank).length
  let st := (s.imgOf bank c).staged
  if st || n ≠ 0 then
    some { index := 0x12 + c, state := b2n st, running := n, count := l.length, digest := (s.imgOf bank c).digest }
  else none

/-- The digest of the security state: F, the account list's public keys and roles, and the debug grants (Table 19-6). -/
def State.securityState (s : State) : BitVec 384 :=
  Config.securityDigest s.mgmt.fuseF.toNat (s.nvm.accounts.map fun a => (a.ed, a.mldsa, a.roles))
    ((s.funcs.filter fun (p : Nat × Func) => p.2.debug).map Prod.fst)

/-- The blocks of a report from one snapshot (R398). -/
def State.blocks (s : State) : List Block :=
  [{ index := 1, digest := Config.romDigest }] ++ (List.range 4).map s.ownBlock ++
    [{ index := 6, digest := Config.imageDigest s.boot.image }, { index := 7, digest := s.securityState }] ++ (List.range 4).filterMap s.otherBlock

/-- The bytes of a report over some blocks: each INDEX with its digest, the state table of element 1, the ML-DSA-65 signature of
element 2 and the Ed25519 signature, free values both; the framing of SPDM 1.3 around them is not modelled (R398, R399). -/
def State.report (s : State) (l : List Block) : State × List (BitVec 8) :=
  let body := l.flatMap fun b => [BitVec.ofNat 8 b.index] ++ natBytes 48 b.digest.toNat
  let table := l.flatMap fun b => [b.index, b.state, b.running, b.count].map fun n => BitVec.ofNat 8 n
  let (s, sig) := s.freeBytes (3309 + 64)
  (s, body ++ table ++ sig)

/-- MEASURE: the signed report over all blocks (R398, R399). -/
def execMeasure (id : Fin 8) (s : State) : Out :=
  .next (s.fmpOp id 0 fun s =>
    let (s, b) := s.report s.blocks
    (s.fmpAns id 0).emit (.fmpBody id.val (bodyWords b)))

/-- An SPDM request is answered by `run` while SEC serves, with Busy while it activates, with Unspecified while it restarts, each with
code 0xB8, or is held; PF0's mailbox needs the host link, and a bring-up that halted without SEC has no answer (R397, R401, R418). -/
def State.spdmAsk (s : State) (doe : Bool) (run : State → State) : State :=
  let e := s.procE 0
  if !s.panel.aux || (doe && !s.sch.hostLink) || (s.boot.halted && !e.served) then s
  else if e.served then run s
  else if s.mgmt.spdmBusy then s.emit (.spdm true none)
  else
    let s := s.emit (.spdm false none)
    if e.state = 2 then s else s.info s.modUid 0xB8 0 (b2n doe) 0

/-- The positions that the identity extension lists: D0 to D3, the hub and the base dies of the present stacks (R396). -/
def State.diePositions (s : State) : List Nat := [0, 1, 2, 3, 4] ++ (maskList 20 s.part.stackMap.toNat).map (16 + ·)

/-- The identity extension of Table 19-5; texts lie with their first character at the lowest byte. -/
def State.identityExt (s : State) : List (BitVec 8) :=
  let i := s.ident
  natBytes 16 i.serial.toNat ++ [BitVec.ofNat 8 (b2n s.part.gnx16), i.stepping, BitVec.ofNat 8 s.diePositions.length] ++
  s.diePositions.flatMap fun p =>
    let d := tabGet i.dies p {}
    [BitVec.ofNat 8 p] ++ natBytes 8 d.lot.toNat ++ [d.wafer, d.dieX, d.dieY, d.fab]

/-- The certificate chain of a slot, 0 Ed25519 and 1 ML-DSA-65: Rolry root, intermediate, DeviceID, Alias (R395). -/
def State.certChain (s : State) (slot : Nat) : List Cert :=
  [{ layer := 0, key := Config.rolryKey 0 slot }, { layer := 1, key := Config.rolryKey 1 slot },
   { layer := 2, key := (s.ident.device.getD slot {}).pub, ext := .identity s.identityExt },
   { layer := 3, key := (s.ident.aliasKey.getD slot {}).pub, ext := .tcbInfo s.ident.tcbDigest s.ident.tcbSvn }]

/-- SPDM_REQUEST: GET_CERTIFICATE is answered with the chain of slot 0 or 1, and no other slot has one; the bytes of every other answer
are SEC's, free bytes of a free length (R395, R397, notes/assumptions/11.md, 42.md). -/
def execSpdmRequest (doe : Bool) (ask : SpdmAsk) (s : State) : Out :=
  .next (s.spdmAsk doe fun s =>
    match ask with
    | .certificate slot => s.emit (if slot < 2 then .certs slot (s.certChain slot) else .spdm false none)
    | .other _ =>
      let (s, b) := ({ s with free := s.free + 1 } : State).freeBytes (Config.freeLen s.free)
      s.emit (.spdm false (some b)))

/-- SPDM_MEASUREMENTS: all blocks, or one; an index that no block has is an error (R397 to R400). -/
def execSpdmMeasurements (doe : Bool) (block : Option (BitVec 8)) (s : State) : Out :=
  .next (s.spdmAsk doe fun s =>
    let l := match block with | none => s.blocks | some i => s.blocks.filter fun b => b.index == i.toNat
    if l.isEmpty then s.emit (.spdm false none)
    else
      let (s, b) := s.report l
      s.emit (.spdm false (some b)))

/- PLDM. -/

/-- The hottest stack's report (Table 15-10). -/
def Pwr.stackMax (p : Pwr) : Nat := (p.stackT.map Prod.snd).foldl max 0

/-- The PLDM sensors, numbered as R383 lists them; 9 and 10 are the state sensors STATE and REPLACE (R383). -/
def State.pldmSensor (s : State) (n : Nat) : Option Nat :=
  match n with
  | 0 | 1 | 2 | 3 => some (s.pwr.tj.getD n 0)
  | 4 => some s.pwr.stackMax
  | 5 => some s.pwr.inlet
  | 6 => some s.pwr.flow
  | 7 => some s.pwr.power
  | 8 => some s.pwr.energy
  | 9 => some s.health.state.toNat
  | 10 => some (b2n s.health.replace)
  | _ => none

/-- PLDM_REQUEST: a Type 2 reading of a sensor, or a Type 0 request, whose answer the spec leaves to PLDM. Without SEC only the state
sensors answer (R383, R418). -/
def execPldmRequest (type2 : Bool) (sensor : Nat) (s : State) : Out :=
  .next (
    if !s.panel.aux then s
    else if !type2 then let (s, w) := s.freeWord64; s.emit (.pldm 255 w.toNat)
    else if s.boot.halted && !(s.procE 0).served && sensor < 9 then s
    else match s.pldmSensor sensor with
      | some v => s.emit (.pldm sensor v)
      | none => s)

end Sys2Proof.Machine
end

