-- ==== Sys2Proof/Machine/BringUp.lean ====
section
/-! DEFINITION. Bring-up: its phases, self-test, stack join and failure (R403 to R418, 20_bring_up.md). -/

namespace Sys2Proof.Machine

/-- The record of a phase that ends (R409). -/
def State.phaseEnds (s : State) (n : Nat) : State :=
  let s := { s with boot := { s.boot with ended := s.boot.ended ++ [n] } }
  s.info s.modUid 0xAE 0 n 0

/-- Bring-up fails: code 0xAF names the phase, if SEC runs, and bring-up halts there (R418). -/
def State.bringUpFails (s : State) : State :=
  let s := { s with boot := { s.boot with halted := true } }
  if (s.procE 0).served then
    s.raiseRec { unit := s.modUid, cls := 3, code := 0xAF, d0 := BitVec.ofNat 64 s.boot.phase }
  else s

/-- Whether main power may reach the module: it is present with its latch closed, and neither a critical trip nor a latch path keeps it
off (R328, R421, R429). -/
def State.mayPower (s : State) : Bool :=
  s.panel.pres0 && s.panel.pres1 && s.panel.latch && s.panel.aux && !s.pwr.tripped && !s.panel.latchDone && !s.panel.latchPath

/- Phase 0. -/

/-- What the log and the image give a function: its assignment, or the image's CHECKF (R403, Table 20-2); its bound domain. -/
def State.loadFuncs (s : State) : State :=
  (List.range 32).foldl (fun (s : State) f =>
    let e : Func := match tabFind s.nvm.funcs f with
      | some (b, n, q, c) => { base := b, size := n, quota := q, checkf := c, assigned := true, enabled := true }
      | none => { checkf := s.boot.image.checkf, enabled := f == 0 }
    let dom := tabFind s.nvm.binds f
    let s := s.funcM f fun _ => { e with dom := dom }
    match dom with
    | some d => s.domM d fun x => { x with state := 1 }
    | none => s) s

/-- The image in use is read: the valid copy of higher GENERATION, or the defaults with code 0xB9; it sets the banks, the cullet list,
the cap and the interleave (R260, R405). -/
def State.readImage (s : State) : State :=
  let n := s.nvm
  let img := n.newest
  let none_ := !n.copy0.valid && !n.copy1.valid
  let s := { s with
    boot := { s.boot with image := img, dflt := none_, copy := !none_ && (!n.copy0.valid || (n.copy1.valid && n.copy0.gen ≤ n.copy1.gen)) }
    mem := { s.mem with cullet := img.cull, persisted := img.cull.length }
    pwr := { s.pwr with cap := img.cap, effective := img.cap, fixed := img.fixed }
    sch := { s.sch with interleave := img.interleave }
    mgmt := { s.mgmt with imageGen := img.gen } }
  let s := (List.range 19).foldl (fun (s : State) p => s.procM p fun e => { e with bank := bit img.banks (compOf p), fresh := some 0 }) s
  if none_ then s.raiseRec { unit := s.modUid, cls := 1, code := 0xB9 } else s

/-- The image of a component fails in the bank that the configuration image names: its bank bit is switched, its processors start from
the other bank, and code 0xA7 (R379, R418). -/
def State.bootFallback (s : State) (comp : Nat) : State :=
  let back := !(s.bankOf comp)
  let s := s.writeImage fun c => { c with banks := setBits c.banks comp comp (b2n back) }
  let s := (procsOf comp).foldl (fun (s : State) p => s.procM p fun e => { e with bank := back, fresh := none }) s
  s.raiseRec { unit := s.modUid, cls := 1, code := 0xA7, d0 := BitVec.ofNat 64 comp }

/-- BRINGUP_PHASE_0: auxiliary power is there: SEC, the firmware, the image, the log's contents, the management interfaces; phase 1
follows where main power is there too; a component whose image fails in the bank that the image names (`bad`) starts from the other;
without a SEC image in any bank bring-up halts (R379, R395, R403 to R409, R418, R430). -/
def execBringupPhase0 (t : BitVec 16) (sec : Option (BitVec 4)) (s : State) : Out :=
  .next (
    if s.boot.ended.contains 0 || s.boot.halted then s
    else
      let s := { s with panel := { s.panel with aux := true } }
      match sec with
      | none => (s.procM 0 fun e => { e with served := false, state := 2 }).bringUpFails
      | some bad =>
        let s := s.info s.modUid 0x97 0 (b2n s.panel.latch) 0
        let s := s.readImage.loadFuncs
        let s := ((maskList 4 bad.toNat).foldl State.bootFallback s).secStarts
        let s := State.noted { s with
          health := { s.health with replace := s.nvm.replace, replaceNvm := true }
          mgmt := { s.mgmt with ethUp := true, i3cUp := true }
          panel := { s.panel with holdup := true }
          boot := { s.boot with p0 := t } } s
        let s := s.phaseEnds 0
        if s.pwr.mainOn then s.mainArrives else s)

/- Phases 1 to 4. -/

/-- Whether phase n is under way. -/
def State.inPhase (s : State) (n : Nat) : Bool :=
  s.boot.phase == n && !(s.boot.ended.contains n) && !s.boot.halted && s.pwr.mainOn

/-- The module's STATE moves on in bring-up, but a drain's stays (Tables 20-3, 20-4). -/
def State.upTo (s : State) (st : BitVec 4) : State :=
  if s.health.state.toNat ≤ 2 then (s.setStateAll st).freshDies else s.freshDies

/-- BRINGUP_PHASE_1: the hub is powered and the host port is ready; a module with REPLACE set stops here, in REPLACE (R350, R407, R408,
R417). -/
def execBringupPhase1 (t : BitVec 16) (s : State) : Out :=
  .next (
    let s := if !s.pwr.mainOn && s.mayPower && s.boot.ended.contains 0 then s.mainArrives else s
    if !(s.inPhase 1) then s
    else
      let s := ({ s with boot := { s.boot with p1 := t, configUp := true } }).phaseEnds 1
      if s.health.replace then s.setStateAll 6
      else { s with boot := { s.boot with phase := 2 } })

/-- A core or a cluster is left out after self-test, with code 0xAD; which memory failed the model does not know: a free value (R410). -/
def State.leaveOut (s : State) (unit : BitVec 32) (cores : List Nat) : State :=
  let (s, w) := s.freeWord64
  let s := { s with part := { s.part with failedCores := cores.foldl (fun v n => v ||| BitVec.ofNat 64 (2 ^ n)) s.part.failedCores }
                    boot := { s.boot with coresFailed := s.boot.coresFailed + cores.length } }
  s.raiseRec { unit := unit, cls := 1, code := 0xAD, d0 := BitVec.ofNat 64 unit.toNat, d1 := w }

/-- BRINGUP_PHASE_2: the compute dies at point code 3, self-test, and EARLY where the image offers it; a failing hub memory halts
(R410, R415, R416, R418). -/
def execBringupPhase2 (t : BitVec 16) (badCores : BitVec 64) (badClusters : BitVec 16) (badHub : Bool) (s : State) : Out :=
  .next (
    if !(s.inPhase 2) then s
    else if badHub then s.bringUpFails
    else
      let s := (List.range 16).foldl (fun (s : State) k =>
        if bit badClusters k && s.clusPresent k then s.leaveOut (s.clusUid k) (s.clusCores k) else s) s
      let s := (List.range 64).foldl (fun (s : State) n =>
        if bit badCores n && s.corePresent n then s.leaveOut (s.coreUid n) [n] else s) s
      let s := { s with pwr := { s.pwr with point := [3, 3, 3, 3] }, boot := { s.boot with p2 := t, tableInPool := true } }
      let s := s.phaseEnds 2
      let s := { s with boot := { s.boot with phase := 3 } }
      s.upTo (if s.boot.image.early then 2 else 1))

/-- BRINGUP_PHASE_3: every channel of the present stacks trains (R411). -/
def execBringupPhase3 (s : State) : Out :=
  .next (
    if !(s.inPhase 3) || !s.mem.chan.isEmpty then s
    else
      let ch : List (Nat × Chan) := s.stackList.flatMap fun st => (List.range 128).map fun ch => (128 * st + ch, { state := 1 })
      { s with mem := { s.mem with chan := ch } })

/-- Every channel of a stack in a state. -/
def State.stackChans (s : State) (st : Nat) (v : BitVec 4) : State :=
  let f := fun (p : Nat × Chan) => if p.1 / 128 = st then (p.1, { p.2 with state := v }) else p
  { s with mem := { s.mem with chan := s.mem.chan.map f } }

/-- Whether a stack trains or is being initialised. -/
def State.training (s : State) (st : Nat) : Bool :=
  s.inPhase 3 && bit s.part.stackMap st && !s.mem.chan.isEmpty && !(bit s.boot.joined st) && !(bit s.boot.failed st)

/-- The ranges whose every present stack has joined (R412). -/
def State.opened (s : State) : BitVec 4 :=
  let ok := fun (l : List Nat) => !l.isEmpty && l.all fun st => bit s.boot.joined st
  if s.sch.interleave then (if ok s.stackList then 0xF else 0)
  else BitVec.ofNat 4 (listMask ((List.range 4).filter fun d => ok (s.stackList.filter fun st => st / 5 == d)))

/-- The initialising write of the ranges that have opened since: every line under domain 0, then those of each bound range under its
domain (R411). -/
def State.openFills (s : State) (before : BitVec 4) : State :=
  let open_ := fun (v : BitVec 4) (k : Nat) => if s.sch.interleave then v == 0xF#4 else bit v k
  let fresh := s.regions.zipIdx.filter fun p => open_ s.boot.open_ p.2 && !(open_ before p.2)
  fresh.foldl (fun (s : State) p =>
    let base := p.1.2.1
    let top := base + p.1.2.2
    (s.funcs.map Prod.snd).foldl (fun (s : State) (e : Func) =>
      let lo := max base e.base
      let hi := min top (e.base + e.size)
      match e.dom with
      | some d => if lo < hi then s.stackClaim lo (hi - lo) d else s
      | none => s) (s.stackClaim base p.1.2.2 0)) s

/-- STACK_JOIN: the stack's last line is written: every line is zero under its range's domain, code 0x45, and ranges open: their dies
leave EARLY, and the context table moves to the firmware range once that is open (R411, R412, R416). -/
def execStackJoin (st : Fin 20) (s : State) : Out :=
  let n := st.val
  .next (
    if !(s.training n) then s
    else
      let s := s.stackChans n 2
      let s := s.info (s.dieUid (n / 5)) 0x45 0 n 0
      let s := { s with boot := { s.boot with joined := s.boot.joined ||| BitVec.ofNat 20 (2 ^ n) } }
      let s := ({ s with boot := { s.boot with open_ := s.opened } } : State).openFills s.boot.open_
      let s := { s with boot := { s.boot with tableInPool := s.boot.tableInPool && !s.firmOpen } }
      s.freshDies)

/-- STACK_FAIL: a channel fails training or a pattern: code 0x46, FAILED, and every channel of the stack LOST (R414). -/
def execStackFail (st : Fin 20) (ch : Fin 128) (step : BitVec 8) (s : State) : Out :=
  let n := st.val
  .next (
    if !(s.training n) then s
    else
      let s := s.stackChans n 3
      let s := { s with boot := { s.boot with failed := s.boot.failed ||| BitVec.ofNat 20 (2 ^ n) } }
      s.raiseRec { unit := s.dieUid (n / 5), cls := 1, code := 0x46
                   d0 := reg [(step.toNat, 32, 8), (ch.val, 16, 7), (n, 0, 5)] })

/-- BRINGUP_PHASE_4: every present stack has joined or failed: SERVICE, links train, a master with no EARLY die admits itself, and
activations that waited begin (R378, R415, R417). -/
def execBringupPhase4 (t : BitVec 16) (s : State) : Out :=
  .next (
    if !(s.inPhase 3) || !(s.stackList.all fun st => bit s.boot.joined st || bit s.boot.failed st) then s
    else
      let s := s.phaseEnds 3
      let s := { s with boot := { s.boot with phase := 4, p4 := t } }
      let s := s.upTo 3
      let s := (List.range 16).foldl (fun (s : State) l => if s.linkStart l = 0 then s else s.linkM l fun _ => { state := 1 }) s
      let s := if s.isMaster && (s.boot.open_ == 0xF#4) then s.admitMember s.modIdx s.presentCores else s
      let s := if s.pwr.emerg then s else s.takeDeferred
      s.promote)

/-- BRINGUP_TIMEOUT: the phase under way overruns its limit; a link that waits for its peer in phase 4 never does. Whether SEC runs when
phase 0 overruns nothing states: a free bit (R407, R417, R418). -/
def execBringupTimeout (s : State) : Out :=
  .next (
    let p := s.boot.phase
    let under := if p = 0 then s.panel.aux && !s.boot.halted && !(s.boot.ended.contains 0) else p < 4 && s.inPhase p
    if !under then s
    else if p = 0 then
      let (s, w) := s.freeWord64
      (s.procM 0 fun e => { e with served := bit w 0 }).bringUpFails
    else s.bringUpFails)

end Sys2Proof.Machine
end

