-- ==== Sys2Proof/Machine/Panel.lean ====
section
/-! DEFINITION. The service panel and hot swap: latch, presence, drain button, identify (R421 to R430, 21_module_hardware.md). -/

namespace Sys2Proof.Machine

/-- Whether the module is DRAINED or in REPLACE, where it may be pulled (R425). -/
def State.pullable (s : State) : Bool := s.health.state = 5 || s.health.state = 6

/-- The DEGRADED flag of the module's light: a failed or lost part (R18, R414, R422). -/
def State.partLost (s : State) : Bool :=
  s.boot.failed != 0 || s.part.failedCores != 0 || s.clus.any (fun p => p.2.removed || p.2.inReset) ||
  s.phys.any (fun p => p.2.inReset) || s.dies.any (fun p => p.2.inReset) || s.mem.chan.any (fun p => p.2.state == 3)

/-- The light code: the first row of Table 21-3 whose condition holds; 0 without auxiliary power (R422). -/
def State.light (s : State) : Nat :=
  if !s.panel.aux then 0
  else if s.pwr.tripped && (!s.pwr.mainOn || s.panel.latchPath) then 6
  else if s.health.replace then 4
  else if s.health.state = 5 || s.panel.latchDone then 3
  else if s.health.state = 4 then 2
  else if s.boot.phase < 4 || s.boot.halted || s.panel.pres0 != s.panel.pres1 || (!s.panel.latch && !s.pwr.mainOn) then 5
  else 1

/-- LATCH_OPEN: a drained module goes off with code 0x95 and keeps its light; any other runs the latch path: code 0x94, notices, no
more work, a module dump, whose end brings the rest (R425, R426, R429). -/
def execLatchOpen (s : State) : Out :=
  .next (
    if !s.panel.latch then s
    else
      let s := { s with panel := { s.panel with latch := false } }
      if s.panel.latchPath || !s.panel.aux then s
      else if s.pullable then
        let s := s.info s.modUid 0x95 0 1 0
        let h := s.health
        { s.powerOff with health := h }
      else
        let s := s.raiseRec { unit := s.modUid, cls := 3, code := 0x94 }
        let esn := s.lastEsn
        let s := { s with panel := { s.panel with latchPath := true, latchEsn := esn, surprise := true } }
        let s := (List.range 32).foldl (fun (s : State) h => if (s.hartE h).running then s.hartOff h else s) (s.noticeAll 0)
        let s := match s.dumpOf 6 s.modUid with
          | some d => s.closeDump d.index true
          | none => s
        s.openDump 6 s.modUid esn)

/-- LATCH_DUMP_CUTOFF: 25 ms after the latch opened the dump ends as INCOMPLETE; how many words were read by then nothing states (R426). -/
def execLatchDumpCutoff (s : State) : Out :=
  .next (match s.dumpOf 6 s.modUid with
  | none => s
  | some d => if s.panel.latchPath then (s.closeDump d.index true).latchFinish else s)

/-- LATCH_CLOSE: a present module gets main power, but not during or after a latch path, or after a critical trip (R421, R429). -/
def execLatchClose (s : State) : Out :=
  .next (
    if s.panel.latch then s
    else
      let s := { s with panel := { s.panel with latch := true } }
      let s := if s.pullable then s.info s.modUid 0x95 0 0 0 else s
      if s.mayPower && !s.pwr.mainOn then s.mainArrives else s)

/-- PRESENCE_CHANGE: a pin makes, and a present module with its latch closed gets main power; a pin breaks, and the host link and main
power go (R280, R421, Table 21-4). -/
def execPresenceChange (pin : Fin 2) (made : Bool) (s : State) : Out :=
  .next (
    let s := { s with panel := if pin.val = 0 then { s.panel with pres0 := made } else { s.panel with pres1 := made } }
    if !made then s.mainLost
    else if s.mayPower && !s.pwr.mainOn then s.mainArrives
    else s)

/-- DRAIN_BUTTON_HOLD: the button has been held for 2 s and asks for a drain; where it is held already, it is let go (R349, R351, R424,
Table 21-6, notes/assumptions/37.md). -/
def execDrainButtonHold (s : State) : Out :=
  let s := { s with panel := { s.panel with button := !s.panel.button } }
  .next (if s.panel.aux && s.panel.button then s.askDrain 1 else s)

/-- Identify is switched, with code 0x96 where it changes (R423, Table 21-5). -/
def State.setIdentify (s : State) (on : Bool) (source : Nat) : State :=
  if s.panel.identify = on then s
  else ({ s with panel := { s.panel with identify := on } }).info s.modUid 0x96 0 source 0

/-- IDENTIFY_TOUCH: a touch of 100 ms or more that does not follow another within 1 s confirms an ACCOUNT_CLEAR, or toggles identify
(R389, R423). -/
def execIdentifyTouch (ms : Nat) (within1s : Bool) (s : State) : Out :=
  .next (
    if ms < 100 || within1s || !s.panel.aux then s
    else if s.mgmt.clearPending then s.clearAccounts
    else s.setIdentify (!s.panel.identify) 0)

/-- A write of PANEL_CTL: the management port alone (Table 21-7). -/
def State.panelCtl (s : State) (w : Writer) (ident : Nat) (on : Bool) : State :=
  if !(isMgmt w) then s.infoAccess w s.modUid 0x2D0 (BitVec.ofNat 64 ident)
  else if s.hasRole w 1 then s.setIdentify on 1 else s

def execIdentOn (w : Writer) (s : State) : Out := .next (s.panelCtl w 1 true)
def execIdentOff (w : Writer) (s : State) : Out := .next (s.panelCtl w 2 false)
def execIdentToggle (w : Writer) (s : State) : Out := .next (s.panelCtl w 3 (!s.panel.identify))
/-- PLDM_IDENTIFY: the PLDM effecter (R383, R423). -/
def execPldmIdentify (on : Bool) (s : State) : Out := .next (if s.panel.aux then s.setIdentify on 2 else s)

end Sys2Proof.Machine
end

