-- ==== Sys2Proof/Machine/RegRead.lean ====
section
/-! DEFINITION. What a register shows: the unit window of every level and the function block of BAR0 (R7 to R9, R17 to R21,
R70, R91, R148, R175, R210, R281, R337 and the register tables of the chapters). -/

namespace Sys2Proof.Machine

/-- What a read of a register finds: its value; a register that is not the reader's, which reads as zero and is recorded; or
nothing that this reader may see at that offset, which reads as all ones and is recorded (R9, R17, R21). -/
inductive RegAns where
  | val (v : BitVec 64)
  | zero
  | bad
  deriving DecidableEq, Repr, Inhabited

/-- The place of an offset in an array of n registers, `stride` bytes apart. -/
def idxOf (off base stride n : Nat) : Option Nat :=
  if base ≤ off && (off - base) % stride = 0 && (off - base) / stride < n then some ((off - base) / stride) else none

/- The blocks of every level. -/

/-- The members present beneath a unit, as a mask (Tables 1-3, 1-8). -/
def State.memberMask (s : State) (u : UnitF) : Nat :=
  let among := fun (p : Nat → Bool) => listMask ((List.range 4).filter p)
  match u.level with
  | 0 => 15
  | 1 => among fun j => s.corePresent (4 * u.clusN + j)
  | 2 => among fun j => s.clusPresent (4 * u.die + j)
  | 3 => among s.diePresent
  | _ => if s.inSpan then s.span.admitted.toNat else 1

/-- STATE of a unit: its own dispatch (R18, R303, R314, R371). -/
def State.unitState (s : State) (u : UnitF) : Nat :=
  let die := if (s.dieE u.die).inReset then 0 else (s.health.dieState.getD u.die 0).toNat
  let clus := fun (n : Nat) => if (s.clusE n).inReset || (s.clusE n).removed then 0 else die
  match u.level with
  | 0 => if (s.physE u.coreN).inReset then 0 else clus u.clusN
  | 1 => clus u.clusN
  | 2 => die
  | 3 => s.health.state.toNat
  | _ =>
    if s.inSpan then (if s.span.reset || !(bit s.span.admitted s.modIdx) then 0 else 3)
    else if s.health.state = 6 then 5 else s.health.state.toNat

/-- STATE of a module of the span as this one knows it (R18, Table 14-10). -/
def State.moduleState (s : State) (m : Nat) : Nat := if m = s.modIdx then s.health.state.toNat else (tabGet s.span.peerState m 0).toNat

/-- DEGRADED: a present member is not in SERVICE; of a span, a module of IMAGE is not admitted, or an admitted one is not in SERVICE
(Table 1-10, R18, R303). -/
def State.unitDegraded (s : State) (u : UnitF) : Bool :=
  match u.level with
  | 0 => false
  | 1 => (s.clusCores u.clusN).any fun n => s.unitState (uidFields (s.coreUid n)) ≠ 3
  | 2 => (List.range 4).any fun j => s.clusPresent (4 * u.die + j) && s.unitState (uidFields (s.clusUid (4 * u.die + j))) ≠ 3
  | 3 => (List.range 4).any fun k => s.diePresent k && s.unitState (uidFields (s.dieUid k)) ≠ 3
  | _ =>
    if s.inSpan then s.span.admitted.toNat ≠ s.spanMask || (maskList 16 s.span.admitted.toNat).any fun m => s.moduleState m ≠ 3
    else s.health.state ≠ 3

/-- Distinct contexts resident on a unit (Table 1-10, R271). -/
def State.residentOn (s : State) (u : UnitF) : Nat :=
  (s.runs.filter fun p => p.2.resident &&
    if u.level = 0 then bit p.2.jobCores u.coreN
    else (s.clustersUnder u).any fun k => bit (s.ctxE p.1).place k).length

/-- The dies whose reasons a unit shows. -/
def diesOf (u : UnitF) : List Nat := if u.level ≤ 2 then [u.die] else [0, 1, 2, 3]

/-- The active throttle reasons of a unit, as a mask (Tables 1-10, 15-4). -/
def State.throttle (s : State) (u : UnitF) : Nat :=
  listMask ((List.range 8).filter fun r => (diesOf u).any fun d => s.pwr.has d r)

/-- The descriptor and status registers of every level (Tables 1-6 to 1-10). -/
def State.descReg (s : State) (u : UnitF) (unit : BitVec 32) (off : Nat) : Option (BitVec 64) :=
  match off with
  | 0x0 => some (unit.setWidth 64)
  | 0x8 => some (reg [(s.ident.stepping.toNat, 40, 8), (b2n s.part.gnx16, 36, 4), (u.level, 32, 3), (if u.level = 4 then 16 else 4, 16, 8),
      ((maskList 16 (s.memberMask u)).length, 8, 8)])
  | 0x10 => some (BitVec.ofNat 64 (s.memberMask u))
  | 0x18 => some (if u.level = 4 then 0 else BitVec.ofNat 64 (listMask (s.coresUnder u)))
  | 0x100 => some (reg [(s.residentOn u, 48, 8), (s.throttle u, 8, 8), (b2n (s.unitDegraded u), 4, 1), (s.unitState u, 0, 4)])
  | _ => none

/-- Whether a unit shows counters of a context: it is a unit of its job on which the context is resident, and not being scrubbed (R210,
R276, Table 12-11). -/
def State.showsCtrs (s : State) (ctx : Nat) (u : UnitF) : Bool :=
  s.holdsCtrs ctx u && (s.runE ctx).resident && !(s.runE ctx).evicted && (s.ctxE ctx).state != .scrubbing

/-- The sync-counter block (Tables 9-5 to 9-9, R19, R210). -/
def State.syncReg (s : State) (w : Writer) (u : UnitF) (off : Nat) : Option (BitVec 64) :=
  let low := u.level ≤ 1
  let sel := if u.level = 0 then (s.physE u.coreN).ctxSel else (s.clusE u.clusN).ctxSel
  let stale := ((s.coresUnder u).map fun n => (s.physE n).staleSig).sum + ((s.clustersUnder u).map fun k => (s.clusE k).staleSig).sum
  match off with
  | 0x1000 => some (BitVec.ofNat 64 (ctrCount u))
  | 0x1008 => if low then some (sel.setWidth 64) else none
  | 0x1010 =>
    match u.level with
    | 0 => some (reg [((s.physE u.coreN).staleSig, 0, 32)])
    | 1 => some (reg [((s.clusE u.clusN).staleSig, 0, 32)])
    | 2 => some (reg [((s.dieE u.die).staleWrites, 32, 32), (min 0xFFFFFFFF stale, 0, 32)])
    | 3 => some (reg [(s.span.staleWrites, 32, 32), (min 0xFFFFFFFF stale, 0, 32)])
    | _ => none
  | 0x1018 => if low then some 0 else none
  | _ =>
    match idxOf off 0x1100 8 (ctrCount u) with
    | none => none
    | some i =>
      let ctx := sel.toNat
      if !(isMgmt w || isFirm w || s.ownsCtx w ctx) then some 0
      else if !(s.showsCtrs ctx u) then some 0
      else
        let c := s.ctrE ctx u i
        some (reg [(min 255 (s.waiters ctx u i), 24, 8), (1, 20, 1), (c.epoch.toNat, 16, 4), (c.value.toNat, 0, 16)])

/-- The ledger view (Tables 16-4 to 16-6, R337). -/
def State.ledgerReg (s : State) (w : Writer) (unit : BitVec 32) (off : Nat) : Option RegAns :=
  let rec8 := idxOf off 0x2040 8 8
  if off ≠ 0x2000 && off ≠ 0x2008 && rec8.isNone then none
  else match s.readerOf w with
    | none => some .zero
    | some r =>
      let sel := s.selected r unit
      match rec8 with
      | some i =>
        let b := match sel with | some (x, fl) => recBytes x fl | none => []
        some (.val (BitVec.ofNat 64 (bytesNat ((b.drop (8 * i)).take 8))))
      | none =>
        if off = 0x2000 then some (.val (s.ldgCount r unit))
        else some (.val (reg [(b2n sel.isSome, 63, 1), (bits (tabGet s.ldgSel (selKey r unit) 0) 13 0, 0, 14)]))

/-- The throttle registers of levels 0 to 3; at the module a counter runs while any die has the reason (R20, Tables 15-4,
15-5). -/
def State.throttleReg (s : State) (u : UnitF) (off : Nat) : Option (BitVec 64) :=
  if u.level = 4 then none
  else if off = 0x3000 then some (BitVec.ofNat 64 (s.throttle u))
  else (idxOf off 0x3008 8 8).map fun r =>
    BitVec.ofNat 64 (tabGet s.pwr.thrCnt (reasonKey (if u.level = 3 then 4 else u.die) r) 0)

/- Job rings and completion rings: one instance for each function (R286, R290). -/

/-- The window slot of a unit of this module, or of its span (Table 13-3). -/
def slotOf (u : UnitF) : Nat :=
  match u.level with | 3 => 0 | 4 => 1 | 2 => 2 + u.die | 1 => 6 + u.clusN | _ => 22 + u.coreN

/-- The word of a job ring's JR_CFG (Table 13-5). -/
def Func.jrWord (e : Func) (k : Nat) : BitVec 64 :=
  reg [(b2n (e.jrEnable.contains k), 63, 1), (b2n (e.jrErr.contains k), 62, 1), ((tabGet e.jrHead k 0).toNat, 0, 32)] |||
    (tabGet e.jrCfg k 0 &&& jrCfgMask)

/-- The queue window's job-ring registers; an agent without an instance, and a member at the span's queue, read zero (R286,
R304). -/
def State.jobRingReg (s : State) (w : Writer) (u : UnitF) (off : Nat) : Option RegAns :=
  let hit := fun (base : Nat) => idxOf off base 0x40 4
  match (hit 0x400).map (fun r => (r, 0)) <|> (hit 0x408).map (fun r => (r, 1)) <|> (hit 0x410).map (fun r => (r, 2)) with
  | none => none
  | some (r, which) =>
    match s.writerFunc w with
    | none => some .zero
    | some f =>
      let e := s.funcE f.val
      let k := ringKey (slotOf u) r
      some (.val (match which with
        | 0 => tabGet e.jrBase k 0
        | 1 => e.jrWord k
        | _ => tabGet e.jrTailAddr k 0))

/-- The completion-ring registers of the module unit (Tables 13-9 to 13-11). -/
def State.compRingReg (s : State) (w : Writer) (off : Nat) : Option RegAns :=
  let hit := fun (base : Nat) => idxOf off base 0x20 32
  match (hit 0x600).map (fun c => (c, 0)) <|> (hit 0x608).map (fun c => (c, 1)) <|> (hit 0x610).map (fun c => (c, 2)) with
  | none => none
  | some (c, which) =>
    match s.writerFunc w with
    | none => some .zero
    | some f =>
      let e := s.funcE f.val
      some (.val (match which with
        | 0 => tabGet e.crBase c 0
        | 1 => e.crc c
        | _ => reg [((tabGet e.crTail c 0).toNat, 32, 32), ((tabGet e.crHead c 0).toNat, 0, 32)]))

/- Level 0. -/

/-- A check-value unit's VALUE as it is shown: the unused high bits read zero (Table 6-10). -/
def cvShow (poly : BitVec 2) (v : BitVec 64) : BitVec 64 :=
  match poly.toNat with | 0 => reg [(v.toNat, 0, 16)] | 1 => reg [(v.toNat, 0, 32)] | _ => v
/-- Its FINAL (Table 6-11). -/
def cvFinal (poly : BitVec 2) (v : BitVec 64) : BitVec 64 := BitVec.ofNat 64 (crcFinal poly.toNat (cvShow poly v).toNat)
/-- Its configuration word (Table 6-9). -/
def CvUnit.word (c : CvUnit) : BitVec 64 := reg [(b2n c.side, 4, 1), (c.poly.toNat, 2, 2), (b2n c.arm, 0, 1)]

/-- Check-value unit n of a core. -/
def CoreCtx.cv (k : CoreCtx) (n : Nat) : CvUnit := if n = 0 then k.cv0 else k.cv1

/-- A core's own registers (Tables 4-7 to 4-9, 6-2, 6-9 to 6-15, 16-17). -/
def State.coreReg (s : State) (n off : Nat) : Option (BitVec 64) :=
  let p := s.physE n
  let k := s.coreE (s.clusE (n / 4)).ctx n
  match off with
  | 0x140 => some p.slotchk
  | 0x148 => some (BitVec.ofNat 64 p.slotcnt)
  | 0x150 => some (reg ((List.range 4).flatMap fun a =>
      [((tabGet p.arrState a 0).toNat, 16 * a + 14, 2), (tabGet p.arrIdle a 511, 16 * a, 9)]))
  | 0x160 => some (reg [(k.dxeQ.length, 32, 8), (k.vxeQ.length, 16, 7), (k.mxeQ.length, 0, 7)])
  | 0x180 => some (reg [(((List.range n).filter s.corePresent).length, 24, 6),
      (((s.clusCores (n / 4)).takeWhile (· != n)).length, 16, 2), (n / 16, 12, 2), (n / 4 % 4, 10, 2), (n % 4, 8, 2), (n, 0, 6)])
  | 0x188 => some s.presentCores
  | 0x2A0 => some (cvFinal k.cv0.poly k.cv0.value)
  | 0x2A8 => some (cvFinal k.cv1.poly k.cv1.value)
  | 0x2180 => some (reg [(ceilDiv (((s.cores.filter fun q => q.1 % 64 == n).flatMap fun q => q.2.shadows.map Shadow.bytes).sum) 1024,
      48, 16), (p.abandoned, 32, 16), (p.checked, 0, 32)])
  | _ =>
    (idxOf off 0x200 16 8).map (fun i => tabGet k.cnt i 0) <|> (idxOf off 0x208 16 8).map (fun i => tabGet k.cmp i 0x300) <|>
    (idxOf off 0x280 16 2).map (fun i => (k.cv i).word) <|>
    (idxOf off 0x288 16 2).map (fun i => cvShow (k.cv i).poly (k.cv i).value)

/-- The debug block of a core or cluster, for an agent with debug privilege (R21, Tables 3-5 to 3-8, 9-10). -/
def State.debugReg (s : State) (u : UnitF) (off : Nat) : Option (BitVec 64) :=
  let p := s.physE u.coreN
  if off = 0x8100 && u.level ≤ 1 then some 0
  else if u.level ≠ 0 then none
  else match off with
    | 0x8000 => some p.lasel
    | 0x8008 => some (reg [(b2n p.selerr, 3, 1), (b2n p.peekValid, 2, 1), (b2n p.peekBusy, 1, 1)])
    | 0x8010 => some p.laflags
    | _ => (idxOf off 0x8040 8 10).map fun i => p.lalimb.getD i 0

/- Level 1. -/

/-- STATE and WAITON of a sequencer (Table 7-8). -/
def seqCode : SeqRun → Nat × Nat
  | .idle => (0, 0)
  | .run | .stepWait => (1, 0)
  | .stallQueue m => (2, m.toNat)
  | .waitScalar slot _ _ => (3, slot)
  | .waitQc c _ _ => (4, c)
  | .waitFence m _ => (5, m.toNat)
  | .ending _ => (5, 15)
  | .waitIssue => (6, 0)
  | .waitReplay _ => (7, 0)
  | .halted => (8, 0)
  | .faulted => (9, 0)

/-- STATE and WAITON of a context's sequencer: while an instruction of a replay waits for a full queue too, STALL_QUEUE with the cores
whose queue is full (R160, Table 7-8). -/
def State.seqShown (s : State) (ctx cl : Nat) : Nat × Nat :=
  let q := s.seqE ctx cl
  match q.run, q.stalled with
  | .run, e :: _ | .waitReplay _, e :: _ => (2, (s.fullMask ctx cl e.word.engine e.bset).toNat)
  | r, _ => seqCode r

/-- A cluster's own registers, each for the readers that R175 names; anyone else reads zero (Tables 7-8 to 7-10). -/
def State.clusReg (s : State) (w : Writer) (cl off : Nat) : Option (BitVec 64) :=
  let c := s.clusE cl
  let all := isMgmt w || isFirm w
  let mine := all || s.ownsCtx w c.fctx.toNat
  match off with
  | 0x1C0 =>
    if !(all || s.ownsCtx w c.ctx) then some 0
    else if c.ctx = 0 then some 0
    else
      let q := s.seqE c.ctx cl
      some (reg [(q.pc.toNat, 32, 32), (c.ctx, 20, 12), ((s.seqShown c.ctx cl).2, 8, 7), ((s.seqShown c.ctx cl).1, 0, 4)])
  | 0x1C8 => some (if mine then reg [(c.ftval.toNat, 32, 32), (c.fctx.toNat, 20, 12), (b2n c.foverrun, 9, 1), (b2n c.fvalid, 8, 1),
      (c.fcause.toNat, 0, 8)] else 0)
  | 0x1D0 => some (if mine then c.fpc.setWidth 64 else 0)
  | _ => none

/- Level 2. -/

/-- A die's memory registers (Tables 11-11 to 11-16). -/
def State.dieReg (s : State) (k off : Nat) : Option (BitVec 64) :=
  let sel := (s.dieE k).memSel
  let i := bits sel 9 7
  let st := 5 * k + i
  let c := if i < 5 then s.chanE st (bits sel 6 0) else {}
  match off with
  | 0x200 => some (reg [(b2n s.sch.interleave, 8, 1), (bits s.part.stackMap (5 * k + 4) (5 * k), 0, 5)])
  | 0x208 => some sel
  | 0x210 => some (if i < 5 then reg [(tabGet s.pwr.stackT st 0, 32, 8), (b2n (s.pwr.hot.contains st), 7, 1), (c.state.toNat, 0, 4)]
      else 0)
  | 0x218 => some (reg [(c.uncorr, 32, 32), (c.corr, 0, 32)])
  | 0x220 => some (c.lane.setWidth 64)
  | 0x228 => some (reg [(bits c.linesS 25 10, 48, 16), (bits c.linesB 25 10, 32, 16), (bits c.linesG 25 10, 16, 16),
      (bits c.linesL 25 10, 0, 16)])
  | _ => none

/- Level 3. -/

/-- HCV_CFG (Table 16-15). -/
def Hcv.word (h : Hcv) : BitVec 64 :=
  reg [(h.ctx.toNat, 52, 12), (b2n h.path, 45, 1), (h.link.toNat, 41, 4), (b2n h.dir, 40, 1), (b2n h.done, 8, 1),
       (h.poly.toNat, 2, 2), (b2n h.arm, 0, 1)]

/-- FW_STATp (Table 18-8). -/
def State.fwStat (s : State) (p : Nat) : BitVec 64 :=
  let e := s.procE p
  let i := s.imgOf e.bank (compOf p)
  reg [(i.version.toNat, 48, 16), (i.svn.toNat, 40, 8), (min 255 e.restarts, 32, 8),
       (b2n (s.imgOf (!e.bank) (compOf p)).staged, 27, 1), (b2n e.bank, 26, 1), (min 255 e.beatAge, 16, 8), (e.state.toNat, 0, 3)]

/-- MGMT_STAT as its reader sees it (Table 19-7). -/
def State.mgmtStat (s : State) (w : Writer) : BitVec 64 :=
  let f := (s.writerFunc w).map Fin.val
  let dom := f.elim none fun f => (s.funcE f).dom
  reg [(s.mgmt.fuseF.toNat, 40, 8), (s.mgmt.sessions.length, 32, 4), (b2n s.mgmt.ethUp, 17, 1), (b2n s.mgmt.i3cUp, 16, 1),
       (b2n (f == some 0 && s.mgmt.resetGrant), 10, 1), (b2n (s.hasDebug w), 9, 1), (b2n dom.isSome, 8, 1), (dom.getD 0, 0, 8)]

/-- The status block of the module unit (Tables 11-17 to 11-20, 12-4, 12-5, 12-10, 14-6 to 14-8, 17-3, 17-4, 19-7, 20-5 to 20-7,
21-6). -/
def State.modStatusReg (s : State) (w : Writer) (off : Nat) : Option RegAns :=
  let own := fun (g : Func → BitVec 64) => match s.instOf w with
    | some i => some (RegAns.val (g (s.inst i)))
    | none => some RegAns.zero
  let v := fun (x : BitVec 64) => some (RegAns.val x)
  match off with
  | 0x200 | 0x210 => v 0
  | 0x208 => v (reg [(b2n s.mem.persistErr, 34, 1), (b2n s.mem.persistBusy, 33, 1), (b2n s.mem.cullFull, 32, 1),
      (s.mem.persisted, 16, 16), (s.mem.cullet.length, 0, 16)])
  | 0x218 => v (s.sch.cullIdx.setWidth 64)
  | 0x220 => v (match s.mem.cullet[s.sch.cullIdx.toNat]? with | some p => reg [(1, 63, 1), (p, 0, 25)] | none => 0)
  | 0x240 | 0x280 | 0x2A8 | 0x2D0 => v 0
  | 0x248 => own fun e => reg [(b2n e.ctxBusy, 63, 1), (e.ctxCmd.toNat, 0, 12)]
  | 0x250 => own fun e => e.ctxRes.setWidth 64
  | 0x258 => v (reg [(s.sch.dflt.toNat, 32, 8), (s.sch.evictions.toNat, 16, 16), ((s.runs.filter fun p => p.2.resident).length, 0, 16)])
  | 0x260 =>
    if (s.writerFunc w).isSome then some .zero
    else v (reg [(s.kdStat.domain.toNat, 56, 8), ((s.domE s.kdStat.domain.toNat).state.toNat, 54, 2),
      (min 0x3FFFFF s.kdStat.discards, 32, 22), (s.kdStat.doneMib, 0, 32)])
  | 0x270 => v (reg [(s.boot.image.spanId.toNat, 32, 32), (s.boot.image.members.toNat, 16, 16), (s.boot.image.master.toNat, 12, 4),
      (s.boot.image.index.toNat, 8, 4), (s.boot.image.spareFor.toNat, 4, 4), (b2n s.isMaster, 0, 1)])
  | 0x288 => own fun e => e.ckpAddr
  | 0x290 => own fun e => reg [(b2n e.ckpBusy, 63, 1), (b2n (s.runE e.ckpCtx.toNat).restore.isSome, 62, 1), (e.ckpRes.toNat, 48, 8),
      (e.ckpCtx.toNat, 32, 12), (e.ckpPage.toNat, 0, 32)]
  | 0x2A0 => v (s.mgmtStat w)
  | 0x2B0 => v (reg [(s.boot.image.gen, 32, 32), (s.boot.coresFailed, 16, 8), (b2n (!s.boot.image.early), 11, 1),
      (b2n s.boot.image.pattern, 10, 1), (b2n s.boot.dflt, 9, 1), (b2n s.boot.copy, 8, 1), (s.boot.phase, 0, 3)])
  | 0x2B8 => v (reg [(s.boot.failed.toNat, 20, 20), (s.boot.joined.toNat, 0, 20)])
  | 0x2C0 => v (reg [(s.boot.p4.toNat, 48, 16), (s.boot.p2.toNat, 32, 16), (s.boot.p1.toNat, 16, 16), (s.boot.p0.toNat, 0, 16)])
  | 0x2C8 => v (reg [(s.light, 16, 8), (b2n s.pwr.mainOn, 7, 1), (b2n s.panel.holdup, 6, 1), (b2n s.panel.surprise, 5, 1),
      (b2n s.panel.identify, 4, 1), (b2n s.panel.button, 3, 1), (b2n s.panel.latch, 2, 1), (b2n s.panel.pres1, 1, 1),
      (b2n s.panel.pres0, 0, 1)])
  | _ =>
    match idxOf off 0x300 8 16, idxOf off 0x380 8 16 with
    | some l, _ =>
      let k := s.linkE l
      v (reg [(k.txBytes / 2 ^ 30, 48, 16), (k.rxBytes / 2 ^ 30, 32, 16), ((s.linkPeer l).getD 0, 16, 4), (k.state.toNat, 0, 4)])
    | none, some l => let k := s.linkE l; v (reg [(k.corrected, 32, 32), (k.replays, 0, 16)])
    | none, none => none

/-- The module unit's registers in the ledger-view and power blocks (Tables 15-6 to 15-10, 16-7 to 16-10, 16-15 to 16-18, 16-21
to 16-23, 18-8 to 18-10). -/
def State.modHubReg (s : State) (w : Writer) (off : Nat) : Option RegAns :=
  let p := s.pwr
  let v := fun (x : BitVec 64) => some (RegAns.val x)
  let own := fun (g : Func → BitVec 64) => match s.writerFunc w with
    | some f => some (RegAns.val (g (s.funcE f.val)))
    | none => some RegAns.zero
  match off with
  | 0x2100 => own fun e => e.ldgBase
  | 0x2108 => own fun e => e.ldgCfg
  | 0x2110 => own fun e => reg [(e.ldgTail.toNat, 32, 32), (e.ldgHead.toNat, 0, 32)]
  | 0x2118 =>
    match s.writerFunc w with
    | some f => v (reg [(tabGet s.led.copies f.val 0, 48, 16)])
    | none => v (reg [(s.led.lostUnc, 32, 16), (s.led.lostInfo, 16, 16), (s.led.lostCorr, 0, 16)])
  | 0x2188 => v (reg [(if s.inSpan && !s.isMaster then 0 else s.dig.entries.length, 48, 16), (s.dig.evicted, 32, 16),
      (s.dig.compared, 0, 32)])
  | 0x2190 => v (reg [(b2n s.health.replace, 63, 1), (s.health.cause.toNat, 52, 4)])
  | 0x2198 => v (BitVec.ofNat 64 s.health.trigger)
  | 0x21A0 | 0x24C0 => v 0
  | 0x24C8 => v (reg [(b2n s.rst.busy, 63, 1), (s.rst.last.toNat, 56, 4), (s.rst.result.toNat, 48, 8), (s.rst.count.toNat, 0, 32)])
  | 0x3100 => v (reg [(p.effective, 32, 12), (p.capNext.getD p.cap, 0, 12)])
  | 0x3108 => v (reg [(p.mgmtMax, 8, 5), (p.fixedPoint, 2, 5), (b2n p.fixed, 0, 1)])
  | 0x3110 => v (reg [(b2n p.emerg, 63, 1), (b2n p.disturbed, 62, 1), (b2n p.unattain, 61, 1), (p.power, 48, 12),
      (p.point.getD 3 0, 35, 5), (p.point.getD 2 0, 30, 5), (p.point.getD 1 0, 25, 5), (p.point.getD 0 0, 20, 5), (p.stopped, 16, 4)])
  | 0x3118 => v (BitVec.ofNat 64 p.energy)
  | 0x3120 => v (reg [(p.inlet, 56, 8), (p.flow, 48, 8), (p.stackMax, 32, 8), (p.tj.getD 3 0, 24, 8), (p.tj.getD 2 0, 16, 8),
      (p.tj.getD 1 0, 8, 8), (p.tj.getD 0 0, 0, 8)])
  | _ =>
    match idxOf off 0x2200 0x20 8, idxOf off 0x2208 0x20 8, idxOf off 0x2210 0x20 8, idxOf off 0x2400 8 19 with
    | some n, _, _, _ => v (s.hcvE n).word
    | _, some n, _, _ => v (cvShow (s.hcvE n).poly (s.hcvE n).value)
    | _, _, some n, _ => v (cvFinal (s.hcvE n).poly (s.hcvE n).value)
    | _, _, _, some n => v (s.fwStat n)
    | none, none, none, none => none

/- Level 4. -/

/-- The span registers, on the master (Tables 14-9 to 14-11). -/
def State.spanReg (s : State) (off : Nat) : Option (BitVec 64) :=
  let img := s.spanMask
  match off with
  | 0x200 => some (reg [(if s.inSpan then s.span.admitted.toNat else 1, 48, 16), (img, 32, 16), (s.span.withdrawals.toNat, 24, 8),
      (min 255 (s.jobs.filter fun j => j.spans && j.phase == .held && j.rowOne).length, 8, 8),
      (s.masterIdx, 0, 4)])
  | 0x208 => some (reg ((List.range 16).map fun m =>
      (if !(img.testBit m) then 15
       else if bit s.span.withdrawn m then 7
       else s.moduleState m, 4 * m, 4)))
  | 0x210 => some 0
  | _ => none

/-- A register of a unit window as an agent finds it, its offset a multiple of 8 (R17, Table 1-5). -/
def State.readReg (s : State) (w : Writer) (unit : BitVec 32) (off : Nat) : RegAns :=
  let u := uidFields unit
  let val := fun (o : Option (BitVec 64)) => o.map RegAns.val
  let own : Option RegAns := match u.level with
    | 0 => val (s.coreReg u.coreN off)
    | 1 => val (s.clusReg w u.clusN off)
    | 2 => val (s.dieReg u.die off)
    | 3 => s.modStatusReg w off <|> s.compRingReg w off <|> s.modHubReg w off
    | _ => val (s.spanReg off)
  let any := val (s.descReg u unit off) <|> val (s.syncReg w u off) <|> s.ledgerReg w unit off <|> val (s.throttleReg u off) <|>
    s.jobRingReg w u off
  let dbg := if s.hasDebug w then val (s.debugReg u off) else none
  (own <|> any <|> dbg).getD .bad

/-- The function's own blocks of BAR0: MSI-X table, pending bits and function block; what is PF0's alone follows R9 for the
others (Tables 13-2, 13-15 to 13-20). -/
def State.readBar (s : State) (f off : Nat) : RegAns :=
  let e := s.funcE f
  let pf0 := fun (v : BitVec 64) => if f = 0 then RegAns.val v else .bad
  match off with
  | 0xE01000 => .val (BitVec.ofNat 64 (listMask e.pba))
  | 0xE10000 => .val (reg [(b2n e.disable, 0, 1)])
  | 0xE10008 => .val (reg [((s.jobs.filter fun j => j.func == f && j.held.isSome).length, 48, 16),
      ((s.jobs.filter fun j => j.func == f && j.held.isNone).length, 16, 16), (b2n e.disabled, 1, 1), (b2n e.cancelling, 0, 1)])
  | 0xE10100 => pf0 s.sch.compBoot
  | 0xE10108 => pf0 0
  | 0xE10110 => pf0 (reg [(listMask ((List.range 32).filter fun h => (s.hartE h).running), 32, 32),
      (listMask ((List.range 32).filter fun h => (s.hartE h).func.isSome), 0, 32)])
  | _ =>
    match idxOf off 0xE00000 8 128, idxOf off 0xE10010 16 4, idxOf off 0xE10018 16 4 with
    | some k, _, _ => .val (tabGet e.msix k (if k % 2 = 1 then 1 <<< 32 else 0))
    | _, some i, _ => .val (e.windows.getD i (0, 0)).1
    | _, _, some i => .val (e.windows.getD i (0, 0)).2
    | none, none, none => .bad

end Sys2Proof.Machine
end

