-- ==== Sys2Proof/Machine/Func.lean ====
section
/-! DEFINITION. The bit-defined functions EXP, LOG, RSQRT, RCP and TANH in fixed point with 48 fractional bits
(R136, R137). Every table entry and constant is the integer nearest to its real value times 2^48
(notes/assumptions/13.md). -/

namespace Sys2Proof.Machine

/-- 1 in Q.48. -/
def q1 : Int := 2 ^ 48

/-- A product truncated toward −∞ to 48 fractional bits. -/
def qmul (a b : Int) : Int := (a * b) / 2 ^ 48

/-- n ÷ d to the nearest integer, ties to even. -/
def divEven (n d : Nat) : Nat :=
  let q := n / d
  let r := 2 * (n % d)
  if r > d || (r == d && q % 2 == 1) then q + 1 else q

/-- 2^k · atanh(a ÷ b) for a ÷ b at most 1/3, by 100 terms of its series, each truncated. -/
def atanhFix (k a b : Nat) : Nat :=
  let x := a * 2 ^ k / b
  let sq := fun (t : Nat) => t * a * a / (b * b)
  ((List.range 100).foldl (fun (p : Nat × Nat) i => (p.1 + p.2 / (2 * i + 1), sq p.2)) (0, x)).1

/-- ln(a ÷ b) · 2^200 for b ≤ a ≤ 2b, but for the series' truncation. -/
def lnFix (a b : Nat) : Nat := 2 * atanhFix 200 (a - b) (a + b)

/-- LN2 in Q.48. -/
def qLn2 : Int := divEven (lnFix 2 1) (2 ^ 152)
/-- L2E in Q.48. -/
def qL2e : Int := divEven (2 ^ 248) (lnFix 2 1)
/-- c2 = LN2² ÷ 2 in Q.48. -/
def qC2 : Nat := divEven (lnFix 2 1 * lnFix 2 1) (2 ^ 353)
/-- c3 = LN2³ ÷ 6 in Q.48. -/
def qC3 : Nat := divEven (lnFix 2 1 * lnFix 2 1 * lnFix 2 1) (6 * 2 ^ 552)
/-- c2′ = c2 ÷ c1. -/
def qC2p : Int := divEven (qC2 * 2 ^ 48) qLn2.toNat
/-- c3′ = c3 ÷ c2. -/
def qC3p : Int := divEven (qC3 * 2 ^ 48) qC2

/-- m · 2^e as a mantissa in Q.48, its binade 2^e' taken out; bits below 2^-48 are truncated. -/
def mant48 (m : Nat) : Nat := if m.log2 ≤ 48 then m * 2 ^ (48 - m.log2) else m / 2 ^ (m.log2 - 48)

/-- The RCP table (Table 6-5). -/
def rcpTable (i : Nat) : Int := divEven (2 ^ 58) (1024 + 2 * i + 1)

/-- RCP of a mantissa in [1, 2) (R136). -/
def rcpCore (m : Int) : Int :=
  let i := ((m - q1) / 2 ^ 39).toNat
  let y := rcpTable i
  let y := qmul y (2 * q1 - qmul m y)
  qmul y (2 * q1 - qmul m y)

/-- The RSQRT table: 2^48 · node^(−1/2), node = (1024 + 3(2i+1)) ÷ 1024. -/
def rsqrtTable (i : Nat) : Int := (((2 ^ 108 / (1024 + 3 * (2 * i + 1))).sqrt + 1) / 2 : Nat)

/-- RSQRT of a mantissa in [1, 4) (R136). -/
def rsqrtCore (m : Int) : Int :=
  let i := ((m - q1) * 512 / (3 * q1)).toNat
  let y := rsqrtTable i
  let st := fun (y : Int) => qmul y (3 * q1 - qmul (qmul m y) y) / 2
  st (st y)

/-- The EXP table: 2^48 · 2^(i/256) to the nearest integer, by eight square roots. -/
def expTable (i : Nat) : Int :=
  (((List.range 8).foldl (fun (v : Nat) _ => v.sqrt) (2 ^ (256 * 49 + i)) + 1) / 2 : Nat)

/-- 2^f in Q.48 for f in [0, 1) in Q.48 (R136). -/
def expCore (f : Int) : Int :=
  let i : Nat := Int.toNat (f / 2 ^ 40)
  let g := f - (i : Int) * 2 ^ 40
  let p := q1 + qmul (qmul g qLn2) (q1 + qmul (qmul g qC2p) (q1 + qmul g qC3p))
  qmul (expTable i) p

/-- n + f of x · L2E for a finite x, and 2^f; x is (−1)^neg · m · 2^e. -/
def expParts (neg : Bool) (m : Nat) (e : Int) : Int × Int :=
  let p : Int := (if neg then -(m : Int) else m) * qL2e
  let t := if 0 ≤ e then p * 2 ^ e.toNat else p / 2 ^ e.natAbs
  (t / q1, expCore (t % q1))

/-- EXP of a finite non-special value (R136): +0 below −512, an overflow from n = 320. -/
def expFinite (neg : Bool) (m : Nat) (e : Int) : Res :=
  -- a magnitude of 2^10 or more decides without forming 2^e
  if m ≠ 0 && 10 < e + m.log2 then (if neg then .val (.fin false 0 0) else .ovf false)
  else
    let r := expParts neg m e
    if r.1 < -512 then .val (.fin false 0 0)
    else if 320 ≤ r.1 then .ovf false
    else .val (.fin false r.2.toNat (r.1 - 48))

/-- RCP of a finite non-zero value. -/
def rcpFinite (neg : Bool) (m : Nat) (e : Int) : Val :=
  .fin neg (rcpCore (mant48 m)).toNat (-(e + m.log2) - 48)

/-- A mantissa in [2, 4) in Q.48: 48 fraction bits of m · 2^(1 − log2 m), the rest truncated. -/
def mant48x2 (m : Nat) : Nat := if m.log2 ≤ 49 then m * 2 ^ (49 - m.log2) else m / 2 ^ (m.log2 - 49)

/-- RSQRT of a positive finite value; in an odd binade the mantissa lies in [2, 4) (R136). -/
def rsqrtFinite (m : Nat) (e : Int) : Val :=
  let b := e + m.log2
  let odd := b % 2 = 1
  let mm : Int := if odd then mant48x2 m else mant48 m
  let b' := if odd then b - 1 else b
  .fin false (rsqrtCore mm).toNat (-(b' / 2) - 48)

/-- LOG of a positive finite value (R136): e · LN2 + ln(node) + q. DESIGN CHOICE (notes/assumptions/13.md): the spec gives neither a
constant nor a division rule for the third of r³ ÷ 3; it is taken as a product with 1/3 in Q.48 rounded to nearest, ties to even. -/
def logFinite (m : Nat) (e : Int) : Val :=
  let mm : Int := mant48 m
  let i := ((mm - q1) / 2 ^ 40).toNat
  let ln : Int := divEven (lnFix (256 + i) 256) (2 ^ 152)
  let inv : Int := divEven (2 ^ 56) (256 + i)
  let third : Int := divEven (2 ^ 48) 3
  let r := qmul mm inv - q1
  let q := qmul r (q1 + qmul r (qmul r third - 2 ^ 47))
  let v := (e + m.log2) * qLn2 + ln + q
  .fin (v < 0) v.natAbs (-48)

/-- TANH of a finite non-zero value: 1 − 2 · RCP(EXP(2|x|) + 1), the sign reapplied (R136). -/
def tanhFinite (neg : Bool) (m : Nat) (e : Int) : Val :=
  if (Val.lt (.fin false m e) (.fin false 9 0)) then
    let r := expParts false m (e + 1)
    let x := (Val.fin false r.2.toNat (r.1 - 48)).add (.fin false 1 0)
    match x with
    | .fin _ xm xe =>
      match rcpFinite false xm xe with
      | .fin _ ym ye => match (Val.fin false 1 0).add (.fin true (2 * ym) ye) with
        | .fin _ zm ze => .fin neg zm ze
        | v => v
      | v => v
    | v => v
  else .fin neg 1 0

/-- Whether a finite value is exactly 1. -/
def Val.isOne (v : Val) : Bool := v.eqv (.fin false 1 0)

/-- A bit-defined function by its FUNC code: 0x10 EXP, 0x11 LOG, 0x12 RSQRT, 0x13 RCP, 0x14 TANH, with the special
inputs of Table 6-6 (R137). -/
def bitFunc (f : Nat) (x : Val) : Res :=
  match x with
  | .nan => .val .nan
  | .inf neg => match f with
    | 0x10 => .val (if neg then .fin false 0 0 else .inf false)
    | 0x11 => .val (if neg then .nan else .inf false)
    | 0x12 => .val (if neg then .nan else .fin false 0 0)
    | 0x13 => .val (.fin neg 0 0)
    | _ => .val (.fin neg 1 0)
  | .fin neg m e =>
    if m = 0 then match f with
      | 0x10 => .val (.fin false 1 0)
      | 0x11 => .val (.inf true)
      | 0x12 | 0x13 => .val (.inf neg)
      | _ => .val (.fin neg 0 0)
    else match f with
      | 0x10 => expFinite neg m e
      | 0x11 => if neg then .val .nan else if x.isOne then .val (.fin false 0 0) else .val (logFinite m e)
      | 0x12 => if neg then .val .nan else if x.isOne then .val x else .val (rsqrtFinite m e)
      | 0x13 => if x.isOne then .val x else .val (rcpFinite neg m e)
      | _ => .val (tanhFinite neg m e)

end Sys2Proof.Machine
end

