-- ==== Sys2Proof/Machine/Vxe.lean ====
section
/-! DEFINITION. The vector engine: elementwise operations, reductions, conversions, commits, the optimizer, the two
gradient compressors and the norm instructions (R129 to R137, R193 to R197, R217, R232 to R239, R345). -/

namespace Sys2Proof.Machine

/- Checks. -/

/-- Rows 6 of operands on their own: each operand's policy and, for those the lehr converts into, R93, R95 and R114. -/
def vxePolicy (e : QEntry) (o : Op) (debug : Bool) : List Bad :=
  (operandsOf e.word o).flatMap fun p =>
    let d := e.desc p.td
    let v := viewOf d p.off
    operandPolicy e.word o p d ++ (if opConverts o p.key then destPolicy o debug p.td d v.g v.e else [])

/-- Row 7 of VXE operands: element planes and sub-scales lie in the own store, scale entries anywhere the context
reaches (R129, R111). -/
def State.vxeRow7 (s : State) (ctx core : Nat) (ops : List (View × Bool)) : State × List Bad :=
  s.row7All (agentOf ctx core 2) (ops.flatMap fun p =>
    let u := if p.2 then Use.write else .read
    [(elemRanges p.1 ++ subRanges p.1, u, some core), (entryRanges p.1, u, none)])

/-- Whether an instruction writes operand k. -/
def opWrites (o : Op) (k : Nat) : Bool :=
  match o with
  | .vew _ _ | .vred _ _ _ | .vcvt | .vcommit => k == 0
  | .vopt _ => k == 0 || k == 2
  | .vhrv | .vsgn => k == 0 || k == 2 || k == 3
  | _ => false

/-- The elements that an instruction's operand touches. -/
def vxeViews (e : QEntry) (o : Op) : List (View × Bool) :=
  (operandsOf e.word o).map fun p => (e.view p.key, opWrites o p.key)

/-- Rows 6, 7 and 9 of a VXE instruction from its own rows 6 and 9: row 7 is evaluated where the descriptors and formats
allow (notes/assumptions/22.md). -/
def vxeRows (s : State) (core ctx : Nat) (e : QEntry) (o : Op) (r6 r9 : List Bad) (views : List (View × Bool)) :
    State × List Bad × List Bad × List Bad :=
  let r6 := vxePolicy e o (s.runE ctx).debug ++ r6
  if !r6.isEmpty || (operandsOf e.word o).any fun p => !(descBad (e.desc p.td) p.td).isEmpty then (s, r6, [], r9)
  else
    let (s, r7) := s.vxeRow7 ctx core views
    (s, r6, r7, r9)

/-- A take of the VXE instruction at the queue head of a core. -/
def vxeTake (c : CoreN) (sel : Op → Bool)
    (rest : State → Nat → Nat → QEntry → Op → State × List Bad × List Bad × List Bad)
    (run : Nat → State → Nat → QEntry → Op → State) (s : State) : Out :=
  .next (s.takeHead c.val 1 sel (fun s ctx e o => rest s c.val ctx e o) (run c.val))

/-- A result for the lehr: one whose magnitude reaches 2^319 is an overflow (R132). -/
def resOf (v : Val) : Res :=
  match v with
  | .fin n m e => if m ≠ 0 && 319 ≤ e + m.log2 then .ovf n else .val v
  | v => .val v

def vZero : Val := .fin false 0 0
def vOne : Val := .fin false 1 0

/-- Writes a converted destination and goes on with what it gave, or fails the instruction. -/
def State.vxeWrite (s : State) (ctx core : Nat) (e : QEntry) (d : Desc) (forced : Bool) (vals : List (List Nat × Res))
    (go : State → ConvOut → State) : State :=
  let (s, r) := s.convertTo (agentOf ctx core 2) d (s.convCtx ctx e forced) vals
  match r with
  | .error err => s.failAccess ctx core 1 e err true 1
  | .ok out => go (s.addFlagged ctx out.count) out

/-- Reads the present elements of some views and goes on with them, or fails the instruction. -/
def State.vxeRead (s : State) (ctx core : Nat) (e : QEntry) (vs : List View) (go : State → Fetched → State) : State :=
  let (s, r) := s.fetchAt (agentOf ctx core 2) (vs.flatMap fun v => readAddrs v.d v.xs)
  match r with
  | .error err => s.failAccess ctx core 1 e err false 1
  | .ok f => go s f

/-- The value of a view at a window index: +0 where the element is absent (R186). -/
def View.at (v : View) (f : Fetched) (i : List Nat) : Val :=
  let x := addIdx v.g i
  if presentAt v.d x then valAt v.d f x else vZero

/-- The present positions of a view with their window indices. -/
def View.present (v : View) : List (List Nat × List Nat) :=
  ((windowIdx v.e).map fun i => (i, addIdx v.g i)).filter fun p => presentAt v.d p.2

/- VEW. -/

/-- A flag as the value a compare gives. -/
def cmpVal (b : Bool) : Val := .fin false (b2n b) 0

/-- f(a, b) of Table 6-4, SEL aside. -/
def vewFun (f : Nat) (a b : Val) : Res :=
  match f with
  | 0x00 => .val a
  | 0x01 => .val a.negate
  | 0x02 => .val a.abs
  | 0x03 => .val (a.add b)
  | 0x04 => .val (a.add b.negate)
  | 0x05 => .val (a.mul b)
  | 0x06 => .val (a.mul a)
  | 0x07 => .val (a.max b)
  | 0x08 => .val (a.min b)
  | 0x09 => .val (a.max vZero)
  | 0x0A => .val (cmpVal (a.eqv b))
  | 0x0B => .val (cmpVal !(a.eqv b))
  | 0x0C => .val (cmpVal (a.lt b))
  | 0x0D => .val (cmpVal (a.lt b || a.eqv b))
  | _ => bitFunc f a

/-- The fused step (R131, R132); an overflow of EXP stays one unless c is NaN, infinite or, in a product, zero
(notes/assumptions/13.md). -/
def vewFuse (fuse : Nat) (r : Res) (c : Val) : Res :=
  match fuse, r with
  | 1, .val v => .val (v.add c)
  | 1, .ovf n => match c with | .fin _ _ _ => .ovf n | c => .val c
  | 2, .val v => .val (v.mul c)
  | 2, .ovf n => match c with
    | .nan => .val .nan
    | .inf s => .val (.inf (n != s))
    | .fin s m _ => if m = 0 then .val (.fin (n != s) 0 0) else .ovf (n != s)
  | _, r => r

/-- One element of a VEW as the lehr takes it (R131, R132, Table 6-4). -/
def vewElem (func fuse : Nat) (a b c : Val) : Res :=
  if func = vewSel then resOf (if b.isZero || b.isNan then c else a)
  else match vewFuse fuse (vewFun func a b) c with
    | .val v => resOf v
    | r => r

def vewRest (s : State) (core ctx : Nat) (e : QEntry) (o : Op) : State × List Bad × List Bad × List Bad :=
  let t := e.word
  let y := e.view 0
  let shapes := ((operandsOf t o).filter fun p => p.key != 0).flatMap fun p => shapeBad y (e.view p.key) p.td
  let cmp := match o with
    | .vew f _ => if vewCompare f && (y.d.fmt == 6 || y.d.fmt == 7 || y.d.fmt == 8) then [badTd y.d (t.td 0) 6 0 48 4] else []
    | _ => []
  vxeRows s core ctx e o (shapes ++ cmp) [] (vxeViews e o)

def runVew (core : Nat) (s : State) (ctx : Nat) (e : QEntry) (o : Op) : State :=
  match o with
  | .vew f u =>
    let y := e.view 0
    let a := e.view 1
    let b := e.view 2
    let c := e.view 3
    s.vxeRead ctx core e ([a] ++ (if opHas o 2 then [b] else []) ++ (if opHasX o then [c] else [])) fun s ft =>
      let vals := y.present.map fun p =>
        (p.2, vewElem f u (a.at ft p.1) (if opHas o 2 then b.at ft p.1 else vZero) (if opHasX o then c.at ft p.1 else vZero))
      s.vxeWrite ctx core e y.d false vals fun s out => s.doneEntry ctx core 1 e.slot out.flagged
  | _ => s

def isVew (o : Op) : Bool := match o with | .vew _ _ => true | _ => false

def execVew (c : CoreN) (s : State) : Out := vxeTake c isVew vewRest runVew s

/- VRED. -/

/-- ACC_BASE of the accumulator word (R194). -/
def accBase (t : TWord) : Nat := t.off 2

/-- The destination's extents: the source window with extent 1 in the dimension reduced (R194). -/
def vredExt (e : List Nat) (sret : Bool) (dim : Nat) : List Nat := if sret then [1, 1, 1, 1] else e.set dim 1

/-- The linear index of window index i within a window of extents e. -/
def winIdx (e i : List Nat) : Nat :=
  i.getD 0 0 + e.getD 0 1 * (i.getD 1 0 + e.getD 1 1 * (i.getD 2 0 + e.getD 2 1 * i.getD 3 0))

/-- Accumulator n of a context on a core: cleared by that context where none is listed (R55, R432). -/
def CoreCtx.acc (c : CoreCtx) (ctx n : Nat) : LA := tabGet c.vacc n (laClear ctx)

/-- The exact sum of terms added as one term, with their flags and residue (R134, R57, R64). -/
def laAddSum (l : LA) (ts : List Val) : LA :=
  let fin := ts.filterMap fun v => match v with | .fin _ _ g => some g | _ => none
  let t := fin.min?.getD 0
  laAddBand l
    { s := (ts.map fun v => v.units t).sum, t := t, flags := ts.foldl (fun f v => f.join (termFlags v)) {} } 0
    ((ts.map fun v => match v with | .fin n m g => residueTerm n m g | _ => 0).sum % 255)

/-- Elements with their accumulators added, 512 to a cycle (R134; notes/assumptions/12.md). -/
def vredAdd (c : CoreCtx) (ctx : Nat) (l : List (Nat × Val)) : CoreCtx :=
  (chunksOf 512 l).foldl (fun c ch =>
    ((ch.map Prod.fst).eraseDups).foldl (fun (c : CoreCtx) n =>
      { c with vacc := tabSet c.vacc n (laAddSum (c.acc ctx n) ((ch.filter fun (p : Nat × Val) => p.1 == n).map Prod.snd)) }) c) c

def vredRest (s : State) (core ctx : Nat) (e : QEntry) (o : Op) : State × List Bad × List Bad × List Bad :=
  let t := e.word
  match o with
  | .vred _ sret dim =>
    let a := e.view 1
    let y := e.view 0
    let ext := vredExt a.e sret dim
    let n := ext.getD 0 0 * ext.getD 1 0 * ext.getD 2 0 * ext.getD 3 0
    let r6 := if sret then [] else shapeBad (a.withExt ext) y (t.td 0)
    let r9 := (if 1024 < accBase t + n || 1023 < accBase t then [badIn t 9 6 6 26] else []) ++
      (if sret && dim != 0 then [badIn t 9 0 0 2] else [])
    vxeRows s core ctx e o r6 r9 (vxeViews e o)
  | _ => (s, [], [], [])

/-- An accumulator that a VRED resolved keeps OVF and OVF_NEG, and its limbs modulo 2^640, until it is cleared (R63). -/
def CoreCtx.resolveAccs (c : CoreCtx) (base n : Nat) : CoreCtx :=
  { c with vacc := c.vacc.map fun p =>
      if base ≤ p.1 && p.1 < base + n && (laResolve p.2).ovf then (p.1, laResolve p.2) else p }

def runVred (core : Nat) (s : State) (ctx : Nat) (e : QEntry) (o : Op) : State :=
  match o with
  | .vred phase sret dim =>
    let t := e.word
    let a := e.view 1
    let ext := vredExt a.e sret dim
    let n := ext.getD 0 0 * ext.getD 1 0 * ext.getD 2 0 * ext.getD 3 0
    let base := accBase t
    s.vxeRead ctx core e [a] fun s f =>
      let s := if phase ≤ 1 then
          s.coreM ctx core fun c => { c with vacc := forN base n (fun i l => tabSet l i (laClear ctx)) c.vacc }
        else s
      let terms := a.present.map fun p =>
        (base + (if sret then 0 else winIdx ext (p.1.set dim 0)), valAt a.d f p.2)
      let s := s.coreM ctx core fun c => vredAdd c ctx terms
      if phase = 1 || phase = 2 then s.doneEntry ctx core 1 e.slot false
      else
        let c := s.coreE ctx core
        let s := s.coreM ctx core fun c => c.resolveAccs base n
        let res := fun i => laResolve (c.acc ctx (base + i))
        let bad := (List.range n).find? fun i => laMismatch (res i)
        let sdc := fun (s : State) (i : Nat) => s.sdcEntry ctx core 1 e (sdcWords (res i) 1 0 (base + i) 0)
        if sret then
          match bad with
          | some i => sdc s i
          | none =>
            -- the entry completes once the combiner has delivered the sum (R135, R164)
            s.seqM ctx e.cluster fun q => { q with combine := q.combine ++ [(t.mod % 8, e.issueNo, core, res 0)] }
        else
          let y := e.view 0
          let vals := (y.present.filter fun p => winIdx ext p.1 < bad.getD n).map fun p => (p.2, laValue (res (winIdx ext p.1)))
          s.vxeWrite ctx core e y.d false vals fun s out =>
            match bad with
            | some i => sdc s i
            | none => s.doneEntry ctx core 1 e.slot out.flagged
  | _ => s

def isVred (o : Op) : Bool := match o with | .vred _ _ _ => true | _ => false

def execVred (c : CoreN) (s : State) : Out :=
  vxeTake c isVred vredRest runVred s

/- VCVT. -/

def vcvtRest (s : State) (core ctx : Nat) (e : QEntry) (o : Op) : State × List Bad × List Bad × List Bad :=
  vxeRows s core ctx e o (shapeBad (e.view 0) (e.view 1) (e.word.td 1)) [] (vxeViews e o)

def runVcvt (core : Nat) (s : State) (ctx : Nat) (e : QEntry) (_o : Op) : State :=
  let y := e.view 0
  let a := e.view 1
  s.vxeRead ctx core e [a] fun s f =>
    s.vxeWrite ctx core e y.d false (y.present.map fun p => (p.2, resOf (a.at f p.1))) fun s out =>
      endAfterNorm (s.normWritten ctx core e.word.tag y.d out.written) ctx core 1 e.slot out.flagged

def execVcvtConvert (c : CoreN) (s : State) : Out := vxeTake c (· == .vcvt) vcvtRest runVcvt s

/-- Row 6 of VCVT.COMMIT: an interchange format has no scale entries, and R114 on the window (R195). Row 7: the
entries. -/
def commitRest (s : State) (core ctx : Nat) (e : QEntry) (o : Op) : State × List Bad × List Bad × List Bad :=
  let v := e.view 0
  let i := e.word.td 0
  let r6 := vxePolicy e o false ++
    (match splitBlock v.d v.g v.e with | some k => [badTd v.d i 6 7 (16 * k) 16] | none => [])
  if !r6.isEmpty || !(descBad v.d i).isEmpty then (s, r6, [], [])
  else
    let (s, r7) := s.row7 (agentOf ctx core 2) (entryRanges v) .write none
    (s, r6, r7, [])

/-- VCVT.COMMIT: R113 on every entry whose block meets the window (R195). -/
def runCommit (core : Nat) (s : State) (ctx : Nat) (e : QEntry) (_o : Op) : State :=
  let v := e.view 0
  let g := agentOf ctx core 2
  let blocks := (v.xs.map (blockNo v.d)).eraseDups
  let (s, r) := s.fetchAt g (blocks.flatMap fun j => [entryAddr v.d j, entryAddr v.d j + 1])
  match r with
  | .error err => s.failAccess ctx core 1 e err false 1
  | .ok f =>
    let bytes : List MByte := blocks.flatMap fun j =>
      let a := entryAddr v.d j
      let (sc, st) := commitEntry (BitVec.ofNat 8 (f.get a)) (BitVec.ofNat 8 (f.get (a + 1)))
      [(a, 255, sc.toNat), (a + 1, 255, st.toNat)]
    let (s, err) := s.writeMasked g bytes
    match err with
    | some err => s.failAccess ctx core 1 e err true 1
    | none => s.doneEntry ctx core 1 e.slot false

def execVcvtCommit (c : CoreN) (s : State) : Out := vxeTake c (· == .vcommit) commitRest runCommit s

/- Norms. -/

def vnrmRest (s : State) (core ctx : Nat) (e : QEntry) (o : Op) : State × List Bad × List Bad × List Bad :=
  vxeRows s core ctx e o [] [] (vxeViews e o)

/-- VNRM.ADD: exact squares of the source window into slot MOD × 256 + TAG (R197). -/
def runVnrmAdd (core : Nat) (s : State) (ctx : Nat) (e : QEntry) (_o : Op) : State :=
  let a := e.view 1
  s.vxeRead ctx core e [a] fun s f =>
    endAfterNorm (s.normAdd ctx core (e.word.mod % 4 * 256 + e.word.tag) (a.xs.map fun x => (valAt a.d f x).sq)) ctx core 1 e.slot
      false

def execVnrmAdd (c : CoreN) (s : State) : Out := vxeTake c (· == .vnrmAdd) vnrmRest runVnrmAdd s

/-- VNRM.FLUSH: this core's partials merged (R119, R197). -/
def runVnrmFlush (core : Nat) (s : State) (ctx : Nat) (e : QEntry) (_o : Op) : State :=
  let (s, r) := s.flushNorms ctx core
  match r with
  | some o => s.endEntry ctx core 1 e.slot o
  | none => s.doneEntry ctx core 1 e.slot false

def execVnrmFlush (c : CoreN) (s : State) : Out :=
  vxeTake c (· == .vnrmFlush) (fun s _ _ _ _ => (s, [], [], [])) runVnrmFlush s

/- VOPT. -/

/-- The optimizer record (Table 10-7). -/
structure OptRec where
  eta : Val := vZero
  b1 : Val := vZero
  b2 : Val := vZero
  eps : Val := vZero
  wd : Val := vZero
  bc1 : Val := vZero
  bc2 : Val := vZero
  clip : Val := vZero
  clipEn : Bool := false
  clipSlot : Nat := 0
  deriving DecidableEq, Repr, Inhabited

/-- Field k of a record, 32 bits at byte 4k. -/
def recWord (d : Desc) (k : Nat) : Nat := if k % 2 = 0 then bits (d.dw (k / 2)) 31 0 else bits (d.dw (k / 2)) 63 32

/-- The record that an OPX slot holds. -/
def optRec (d : Desc) : OptRec :=
  let f := fun k => elemVal 10 (recWord d k)
  { eta := f 0, b1 := f 1, b2 := f 2, eps := f 3, wd := f 4, bc1 := f 5, bc2 := f 6, clip := f 7,
    clipEn := (recWord d 8).testBit 10, clipSlot := recWord d 8 % 1024 }

/-- Whether field k of an optimizer record is admitted: finite and not below zero, B1 and B2 at most 1, reserved fields zero (R237). -/
def optWordOk (d : Desc) (k : Nat) : Bool :=
  if k < 8 then
    (match elemVal 10 (recWord d k) with | .fin n m _ => !n || m == 0 | _ => false) &&
      !((k == 1 || k == 2) && Val.lt vOne (elemVal 10 (recWord d k)))
  else if k = 8 then recWord d 8 / 2 ^ 11 == 0
  else recWord d k == 0

/-- Row 9 of VOPT: the fields of its record that R237 refuses, by their places in the descriptor (Tables 8-13, 10-7). -/
def optRecBad (d : Desc) (i : Nat) : List Bad :=
  ((List.range 16).filter fun k => !(optWordOk d k)).map fun k =>
    if k = 8 then badTd d i 9 4 11 21 else badTd d i 9 (k / 2) (32 * (k % 2)) 32

/-- How many planes the state of an algorithm has (R236). -/
def optPlanes (alg : Nat) : Nat := if alg = 1 || alg = 2 then 2 else 1

/-- Row 6 of VOPT: R236. -/
def optPolicy (e : QEntry) (alg : Nat) : List Bad :=
  let t := e.word
  let w := e.view 0
  let g := e.view 1
  let m := e.view 2
  let r := w.d.rank
  (if w.d.fmt = 0 && w.d.role = 1 then [] else [badTd w.d (t.td 0) 6 0 48 4]) ++
  (if g.d.role = 2 then [] else [badTd g.d (t.td 1) 6 0 54 2]) ++
  (if m.d.role = 3 then [] else [badTd m.d (t.td 2) 6 0 54 2]) ++
  (if m.d.rank = r + 1 then
     (if m.d.dim r = optPlanes alg then [] else [let f := dimField r; badTd m.d (t.td 2) 6 f.1 f.2 32])
   else [badTd m.d (t.td 2) 6 0 52 2]) ++
  shapeBad w g (t.td 1) ++ shapeBad (w.withExt (w.e.set r (optPlanes alg))) m (t.td 2)

def voptRest (s : State) (core ctx : Nat) (e : QEntry) (o : Op) : State × List Bad × List Bad × List Bad :=
  match o with
  | .vopt alg =>
    vxeRows s core ctx e o (optPolicy e alg) (optRecBad (e.desc e.word.opx) e.word.opx) (vxeViews e o)
  | _ => (s, [], [], [])

/-- rsq() and rcp() of R239; neither overflows. -/
def rsqV (x : Val) : Val := match bitFunc 0x12 x with | .val v => v | .ovf n => .inf n
def rcpV (x : Val) : Val := match bitFunc 0x13 x with | .val v => v | .ovf n => .inf n
/-- sq(x) of R238. -/
def sqV (x : Val) : Val := if x.isZero && !x.sign then vZero else x.mul (rsqV x)
/-- sgn(c): zero for a zero of either sign. -/
def sgnV (c : Val) : Val := match c with | .nan => .nan | c => if c.isZero then vZero else .fin c.sign 1 0

/-- The exact update and moments of one element: (upd, m1, v1) (R238). -/
def optElem (alg : Nat) (r : OptRec) (gamma w g m v : Val) : Val × Val × Val :=
  let gg := gamma.mul g
  let mix := fun (b x y : Val) => (b.mul x).add ((vOne.add b.negate).mul y)
  match alg with
  | 0 =>
    let gg := gg.add (r.wd.mul w)
    let m1 := (r.b1.mul m).add gg
    (r.eta.mul m1, m1, v)
  | 3 =>
    let c := mix r.b1 m gg
    ((r.eta.mul (sgnV c)).add ((r.eta.mul r.wd).mul w), mix r.b2 m gg, v)
  | _ =>
    let gg := if alg = 1 then gg.add (r.wd.mul w) else gg
    let m1 := mix r.b1 m gg
    let v1 := (r.b2.mul v).add (((vOne.add r.b2.negate).mul gg).mul gg)
    let upd := ((r.eta.mul r.bc1).mul m1).mul (rcpV ((sqV (r.bc2.mul v1)).add r.eps))
    (if alg = 2 then upd.add ((r.eta.mul r.wd).mul w) else upd, m1, v1)

/-- γ of R239. A slot that has overflowed gives it no value: γ is then a free F32 value (notes/assumptions/11.md). -/
def State.clipGamma (s : State) (ctx core : Nat) (r : OptRec) : State × Except AccErr Val :=
  if !r.clipEn then (s, .ok vOne)
  else
    let (s, b) := s.vaRead (agentOf ctx core 0) (s.normAddr ctx r.clipSlot) 96
    match b with
    | .error err => (s, .error err)
    | .ok bs =>
      match laValue (laResolve (slotOfBytes bs)) with
      | .ovf _ => let (s, w) := s.freeWord64; (s, .ok (elemVal 10 (w.toNat % 2 ^ 32)))
      | .val n =>
        if n.isNan then (s, .ok .nan)
        else if Val.lt (r.clip.mul r.clip) n then (s, .ok (r.clip.mul (rsqV n)))
        else (s, .ok vOne)

/-- The bytes of a written stream that lie at the elements of a window, in the order of R105. -/
def elemStream (v : View) (l : List MByte) : List (BitVec 8) :=
  (v.xs.flatMap (elemBytes v.d)).map fun a => BitVec.ofNat 8 (((l.find? fun b => b.1 == a).map fun b => b.2.2).getD 0)

/-- The digest message of a VOPT, to the span master's hub (R345). -/
def State.sendDigest (s : State) (ctx : Nat) (e : QEntry) (w : View) (dg : BitVec 64) : State :=
  if s.inSpan && !s.isMaster then s.emit (.spanC s.masterIdx 4 dg)
  else s.digestArrive s.modIdx ctx e.step w.d.tag (linearIdx w.d w.g) w.count dg

def runVopt (core : Nat) (s : State) (ctx : Nat) (e : QEntry) (o : Op) : State :=
  match o with
  | .vopt alg =>
    let r := optRec (e.desc e.word.opx)
    let w := e.view 0
    let g := e.view 1
    let m := e.view 2
    let k := w.d.rank
    let (s, ga) := s.clipGamma ctx core r
    match ga with
    | .error err => s.failAccess ctx core 1 e err false 1
    | .ok gamma =>
      s.vxeRead ctx core e [w, g, m] fun s f =>
        let els := w.present.map fun p =>
          let wv := w.at f p.1
          let u := optElem alg r gamma wv (g.at f p.1) (m.at f p.1) (if optPlanes alg = 2 then m.at f (p.1.set k 1) else vZero)
          (p, wv, u)
        s.vxeWrite ctx core e w.d true (els.map fun q => (q.1.2, resOf (q.2.1.add q.2.2.1.negate))) fun s ow =>
          let st := m.present.map fun p =>
            let u := match els.find? fun q => q.1.1 == p.1.set k 0 with
              | some q => q.2.2
              | none => optElem alg r gamma (w.at f (p.1.set k 0)) (g.at f (p.1.set k 0)) (m.at f (p.1.set k 0))
                  (if optPlanes alg = 2 then m.at f (p.1.set k 1) else vZero)
            (p.2, resOf (if p.1.getD k 0 = 0 then u.2.1 else u.2.2))
          s.vxeWrite ctx core e m.d true st fun s om =>
            let tag := e.word.tag
            let upd := ow.written.map fun p =>
              match els.find? fun q => q.1.2 == p.1 with
              | some q => (p.2.add q.2.1.negate).sq
              | none => vZero
            let (s, n0) := if tag = 0 then (s, none) else s.normAdd ctx core tag (ow.written.map fun p => p.2.sq)
            let (s, n2) := if tag = 0 then (s, none) else s.normAdd ctx core (512 + tag) upd
            let s := s.sendDigest ctx e w (BitVec.ofNat 64 (crcOf 2 (elemStream w ow.bytes)))
            endAfterNorm (s, n0.or n2) ctx core 1 e.slot (ow.flagged || om.flagged)
  | _ => s

def isVopt (o : Op) : Bool := match o with | .vopt _ => true | _ => false

def execVopt (c : CoreN) (s : State) : Out :=
  vxeTake c isVopt voptRest runVopt s

/- The compressors. -/

/-- The kept elements of one block: the k of largest magnitude, ties to the lower linear index (R232, R69). -/
def harvest (d : Desc) (k : Nat) (els : List (List Nat × Val)) : List (List Nat × Val) :=
  els.filter fun p =>
    (els.filter fun (q : List Nat × Val) =>
      q.2.ranksAbove p.2 || (!(p.2.ranksAbove q.2) && linearIdx d q.1 < linearIdx d p.1)).length < k

/-- The byte positions of the raw four-byte entry r of a list (R142, R233). -/
def rawEntry (v : View) (r : Nat) : List (List Nat) := (List.range 4).map fun j => addIdx v.g [4 * r + j, 0, 0, 0]

/-- The op0 blocks of a window in block order. -/
def blocksOf (v : View) : List Nat := ((v.xs.map (blockNo v.d)).eraseDups).foldl setIns []

/-- The checks of a VHRV; its list is written raw, so no scale entry of OPX is touched and none is translated (R232, R233, R142). -/
def vhrvRest (s : State) (core ctx : Nat) (e : QEntry) (o : Op) : State × List Bad × List Bad × List Bad :=
  let t := e.word
  let y := e.view 0
  let x := e.view 3
  let r6 := (if y.d.role = 2 then [] else [badTd y.d (t.td 0) 6 0 54 2]) ++
    shapeBad y (e.view 1) (t.td 1) ++ shapeBad y (e.view 2) (t.td 2) ++
    (if x.d.fmt = 3 then [] else [badTd x.d t.opx 6 0 48 4]) ++
    (if x.d.dim 0 < x.g.getD 0 0 + 4 * y.d.hkeep * (blocksOf y).length then [badTd x.d t.opx 6 3 32 32] else [])
  let n := y.d.hkeep * (blocksOf y).length
  let (s, r6, r7, r9) := vxeRows s core ctx e o r6 [] [(y, true), (e.view 1, false), (e.view 2, true)]
  if !r6.isEmpty || !r7.isEmpty then (s, r6, r7, r9)
  else
    let (s, r7) := s.row7 (agentOf ctx core 2) (elemRanges (x.withExt [4 * n, 1, 1, 1])) .write (some core)
    (s, r6, r7, r9)

/-- The sums that a compressor works on: the gradient plus the residual, element by element, at the places of op0 (R232, R234). -/
def compSums (e : QEntry) (f : Fetched) : List (List Nat × Val) :=
  (e.view 0).present.map fun p => (p.2, ((e.view 1).at f p.1).add ((e.view 2).at f p.1))

/-- The kept elements of every block of a VHRV (R232). -/
def vhrvKept (e : QEntry) (f : Fetched) : List (Nat × List (List Nat × Val)) :=
  (groupBlocks (e.view 0).d (compSums e f)).map fun b => (b.1, harvest (e.view 0).d (e.view 0).d.hkeep b.2)

/-- Whether a VHRV keeps the element at a place. -/
def vhrvKeeps (e : QEntry) (f : Fetched) (x : List Nat) : Bool := (vhrvKept e f).any fun b => b.2.any fun q => q.1 == x

/-- What a VHRV writes to op0: the kept sums, and zero elsewhere. -/
def vhrvValues (e : QEntry) (f : Fetched) : List (List Nat × Res) :=
  (compSums e f).map fun p => (p.1, if vhrvKeeps e f p.1 then resOf p.2 else .val vZero)

/-- What a VHRV leaves in the residual: the sum less what was written for a kept element, else the sum (R232). -/
def vhrvResidual (e : QEntry) (f : Fetched) (written : List (List Nat × Val)) : List (List Nat × Res) :=
  (e.view 2).present.map fun p =>
    let a := ((e.view 1).at f p.1).add ((e.view 2).at f p.1)
    let z := addIdx (e.view 0).g p.1
    (p.2, resOf (if vhrvKeeps e f z then
      match written.find? fun q => q.1 == z with | some q => a.add q.2.negate | none => a
      else a))

/-- The list of a VHRV: block by block the linear indices kept, rising, filled up with all ones to HKEEP entries, with zero in the
padding of every block of the OPX plane that it writes (R233, R44). -/
def vhrvList (e : QEntry) (f : Fetched) : List MByte :=
  let y := e.view 0
  let x := e.view 3
  let words := (blocksOf y).flatMap fun j =>
    let ks := ((((vhrvKept e f).find? fun b => b.1 == j).map fun b => b.2.map fun q => linearIdx y.d q.1).getD []).foldl setIns []
    ks ++ List.replicate (y.d.hkeep - ks.length) 0xFFFFFFFF
  let els := words.zipIdx.flatMap fun w =>
    ((rawEntry x w.2).zip (natBytes 4 w.1)).filterMap fun q => if presentAt x.d q.1 then some (q.1, q.2.toNat) else none
  (groupBlocks x.d els).flatMap fun b => blockBytes x.d b.2

def runVhrv (core : Nat) (s : State) (ctx : Nat) (e : QEntry) (_o : Op) : State :=
  s.vxeRead ctx core e [e.view 1, e.view 2] fun s f =>
    s.vxeWrite ctx core e (e.view 0).d true (vhrvValues e f) fun s out =>
      s.vxeWrite ctx core e (e.view 2).d true (vhrvResidual e f out.written) fun s ob =>
        let (s, err) := s.writeMasked (agentOf ctx core 2) (vhrvList e f)
        match err with
        | some err => s.failAccess ctx core 1 e err true 1
        | none => s.doneEntry ctx core 1 e.slot (out.flagged || ob.flagged)

def execVhrv (c : CoreN) (s : State) : Out := vxeTake c (· == .vhrv) vhrvRest runVhrv s

/-- Where the OPX tensor of a VSGN holds the magnitude of block j: linear index j (R234). -/
def magPlace (d : Desc) (j : Nat) : List Nat := originOf d j

/-- The elements that VSGN writes into its OPX tensor must fill whole blocks of it (R114). -/
def magWhole (d : Desc) (js : List Nat) : Bool :=
  let xs := (js.map (magPlace d)).filter (presentAt d)
  !(fmtIsBlock d.fmt) || xs.all fun x => (blockPositions d x).all fun y => !(presentAt d y) || xs.contains y

def vsgnRest (s : State) (core ctx : Nat) (e : QEntry) (o : Op) : State × List Bad × List Bad × List Bad :=
  let t := e.word
  let y := e.view 0
  let x := e.desc t.opx
  let r6a := (if y.d.fmt = 8 && y.d.role = 1 then [] else [badTd y.d (t.td 0) 6 0 48 4]) ++
    (if y.d.isTile then [badTd y.d (t.td 0) 6 0 56 1] else []) ++
    (if x.role = 2 then [] else [badTd x t.opx 6 0 54 2]) ++
    shapeBad y (e.view 1) (t.td 1) ++ shapeBad y (e.view 2) (t.td 2)
  let r6b := (operandsOf t o).flatMap fun p =>
    let d := e.desc p.td
    let v := viewOf d p.off
    (if p.key = 3 then operandPolicy { t with w4 := 0 } o { p with off := 0 } d ++
        destPolicy o true p.td d [0, 0, 0, 0] [0, 0, 0, 0] ++
        (if magWhole d (blocksOf y) then [] else [badTd d p.td 6 7 0 16])
      else operandPolicy t o p d ++ (if opConverts o p.key then destPolicy o true p.td d v.g v.e else []))
  let r6 := r6b ++ r6a
  if !r6.isEmpty || (operandsOf t o).any fun p => !(descBad (e.desc p.td) p.td).isEmpty then (s, r6, [], [])
  else
    let xs := ((blocksOf y).map (magPlace x)).filter (presentAt x)
    let (s, r7) := s.vxeRow7 ctx core [(y, true), (e.view 1, false), (e.view 2, true)]
    if !r7.isEmpty then (s, [], r7, [])
    else
      let g := agentOf ctx core 2
      let (s, r7) := s.row7All g [(runsOf (xs.flatMap (elemBytes x)), .write, some core),
        (runsOf (xs.flatMap fun z => [entryAddr x (blockNo x z), entryAddr x (blockNo x z) + 1]), .write, none)]
      (s, [], r7, [])

/-- The scale byte of a sign block and whether it flags the block (R234); `mu` is the sum of magnitudes times 2^-8. -/
def signScale (as : List Val) (g : Nat) : Nat × Bool :=
  if as.any Val.isNan then (0xFF, true)
  else match (as.map Val.abs).foldl Val.add vZero with
    | .fin _ m e =>
      if m = 0 then (0, false)
      else
        let x := e - 8
        let lg : Int := x + m.log2
        let f := floorMag m (16 - (m.log2 : Int)) - 2 ^ 16
        let ex := lg + ((f + g) / 2 ^ 16 : Nat)
        if ex < -127 then (0, false) else if 127 < ex then (0xFE, true) else ((ex + 127).toNat, false)
    | _ => (0xFE, true)

/-- The blocks of a VSGN: its number, its scale byte with whether it flags the block, and its sums (R234). -/
def vsgnBlocks (e : QEntry) (cc : ConvCtx) (f : Fetched) : List (Nat × (Nat × Bool) × List (List Nat × Val)) :=
  let x := e.desc e.word.opx
  (groupBlocks (e.view 0).d (compSums e f)).map fun b =>
    (b.1, signScale (b.2.map Prod.snd) (grain cc.seed cc.step x.tag (linearIdx x (magPlace x b.1))), b.2)

/-- The sign bit of an element: 1 for a sum of sign 0 (R234). -/
def signCode (v : Val) : Nat := if v.isNan then Config.nanBlockBits 8 % 2 else b2n !v.sign

/-- What a VSGN writes to op0: the sign bits, each block's scale byte, and its state byte, merged in LEDGER mode (R112, R234). -/
def vsgnBytes (e : QEntry) (blocks : List (Nat × (Nat × Bool) × List (List Nat × Val))) : List MByte :=
  let d := (e.view 0).d
  blocks.flatMap fun b =>
    blockBytes d (b.2.2.map fun p => (p.1, signCode p.2)) ++ [(entryAddr d b.1, 255, b.2.1.1),
      if d.ledger then (let st := if b.2.1.1 = 0xFE && b.2.1.2 then 0x50 else 0x10; (entryAddr d b.1 + 1, st, st))
      else (entryAddr d b.1 + 1, 255, 0)]

/-- What a VSGN leaves in the residual: the sum less the scaled sign written for it (R234). -/
def vsgnResidual (e : QEntry) (blocks : List (Nat × (Nat × Bool) × List (List Nat × Val))) (f : Fetched) : List (List Nat × Res) :=
  (e.view 2).present.map fun p =>
    let a := ((e.view 1).at f p.1).add ((e.view 2).at f p.1)
    (p.2, resOf (match blocks.find? fun b => b.1 == blockNo (e.view 0).d (addIdx (e.view 0).g p.1) with
      | some b => a.add (scaledVal 8 (signCode a) (BitVec.ofNat 8 b.2.1.1) 0).negate
      | none => a))

/-- What a VSGN writes to the OPX tensor: each block's scale as a value, at the block's linear index (R234). -/
def vsgnMags (e : QEntry) (blocks : List (Nat × (Nat × Bool) × List (List Nat × Val))) : List (List Nat × Res) :=
  let x := e.desc e.word.opx
  (blocks.map fun b =>
    (magPlace x b.1, if b.2.1.1 = 0xFF then Res.val .nan else resOf (.fin false 1 ((b.2.1.1 : Int) - 127)))).filter
      fun q => presentAt x q.1

/-- How many flagged blocks of a VSGN count: in LEDGER mode those that set OVF_NOW where it was clear or put 0xFF over a finite scale
byte (R116). -/
def vsgnCount (d : Desc) (old : Fetched) (blocks : List (Nat × (Nat × Bool) × List (List Nat × Val))) : Nat :=
  (blocks.filter fun b =>
    let a := entryAddr d b.1
    b.2.1.2 && (!d.ledger || (if b.2.1.1 = 0xFF then old.get a != 0xFF else !((old.get (a + 1)).testBit 6)))).length

def runVsgn (core : Nat) (s : State) (ctx : Nat) (e : QEntry) (_o : Op) : State :=
  let cc := s.convCtx ctx e true
  s.vxeRead ctx core e [e.view 1, e.view 2] fun s f =>
    let d := (e.view 0).d
    let blocks := vsgnBlocks e cc f
    let flagged := blocks.any fun b => b.2.1.2
    let (s, old) := s.fetchAt (agentOf ctx core 2)
      (if d.ledger then blocks.flatMap fun b => [entryAddr d b.1, entryAddr d b.1 + 1] else [])
    match old with
    | .error err => s.failAccess ctx core 1 e err false 1
    | .ok old =>
      let (s, err) := s.writeMasked (agentOf ctx core 2) (vsgnBytes e blocks)
      match err with
      | some err => s.failAccess ctx core 1 e err true 1
      | none =>
        (s.addFlagged ctx (vsgnCount d old blocks)).vxeWrite ctx core e (e.view 2).d true (vsgnResidual e blocks f) fun s ob =>
          s.vxeWrite ctx core e (e.desc e.word.opx) true (vsgnMags e blocks) fun s om =>
            s.doneEntry ctx core 1 e.slot (flagged || ob.flagged || om.flagged)

def execVsgn (c : CoreN) (s : State) : Out := vxeTake c (· == .vsgn) vsgnRest runVsgn s

end Sys2Proof.Machine
end

