-- ==== Sys2Proof/Machine/RegWrite.lean ====
section
/-! DEFINITION. What a register write does: access types, 32-bit halves, and the actions of WO fields (R7 to R9, R17, R21, R70,
R152, R175, R212, R286, R290, R304, R348 and the register tables of the chapters). -/

namespace Sys2Proof.Machine

/-- One write as a register sees it: the 64-bit value and the mask of the bits that it covers (R9). -/
structure RegW where
  v : BitVec 64 := 0
  cover : BitVec 64 := 0
  deriving DecidableEq, Repr, Inhabited

/-- A write of `width` bytes at an offset (R9). -/
def regW (off width : Nat) (v : BitVec 64) : RegW :=
  if width = 8 then { v := v, cover := BitVec.allOnes 64 }
  else
    let sh := if off % 8 = 4 then 32 else 0
    { v := (v &&& 0xFFFFFFFF#64) <<< sh, cover := 0xFFFFFFFF#64 <<< sh }

/-- RW fields: the covered bits of `mask` take the written value (R7, R9). -/
def RegW.rw (x : RegW) (old mask : BitVec 64) : BitVec 64 := (old &&& ~~~(mask &&& x.cover)) ||| (x.v &&& mask &&& x.cover)
/-- W1C fields: the covered bits of `mask` that are written 1 are cleared. -/
def RegW.w1c (x : RegW) (old mask : BitVec 64) : BitVec 64 := old &&& ~~~(x.v &&& mask &&& x.cover)
/-- The value with its uncovered RW bits at what they are, and uncovered W1C and WO bits at 0. -/
def RegW.with (x : RegW) (old mask : BitVec 64) : BitVec 64 := (old &&& mask &&& ~~~x.cover) ||| (x.v &&& x.cover)
/-- Whether bit i is covered; whether the whole register is. -/
def RegW.covers (x : RegW) (i : Nat) : Bool := bit x.cover i
def RegW.full (x : RegW) : Bool := x.cover == BitVec.allOnes 64
/-- Whether bit i is written 1. -/
def RegW.one (x : RegW) (i : Nat) : Bool := x.covers i && bit x.v i

/-- The state that a command ends in. -/
def outState (s : State) (o : Out) : State := match o with | .next t => t | _ => s

/-- One host function as a command operand. -/
def fnOf (f : Nat) : FuncN := Fin.ofNat 32 f

/- Level 0 and the debug block. -/

/-- A scalar counter's registers: the owner of the running context, firmware and its sequencer write them (R152). -/
def State.sclWrite (s : State) (w : Writer) (n : Nat) (refused : State) (g : CoreCtx → CoreCtx) : State :=
  let ctx := (s.clusE (n / 4)).ctx
  if isFirm w || s.ownsCtx w ctx then s.coreM ctx n g else refused

/-- A write of DXE_CVCFGn: its fields, and INIT; VALUE keeps only the bits that POLY uses (R147, R148, Tables 6-9, 6-10); POLY 3 leaves
the unit disarmed. -/
def CvUnit.write (c : CvUnit) (v : BitVec 64) : CvUnit :=
  let poly := bits v 3 2
  { side := bit v 4, poly := BitVec.ofNat 2 poly, arm := bit v 0 && poly != 3
    value := cvMask (BitVec.ofNat 2 poly) (if bit v 7 then crcInit poly else c.value.toNat) }

/-- Check-value unit n of a core put at a new value. -/
def CoreCtx.putCv (k : CoreCtx) (n : Nat) (c : CvUnit) : CoreCtx := if n = 0 then { k with cv0 := c } else { k with cv1 := c }

/-- CV_INIT: DXE_CVCFGn of a core written with INIT (R148). -/
def execCvInit (_w : Writer) (c : CoreN) (n : Fin 2) (v : BitVec 64) (s : State) : Out :=
  .next (if !(s.corePresent c.val) then s
    else s.coreM (s.clusE (c.val / 4)).ctx c.val fun k => k.putCv n.val ((k.cv n.val).write (setBits v 7 7 1)))

/-- What a peek copies: the LA that DBG_LASEL selects, or why it copies nothing: true for a tile that the running context does not
declare. With no context on the core every tile may be peeked (R70, R169, Tables 3-5, 3-6). -/
def State.peekSel (s : State) (n : Nat) : Except Bool LA :=
  let v := (s.physE n).lasel
  let ctx := (s.clusE (n / 4)).ctx
  let k := s.coreE ctx n
  -- a cleared LA shows the context that cleared it (R55)
  let t := 2 * bits v 15 14 + bits v 13 13
  match bits v 17 16 with
  | 0 =>
    if ctx = 0 || bit (s.seqE ctx (n / 4)).tilesDecl t then .ok (k.la ctx (4096 * t + bits v 11 0)) else .error true
  | 1 => if t = 0 && bits v 11 0 < 1024 then .ok (k.acc ctx (bits v 11 0)) else .error false
  | _ => .error false

/-- PEEK: a write of DBG_LACTL with PEEK copies the selected LA; without debug privilege or while BUSY it is recorded and has no
effect, and a peek of an undeclared tile is recorded too (R21, R70, R169). DESIGN CHOICE (notes/assumptions/12.md): R70 says of a
peek that ends in SELERR only that nothing is copied; the model leaves VALID and the earlier result registers as they stand. -/
def execPeek (w : Writer) (c : CoreN) (v : BitVec 64) (s : State) : Out :=
  let n := c.val
  .next (
    if !(s.corePresent n) || !(s.hasDebug w) || (s.physE n).peekBusy then s.infoAccess w (s.coreUid n) 0x8008 v
    else if !(bit v 0) then s
    else match s.peekSel n with
      | .error why =>
        let t := s.physM n fun p => { p with selerr := true }
        if why then t.infoAccess w (s.coreUid n) 0x8008 v else t
      | .ok la => s.physM n fun p => { p with selerr := false, peekValid := false, peekBusy := true, peekLa := la })

/-- PEEK_DONE: the copy is resolved and checked and the result registers hold it; a mismatch has the ledger and module effects of
R65 with no instruction to fail (R70, Tables 3-7, 3-8, 16-11). -/
def execPeekDone (c : CoreN) (s : State) : Out :=
  let n := c.val
  let p := s.physE n
  .next (
    if !p.peekBusy then s
    else
      let r := laResolve p.peekLa
      let bad := laMismatch r
      let s := s.physM n fun p => { p with
        peekBusy := false, peekValid := true, lalimb := r.limb
        laflags := reg [(r.ctx.toNat, 52, 12), (r.adds, 24, 28), (r.resAcc, 16, 8), (limbResidue r, 8, 8), (b2n bad, 7, 1),
          (b2n r.ovfNeg, 6, 1), (b2n r.ovf, 5, 1), (b2n r.nzero, 4, 1), (b2n r.any, 3, 1), (b2n r.nan, 2, 1),
          (b2n r.ninf, 1, 1), (b2n r.pinf, 0, 1)] }
      if !bad then s
      else
        let ctx := (s.clusE (n / 4)).ctx
        let d := sdcWords r 4 (bits p.lasel 15 0) 0 0
        let s := s.raiseRec { unit := s.coreUid n, cls := 2, code := 0x80, ctx := BitVec.ofNat 12 ctx, d0 := d.1 }
        s.sdcEffect s.lastEsn ctx)

/-- Writes of the debug block (R21, R70, R211). -/
def State.debugWrite (s : State) (w : Writer) (u : UnitF) (unit : BitVec 32) (off : Nat) (x : RegW) (refused : State) : State :=
  if !(s.hasDebug w) then refused
  else if off = 0x8100 then if x.full then outState s (execDbgScset w unit x.v s) else refused
  else if (s.physE u.coreN).peekBusy && (off = 0x8000 || off = 0x8008) then refused
  else if off = 0x8000 then s.physM u.coreN fun p => { p with lasel := x.rw p.lasel 0x3EFFF }
  else if off = 0x8008 then
    if x.one 0 then outState s (execPeek w (Fin.ofNat 64 u.coreN) 1 s) else s
  else s

/-- Writes of a core's own registers. -/
def State.coreWrite (s : State) (w : Writer) (n off : Nat) (x : RegW) (refused : State) : State :=
  let ctx := (s.clusE (n / 4)).ctx
  if off = 0x140 then s.physM n fun p => { p with slotchk := x.w1c p.slotchk 3 }
  else match idxOf off 0x200 16 8, idxOf off 0x208 16 8, idxOf off 0x280 16 2, idxOf off 0x288 16 2 with
    | some i, _, _, _ => s.sclWrite w n refused fun k =>
        { k with cnt := tabSet k.cnt i (x.rw (tabGet k.cnt i 0) (BitVec.allOnes 64)) }
    | _, some i, _, _ => s.sclWrite w n refused fun k =>
        { k with cmp := tabSet k.cmp i (x.rw (tabGet k.cmp i 0x300) 0xFFFFFFFFFFFF0303) }
    | _, _, some i, _ => s.coreM ctx n fun k => k.putCv i ((k.cv i).write (x.with (k.cv i).word 0x1D))
    | _, _, _, some i => s.coreM ctx n fun k => k.putCv i ((k.cv i).putValue (x.rw (k.cv i).value (BitVec.allOnes 64)))
    | none, none, none, none => s

/- Level 1. -/

/-- Writes of a cluster's own registers: VALID and OVERRUN of SEQ_FAULT, by the agents that R175 names. -/
def State.clusWrite (s : State) (w : Writer) (cl off : Nat) (x : RegW) : State :=
  if off ≠ 0x1C8 || !(isMgmt w || isFirm w || s.ownsCtx w (s.clusE cl).fctx.toNat) then s
  else s.clusM cl fun c =>
    let c := if x.one 9 then { c with foverrun := false } else c
    if x.one 8 then { c with fvalid := false, fctx := 0, fcause := 0, ftval := 0, fpc := 0 } else c

/- The sync-counter block and the ledger view. -/

def State.syncWrite (s : State) (w : Writer) (u : UnitF) (unit : BitVec 32) (off : Nat) (x : RegW) (refused : State) : State :=
  if off = 0x1018 then if x.full then outState s (execSyncSignal w unit x.v s) else refused
  else if off = 0x1008 then
    let put := fun (c : BitVec 12) => BitVec.ofNat 12 (x.rw (c.setWidth 64) 0xFFF).toNat
    if u.level = 0 then s.physM u.coreN fun p => { p with ctxSel := put p.ctxSel }
    else s.clusM u.clusN fun c => { c with ctxSel := put c.ctxSel }
  else s

/- Job and completion rings. -/

/-- A write of JR_CFG: with ENABLE as JR_ENABLE; without it the ring stops, and its fields change only where it was stopped
already (R286, Table 13-5). -/
def State.jrCfgWrite (s : State) (f : Nat) (slot : Nat) (r : Nat) (x : RegW) (refused : State) : State :=
  let k := ringKey slot r
  let e := s.funcE f
  let v := x.with (tabGet e.jrCfg k 0) jrCfgMask
  if !(x.covers 63) then s
  else if bit v 63 then
    let tail := (Config.freeWord s.free).setWidth 32
    outState s (execJrEnable (fnOf f) (Fin.ofNat 86 slot) (Fin.ofNat 4 r) v tail { s with free := s.free + 1 })
  else
    let s := if bit v 62 then s.funcM f fun e => { e with jrErr := setDel e.jrErr k } else s
    if !(e.jrEnable.contains k) then s.funcM f fun e => { e with jrCfg := tabSet e.jrCfg k (v &&& jrCfgMask) }
    else
      let stop := fun (s : State) => s.funcM f fun e => { e with jrEnable := setDel e.jrEnable k }
      if tabGet e.jrCfg k 0 &&& jrCfgMask = v &&& jrCfgMask then stop s
      else stop (if bit v 62 then s.infoAccess (.func (fnOf f)) (s.slotUnit slot) (0x408 + 0x40 * r) v else refused)

/-- Writes of the job-ring registers; those of an agent without an instance, or of a member at the span's queue, have no effect
and are recorded (R286, R304). -/
def State.jobRingWrite (s : State) (w : Writer) (u : UnitF) (off : Nat) (x : RegW) (refused : State) : State :=
  let r := (off - 0x400) / 0x40
  let slot := slotOf u
  let k := ringKey slot r
  match s.writerFunc w with
  | none => refused
  | some f =>
    let on := (s.funcE f.val).jrEnable.contains k
    match (off - 0x400) % 0x40 with
    | 0 => if on then refused else s.funcM f.val fun e =>
        { e with jrBase := tabSet e.jrBase k (x.rw (tabGet e.jrBase k 0) 0xFFFFFFFFFFFFFFC0) }
    | 8 => s.jrCfgWrite f.val slot r x refused
    | _ => if on then refused else s.funcM f.val fun e =>
        { e with jrTailAddr := tabSet e.jrTailAddr k (x.rw (tabGet e.jrTailAddr k 0) 0xFFFFFFFFFFFFFFC0) }

/-- A write of CR_CFG: with ENABLE as CR_ENABLE; clearing ENABLE while records are held has no effect and is recorded (Table
13-10). -/
def State.crCfgWrite (s : State) (f c : Nat) (x : RegW) (refused : State) : State :=
  let cfg := (s.funcE f).crc c
  let v := x.with cfg (setBits crCfgMask 63 63 1)
  if bit v 63 then outState s (execCrEnable (fnOf f) (Fin.ofNat 32 c) v s)
  else if bit cfg 63 && s.jobs.any fun j => j.func == f && j.cq == c && j.held.isSome then refused
  else
    let err := bit cfg 61 && !(bit v 61)
    s.funcM f fun e => { e with crCfg := tabSet e.crCfg c (setBits (v &&& crCfgMask) 61 61 (b2n err)) }

/-- Writes of the completion-ring registers. -/
def State.compRingWrite (s : State) (w : Writer) (off : Nat) (x : RegW) (refused : State) : State :=
  let c := (off - 0x600) / 0x20
  match s.writerFunc w with
  | none => refused
  | some f =>
    match (off - 0x600) % 0x20 with
    | 0 => s.funcM f.val fun e => { e with crBase := tabSet e.crBase c (x.rw (tabGet e.crBase c 0) 0xFFFFFFFFFFFFFF00) }
    | 8 => s.crCfgWrite f.val c x refused
    | _ => if x.covers 0 then outState s (execCrHeadWrite f (Fin.ofNat 32 c) (x.v.setWidth 32) s) else s

/- Level 3. -/

/-- CTX_CMD, taken from a 64-bit write alone (R9, R265, Table 12-3). -/
def State.ctxCmdWrite (s : State) (w : Writer) (x : RegW) (refused : State) : State :=
  let v := x.v
  let c := BitVec.ofNat 12 (bits v 59 48)
  let a := BitVec.ofNat 48 (bits v 47 0)
  if !x.full then refused
  else match bits v 63 60 with
    | 1 => outState s (execCtxCreate w c a s)
    | 2 => outState s (execCtxSet w c a s)
    | 3 => outState s (execCtxDestroy w c s)
    | 4 => outState s (execCtxInval w c s)
    | 5 => outState s (execCtxRead w c a s)
    | op => s.ctxCommand w c.toNat op a fun s i => s.ctxResult i 1 0

/-- CKP_CMD, whose fields lie in the upper half (R360, Table 17-2). -/
def State.ckpCmdWrite (s : State) (w : Writer) (x : RegW) : State :=
  let v := x.v
  let c := BitVec.ofNat 12 (bits v 59 48)
  if !(x.covers 63) then s
  else match bits v 63 60 with
    | 1 => outState s (execCkpBegin w c s)
    | 2 => outState s (execCkpLoad w c (Fin.ofNat 4 (bits v 47 46)) (Fin.ofNat 16 (bits v 45 42)) s)
    | 3 => outState s (execCkpEnd w c s)
    | 4 => outState s (execCkpAbort w c s)
    | op => s.ckpCommand w op c.toNat (bits v 47 46) (bits v 45 42) fun s i => s.ckpResult i 1 0

/-- A write that the management port alone may make: by a session with the OPERATE role; from anyone else it is recorded. -/
def State.mgmtWrite (s : State) (w : Writer) (refused : State) (act : State → State) : State :=
  if !(isMgmt w) then refused else if s.hasRole w 1 then act s else s

/-- Writes of the module unit's status block. -/
def State.modStatusWrite (s : State) (w : Writer) (off : Nat) (x : RegW) (refused : State) : State :=
  match off with
  | 0x200 => if x.covers 0 then outState s (execMemCulladd w (x.v &&& x.cover) s) else s
  | 0x208 => { s with mem := { s.mem with persistErr := s.mem.persistErr && !(x.one 34), cullFull := s.mem.cullFull && !(x.one 32) } }
  | 0x210 => if x.one 0 then outState s (execPersist w s) else s
  | 0x218 => { s with sch := { s.sch with cullIdx := BitVec.ofNat 12 (x.rw (s.sch.cullIdx.setWidth 64) 0xFFF).toNat } }
  | 0x240 => s.ctxCmdWrite w x refused
  | 0x258 => s.mgmtWrite w refused fun s =>
      if x.covers 32 then { s with sch := { s.sch with dflt := BitVec.ofNat 8 (bits x.v 39 32) } } else s
  | 0x280 => s.ckpCmdWrite w x
  | 0x288 =>
    match s.instOf w with
    | none => refused
    | some i => if s.hasRole w 1 then s.instM i fun e => { e with ckpAddr := x.rw e.ckpAddr 0xFFFFFFFFFFFFFFC0 } else s
  | 0x2A8 => if x.covers 0 then outState s (execMgmtRstreq w (x.v &&& 1) s) else s
  | 0x2D0 =>
    match (if x.covers 0 then bits x.v 1 0 else 0) with
    | 1 => outState s (execIdentOn w s)
    | 2 => outState s (execIdentOff w s)
    | 3 => outState s (execIdentToggle w s)
    | _ => if isMgmt w then s else refused
  | _ => s

/-- LDG_RCFG: setting ENABLE starts the ring at copy 0; a reserved LOG2N leaves ENABLE clear (Tables 16-8, 16-9). -/
def Func.ldgCfgWrite (e : Func) (x : RegW) : Func :=
  let v := x.rw e.ldgCfg 0x8000000000000F1F
  let v := if 9 ≤ bits v 11 8 then setBits v 63 63 0 else v
  if bit v 63 && !(bit e.ldgCfg 63) then { e with ldgCfg := v, ldgTail := 0, ldgHead := 0 } else { e with ldgCfg := v }

/-- RST_CTL, taken from a 64-bit write alone (R9, Table 18-9). -/
def State.rstCtlWrite (s : State) (w : Writer) (x : RegW) (refused : State) : State :=
  let unit := BitVec.ofNat 32 (bits x.v 63 32)
  let part := BitVec.ofNat 8 (bits x.v 23 16)
  if !x.full then refused
  else match bits x.v 3 0 with
    | 0 => if isMgmt w then s else refused
    | 1 => outState s (execResetCore w unit s)
    | 2 => outState s (execResetCluster w unit s)
    | 3 => outState s (execResetDie w unit s)
    | 4 => outState s (execResetChannelGroup w part s)
    | 5 => outState s (execResetSpanLink w part s)
    | 6 => outState s (execResetHostFunction w part s)
    | 7 => outState s (execResetModuleWarm w s)
    | 8 => outState s (execResetModuleCold w s)
    | _ => s.mgmtWrite w refused fun s => { s with rst := { s.rst with result := if s.rst.busy then 2 else 1 } }

/-- Writes of the module unit's registers in the ledger-view and power blocks. -/
def State.modHubWrite (s : State) (w : Writer) (off : Nat) (x : RegW) (refused : State) : State :=
  let own := fun (g : Func → Func) => match s.writerFunc w with
    | some f => s.funcM f.val g
    | none => refused
  match off with
  | 0x2100 => own fun e => { e with ldgBase := x.rw e.ldgBase 0xFFFFFFFFFFFFFFC0 }
  | 0x2108 => own fun e => e.ldgCfgWrite x
  | 0x2110 => own fun e => { e with ldgHead := BitVec.ofNat 32 (x.rw (e.ldgHead.setWidth 64) 0xFFFFFFFF).toNat }
  | 0x21A0 =>
    match (if x.covers 0 then bits x.v 1 0 else 0) with
    | 1 => outState s (execDrain w s)
    | 2 => outState s (execResume w s)
    | 3 => outState s (execClearReplace w s)
    | _ => if isMgmt w then s else refused
  | 0x24C0 => s.rstCtlWrite w x refused
  | 0x3100 => if x.covers 0 then outState s (execPwrCapWrite w x.v s) else if isMgmt w then s else refused
  | 0x3108 => if x.covers 0 then outState s (execPwrModeWrite w x.v s) else if isMgmt w then s else refused
  | 0x3110 => s.mgmtWrite w refused fun s => { s with pwr := { s.pwr with disturbed := s.pwr.disturbed && !(x.one 62) } }
  | _ =>
    match idxOf off 0x2200 0x20 8, idxOf off 0x2208 0x20 8 with
    | some n, _ => s.hcvWriter w off x.v fun s => s.hcvM n fun h => h.write (x.with h.word 0xFFF03F000000000D)
    | _, some n => s.hcvWriter w off x.v fun s => s.hcvM n fun h => { h with value := cvMask h.poly (x.rw h.value (BitVec.allOnes 64)).toNat }
    | none, none => s

/-- Writes of the span unit's own registers (R317, Table 14-11). -/
def State.spanWrite (s : State) (w : Writer) (off : Nat) (x : RegW) (refused : State) : State :=
  if off ≠ 0x210 then s
  else
    let m : ModN := Fin.ofNat 16 (bits x.v 7 4)
    match (if x.covers 0 then bits x.v 1 0 else 0) with
    | 1 => outState s (execExpel w m s)
    | 2 => outState s (execReadmit w m s)
    | _ => if isMgmt w then s else refused

/-- A write of a register of a unit window, its offset a multiple of 8 and assigned at that level; `refused` is the state with the
access recorded (R7 to R9, R17). -/
def State.writeReg (s : State) (w : Writer) (unit : BitVec 32) (off : Nat) (x : RegW) (refused : State) : State :=
  let u := uidFields unit
  if 0x8000 ≤ off then s.debugWrite w u unit off x refused
  else if 0x3000 ≤ off && off < 0x3100 then if isMgmt w then s else if (s.writerFunc w).isSome then refused else s
  else if off = 0x2008 then
    if x.covers 0 then outState s (execLdgSelWrite w unit x.v s) else s
  else if 0x2100 ≤ off then if u.level = 3 then s.modHubWrite w off x refused else s
  else if 0x2000 ≤ off then s
  else if 0x1000 ≤ off then s.syncWrite w u unit off x refused
  else if 0x600 ≤ off then s.compRingWrite w off x refused
  else if 0x400 ≤ off then s.jobRingWrite w u off x refused
  else match u.level with
    | 0 => s.coreWrite w u.coreN off x refused
    | 1 => s.clusWrite w u.clusN off x
    | 2 => if off = 0x208 then s.dieM u.die fun d => { d with memSel := x.rw d.memSel 0x3FF } else s
    | 3 => s.modStatusWrite w off x refused
    | _ => s.spanWrite w off x refused

/-- A write of one of a function's own blocks of BAR0 (R282, R285, R293 to R295, Tables 13-2, 13-15 to 13-20). A vector unmasked
while it is pending is sent. -/
def State.writeBar (s : State) (w : Writer) (f off : Nat) (x : RegW) (refused : State) : State :=
  match off with
  | 0xE10000 =>
    if !(x.covers 0) then s
    else outState s (if bit x.v 0 then execFuncDisable (fnOf f) s else execFuncReenable (fnOf f) s)
  | 0xE10100 => { s with sch := { s.sch with compBoot := x.rw s.sch.compBoot 0x000FFFFFFFFFF000 } }
  | 0xE10108 =>
    let h : Fin 32 := Fin.ofNat 32 (bits x.v 36 32)
    if !x.full then refused
    else match bits x.v 1 0 with
      | 1 => outState s (execCompAssign w h (fnOf (bits x.v 28 24)) s)
      | 2 => outState s (execCompStart w h s)
      | 3 => outState s (execCompStop w h s)
      | _ => s
  | _ =>
    match idxOf off 0xE00000 8 128, idxOf off 0xE10010 16 4, idxOf off 0xE10018 16 4 with
    | some k, _, _ =>
      let s := s.funcM f fun e => { e with
        msix := tabSet e.msix k (x.rw (tabGet e.msix k (if k % 2 = 1 then 1 <<< 32 else 0)) (BitVec.allOnes 64)) }
      let e := s.funcE f
      if !(bit (tabGet e.msix (2 * (k / 2) + 1) (1 <<< 32)) 32) && e.pba.contains (k / 2) then
        (s.funcM f fun e => { e with pba := setDel e.pba (k / 2) }).msix f (k / 2)
      else s
    | _, some i, _ => s.funcM f fun e =>
        let p := e.windows.getD i (0, 0)
        { e with windows := listSet e.windows i (x.rw p.1 0xFFFFFFFFFFFFF001, p.2) }
    | _, _, some i => s.funcM f fun e =>
        let p := e.windows.getD i (0, 0)
        { e with windows := listSet e.windows i (p.1, x.rw p.2 0xFFFFFFFFFFFFF000) }
    | none, none, none => s

end Sys2Proof.Machine
end

