-- ==== Sys2Proof/Machine/Registers.lean ====
section
/-! DEFINITION. Register accesses of every agent: width and alignment, windows of this module and of its span, the LA SRAM window,
FMP reads and writes, forwarded accesses (R7 to R9, R13, R14, R17, R24, R25, R71, R281, R308, R387). -/

namespace Sys2Proof.Machine

/-- All ones: what a refused read returns (R9, R24). -/
def ones : BitVec 64 := BitVec.allOnes 64

/-- The value that a read of `width` bytes at an offset returns (R9). -/
def readPart (off width : Nat) (v : BitVec 64) : BitVec 64 :=
  if width = 8 then v else if off % 8 = 4 then v >>> 32 else v &&& 0xFFFFFFFF#64

/-- Whether an access has a width and alignment of R9. -/
def goodAccess (off width : Nat) : Bool := (width = 8 && off % 8 = 0) || (width = 4 && off % 4 = 0)

/-- The stored limb word at an offset of a core's LA SRAM window: LA off ÷ 80 of the running context, limb (off mod 80) ÷ 8
(R71). -/
def State.laWord (s : State) (n off : Nat) : BitVec 64 :=
  let k := s.coreE (s.clusE (n / 4)).ctx n
  (tabGet k.tiles (off / 80) {}).limb.getD (off % 80 / 8) 0

/-- The UNC-class event of an access to an address that nothing answers, with the detail words of Table 16-26; the spec gives it no
code: a free value (R24; notes/assumptions/11.md). -/
def State.uncAccess (s : State) (w : Writer) (unit : BitVec 32) (addr : Nat) (data : BitVec 64) : State :=
  ({ s with free := s.free + 1 } : State).raiseRec {
    unit := s.modUid, cls := 1, code := Config.freeByte s.free, ctx := BitVec.ofNat 12 (s.writerCtx w), d0 := writerWord w unit
    d1 := BitVec.ofNat 64 addr, d2 := data, origin := s.writerFunc w }

/-- Whether an agent sees registers through a function's BAR0 (R281, R294). -/
def isBar (w : Writer) : Bool := match w with | .func _ | .hart _ => true | _ => false

/-- An access to a core's LA SRAM window: a read with debug privilege answers the limb word; any other access has no effect, is
recorded, and reads all ones; beyond the used part nothing answers (R24, R71). -/
def State.laAccess (s : State) (w : Writer) (unit : BitVec 32) (off width : Nat) (v : Option (BitVec 64)) :
    State × Option (BitVec 64) :=
  let n := (uidFields unit).coreN
  let addr := laBase n + off
  if 0x280000 ≤ off then (s.uncAccess w 0 addr (v.getD 0), some ones)
  else if v.isSome || !(s.hasDebug w) || !(goodAccess off width) then (s.infoAccess w 0 addr (v.getD 0), some ones)
  else (s, some (readPart off width (s.laWord n (off / 8 * 8))))

/-- The module whose window a unit's access reaches, where that is not this one: the unit's own, or the span's master (R14, R25). -/
def State.farOf (s : State) (unit : BitVec 32) : Option Nat :=
  let u := uidFields unit
  let m := if u.level = 4 then s.masterIdx else u.module
  if m = s.modIdx then none else some m

/-- The progress of a domain's zero fill, seen when KD_STAT is read: MiB that the spec does not fix, never fewer than before (R277, Table
12-12; notes/assumptions/11.md). -/
def State.kdProgress (s : State) : State :=
  let e := s.domE s.kdStat.domain.toNat
  if e.state ≠ 2 then s
  else
    let (s, w) := s.freeWord64
    { s with kdStat := { s.kdStat with doneMib := max s.kdStat.doneMib (w.toNat % (e.size / 2 ^ 20 + 1)) } }

/-- An access to a unit window at an offset below 0x10000; `absent` is the state where nothing answers, `refused` where R9 refuses
the access (R9, R13, R14, R17, R25). -/
def State.windowAccess (s : State) (w : Writer) (unit : BitVec 32) (off width : Nat) (v : Option (BitVec 64))
    (absent refused : State) : State × Option (BitVec 64) :=
  let a := off / 8 * 8
  if !(s.unitValid unit) then (absent, some ones)
  else if !(goodAccess off width) then (refused, some ones)
  else match s.farOf unit with
    | some m =>
      if !(bit s.span.admitted m) then (absent, some ones)
      else
        let addr := windowBase unit + off
        (({ s with span := { s.span with forwards := s.span.forwards ++ [(m, addr, w, v.isSome)] } }).emit
          (.spanC m 12 (BitVec.ofNat 64 addr)), none)
    | none =>
      let s := if a = 0x260 && v.isNone && (uidFields unit).level = 3 then s.kdProgress else s
      match s.readReg w unit a, v with
      | .val r, none => (s, some (readPart off width r))
      | .val _, some x => (s.writeReg w unit a (regW off width x) refused, none)
      | .zero, none => (refused, some 0)
      | .zero, some _ => (refused, none)
      | .bad, _ => (refused, some ones)

/-- An access to a function's own blocks of BAR0 (R9, R281, Table 13-2). -/
def State.blockAccess (s : State) (w : Writer) (f off width : Nat) (v : Option (BitVec 64)) : State × Option (BitVec 64) :=
  let a := off / 8 * 8
  let refused := s.infoAccess w 0 off (v.getD 0)
  if !(goodAccess off width) then (refused, some ones)
  else match s.readBar f a, v with
    | .val r, none => (s, some (readPart off width r))
    | .val _, some x => (s.writeBar w f a (regW off width x) refused, none)
    | _, _ => (refused, some ones)

/-- An access at an offset of a function's BAR0: a window slot, the function's blocks, or a reserved offset, which follows R9 as a
slot of an absent unit does (R281, Tables 13-2, 13-3). -/
def State.barAccess (s : State) (w : Writer) (f off width : Nat) (v : Option (BitVec 64)) : State × Option (BitVec 64) :=
  if 0xE00000 ≤ off then s.blockAccess w f off width v
  else if 0x560000 ≤ off then (s.infoAccess w 0 off (v.getD 0), some ones)
  else
    let unit := s.slotUnit (off / 0x10000)
    let refused := s.infoAccess w unit (off % 0x10000) (v.getD 0)
    s.windowAccess w unit (off % 0x10000) width v refused refused

/-- A register access of `width` bytes by an agent, a write where `v` holds a value: the state after it and the value read, or none
while another module must answer. A host function and its companion cores name an offset of 0x10000 and up in BAR0, or an offset
below it in the window of a unit that has a slot; any other agent names a unit's window, or from 0x400000 on the LA SRAM slot of a
core, and nothing answers elsewhere (R7 to R9, R13, R17, R22, R24, R25, R281, R294). -/
def State.regAccess (s : State) (w : Writer) (unit : BitVec 32) (off width : Nat) (v : Option (BitVec 64)) :
    State × Option (BitVec 64) :=
  let data := v.getD 0
  let refused := s.infoAccess w unit off data
  if isBar w then
    match s.writerFunc w with
    | none => (s.infoAccess w 0 off data, some ones)
    | some f =>
      if 0x10000 ≤ off then s.barAccess w f.val off width v
      else if s.slotUnit (slotOf (uidFields unit)) ≠ unit then (refused, some ones)
      else s.windowAccess w unit off width v refused refused
  else
    let u := uidFields unit
    if off < 0x10000 then s.windowAccess w unit off width v (s.uncAccess w unit (windowBase unit + off) data) refused
    else if 0x400000 ≤ off && off < 0x800000 && u.level = 0 && (s.farOf unit).isNone && s.unitValid unit then
      s.laAccess w unit (off - 0x400000) width v
    else
      let addr := if off < 0x400000 then windowBase unit + off
        else if off < 0x800000 then laBase u.coreN + (off - 0x400000) else 0x040000000000 + off
      (s.uncAccess w unit addr data, some ones)

/-- A register access whose answer goes to the agent that made it. -/
def State.regDo (s : State) (w : Writer) (unit : BitVec 32) (off width : Nat) (v : Option (BitVec 64)) : State :=
  let (t, r) := s.regAccess w unit off width v
  match v, r with
  | none, some x => t.emit (.readData x)
  | _, _ => t

/-- INVALID_REGISTER_ACCESS: a register access, judged by its width, alignment, offset, unit and privilege (R9, R13, R17, R21,
R24). -/
def execInvalidRegisterAccess (w : Writer) (unit : BitVec 32) (off : BitVec 24) (width : Nat) (v : Option (BitVec 64)) (s : State) : Out :=
  .next (match w with
  | .mgmt _ => if s.hasRole w (if v.isSome then 1 else 0) then s.regDo w unit off.toNat width v else s
  | _ => s.regDo w unit off.toNat width v)

/-- REGISTER_WRITE: a write under the access types of its fields (R7, R8, R9). -/
def execRegisterWrite (w : Writer) (unit : BitVec 32) (off : BitVec 24) (width : Nat) (v : BitVec 64) (s : State) : Out :=
  .next (if s.hasRole w 1 then s.regDo w unit off.toNat width (some v) else s)

/- FMP. -/

/-- The unit and offset of a unit-window address (Table 1-11). -/
def windowOfAddr (a : Nat) : Option (BitVec 32 × Nat) :=
  if 0x030000000000 ≤ a && a < 0x030000000000 + 2 ^ 13 * 0x10000 then
    some (BitVec.ofNat 32 ((a - 0x030000000000) / 0x10000 * 2 ^ 19), a % 0x10000)
  else none

/-- One FMP register access: INVALID outside every unit window, DENIED at a debug block without DEBUG; else the access with
management-port rights, answered at once unless another module must answer it (R386, R387, Table 19-4). -/
def State.fmpReg (s : State) (id : Fin 8) (role : Nat) (addr : BitVec 52) (width : Nat) (v : Option (BitVec 64)) : State :=
  let w : Writer := .mgmt (id.castLE (by omega))
  s.fmpOp id role fun s =>
    match windowOfAddr addr.toNat with
    | none => s.fmpAns id 2
    | some (unit, off) =>
      if 0x8000 ≤ off && !(s.hasRole w 4) then s.fmpAns id 1
      else
        let (t, r) := s.regAccess w unit off width v
        match v, r with
        | none, some x => (t.fmpAns id 0).emit (.fmpBody id.val [x])
        | none, none => t
        | some _, _ => t.fmpAns id 0

def execRegRead (id : Fin 8) (addr : BitVec 52) (width : Nat) (s : State) : Out := .next (s.fmpReg id 0 addr width none)

def execRegWrite (id : Fin 8) (addr : BitVec 52) (width : Nat) (v : BitVec 64) (s : State) : Out :=
  .next (s.fmpReg id 1 addr width (some v))

/- Between the modules of a span. -/

/-- The answer to an access that this module forwarded: a value that this module does not know, to the agent that made it
(notes/assumptions/10.md). -/
def State.forwardAnswer (s : State) (w : Writer) (write : Bool) : State :=
  if write then s
  else
    let (s, x) := s.freeWord64
    s.answerRead w x

/-- FORWARDED_ACCESS: an access of module m to a window of this module, or to the span unit on its master, takes effect as that
module's; or module m answers one that this module forwarded to it (R14, R25, R308). -/
def execForwardedAccess (m : ModN) (addr : BitVec 52) (width : Nat) (w : Option (BitVec 64)) (s : State) : Out :=
  .next (match windowOfAddr addr.toNat with
  | none => s
  | some (unit, off) =>
    match s.farOf unit with
    | none => if bit s.span.admitted m.val then s.regDo (.peer m) unit off width w else s
    | some far =>
      if far ≠ m.val then s
      else match s.span.forwards.find? fun f => f.1 == m.val && f.2.1 == addr.toNat && f.2.2.2 == w.isSome with
        | none => s
        | some f =>
          ({ s with span := { s.span with forwards := s.span.forwards.erase f } }).forwardAnswer f.2.2.1 w.isSome)

end Sys2Proof.Machine
end

