-- ==== Sys2Proof/Machine/Harts.lean ====
section
/-! DEFINITION. What a companion core does at the module: its accesses to memory, host memory and registers, the access fault that any
other raises, and the services of its monitor (R294, R295, 13_host_link.md; notes/assumptions/24.md). -/

namespace Sys2Proof.Machine

/-- The RISC-V access fault in a hart: cause, address and saved program counter; its handler stands where the hart's own trap vector
says, which is a free value (R294). -/
def State.hartFault (s : State) (h cause : Nat) (addr : BitVec 64) : State :=
  let (s, v) := s.freeWord64
  s.hartM h fun e => { e with cause := cause, tval := addr, epc := e.pc, pc := v }

/-- An access of a hart outside what it may reach: recorded, and the access fault, cause 5 of a load and 7 of a store (R294). -/
def State.hartRefused (s : State) (h : Fin 32) (cause : Nat) (addr : BitVec 64) (data : BitVec 64) : State :=
  (s.infoAccess (.hart h) 0 addr.toNat data).hartFault h.val cause addr

/-- A hart's access of n bytes to its function's memory range under its key domain, to one of the function's host windows, or to the
function's BAR0 view, a store where `v` holds the bytes; any other is refused, and a store to a page that a DCOW protects waits for its copy (R294, R357). -/
def State.hartAccess (s : State) (h : Fin 32) (f : Nat) (addr : BitVec 64) (n : Nat) (v : Option (List (BitVec 8))) : State :=
  let fe := s.funcE f
  let a := addr.toNat
  let data := v.elim (0 : BitVec 64) fun b => BitVec.ofNat 64 (bytesNat (b.take 8))
  let cause := if v.isSome then 7 else 5
  let answer := fun (s : State) (b : List (BitVec 8)) => s.emit (.readData (BitVec.ofNat 64 (bytesNat b)))
  if fe.base ≤ a && a + n ≤ fe.base + fe.size then
    let closed := (s.hdmBar f a n).isSome || (linesOf a n).any fun l => !(s.rangeOpen (64 * l)) || s.retired (64 * l)
    if closed then s.hartRefused h cause addr data
    else match v with
      | some b =>
        if (linesOf a n).any fun l => (s.protector (l / 1024)).isSome then
          { s with mem := { s.mem with hostHeld := s.mem.hostHeld ++ [(a, fe.dom.getD 0, b)] } }
        else
        let (s, bad) := s.stackWrite a b { s.hdmReq f with unit := s.dieUid (h.val / 8) }
        if bad.isSome then s.hartFault h.val cause addr else s
      | none =>
        let (s, r) := s.stackRead a n { s.hdmReq f with unit := s.dieUid (h.val / 8) }
        match r with
        | .ok b => answer s b
        | .error _ => s.hartFault h.val cause addr
  else if s.inHostWin f a n then
    if !s.sch.hostLink || s.atsFails f a n then s.hartRefused h cause addr data
    else match v with
      | some b => s.hostWrite f a b
      | none => let (s, b) := s.hostRead f a n; answer s b
  else if 0x040000000000 ≤ a && a < 0x040001000000 then
    let (t, r) := s.barAccess (.hart h) f (a - 0x040000000000) n (v.map fun _ => data)
    match v, r with
    | none, some x => t.emit (.readData x)
    | _, _ => t
  else s.hartRefused h cause addr data

/-- HART_ACCESS_REFUSED: what a running hart does: an access, refused outside its function's range, host windows and BAR0 view; a read of
the time CSR, whose value no rule fixes; or a call of the monitor's SBI timer, IPI, hart-state or system-reset extension (R294, R295). -/
def execHartAccessRefused (h : Fin 32) (act : HartAct) (s : State) : Out :=
  let e := s.hartE h.val
  let mine := fun (s : State) (k : Nat) => (s.hartE k).func == e.func
  .next (match e.func with
  | none => s
  | some f =>
    if !e.running then s
    else match act with
      | .load addr n => s.hartAccess h f addr n none
      | .store addr b => s.hartAccess h f addr b.length (some b)
      | .time => let (s, v) := s.freeWord64; s.emit (.readData v)
      | .setTimer t => s.hartM h.val fun e => { e with timer := some t }
      | .sendIpi mask => ((maskList 32 mask.toNat).filter (mine s)).foldl (fun (s : State) k => s.hartM k fun e => { e with ipi := true }) s
      | .start k addr =>
        let fe := s.funcE f
        let a := addr.toNat
        if mine s k.val && !(s.hartE k.val).running && fe.base ≤ a && a < fe.base + fe.size && !(s.dieE (k.val / 8)).inReset then
          ({ s with pwr := { s.pwr with off := setDel s.pwr.off (hartDomain k.val) } }).hartM k.val fun e =>
            { e with running := true, pc := addr, supervisor := true }
        else s
      | .stop => s.hartM h.val fun e => { e with running := false }
      | .reset => s.stopHarts f)

end Sys2Proof.Machine
end

