-- ==== Sys2Proof/Machine/Rv32.lean ====
section
/-! DEFINITION. The RV32IMAC instructions of a sequencer's processor: the compressed instructions as the words they stand for, and what an
instruction word asks of the processor (R154). PRESUMED (notes/assumptions/6.md): the encodings and the arithmetic are those of the
RISC-V documents, which R154 names; the words of the custom instructions of Table 7-2 are Config.seqCustom's. -/

namespace Sys2Proof.Machine

/-- What an instruction asks for: a result and the next program counter, an access to memory, a CSR access (operation 1 writes, 2 sets
and 3 clears; none of a set or clear only reads), an instruction of Table 7-2, ECALL, EBREAK, or an instruction the hart does not have. -/
inductive RvAct where
  | put (rd : Nat) (v next : BitVec 32)
  | access (a : SeqAccess)
  | csr (csr : BitVec 12) (rd op : Nat) (src : Option (BitVec 32))
  | custom (c : Config.SeqCustom)
  | ecall
  | ebreak
  | illegal
  deriving DecidableEq, Repr, Inhabited

/-- The base arithmetic by funct3; `alt` is funct7 bit 5. -/
def rvAlu (f3 : Nat) (alt : Bool) (a b : BitVec 32) : BitVec 32 :=
  let sh := b.toNat % 32
  match f3 with
  | 0 => if alt then a - b else a + b
  | 1 => a <<< sh
  | 2 => if a.slt b then 1 else 0
  | 3 => if a.ult b then 1 else 0
  | 4 => a ^^^ b
  | 5 => if alt then a.sshiftRight sh else a >>> sh
  | 6 => a ||| b
  | _ => a &&& b

/-- The M extension by funct3: a division by zero gives all ones and its remainder the dividend, and the overflowing division gives the
dividend and remainder 0. -/
def rvMul (f3 : Nat) (a b : BitVec 32) : BitVec 32 :=
  let hi := fun (x y : Int) => BitVec.ofInt 32 (x * y / 2 ^ 32)
  match f3 with
  | 0 => a * b
  | 1 => hi a.toInt b.toInt
  | 2 => hi a.toInt b.toNat
  | 3 => hi a.toNat b.toNat
  | 4 => if b = 0 then BitVec.allOnes 32 else BitVec.ofInt 32 (a.toInt.tdiv b.toInt)
  | 5 => if b = 0 then BitVec.allOnes 32 else a / b
  | 6 => if b = 0 then a else BitVec.ofInt 32 (a.toInt.tmod b.toInt)
  | _ => if b = 0 then a else a % b

/-- Whether a branch is taken, by funct3; 2 and 3 are no branches. -/
def rvBranch (f3 : Nat) (a b : BitVec 32) : Option Bool :=
  match f3 with
  | 0 => some (a == b)
  | 1 => some (a != b)
  | 4 => some (a.slt b)
  | 5 => some (!(a.slt b))
  | 6 => some (a.ult b)
  | 7 => some (!(a.ult b))
  | _ => none

/-- An AMO by its funct5. -/
def rvAmo (f5 : Nat) : Option AmoOp :=
  match f5 with
  | 0 => some .add | 1 => some .swap | 4 => some .xor | 8 => some .or | 12 => some .and
  | 16 => some .min | 20 => some .max | 24 => some .minu | 28 => some .maxu
  | _ => none

/-- The immediates of the I, S, B, U and J formats. -/
def immI (w : BitVec 32) : BitVec 32 := (w.extractLsb' 20 12).signExtend 32
def immS (w : BitVec 32) : BitVec 32 := (w.extractLsb' 25 7 ++ w.extractLsb' 7 5).signExtend 32
def immB (w : BitVec 32) : BitVec 32 :=
  (w.extractLsb' 31 1 ++ w.extractLsb' 7 1 ++ w.extractLsb' 25 6 ++ w.extractLsb' 8 4 ++ 0#1).signExtend 32
def immU (w : BitVec 32) : BitVec 32 := w &&& 0xFFFFF000#32
def immJ (w : BitVec 32) : BitVec 32 :=
  (w.extractLsb' 31 1 ++ w.extractLsb' 12 8 ++ w.extractLsb' 20 1 ++ w.extractLsb' 21 10 ++ 0#1).signExtend 32

/-- What a 32-bit instruction word at `pc` asks for, with the registers `x`; `len` is 2 where it stands for a compressed one. -/
def rvAct (w pc : BitVec 32) (len : Nat) (x : Nat → BitVec 32) : RvAct :=
  let rd := bits w 11 7
  let f3 := bits w 14 12
  let f7 := bits w 31 25
  let a := x (bits w 19 15)
  let b := x (bits w 24 20)
  let seq := pc + BitVec.ofNat 32 len
  let reg := Fin.ofNat 32 rd
  match bits w 6 0 with
  | 0x37 => .put rd (immU w) seq
  | 0x17 => .put rd (pc + immU w) seq
  | 0x6F => .put rd seq (pc + immJ w)
  | 0x67 => if f3 = 0 then .put rd seq ((a + immI w) &&& ~~~1#32) else .illegal
  | 0x63 => match rvBranch f3 a b with
    | some t => .put 0 0 (if t then pc + immB w else seq)
    | none => .illegal
  | 0x03 => match f3 with
    | 0 | 1 | 2 => .access (.load (a + immI w) (2 ^ f3) true reg)
    | 4 | 5 => .access (.load (a + immI w) (2 ^ (f3 - 4)) false reg)
    | _ => .illegal
  | 0x23 => if f3 ≤ 2 then .access (.store (a + immS w) (2 ^ f3) b) else .illegal
  | 0x13 =>
    if f3 = 1 && f7 ≠ 0 || f3 = 5 && f7 ≠ 0 && f7 ≠ 0x20 then .illegal
    else .put rd (rvAlu f3 (f3 = 5 && f7 = 0x20) a (immI w)) seq
  | 0x33 =>
    if f7 = 1 then .put rd (rvMul f3 a b) seq
    else if f7 = 0 || f7 = 0x20 && (f3 = 0 || f3 = 5) then .put rd (rvAlu f3 (f7 = 0x20) a b) seq
    else .illegal
  | 0x0F => if f3 = 0 then .put 0 0 seq else .illegal
  | 0x2F =>
    if f3 ≠ 2 then .illegal
    else match bits w 31 27 with
      | 2 => if bits w 24 20 = 0 then .access (.lr a reg) else .illegal
      | 3 => .access (.sc a b reg)
      | f5 => match rvAmo f5 with
        | some op => .access (.amo op a b reg)
        | none => .illegal
  | 0x73 =>
    let src := if f3 < 4 then a else BitVec.ofNat 32 (bits w 19 15)
    match f3 % 4 with
    | 0 => if w = 0x00000073#32 then .ecall else if w = 0x00100073#32 then .ebreak else .illegal
    | op => .csr (w.extractLsb' 20 12) rd op (if op ≠ 1 && bits w 19 15 = 0 then none else some src)
  | 0x0B | 0x2B | 0x5B | 0x7B => match Config.seqCustom w with
    | some c => .custom c
    | none => .illegal
  | _ => .illegal

/- The words that compressed instructions stand for. -/

def rvI (imm : BitVec 32) (rs1 f3 rd op : Nat) : BitVec 32 :=
  BitVec.ofNat 32 (packFields [(bits imm 11 0, 20, 12), (rs1, 15, 5), (f3, 12, 3), (rd, 7, 5), (op, 0, 7)])
def rvR (f7 rs2 rs1 f3 rd op : Nat) : BitVec 32 :=
  BitVec.ofNat 32 (packFields [(f7, 25, 7), (rs2, 20, 5), (rs1, 15, 5), (f3, 12, 3), (rd, 7, 5), (op, 0, 7)])
def rvS (imm : BitVec 32) (rs2 rs1 f3 : Nat) : BitVec 32 :=
  rvR (bits imm 11 5) rs2 rs1 f3 (bits imm 4 0) 0x23
def rvB (imm : BitVec 32) (rs1 f3 : Nat) : BitVec 32 :=
  rvR (64 * bits imm 12 12 + bits imm 10 5) 0 rs1 f3 (2 * bits imm 4 1 + bits imm 11 11) 0x63
def rvJ (imm : BitVec 32) (rd : Nat) : BitVec 32 :=
  BitVec.ofNat 32 (packFields [(bits imm 20 20, 31, 1), (bits imm 10 1, 21, 10), (bits imm 11 11, 20, 1), (bits imm 19 12, 12, 8),
    (rd, 7, 5), (0x6F, 0, 7)])

/-- The immediate of CI format, of C.J and of C.BEQZ. -/
def cImm (c : BitVec 16) : BitVec 32 := (c.extractLsb' 12 1 ++ c.extractLsb' 2 5).signExtend 32
def cImmJ (c : BitVec 16) : BitVec 32 :=
  (c.extractLsb' 12 1 ++ c.extractLsb' 8 1 ++ c.extractLsb' 9 2 ++ c.extractLsb' 6 1 ++ c.extractLsb' 7 1 ++ c.extractLsb' 2 1 ++
    c.extractLsb' 11 1 ++ c.extractLsb' 3 3 ++ 0#1).signExtend 32
def cImmB (c : BitVec 16) : BitVec 32 :=
  (c.extractLsb' 12 1 ++ c.extractLsb' 5 2 ++ c.extractLsb' 2 1 ++ c.extractLsb' 10 2 ++ c.extractLsb' 3 2 ++ 0#1).signExtend 32

/-- Quadrant 0: C.ADDI4SPN, C.LW and C.SW. -/
def expand0 (c : BitVec 16) : Option (BitVec 32) :=
  let r := 8 + bits c 9 7
  let r' := 8 + bits c 4 2
  let word := BitVec.ofNat 32 (packFields [(bits c 12 10, 3, 3), (bits c 6 6, 2, 1), (bits c 5 5, 6, 1)])
  match bits c 15 13 with
  | 0 =>
    let n := packFields [(bits c 12 11, 4, 2), (bits c 10 7, 6, 4), (bits c 6 6, 2, 1), (bits c 5 5, 3, 1)]
    if n = 0 then none else some (rvI (BitVec.ofNat 32 n) 2 0 r' 0x13)
  | 2 => some (rvI word r 2 r' 0x03)
  | 6 => some (rvS word r' r 2)
  | _ => none

/-- Quadrant 1. -/
def expand1 (c : BitVec 16) : Option (BitVec 32) :=
  let rd := bits c 11 7
  let r := 8 + bits c 9 7
  let r' := 8 + bits c 4 2
  match bits c 15 13 with
  | 0 => some (rvI (cImm c) rd 0 rd 0x13)
  | 1 => some (rvJ (cImmJ c) 1)
  | 2 => some (rvI (cImm c) 0 0 rd 0x13)
  | 3 =>
    if cImm c = 0 then none
    else if rd = 2 then
      some (rvI ((c.extractLsb' 12 1 ++ c.extractLsb' 3 2 ++ c.extractLsb' 5 1 ++ c.extractLsb' 2 1 ++ c.extractLsb' 6 1 ++ 0#4).signExtend 32)
        2 0 2 0x13)
    else some ((cImm c <<< 12) ||| BitVec.ofNat 32 (128 * rd + 0x37))
  | 4 => match bits c 11 10 with
    | 0 => if bit c 12 then none else some (rvI (BitVec.ofNat 32 (bits c 6 2)) r 5 r 0x13)
    | 1 => if bit c 12 then none else some (rvI (BitVec.ofNat 32 (0x400 + bits c 6 2)) r 5 r 0x13)
    | 2 => some (rvI (cImm c) r 7 r 0x13)
    | _ =>
      if bit c 12 then none
      else match bits c 6 5 with
        | 0 => some (rvR 0x20 r' r 0 r 0x33)
        | 1 => some (rvR 0 r' r 4 r 0x33)
        | 2 => some (rvR 0 r' r 6 r 0x33)
        | _ => some (rvR 0 r' r 7 r 0x33)
  | 5 => some (rvJ (cImmJ c) 0)
  | 6 => some (rvB (cImmB c) r 0)
  | _ => some (rvB (cImmB c) r 1)

/-- Quadrant 2. -/
def expand2 (c : BitVec 16) : Option (BitVec 32) :=
  let rd := bits c 11 7
  let rs2 := bits c 6 2
  match bits c 15 13 with
  | 0 => if bit c 12 then none else some (rvI (BitVec.ofNat 32 rs2) rd 1 rd 0x13)
  | 2 =>
    if rd = 0 then none
    else some (rvI (BitVec.ofNat 32 (packFields [(bits c 12 12, 5, 1), (bits c 6 4, 2, 3), (bits c 3 2, 6, 2)])) 2 2 rd 0x03)
  | 4 =>
    if bit c 12 then
      if rs2 ≠ 0 then some (rvR 0 rs2 rd 0 rd 0x33)
      else if rd = 0 then some 0x00100073#32
      else some (rvI 0 rd 0 1 0x67)
    else if rs2 ≠ 0 then some (rvR 0 rs2 0 0 rd 0x33)
    else if rd = 0 then none
    else some (rvI 0 rd 0 0 0x67)
  | 6 => some (rvS (BitVec.ofNat 32 (packFields [(bits c 12 9, 2, 4), (bits c 8 7, 6, 2)])) rs2 2 2)
  | _ => none

/-- The 32-bit word that a compressed instruction stands for; none for an encoding the hart does not have. -/
def rvExpand (c : BitVec 16) : Option (BitVec 32) :=
  match bits c 1 0 with
  | 0 => expand0 c
  | 1 => expand1 c
  | 2 => expand2 c
  | _ => none

end Sys2Proof.Machine
end

