-- ==== Sys2Proof/Machine/SeqMem.lean ====
section
/-! DEFINITION. The ordinary instructions of a sequencer's processor: its address space, its CSRs, its RISC-V exceptions, and the step
that fetches the instruction at its program counter and executes it on its own registers (R154 to R156, R166, R269, Tables 7-1, 7-3). -/

namespace Sys2Proof.Machine

/-- A sequencer instruction of `len` bytes retires. -/
def SeqCtx.retireBy (q : SeqCtx) (pc : BitVec 32) (len : Nat) : SeqCtx :=
  { q with pc := pc + BitVec.ofNat 32 len, instret := q.instret + 1, run := .run }

/-- What an AMO stores, from the old word and its operand (RISC-V A extension). -/
def amoResult (op : AmoOp) (old v : BitVec 32) : BitVec 32 :=
  match op with
  | .swap => v
  | .add => old + v
  | .xor => old ^^^ v
  | .and => old &&& v
  | .or => old ||| v
  | .min => if old.slt v then old else v
  | .max => if old.slt v then v else old
  | .minu => if old.ult v then old else v
  | .maxu => if old.ult v then v else old

/-- A loaded value as the register takes it: sign- or zero-extended. -/
def extend (bytes : Nat) (signed : Bool) (v : Nat) : BitVec 32 :=
  match bytes, signed with
  | 1, true => (BitVec.ofNat 8 v).signExtend 32
  | 2, true => (BitVec.ofNat 16 v).signExtend 32
  | _, _ => BitVec.ofNat 32 v

/-- Where an address lies in Table 7-1, for an access of n bytes that is naturally aligned. -/
inductive SeqPlace where
  | data (off : Nat)
  | replay (word : Nat)
  | counter
  | text (off : Nat)
  | window (va : Nat)
  | none
  deriving DecidableEq, Repr, Inhabited

def SeqCtx.placeOf (q : SeqCtx) (a n : Nat) : SeqPlace :=
  if a + n ≤ q.dataExt then .data a
  else if 0x40000 ≤ a && a < 0x48000 && (a - 0x40000) / 32 < q.replayExt then .replay ((a - 0x40000) / 4)
  else if 0x50000 ≤ a && a < 0x50400 then .counter
  else if 0x10000000 ≤ a && a + n ≤ 0x10000000 + q.textSize then .text (a - 0x10000000)
  else if 0x80000000 ≤ a then .window (q.winBase.toNat + (a - 0x80000000))
  else .none

/-- The agent that a sequencer's own accesses are made as, in class L (R154, R155). -/
def seqAgent (ctx cl : Nat) : Agent := { ctx := ctx, core := none, cluster := cl, cls := 0 }

/-- The access-fault exception of a translated access that failed, with the words of Table 8-13 (R155, R269). -/
def State.seqAccErr (s : State) (ctx cl code : Nat) (addr pc : BitVec 32) (e : AccErr) (write : Bool) : State :=
  let d := accDetail e write
  s.seqExc ctx cl code addr pc (some (d.1, d.2.1, reg [(pc.toNat, 32, 32)], d.2.2))

/-- n bytes at a virtual address of the context; a UNIT leaf is a register read (R155, Table 12-8). -/
def State.seqVaRead (s : State) (ctx cl va n : Nat) (u : Use) : State × Except AccErr Nat :=
  let g := seqAgent ctx cl
  let (s, r) := s.translate g va u
  match r with
  | .error e => (s, .error e)
  | .ok (.unit i o, _) =>
    let (s, x) := s.regAccess (.seqr (Fin.ofNat 16 cl)) (BitVec.ofNat 32 (i * 2 ^ 19)) o n none
    (s, .ok (x.getD 0).toNat)
  | .ok (l, _) =>
    let (s, r) := s.locRead g l n
    match r with
    | .error e => (s, .error e)
    | .ok b => (s, .ok (bytesNat b))

/-- n bytes stored at a virtual address of the context; none where a copy-on-first-touch page of a context that does not run makes
the store wait (R144, R155, R357). -/
def State.seqVaWrite (s : State) (ctx cl va n : Nat) (v : BitVec 32) : Option (State × Option AccErr) :=
  let g := seqAgent ctx cl
  let (t, r) := s.translate g va .write
  match r with
  | .error e => some (t, some e)
  | .ok (.unit i o, _) =>
    some ((t.regAccess (.seqr (Fin.ofNat 16 cl)) (BitVec.ofNat 32 (i * 2 ^ 19)) o n (some (v.setWidth 64))).1, none)
  | .ok (.phys a, _) => if t.pageWaits (a / 65536) then none else some (t.locWrite g (.phys a) (natBytes n v.toNat))
  | .ok (l, _) => some (t.locWrite g l (natBytes n v.toNat))

/-- A load or an LR. -/
def State.seqLoad (s : State) (ctx cl : Nat) (pc : BitVec 32) (len : Nat) (addr : BitVec 32) (n : Nat) (signed : Bool) (rd : Nat)
    (lr : Bool) : State :=
  let q := s.seqE ctx cl
  let a := addr.toNat
  let done := fun (s : State) (v : Nat) => s.seqM ctx cl fun q => (q.setX rd (extend n signed v)).retireBy pc len
  let fault := fun (e : AccErr) (s : State) => s.seqAccErr ctx cl 5 addr pc e false
  if n ≠ 1 && n ≠ 2 && n ≠ 4 then s
  else if a % n ≠ 0 then s.seqExc ctx cl 4 addr pc
  else match q.placeOf a n, lr with
    | .data o, _ =>
      let s := if lr then s.seqM ctx cl fun q => { q with resv := some addr } else s
      done s (bytesNat (q.dataBytes o n))
    | .replay w, false => if n = 4 then done s (tabGet q.replay w 0).toNat else s.seqExc ctx cl 5 addr pc
    | .text o, false =>
      let (s, r) := s.seqVaRead ctx cl (q.text + o) n .read
      match r with | .ok v => done s v | .error e => fault e s
    | .window va, false =>
      let (s, r) := s.seqVaRead ctx cl va n .read
      match r with | .ok v => done s v | .error e => fault e s
    | _, _ => s.seqExc ctx cl 5 addr pc

/-- A store: those to the replay buffer and the counter window are issue-class (R158). -/
def State.seqStore (s : State) (ctx cl : Nat) (pc : BitVec 32) (len : Nat) (addr : BitVec 32) (n : Nat) (v : BitVec 32) : State :=
  let q := s.seqE ctx cl
  let a := addr.toNat
  let done := fun (s : State) => s.seqM ctx cl fun q => q.retireBy pc len
  if n ≠ 1 && n ≠ 2 && n ≠ 4 then s
  else if a % n ≠ 0 then s.seqExc ctx cl 6 addr pc
  else match q.placeOf a n with
    | .data o => done (s.seqM ctx cl fun q => { q with dmem := cellsPut q.dmem o (natBytes n v.toNat) })
    | .replay _ => if n = 4 then s.issueClass cl pc (.repStore addr v) else s.seqExc ctx cl 7 addr pc
    | .counter => if n = 4 then s.issueClass cl pc (.ctrStore addr v) else s.seqExc ctx cl 7 addr pc
    | .window va =>
      match s.seqVaWrite ctx cl va n v with
      | none => s
      | some (s, none) => done s
      | some (s, some e) => s.seqAccErr ctx cl 7 addr pc e true
    | _ => s.seqExc ctx cl 7 addr pc

/-- An SC or an AMO: data memory alone takes them; SC stores while the reservation stands on its word and answers 0, else 1 (R155,
RISC-V A extension, notes/assumptions/20.md). -/
def State.seqAtomic (s : State) (ctx cl : Nat) (pc : BitVec 32) (len : Nat) (addr v : BitVec 32) (rd : Nat) (op : Option AmoOp) : State :=
  let q := s.seqE ctx cl
  let a := addr.toNat
  if a % 4 ≠ 0 then s.seqExc ctx cl 6 addr pc
  else match q.placeOf a 4 with
    | .data o =>
      let old := BitVec.ofNat 32 (bytesNat (q.dataBytes o 4))
      s.seqM ctx cl fun q =>
        match op with
        | some op =>
          (({ q with dmem := cellsPut q.dmem o (natBytes 4 (amoResult op old v).toNat) }).setX rd old).retireBy pc len
        | none =>
          let ok := q.resv == some addr
          let q := { q with resv := none, dmem := if ok then cellsPut q.dmem o (natBytes 4 v.toNat) else q.dmem }
          (q.setX rd (if ok then 0 else 1)).retireBy pc len
    | _ => s.seqExc ctx cl 7 addr pc

/-- The value of a CSR of Table 7-3; none for one that does not exist. The standard counters have advanced by an amount that the
model does not count (R154, notes/assumptions/11.md). -/
def State.csrValue (s : State) (ctx cl : Nat) (csr : Nat) : Option (BitVec 32) :=
  let q := s.seqE ctx cl
  match csr with
  | 0xCC0 => some (s.clusUid cl)
  | 0xCC1 => some (BitVec.ofNat 32 (packFields [(q.count.toNat, 16, 16), (q.rank.toNat, 0, 16)]))
  | 0xCC2 => some (BitVec.ofNat 32 (packFields [(q.job.toNat, 4, 4), ((s.presentMask cl).toNat, 0, 4)]))
  | 0xCC3 => some (BitVec.ofNat 32 ctx)
  | 0xCC4 | 0x801 => some q.step
  | 0x800 => some (q.bmask.setWidth 32)
  | 0xC00 => some (q.cycle.setWidth 32)
  | 0xC80 => some (BitVec.ofNat 32 (bits q.cycle 63 32))
  | 0xC02 => some (q.instret.setWidth 32)
  | 0xC82 => some (BitVec.ofNat 32 (bits q.instret 63 32))
  | _ => none

/-- The counters move on before they are read. -/
def State.ticked (s : State) (ctx cl : Nat) : State :=
  let (s, a) := s.freeWord64
  let (s, b) := s.freeWord64
  s.seqM ctx cl fun q => { q with cycle := q.cycle + a, instret := q.instret + b }

/-- A CSR access: a write to 0x800 or 0x801 is issue-class; any other write, and any access to a CSR that does not exist, the time CSR
among them, is the illegal-instruction exception (R156, R158, R166). `word` is the instruction. -/
def State.seqCsr (s : State) (ctx cl : Nat) (pc : BitVec 32) (len : Nat) (csr : BitVec 12) (rd : Nat) (v : Option (BitVec 32))
    (word : BitVec 32) : State :=
  let c := csr.toNat
  let s := if c = 0xC00 || c = 0xC80 || c = 0xC02 || c = 0xC82 then s.ticked ctx cl else s
  match s.csrValue ctx cl c, v with
  | some x, none => s.seqM ctx cl fun q => (q.setX rd x).retireBy pc len
  | some x, some v =>
    if c = 0x800 then (s.seqM ctx cl fun q => q.setX rd x).issueClass cl pc (.bmask v)
    else if c = 0x801 then (s.seqM ctx cl fun q => q.setX rd x).issueClass cl pc .stepadv
    else s.seqExc ctx cl 2 word pc
  | none, _ => s.seqExc ctx cl 2 word pc

/-- The instruction word of a CSR access, for TVAL: a read is CSRRS with x0; the source register of a CSRRW is not the command's to
say (notes/assumptions/11.md). -/
def csrWord (csr : BitVec 12) (rd rs1 funct3 : Nat) : BitVec 32 :=
  BitVec.ofNat 32 (packFields [(csr.toNat, 20, 12), (rs1, 15, 5), (funct3, 12, 3), (rd, 7, 5), (0x73, 0, 7)])

/-- Two bytes fetched at `addr` for the instruction at `pc`: from text below TEXT_SIZE, through the context's tables, on a page with EXEC
(R154, R155, R269). -/
def State.fetchHalf (s : State) (ctx cl : Nat) (pc addr : BitVec 32) : State × Option (BitVec 16) :=
  let q := s.seqE ctx cl
  match q.placeOf addr.toNat 2 with
  | .text o =>
    let (s, r) := s.seqVaRead ctx cl (q.text + o) 2 .fetch
    match r with
    | .ok v => (s, some (BitVec.ofNat 16 v))
    | .error e => (s.seqAccErr ctx cl 1 addr pc e false, none)
  | _ => (s.seqExc ctx cl 1 addr pc, none)

/-- A fetch of `len` bytes, and the word it gives. -/
def State.seqFetch (s : State) (ctx cl : Nat) (pc : BitVec 32) (len : Nat) (addr : BitVec 32) : State × Option (BitVec 32) :=
  if addr.toNat % 2 ≠ 0 then (s.seqExc ctx cl 0 addr pc, none)
  else
    let (s, lo) := s.fetchHalf ctx cl pc addr
    match lo with
    | none => (s, none)
    | some lo =>
      if len = 4 then
        let (s, hi) := s.fetchHalf ctx cl pc (addr + 2)
        (s, hi.map fun hi => hi ++ lo)
      else (s, some (lo.setWidth 32))

/-- An instruction of Table 7-2 on the hart's own registers. -/
def State.seqCustom (s : State) (cl : Nat) (pc : BitVec 32) (c : Config.SeqCustom) : State :=
  let x := fun (r : Fin 32) => (s.seqE (s.ctxOn cl) cl).getX r.val
  match c with
  | .tissue a => s.issueClass cl pc (.tissue pc (x a))
  | .treplay a b => s.issueClass cl pc (.replay pc (x a) (x b))
  | .pmset add pm a => s.issueClass cl pc (.pmset add pm.val (x a))
  | .tawait rd a => s.seqTawait cl pc rd.val (x a)
  | .qcwait a b => s.seqQcwait cl pc (x a) (x b)
  | .qcsig a b => s.issueClass cl pc (.qcsig pc (x a) (x b))
  | .tfence rd a => s.issueClass cl pc (.fence pc rd.val (BitVec.ofNat 4 (bits (x a) 3 0)))

/-- What a CSR instruction writes: the source, or the old value with the source's bits set or cleared. -/
def csrNew (op : Nat) (old src : BitVec 32) : BitVec 32 :=
  match op with
  | 1 => src
  | 2 => old ||| src
  | _ => old &&& ~~~src

/-- An ordinary access (R155, R156). -/
def State.seqAccess (s : State) (ctx cl : Nat) (pc : BitVec 32) (len : Nat) (acc : SeqAccess) : State :=
  match acc with
  | .load a n sg rd => s.seqLoad ctx cl pc len a n sg rd.val false
  | .lr a rd => s.seqLoad ctx cl pc len a 4 false rd.val true
  | .store a n v => s.seqStore ctx cl pc len a n v
  | .sc a v rd => s.seqAtomic ctx cl pc len a v rd.val none
  | .amo op a v rd => s.seqAtomic ctx cl pc len a v rd.val (some op)
  | .fetch a => (s.seqFetch ctx cl pc len a).1
  | .csrRead csr rd => s.seqCsr ctx cl pc len csr rd.val none (csrWord csr rd.val 0 2)
  | .csrWrite csr v rd =>
    let (s, x) := s.freeWord64
    s.seqCsr ctx cl pc len csr rd.val (some v) (csrWord csr rd.val (bits x 4 0) 1)
  | .illegal w => s.seqExc ctx cl 2 w pc
  | .step => s

/-- The processor fetches the instruction at its program counter and executes it; the faulting value of an instruction it does not have is
the instruction (R154 to R156). -/
def State.seqStep (s : State) (ctx cl : Nat) : State :=
  let q := s.seqE ctx cl
  let (s, lo) := s.seqFetch ctx cl q.pc 2 q.pc
  match lo with
  | none => s
  | some lo =>
    let long := bits lo 1 0 = 3
    let (s, w) := if long then s.seqFetch ctx cl q.pc 4 q.pc else (s, rvExpand (lo.setWidth 16))
    let len := if long then 4 else 2
    match w with
    | none => if long then s else s.seqExc ctx cl 2 lo q.pc
    | some w => match rvAct w q.pc len q.getX with
      | .put rd v next => s.seqM ctx cl fun q => { (q.setX rd v).retireBy q.pc len with pc := next }
      | .access a => s.seqAccess ctx cl q.pc len a
      | .csr c rd op src =>
        s.seqCsr ctx cl q.pc len c rd (src.map fun v => csrNew op ((s.csrValue ctx cl c.toNat).getD 0) v) w
      | .custom c => s.seqCustom cl q.pc c
      | .ecall => s.seqEcall cl q.pc (q.getX 17) (q.getX 10)
      | .ebreak => s.seqEbreak cl q.pc
      | .illegal => s.seqExc ctx cl 2 (if long then w else lo) q.pc

/-- SEQUENCER_LOAD_STORE: the processor of a cluster, where it runs, executes an ordinary load, store, LR, SC, AMO, fetch or CSR access
of `len` bytes at `pc` with operands that the command names, or the instruction at its own program counter (R154 to R156). -/
def execSequencerLoadStore (cl : Cluster) (pc : BitVec 32) (len : Nat) (acc : SeqAccess) (s : State) : Out :=
  let k := cl.val
  let ctx := s.ctxOn k
  .next (
    if !(s.seqReady k) then s
    else match acc with
      | .step => s.seqStep ctx k
      | acc => s.seqAccess ctx k pc len acc)

end Sys2Proof.Machine
end

