-- ==== Sys2Proof/Machine/Dispatch.lean ====
section
/-! DEFINITION. exec: what each command does. -/

namespace Sys2Proof.Machine

/-- The effect of a command on everything but the queue: one direct call of its meaning. -/
def exec (i : Instr) (s : State) : Host.Outcome State Fault Refusal :=
  match i with
  | .tissue cl pc rs1 => Sys2Proof.Machine.execTissue cl pc rs1 s
  | .treplay cl pc rs1 rs2 => Sys2Proof.Machine.execTreplay cl pc rs1 rs2 s
  | .pmsetW cl pc pm rs1 => Sys2Proof.Machine.execPmsetW cl pc pm rs1 s
  | .pmsetA cl pc pm rs1 => Sys2Proof.Machine.execPmsetA cl pc pm rs1 s
  | .tawait cl pc rd rs1 => Sys2Proof.Machine.execTawait cl pc rd rs1 s
  | .qcwait cl pc rs1 rs2 => Sys2Proof.Machine.execQcwait cl pc rs1 rs2 s
  | .qcsig cl pc rs1 rs2 => Sys2Proof.Machine.execQcsig cl pc rs1 rs2 s
  | .tfence cl pc rd rs1 => Sys2Proof.Machine.execTfence cl pc rd rs1 s
  | .ecall cl pc a7 a0 => Sys2Proof.Machine.execEcall cl pc a7 a0 s
  | .ebreak cl pc => Sys2Proof.Machine.execEbreak cl pc s
  | .counterWindowStore cl pc addr v => Sys2Proof.Machine.execCounterWindowStore cl pc addr v s
  | .replayBufferStore cl pc addr v => Sys2Proof.Machine.execReplayBufferStore cl pc addr v s
  | .sqBmaskWrite cl pc v => Sys2Proof.Machine.execSqBmaskWrite cl pc v s
  | .sqStepadv cl pc v => Sys2Proof.Machine.execSqStepadv cl pc v s
  | .sequencerStop ctx => Sys2Proof.Machine.execSequencerStop ctx s
  | .ldw c t => Sys2Proof.Machine.execLdw c t s
  | .ldwt c t => Sys2Proof.Machine.execLdwt c t s
  | .mmul c t => Sys2Proof.Machine.execMmul c t s
  | .mmula c t => Sys2Proof.Machine.execMmula c t s
  | .drn c t => Sys2Proof.Machine.execDrn c t s
  | .arrayRampDown c a idle => Sys2Proof.Machine.execArrayRampDown c a idle s
  | .vew c => Sys2Proof.Machine.execVew c s
  | .vred c => Sys2Proof.Machine.execVred c s
  | .scalarReturn cl slot => Sys2Proof.Machine.execScalarReturn cl slot s
  | .vcvtConvert c => Sys2Proof.Machine.execVcvtConvert c s
  | .vcvtCommit c => Sys2Proof.Machine.execVcvtCommit c s
  | .vopt c => Sys2Proof.Machine.execVopt c s
  | .vnrmAdd c => Sys2Proof.Machine.execVnrmAdd c s
  | .vnrmFlush c => Sys2Proof.Machine.execVnrmFlush c s
  | .vhrv c => Sys2Proof.Machine.execVhrv c s
  | .vsgn c => Sys2Proof.Machine.execVsgn c s
  | .dmov c flaws => Sys2Proof.Machine.execDmov c flaws s
  | .dgth c => Sys2Proof.Machine.execDgth c s
  | .dsct c => Sys2Proof.Machine.execDsct c s
  | .dcow c => Sys2Proof.Machine.execDcow c s
  | .dcowPageCopy c slot => Sys2Proof.Machine.execDcowPageCopy c slot s
  | .dcrcFeed c => Sys2Proof.Machine.execDcrcFeed c s
  | .dcrcSave c => Sys2Proof.Machine.execDcrcSave c s
  | .dcrcLoad c => Sys2Proof.Machine.execDcrcLoad c s
  | .cred c => Sys2Proof.Machine.execCred c s
  | .credNorm c => Sys2Proof.Machine.execCredNorm c s
  | .crsc c => Sys2Proof.Machine.execCrsc c s
  | .cbcs c => Sys2Proof.Machine.execCbcs c s
  | .ca2a c => Sys2Proof.Machine.execCa2a c s
  | .collectiveStart ctx unit k => Sys2Proof.Machine.execCollectiveStart ctx unit k s
  | .chunkReceive ctx unit k m bytes last => Sys2Proof.Machine.execChunkReceive ctx unit k m bytes last s
  | .tlwReceive ctx unit k m bytes => Sys2Proof.Machine.execTlwReceive ctx unit k m bytes s
  | .sig cl => Sys2Proof.Machine.execSig cl s
  | .wait cl => Sys2Proof.Machine.execWait cl s
  | .scset cl => Sys2Proof.Machine.execScset cl s
  | .instructionComplete c q slot => Sys2Proof.Machine.execInstructionComplete c q slot s
  | .contextFault ctx => Sys2Proof.Machine.execContextFault ctx s
  | .signalArrival n => Sys2Proof.Machine.execSignalArrival n s
  | .waitTimeout w => Sys2Proof.Machine.execWaitTimeout w s
  | .syncSignal w unit v => Sys2Proof.Machine.execSyncSignal w unit v s
  | .dbgScset w unit v => Sys2Proof.Machine.execDbgScset w unit v s
  | .peek w c v => Sys2Proof.Machine.execPeek w c v s
  | .peekDone c => Sys2Proof.Machine.execPeekDone c s
  | .cvInit w c n v => Sys2Proof.Machine.execCvInit w c n v s
  | .hcvInit w n v => Sys2Proof.Machine.execHcvInit w n v s
  | .hcvRearm w n => Sys2Proof.Machine.execHcvRearm w n s
  | .sliceExpiry cl => Sys2Proof.Machine.execSliceExpiry cl s
  | .contextSwitch outc inc => Sys2Proof.Machine.execContextSwitch outc inc s
  | .contextResident ctx storeOff poolOff => Sys2Proof.Machine.execContextResident ctx storeOff poolOff s
  | .contextEvict ctx => Sys2Proof.Machine.execContextEvict ctx s
  | .cleanMove ctx place storeOff poolOff => Sys2Proof.Machine.execCleanMove ctx place storeOff poolOff s
  | .switchOutTimeout ctx => Sys2Proof.Machine.execSwitchOutTimeout ctx s
  | .fenceClose ctx => Sys2Proof.Machine.execFenceClose ctx s
  | .fenceTimeout ctx => Sys2Proof.Machine.execFenceTimeout ctx s
  | .ctxCreate w ctx addr => Sys2Proof.Machine.execCtxCreate w ctx addr s
  | .ctxSet w ctx addr => Sys2Proof.Machine.execCtxSet w ctx addr s
  | .ctxDestroy w ctx => Sys2Proof.Machine.execCtxDestroy w ctx s
  | .ctxInval w ctx => Sys2Proof.Machine.execCtxInval w ctx s
  | .ctxRead w ctx addr => Sys2Proof.Machine.execCtxRead w ctx addr s
  | .contextScrubEnd ctx => Sys2Proof.Machine.execContextScrubEnd ctx s
  | .tailLineTaken f slot ring tail => Sys2Proof.Machine.execTailLineTaken f slot ring tail s
  | .tailLinePoll tails refused => Sys2Proof.Machine.execTailLinePoll tails refused s
  | .jobFetch f slot ring line peersAgree peersBusy => Sys2Proof.Machine.execJobFetch f slot ring line peersAgree peersBusy s
  | .shareStart job order => Sys2Proof.Machine.execShareStart job order s
  | .jobComplete job rank0 => Sys2Proof.Machine.execJobComplete job rank0 s
  | .crDelayExpiry f cq => Sys2Proof.Machine.execCrDelayExpiry f cq s
  | .jrEnable f slot ring v tail => Sys2Proof.Machine.execJrEnable f slot ring v tail s
  | .crEnable f cq v => Sys2Proof.Machine.execCrEnable f cq v s
  | .crHeadWrite f cq head => Sys2Proof.Machine.execCrHeadWrite f cq head s
  | .funcDisable f => Sys2Proof.Machine.execFuncDisable f s
  | .funcReenable f => Sys2Proof.Machine.execFuncReenable f s
  | .flr f => Sys2Proof.Machine.execFlr f s
  | .vfEnableClear => Sys2Proof.Machine.execVfEnableClear s
  | .busMasterDisable f => Sys2Proof.Machine.execBusMasterDisable f s
  | .busMasterEnable f => Sys2Proof.Machine.execBusMasterEnable f s
  | .linkDown => Sys2Proof.Machine.execLinkDown s
  | .backInvalidateTimeout line => Sys2Proof.Machine.execBackInvalidateTimeout line s
  | .configRequest => Sys2Proof.Machine.execConfigRequest s
  | .hdmRead dec addr n flaws => Sys2Proof.Machine.execHdmRead dec addr n flaws s
  | .hdmWrite dec addr bytes => Sys2Proof.Machine.execHdmWrite dec addr bytes s
  | .compAssign w h f => Sys2Proof.Machine.execCompAssign w h f s
  | .compStart w h => Sys2Proof.Machine.execCompStart w h s
  | .compStop w h => Sys2Proof.Machine.execCompStop w h s
  | .hartAccessRefused h act => Sys2Proof.Machine.execHartAccessRefused h act s
  | .memCulladd w v => Sys2Proof.Machine.execMemCulladd w v s
  | .persist w => Sys2Proof.Machine.execPersist w s
  | .persistDone ok => Sys2Proof.Machine.execPersistDone ok s
  | .patrolScrub line flaw => Sys2Proof.Machine.execPatrolScrub line flaw s
  | .refresh st ch bank => Sys2Proof.Machine.execRefresh st ch bank s
  | .channelLost st ch access => Sys2Proof.Machine.execChannelLost st ch access s
  | .kdFillDone d => Sys2Proof.Machine.execKdFillDone d s
  | .governorEval us => Sys2Proof.Machine.execGovernorEval us s
  | .powerInterval avg run stop => Sys2Proof.Machine.execPowerInterval avg run stop s
  | .domainWake d => Sys2Proof.Machine.execDomainWake d s
  | .energySample mv ma => Sys2Proof.Machine.execEnergySample mv ma s
  | .inputCurrentTrip ma => Sys2Proof.Machine.execInputCurrentTrip ma s
  | .currentTripRelease => Sys2Proof.Machine.execCurrentTripRelease s
  | .droopDetect d => Sys2Proof.Machine.execDroopDetect d s
  | .temperatureReport sensor v => Sys2Proof.Machine.execTemperatureReport sensor v s
  | .emergencyEnd => Sys2Proof.Machine.execEmergencyEnd s
  | .pwrCapWrite w v => Sys2Proof.Machine.execPwrCapWrite w v s
  | .pwrModeWrite w v => Sys2Proof.Machine.execPwrModeWrite w v s
  | .ledgerRecordArrival unit cls code ctx d0 d1 d2 d3 opcode cause status cfc => Sys2Proof.Machine.execLedgerRecordArrival unit cls code ctx d0 d1 d2 d3 opcode cause status cfc s
  | .ldgSelWrite w unit v => Sys2Proof.Machine.execLdgSelWrite w unit v s
  | .checkInterval ctx digests => Sys2Proof.Machine.execCheckInterval ctx digests s
  | .digestMessage m ctx step tag origin count digest => Sys2Proof.Machine.execDigestMessage m ctx step tag origin count digest s
  | .digestCollectEnd ctx step tag origin count => Sys2Proof.Machine.execDigestCollectEnd ctx step tag origin count s
  | .drain w => Sys2Proof.Machine.execDrain w s
  | .drainComplete => Sys2Proof.Machine.execDrainComplete s
  | .resume w => Sys2Proof.Machine.execResume w s
  | .clearReplace w => Sys2Proof.Machine.execClearReplace w s
  | .replaceNvmRetry ok => Sys2Proof.Machine.execReplaceNvmRetry ok s
  | .ckpBegin w ctx => Sys2Proof.Machine.execCkpBegin w ctx s
  | .ckpLoad w ctx src m => Sys2Proof.Machine.execCkpLoad w ctx src m s
  | .ckpEnd w ctx => Sys2Proof.Machine.execCkpEnd w ctx s
  | .ckpAbort w ctx => Sys2Proof.Machine.execCkpAbort w ctx s
  | .heartbeat p progress => Sys2Proof.Machine.execHeartbeat p progress s
  | .heartbeatMiss p => Sys2Proof.Machine.execHeartbeatMiss p s
  | .watchdogExpiry p => Sys2Proof.Machine.execWatchdogExpiry p s
  | .processorServing p => Sys2Proof.Machine.execProcessorServing p s
  | .engineHang c e slot => Sys2Proof.Machine.execEngineHang c e slot s
  | .crustDump domain unit index => Sys2Proof.Machine.execCrustDump domain unit index s
  | .dumpWordTimeout index word unitEnd => Sys2Proof.Machine.execDumpWordTimeout index word unitEnd s
  | .dumpCommit index => Sys2Proof.Machine.execDumpCommit index s
  | .resetCore w unit => Sys2Proof.Machine.execResetCore w unit s
  | .resetCluster w unit => Sys2Proof.Machine.execResetCluster w unit s
  | .resetDie w unit => Sys2Proof.Machine.execResetDie w unit s
  | .resetChannelGroup w part => Sys2Proof.Machine.execResetChannelGroup w part s
  | .resetSpanLink w part => Sys2Proof.Machine.execResetSpanLink w part s
  | .resetHostFunction w part => Sys2Proof.Machine.execResetHostFunction w part s
  | .resetModuleWarm w => Sys2Proof.Machine.execResetModuleWarm w s
  | .resetModuleCold w => Sys2Proof.Machine.execResetModuleCold w s
  | .resetComplete domain what => Sys2Proof.Machine.execResetComplete domain what s
  | .mgmtRstreq w v => Sys2Proof.Machine.execMgmtRstreq w v s
  | .coldPowerLoss => Sys2Proof.Machine.execColdPowerLoss s
  | .mainPowerLoss => Sys2Proof.Machine.execMainPowerLoss s
  | .fmpSessionOpen source account verified => Sys2Proof.Machine.execFmpSessionOpen source account verified s
  | .fmpSessionIdle id => Sys2Proof.Machine.execFmpSessionIdle id s
  | .fmpLockoutExpiry source => Sys2Proof.Machine.execFmpLockoutExpiry source s
  | .regRead id addr width => Sys2Proof.Machine.execRegRead id addr width s
  | .regWrite id addr width v => Sys2Proof.Machine.execRegWrite id addr width v s
  | .ledgerStream id => Sys2Proof.Machine.execLedgerStream id s
  | .ledgerAck id esn => Sys2Proof.Machine.execLedgerAck id esn s
  | .measure id => Sys2Proof.Machine.execMeasure id s
  | .funcAssign id f base size quota checkf => Sys2Proof.Machine.execFuncAssign id f base size quota checkf s
  | .kdBind id f d => Sys2Proof.Machine.execKdBind id f d s
  | .kdRelease id d => Sys2Proof.Machine.execKdRelease id d s
  | .configWrite id img => Sys2Proof.Machine.execConfigWrite id img s
  | .fwLoad id comp slotComp version svn digest sigEd sigMl => Sys2Proof.Machine.execFwLoad id comp slotComp version svn digest sigEd sigMl s
  | .fwActivate id comp => Sys2Proof.Machine.execFwActivate id comp s
  | .fwCommit id comp => Sys2Proof.Machine.execFwCommit id comp s
  | .procRelease id p => Sys2Proof.Machine.execProcRelease id p s
  | .mainPowerOn id => Sys2Proof.Machine.execMainPowerOn id s
  | .resetGrant id on => Sys2Proof.Machine.execResetGrant id on s
  | .debugGrant id f on => Sys2Proof.Machine.execDebugGrant id f on s
  | .dumpList id => Sys2Proof.Machine.execDumpList id s
  | .dumpRead id index => Sys2Proof.Machine.execDumpRead id index s
  | .dumpPin id index on => Sys2Proof.Machine.execDumpPin id index on s
  | .accountAdd id a => Sys2Proof.Machine.execAccountAdd id a s
  | .accountRemove id name => Sys2Proof.Machine.execAccountRemove id name s
  | .accountClear id => Sys2Proof.Machine.execAccountClear id s
  | .accountClearLapse => Sys2Proof.Machine.execAccountClearLapse s
  | .enrolment a => Sys2Proof.Machine.execEnrolment a s
  | .spdmRequest doe ask => Sys2Proof.Machine.execSpdmRequest doe ask s
  | .spdmMeasurements doe block => Sys2Proof.Machine.execSpdmMeasurements doe block s
  | .pldmRequest type2 sensor => Sys2Proof.Machine.execPldmRequest type2 sensor s
  | .pldmIdentify on => Sys2Proof.Machine.execPldmIdentify on s
  | .spanLinkTrained l proved spanId index master members replace => Sys2Proof.Machine.execSpanLinkTrained l proved spanId index master members replace s
  | .linkHandshakeRetry l proved => Sys2Proof.Machine.execLinkHandshakeRetry l proved s
  | .flitReceive l seq crcOk tagOk fec load => Sys2Proof.Machine.execFlitReceive l seq crcOk tagOk fec load s
  | .laneLockLoss l => Sys2Proof.Machine.execLaneLockLoss l s
  | .peerSilence l => Sys2Proof.Machine.execPeerSilence l s
  | .withdrawalNotice l m cause => Sys2Proof.Machine.execWithdrawalNotice l m cause s
  | .memberAdmit m => Sys2Proof.Machine.execMemberAdmit m s
  | .expel w m => Sys2Proof.Machine.execExpel w m s
  | .readmit w m => Sys2Proof.Machine.execReadmit w m s
  | .shareEndNotice m job ended flagged => Sys2Proof.Machine.execShareEndNotice m job ended flagged s
  | .forwardedAccess m addr width w => Sys2Proof.Machine.execForwardedAccess m addr width w s
  | .bringupPhase0 t sec => Sys2Proof.Machine.execBringupPhase0 t sec s
  | .bringupPhase1 t => Sys2Proof.Machine.execBringupPhase1 t s
  | .bringupPhase2 t badCores badClusters badHub => Sys2Proof.Machine.execBringupPhase2 t badCores badClusters badHub s
  | .bringupPhase3 => Sys2Proof.Machine.execBringupPhase3 s
  | .bringupPhase4 t => Sys2Proof.Machine.execBringupPhase4 t s
  | .bringupTimeout => Sys2Proof.Machine.execBringupTimeout s
  | .stackJoin st => Sys2Proof.Machine.execStackJoin st s
  | .stackFail st ch step => Sys2Proof.Machine.execStackFail st ch step s
  | .latchOpen => Sys2Proof.Machine.execLatchOpen s
  | .latchDumpCutoff => Sys2Proof.Machine.execLatchDumpCutoff s
  | .latchClose => Sys2Proof.Machine.execLatchClose s
  | .presenceChange pin made => Sys2Proof.Machine.execPresenceChange pin made s
  | .drainButtonHold => Sys2Proof.Machine.execDrainButtonHold s
  | .identifyTouch ms within1s => Sys2Proof.Machine.execIdentifyTouch ms within1s s
  | .identOn w => Sys2Proof.Machine.execIdentOn w s
  | .identOff w => Sys2Proof.Machine.execIdentOff w s
  | .identToggle w => Sys2Proof.Machine.execIdentToggle w s
  | .invalidRegisterAccess w unit off width v => Sys2Proof.Machine.execInvalidRegisterAccess w unit off width v s
  | .registerWrite w unit off width v => Sys2Proof.Machine.execRegisterWrite w unit off width v s
  | .sequencerLoadStore cl pc len acc => Sys2Proof.Machine.execSequencerLoadStore cl pc len acc s
  | .restoreLoadDone w => Sys2Proof.Machine.execRestoreLoadDone w s
  | .droopRecovery d => Sys2Proof.Machine.execDroopRecovery d s
  | .channelGroupPowerDown id g => Sys2Proof.Machine.execChannelGroupPowerDown id g s

end Sys2Proof.Machine
end

