-- ==== Sys2Proof/Safety.lean ====
section
/-! DEFINITION. The terms in which statements about the module are made: completion of a command, an instruction that its engine takes
now, an issue path with nothing in it, and what every state in use satisfies. -/

namespace Sys2Proof.Machine

/-- The command has its effect at s: a next state of which P holds. -/
def Completes (c : Instr) (s : State) (P : State → Prop) : Prop := ∃ t, exec c s = .next t ∧ P t

/-- The instruction that an engine takes now at the head of queue q of a core: the state as it is taken (its counter patches and
checks made, R150, R187), its context, the instruction and its operation. None where the core takes no work (R188), the queue holds
none that is not taken, 16 DXE instructions are active (R139), a VRED waits for room in its slot (R164), a counter store issued before it has
not taken effect (R157), the command names another operation, a check of Table 8-4 fails or its wait is not satisfied (R202). -/
def State.ready (s : State) (core q : Nat) (sel : Op → Bool)
    (rest : State → Nat → QEntry → Op → State × List Bad × List Bad × List Bad) : Option (State × Nat × QEntry × Op) :=
  let ctx := (s.clusE (core / 4)).ctx
  let s := s.applyCtr ctx core
  if !(s.takes ctx core) then none
  else match (s.coreE ctx core).head q with
    | none => none
    | some e =>
      if (q = 2 && 16 ≤ (s.coreE ctx core).active 2) || (q = 1 && s.vredHolds ctx core) || s.awaitsStore ctx core e then none
      else match e.word.op with
        | none => none
        | some o =>
          if !(sel o) then none
          else
            let (s, e, bad) := s.headChecks ctx core q e o rest
            match bad with
            | some _ => none
            | none =>
              if e.word.waitv && !e.waitDone && !(reached (s.waitCtr ctx core e).value.toNat e.word.wthresh) then none
              else some ((s.entryM ctx core q e.slot fun e => { e with waiting := false, taken := true }).progress core e.word.engine,
                ctx, { e with taken := true, waiting := false }, o)

/-- Nothing waits in the issue path of a sequencer: no fault of its context in force, no SYNC instruction held, none stalled for queue
room, no replay in progress (R158, R160, R163, R199). -/
def State.pathClear (s : State) (ctx cl : Nat) : Bool :=
  let q := s.seqE ctx cl
  (s.runE ctx).fault.isNone && q.sync.isNone && q.stalled.isEmpty && q.replayPos.isNone

/-- Whether a line may be read under a domain: nothing has written it, or it was written under the keys of that domain in force (R253,
R277). -/
def State.keyFits (s : State) (line dom : Nat) : Bool := (s.lineKey line).all (· == s.keyOf dom)

/-- The agent that an FMP session is. -/
def mgmtOf (id : Fin 8) : Writer := .mgmt (id.castLE (by omega))

/-- Whether an FMP session is open, with fewer than 2^32 records sent in it (R384). -/
def State.sessionOpen (s : State) (id : Fin 8) : Bool :=
  (s.mgmt.sessions.any fun e => e.id == id.val) && !(s.mgmt.sessions.any fun e => e.id == id.val && decide (2 ^ 32 ≤ e.sent))

/-- An open FMP session whose account holds a role (R384, R386). -/
def State.sessionHas (s : State) (id : Fin 8) (role : Nat) : Bool := s.sessionOpen id && s.hasRole (mgmtOf id) role

/-- The ledger buffer holds records in the order of their ESNs, all below the next one (R28). -/
def Ledger.inOrder (l : Ledger) : Prop := (∀ r ∈ l.recs, r.esn < l.esn) ∧ l.recs.Pairwise fun a b => a.esn < b.esn

end Sys2Proof.Machine
end

