-- ==== Sys2Proof/Certificates/Slice0/Obligations.lean ====
section
/-! DEFINITION. The statements of this package. Each docstring names the rules that its statement formalises; a clause that rests on a
choice of the model says so and names its log entry. -/

open Sys2Proof Sys2Proof.Machine

/-- The block: a step takes the command at the front of the queue and answers what the command does on the queue's rest; with nothing waiting the module
idles (the idling is the model's choice, notes/assumptions/1.md). -/
def Obligations.StepRunsTheFrontCommand : Prop :=
  (∀ (c : Instr) (rest : List Instr) (s : State), s.pending = c :: rest → step s = exec c { s with pending := rest }) ∧
  (∀ s : State, s.pending = [] → step s = .next s)

/-- What State.reset holds: nothing waits, no memory is written, no context, job or session is there, main power is off and bring-up has ended no phase
(the arrival of auxiliary power, notes/assumptions/3.md); and State.reset satisfies the invariant of StepKeepsMemoryAndLedger. -/
def Obligations.ResetHoldsNothing : Prop :=
  State.reset.pending = [] ∧ State.reset.mem.cells = [] ∧ State.reset.ctxs = [] ∧ State.reset.jobs = [] ∧ State.reset.mgmt.sessions = [] ∧
  State.reset.led.recs = [] ∧ State.reset.health.state = 0 ∧ State.reset.pwr.mainOn = false ∧ State.reset.boot.ended = [] ∧
  Memory.wf State.reset.mem.cells = true ∧ State.reset.led.inOrder

/-- R28: every step, of any command in any state whose memory is in canonical form and whose ledger is in the order of its ESNs, leaves them so, and
takes exactly the front command out of the queue. -/
def Obligations.StepKeepsMemoryAndLedger : Prop :=
  ∀ s t : State, Memory.wf s.mem.cells = true → s.led.inOrder → step s = .next t →
    Memory.wf t.mem.cells = true ∧ t.led.inOrder ∧ t.pending = s.pending.tail

/-- R55: a cleared LA has zero limbs, flags, residue and additions, and NZERO set; with no term it resolves to +0. -/
def Obligations.ClearedAccumulatorIsPlusZero : Prop :=
  ∀ c : Nat, (∀ i < 10, laLimb (laClear c) i = 0) ∧ (laClear c).any = false ∧ (laClear c).pinf = false ∧ (laClear c).ninf = false ∧
    (laClear c).nan = false ∧ (laClear c).ovf = false ∧ (laClear c).ovfNeg = false ∧ (laClear c).resAcc = 0 ∧ (laClear c).adds = 0 ∧
    (laClear c).nzero = true ∧ laValue (laResolve (laClear c)) = .val (.fin false 0 0)

/-- R57: the value of an LA depends only on the terms added into it: not on their order; not on their grouping into partial LAs that are added, as they
stand or resolved, where the magnitudes sum to less than 2^319; and it is then their exact sum, where no term has bits below 2^-320. -/
def Obligations.SumsDoNotDependOnOrder : Prop :=
  ∀ (c : Nat) (xs ys : List Val) (mag : Val → Nat) (exact : Val → Int),
    (∀ v, mag v = match v with | .fin _ m e => floorMag m (e + 320) | _ => 0) →
    (∀ v, exact v = match v with | .fin n m e => (if n then -1 else 1) * (m * 2 ^ (e + 320).toNat : Nat) | _ => 0) →
    (List.Perm xs ys → laResolve (xs.foldl laAddTerm (laClear c)) = laResolve (ys.foldl laAddTerm (laClear c))) ∧
    (((xs ++ ys).map mag).sum < 2 ^ 639 →
      laValue (laResolve (laAddLA (xs.foldl laAddTerm (laClear c)) (ys.foldl laAddTerm (laClear c)))) =
        laValue (laResolve ((xs ++ ys).foldl laAddTerm (laClear c))) ∧
      laValue (laResolve (laAddLA (laResolve (xs.foldl laAddTerm (laClear c))) (laResolve (ys.foldl laAddTerm (laClear c))))) =
        laValue (laResolve ((xs ++ ys).foldl laAddTerm (laClear c))) ∧
      ((∀ v ∈ xs, ∀ n m e, v = .fin n m e → -320 ≤ e) → (laResolve (xs.foldl laAddTerm (laClear c))).ovf = false ∧
        laPhys (laResolve (xs.foldl laAddTerm (laClear c))) = (xs.map exact).sum))

/-- R63: a resolve sets OVF, with the sign in OVF_NEG, where the physical value lies outside [−2^319, 2^319); OVF stays whatever is added later; the
limbs hold N modulo 2^640; an overflowed LA is never converted as a value; a sum inherits OVF, with OVF_NEG from the first that has it. -/
def Obligations.OverflowIsFoundAndSticks : Prop :=
  ∀ (l b : LA) (v : Val) (band : BandSum) (k : Int) (r : Nat), l.limb.length = 10 → l.carry.length = 10 →
    ((laPhys l < -(2 ^ 639 : Int) ∨ (2 ^ 639 : Int) ≤ laPhys l) → (laResolve l).ovf = true ∧ (laResolve l).ovfNeg = decide (laPhys l < 0)) ∧
    (-(2 ^ 639 : Int) ≤ laPhys l → laPhys l < (2 ^ 639 : Int) → (laResolve l).ovf = l.ovf ∧ (laResolve l).ovfNeg = l.ovfNeg ∧
      laPhys (laResolve l) = laPhys l) ∧
    laPhys (laResolve l) % (2 ^ 640 : Int) = laPhys l % (2 ^ 640 : Int) ∧
    (l.ovf = true → (laAddTerm l v).ovf = true ∧ (laAddBand l band k r).ovf = true ∧ (laAddLA l b).ovf = true ∧ (laResolve l).ovf = true ∧
      (laAddTerm l v).ovfNeg = l.ovfNeg ∧ (laAddLA l b).ovfNeg = l.ovfNeg) ∧
    (l.ovf = true → ∀ n m e, laValue l ≠ .val (.fin n m e)) ∧
    (l.ovf = false → b.ovf = true → (laAddLA l b).ovf = true ∧ (laAddLA l b).ovfNeg = b.ovfNeg)

/-- R99: stochastic rounding of an element x with A = ⌊|x| · 2^16 ÷ ulp⌋ adds the grain to A and truncates: its outcome depends on the grain through ⌊(A
+ g) ÷ 2^16⌋ alone, a value with A mod 2^16 = 0 has one outcome for every grain, and A mod 2^16 of the 65,536 grains round up, the others down. -/
def Obligations.StochasticRoundingIsUnbiased : Prop :=
  ∀ (f s u : Nat) (inf neg : Bool) (m a : Nat) (e x ue : Int), fmtIsLevel f = false → m ≠ 0 → x = e + (127 - (s : Int)) + u →
    ue = ulpExp f (x + m.log2) → a = floorMag m (x - ue + 16) →
    (∀ g q, (a + g) / 2 ^ 16 = q → lehrRound f inf 1 (.val (.fin neg m e)) s u g =
      if !(magLe q ue (fmax f).1 (fmax f).2) then overflowOut f inf neg else { code := encodeMag f neg q ue }) ∧
    (a % 2 ^ 16 = 0 → ∀ g < 2 ^ 16, lehrRound f inf 1 (.val (.fin neg m e)) s u g = lehrRound f inf 2 (.val (.fin neg m e)) s u 0) ∧
    ((List.range (2 ^ 16)).filter fun g => (a + g) / 2 ^ 16 == a / 2 ^ 16 + 1).length = a % 2 ^ 16 ∧
    (∀ g < 2 ^ 16, (a + g) / 2 ^ 16 = a / 2 ^ 16 ∨ (a + g) / 2 ^ 16 = a / 2 ^ 16 + 1)

/-- R12, R119, R176, R184, R225, R226, Tables 10-2 and 10-3: what the module writes as bytes it reads back whole: a unit ID of the form of R12, a tensor
instruction, a descriptor, a bounded long word, a trimmed long word and a resolved norm slot, at every value of every field. -/
def Obligations.EncodingsReadBack : Prop :=
  (∀ v : BitVec 32, uidForm v = true → uid (uidFields v) = v) ∧
  (∀ t : TWord, twordOfBytes (bytesOfTword t) = t) ∧
  (∀ d : Desc, descOfBytes (bytesOfDesc d) = d) ∧
  (∀ b : Blw, fitsInt 120 b.w = true → b.pos < 256 → blwOfBytes (blwBytes b) = b) ∧
  (∀ t : Tlw, 1 ≤ t.count → t.first + t.count ≤ 10 → fitsInt (64 * t.count) t.z = true → tlwOfBytes (tlwBytes t) = some t) ∧
  (∀ l : LA, l.limb.length = 10 → slotOfBytes (bytesOfSlot l) =
    { limb := l.limb, pinf := l.pinf, ninf := l.ninf, nan := l.nan, any := l.any, nzero := l.nzero, ovf := l.ovf, ovfNeg := l.ovfNeg,
      resAcc := limbResidue l })

/-- R28, R334: a record takes the next ESN, which no record in the buffer has, is last in the ledger's tail, and is stored unless its class has no room;
nothing but the ledger, what its copies touch, the sessions' counts and the messages out changes. R28, R334, R335, R338, R349, R350, R351, R367: a record
that reaches the hub, of its own or through a CFC that serves, joins the ledger with the next ESN; one of a CFC that is down waits in its latch of 64,
and is counted once that is full; an SDC-class record also faults its context, sets REPLACE, and starts a drain with cause 0 or puts a DRAINED module
into REPLACE. -/
def Obligations.RecordsTakeTheNextEsn : Prop :=
  (∀ (s : State) (r : Rec),
    (s.raiseRec r).led.esn = s.led.esn + 1 ∧ (s.raiseRec r).led.tail.getLast? = some (s.heldRec r) ∧
    (s.led.recs.length < ldgLimit r.cls.toNat → (s.raiseRec r).led.recs = s.led.recs ++
      [{ s.heldRec r with delivered := s.mgmt.stream.isSome }]) ∧
    (ldgLimit r.cls.toNat ≤ s.led.recs.length → (s.raiseRec r).led.recs = s.led.recs) ∧
    (s.led.inOrder → (s.raiseRec r).led.inOrder) ∧
    (s.raiseRec r).mem.cells = s.mem.cells ∧ (s.raiseRec r).ctxs = s.ctxs ∧ (s.raiseRec r).jobs = s.jobs ∧ (s.raiseRec r).pending = s.pending) ∧
  (∀ (unit : BitVec 32) (cls code : BitVec 8) (ctx : CtxId) (d0 d1 d2 d3 : BitVec 64) (opcode cause status : BitVec 8) (s t : State) (r : Rec),
    r = { unit := unit, cls := cls, code := code, ctx := ctx, d0 := d0, d1 := d1, d2 := d2, d3 := d3, opcode := opcode, cause := cause, status := status } →
    t = s.raiseRec r → cls.toNat ≤ 4 →
    (∀ cfc : Option Cluster, (∀ cl, cfc = some cl → s.cfcUp cl.val = true) →
      (cls ≠ 2 → exec (.ledgerRecordArrival unit cls code ctx d0 d1 d2 d3 opcode cause status cfc) s = .next t) ∧
      (cls = 2 → Completes (.ledgerRecordArrival unit cls code ctx d0 d1 d2 d3 opcode cause status cfc) s fun u =>
        u = (if ctx = 0 then t else t.setFault ctx.toNat { status := 0x18, esn := t.lastEsn }).sdcEffect t.lastEsn ctx.toNat ∧
        u.health.replace = true ∧ (ctx ≠ 0 → (u.runE ctx.toNat).fault.isSome = true) ∧
        (s.drainable = true → u.health.state = 4 ∧ u.health.cause = 0 ∧ u.health.trigger = s.led.esn) ∧
        (s.health.state = 5 → u.health.state = 6))) ∧
    (∀ cl : Cluster, s.cfcUp cl.val = false →
      ((s.procE (3 + cl.val)).latch.length < 64 →
        exec (.ledgerRecordArrival unit cls code ctx d0 d1 d2 d3 opcode cause status (some cl)) s =
          .next (s.procM (3 + cl.val) fun e => { e with latch := e.latch ++ [r] })) ∧
      (64 ≤ (s.procE (3 + cl.val)).latch.length →
        exec (.ledgerRecordArrival unit cls code ctx d0 d1 d2 d3 opcode cause status (some cl)) s = .next (s.countLost cls.toNat))) ∧
    t.led.esn = s.led.esn + 1 ∧ t.lastEsn = s.led.esn ∧
    (s.led.recs.length < ldgLimit cls.toNat → t.led.recs = s.led.recs ++ [{ s.heldRec r with delivered := s.mgmt.stream.isSome }]) ∧
    (ldgLimit cls.toNat ≤ s.led.recs.length → t.led.recs = s.led.recs))

/-- R158, R159, R162, R163, R166: with nothing before them in the issue path, PMSET_W and PMSET_A change one parameter register, a replay-buffer store
one word of an entry below REPLAY_EXT, a write of SQ_BMASK the broadcast mask within the job's cores, and a write of SQ_STEPADV (no captured tile
waiting for its check) moves the step on; each retires, and nothing else changes. R157: a store to the counter window of a present core, with no
earlier store waiting and no earlier instruction of the counter's owning engine before queue-take, changes that word of the core's counter; the
store retires and nothing else changes. -/
def Obligations.IssueClassWritesTakeEffect : Prop :=
  (∀ (cl : Cluster) (pc : BitVec 32) (s : State), s.seqReady cl.val = true → s.pathClear (s.ctxOn cl.val) cl.val = true →
    (∀ (pm : Fin 64) (v : BitVec 32), exec (.pmsetW cl pc pm v) s = .next (s.seqM (s.ctxOn cl.val) cl.val fun q =>
      { q with pm := tabSet q.pm pm.val v, pc := pc + 4, instret := q.instret + 1, run := .run })) ∧
    (∀ (pm : Fin 64) (v : BitVec 32), exec (.pmsetA cl pc pm v) s = .next (s.seqM (s.ctxOn cl.val) cl.val fun q =>
      { q with pm := tabSet q.pm pm.val (tabGet q.pm pm.val 0 + v), pc := pc + 4, instret := q.instret + 1, run := .run })) ∧
    (∀ (addr v : BitVec 32), 0x40000 ≤ addr.toNat → addr.toNat < 0x48000 → addr.toNat % 4 = 0 →
      (addr.toNat - 0x40000) / 32 < (s.seqE (s.ctxOn cl.val) cl.val).replayExt →
      exec (.replayBufferStore cl pc addr v) s = .next (s.seqM (s.ctxOn cl.val) cl.val fun q =>
        { q with replay := tabSet q.replay ((addr.toNat - 0x40000) / 4) v, pc := pc + 4, instret := q.instret + 1, run := .run })) ∧
    (∀ v : BitVec 32, exec (.sqBmaskWrite cl pc v) s = .next (s.seqM (s.ctxOn cl.val) cl.val fun q =>
      { q with bmask := BitVec.ofNat 4 (bits v 3 0) &&& q.job, pc := pc + 4, instret := q.instret + 1, run := .run })) ∧
    (∀ v : BitVec 32, s.unchecked (s.ctxOn cl.val) = false → exec (.sqStepadv cl pc v) s = .next (s.seqM (s.ctxOn cl.val) cl.val fun q =>
      { q with step := q.step + 1, pc := pc + 4, instret := q.instret + 1, run := .run }))) ∧
  (∀ (cl : Cluster) (pc addr v : BitVec 32) (s : State), s.seqReady cl.val = true → s.pathClear (s.ctxOn cl.val) cl.val = true →
    0x50000 ≤ addr.toNat → addr.toNat < 0x50400 → addr.toNat % 4 = 0 → s.corePresent (4 * cl.val + bits addr 9 8) = true →
    (s.seqE (s.ctxOn cl.val) cl.val).ctrWrites = [] →
    (cmpEngine (s.coreE (s.ctxOn cl.val) (4 * cl.val + bits addr 9 8)) (bits addr 7 4) = 3 ∨
      ∀ e ∈ (s.coreE (s.ctxOn cl.val) (4 * cl.val + bits addr 9 8)).queue
          (cmpEngine (s.coreE (s.ctxOn cl.val) (4 * cl.val + bits addr 9 8)) (bits addr 7 4)),
        e.taken = true ∨ e.result ≠ none ∨ (s.seqE (s.ctxOn cl.val) cl.val).issueNo ≤ e.issueNo) →
    exec (.counterWindowStore cl pc addr v) s = .next ((s.seqM (s.ctxOn cl.val) cl.val fun q =>
      { q with pc := pc + 4, instret := q.instret + 1, run := .run, ctrWrites := [] }).coreM (s.ctxOn cl.val)
        (4 * cl.val + bits addr 9 8) fun c => c.ctrStore (bits addr 7 0) v))

/-- R161, R172, R201, R202: TFENCE over engines whose instructions have all completed writes their flags to rd and clears them; QCWAIT on a counter that
has reached its threshold retires; QCSIG sends one signal to a core or cluster of this module and retires. R164, R165: a TAWAIT whose slot holds a
value takes the oldest into rd and retires; the slot keeps the others. R156: EBREAK of a context that runs with debug privilege halts its sequencer;
of any other it is the breakpoint exception, which SEQ_FAULT (where it is clear) and a UNC-class record show, and which faults the context. R172:
ECALL with a7 = 0, once everything that the program issued has completed, no captured tile waits for its check and no norm partial is left, ends the
share of its cluster with DONE, or DONE_FLAGGED where an instruction of the program completed flagged, and a0 as the exit word. -/
def Obligations.SequencerInstructionsRetire : Prop :=
  (∀ (cl : Cluster) (pc rs1 rs2 : BitVec 32) (rd : Fin 32) (s : State), s.seqReady cl.val = true →
    (s.pathClear (s.ctxOn cl.val) cl.val = true →
      s.drained (s.ctxOn cl.val) cl.val (if BitVec.ofNat 4 (bits rs1 3 0) = 0 then 0xF else BitVec.ofNat 4 (bits rs1 3 0)) = true →
      exec (.tfence cl pc rd rs1) s = .next (s.seqM (s.ctxOn cl.val) cl.val fun q =>
        ({ q with pc := pc }).endFence (if BitVec.ofNat 4 (bits rs1 3 0) = 0 then 0xF else BitVec.ofNat 4 (bits rs1 3 0)) rd.val)) ∧
    (reached (tabGet (s.seqE (s.ctxOn cl.val) cl.val).qc (bits rs1 4 0) {}).value.toNat (bits rs2 15 0) = true →
      exec (.qcwait cl pc rs1 rs2) s = .next (s.seqM (s.ctxOn cl.val) cl.val fun q =>
        { q with pc := pc + 4, instret := q.instret + 1, run := .run })) ∧
    (s.pathClear (s.ctxOn cl.val) cl.val = true → s.unitAt rs1 0 1 = true → (uidFields rs1).module = s.modIdx →
      exec (.qcsig cl pc rs1 rs2) s = .next ((s.seqM (s.ctxOn cl.val) cl.val fun q =>
        { q with pc := pc + 4, instret := q.instret + 1, run := .run }).sendSignal
          { ctx := s.ctxOn cl.val, unit := rs1, ctr := bits rs2 4 0, inc := BitVec.ofNat 16 (bits rs2 31 16),
            epoch := (s.ctxE (s.ctxOn cl.val)).epoch }))) ∧
  (∀ (cl : Cluster) (pc rs1 : BitVec 32) (rd : Fin 32) (s : State) (v : RetVal) (r : List RetVal), s.seqReady cl.val = true →
    tabGet (s.seqE (s.ctxOn cl.val) cl.val).slots (bits rs1 2 0) [] = v :: r → v.fail = none →
    exec (.tawait cl pc rd rs1) s = .next (s.seqM (s.ctxOn cl.val) cl.val fun q =>
      ({ q with pc := pc, slots := tabSet q.slots (bits rs1 2 0) r }.setX rd.val v.bits).retire pc)) ∧
  (∀ (cl : Cluster) (pc : BitVec 32) (s : State), s.seqReady cl.val = true →
    ((s.runE (s.ctxOn cl.val)).debug = true →
      exec (.ebreak cl pc) s = .next (s.seqM (s.ctxOn cl.val) cl.val fun q => { q with pc := pc, run := .halted })) ∧
    ((s.runE (s.ctxOn cl.val)).debug = false → exec (.ebreak cl pc) s = .next (s.seqExc (s.ctxOn cl.val) cl.val 3 pc pc))) ∧
  (∀ (cl : Cluster) (pc a0 : BitVec 32) (s : State), s.seqReady cl.val = true → s.pathClear (s.ctxOn cl.val) cl.val = true →
    s.drained (s.ctxOn cl.val) cl.val 0xF = true → s.unchecked (s.ctxOn cl.val) = false →
    (∀ n ∈ s.clusCores cl.val, (s.coreE (s.ctxOn cl.val) n).norms = []) →
    ∃ t : State, exec (.ecall cl pc 0 a0) s = .next t ∧
      t = { s with cores := t.cores, seqs := (s.seqM (s.ctxOn cl.val) cl.val fun q =>
        { q with pc := pc, run := .idle, ended := some (if q.flagged then 1 else 0, a0, {}) }).seqs } ∧
      ∀ c n : Nat, n < 64 → t.coreE c n = s.coreE c n)

/-- R159, R160, R162, R182: a TISSUE of an instruction of the MXE, VXE, DXE or CXE, whose word lies in the data extent as do the descriptors it names,
enters the queue of its engine on every core of its broadcast set where each has room, with its parameter registers added in, its descriptors
copied, the step and the epoch of that moment; the sequencer retires it and nothing else changes. R158, R163: a TREPLAY of 1 to 1024 entries below
REPLAY_EXT begins a replay of count entries from the first one and retires; the issue path then moves, and each of its moves in a replay issues the
next entry and leaves one entry fewer. -/
def Obligations.InstructionsAreIssued : Prop :=
  (∀ (cl : Cluster) (pc rs1 : BitVec 32) (s : State) (q : SeqCtx) (t : TWord) (e : QEntry),
    s.seqReady cl.val = true → s.pathClear (s.ctxOn cl.val) cl.val = true →
    q = s.seqE (s.ctxOn cl.val) cl.val → rs1.toNat % 32 = 0 → rs1.toNat + 32 ≤ q.dataExt →
    t = pmPatch q (twordOfBytes (q.dataBytes rs1.toNat 32)) →
    (twordOfBytes (q.dataBytes rs1.toNat 32)).engine < 5 → t.engine < 4 →
    (∀ o, t.op = some o → ∀ i ∈ copiedTds t o, 64 * i + 64 ≤ q.dataExt) →
    e = { word := t, descs := ((match t.op with | some o => copiedTds t o | none => []).eraseDups.map fun i =>
            (i, descOfBytes (q.dataBytes (64 * i) 64))),
          step := q.step, epoch := (s.ctxE (s.ctxOn cl.val)).epoch, cluster := cl.val, issueNo := q.issueNo, pc := pc,
          bset := q.bmask &&& s.presentMask cl.val } →
    e.bset ≠ 0 → s.fullMask (s.ctxOn cl.val) cl.val t.engine e.bset = 0 →
    ∃ u : State, exec (.tissue cl pc rs1) s = .next u ∧
      u = { s with cores := u.cores, seqs := (s.seqM (s.ctxOn cl.val) cl.val fun q =>
        { q with pc := pc + 4, instret := q.instret + 1, run := .run, issueNo := q.issueNo + 1 }).seqs } ∧
      ∀ c n : Nat, n < 64 → u.coreE c n =
        if c = s.ctxOn cl.val ∧ n ∈ bsetCores cl.val e.bset then
          (s.coreE c n).setQueue (engineQueue t.engine) ((s.coreE c n).queue (engineQueue t.engine) ++
            [{ e with slot := freeSlot ((s.coreE c n).queue (engineQueue t.engine)) }])
        else s.coreE c n) ∧
  (∀ (cl : Cluster) (pc first count : BitVec 32) (s : State), s.seqReady cl.val = true → s.pathClear (s.ctxOn cl.val) cl.val = true →
    1 ≤ count.toNat → count.toNat ≤ 1024 → first.toNat + count.toNat ≤ (s.seqE (s.ctxOn cl.val) cl.val).replayExt →
    exec (.treplay cl pc first count) s = .next ((s.seqM (s.ctxOn cl.val) cl.val fun q =>
      { q with pc := pc + 4, instret := q.instret + 1, run := .run, replayPos := some (first.toNat, count.toNat), replayPc := pc }).pumpN
        2099 (s.ctxOn cl.val) cl.val) ∧
    ∀ (u : State) (c k i n : Nat), (u.runE c).fault = none → (u.seqE c k).sync = none → (u.seqE c k).stalled = [] →
      (u.seqE c k).replayPos = some (i, n + 1) →
      u.pumpOnce c k = some ((u.seqM c k fun q => { q with replayPos := if n = 0 then none else some (i + 1, n) }).issue c k
        ((u.seqE c k).replayWord i) (u.seqE c k).replayPc (some i) (BitVec.ofNat 32 (0x40000 + 32 * i))))

/-- R201, R202, R205, R213: a signal in flight that reaches a unit of its context's job adds its increment, modulo 2^16, to the counter, whose epoch it
has, and no other counter changes; one of another epoch is dropped and counted at its target. R181, R199, R202: the issue stage carries out the SYNC
instruction it holds once its checks pass and the wait that it names, if any, is satisfied at every position of its broadcast set: SIG and WAIT send
their signal, if any, and SCSET sets its counters; the stage is free again and the issue path moves on. R25, R204, R206, R212: a write of
SYNC_SIGNAL by the owner of the context, one of its companion cores or a sequencer of its contexts sends a signal of INC with the context's epoch to
the counter of the window's unit; any other agent's has no effect and leaves an access record. -/
def Obligations.SignalsAreSentAndArrive : Prop :=
  (∀ (n : Nat) (s : State) (g : Signal) (u : UnitF), s.sigs[n]? = some g → u = uidFields g.unit → s.holdsCtrs g.ctx u = true →
    (s.ctxE g.ctx).state ≠ .free → (s.ctxE g.ctx).state ≠ .scrubbing →
    (g.epoch = (s.ctrE g.ctx u g.ctr).epoch → g.ctr < ctrCount u → Completes (.signalArrival n) s fun t =>
      t.sigs = s.sigs.eraseIdx n ∧
      (∀ i, t.ctrE g.ctx u i = if i = g.ctr then { s.ctrE g.ctx u i with value := (s.ctrE g.ctx u i).value + g.inc } else s.ctrE g.ctx u i) ∧
      t = { s with sigs := s.sigs.eraseIdx n, cores := t.cores, seqs := t.seqs }) ∧
    (g.epoch ≠ (s.ctrE g.ctx u g.ctr).epoch →
      exec (.signalArrival n) s = .next (({ s with sigs := s.sigs.eraseIdx n } : State).countStale u))) ∧
  (∀ (cl : Cluster) (s : State) (e : QEntry) (o : Op) (now : BitVec 4), s.seqLive cl.val = true →
    (s.runE (s.ctxOn cl.val)).fault = none → (s.seqE (s.ctxOn cl.val) cl.val).sync = some e → e.word.op = some o →
    s.syncBad (s.ctxOn cl.val) e.word = none →
    now = (if e.word.wscope then
        (if reached (tabGet (s.seqE (s.ctxOn cl.val) cl.val).qc e.word.wctr {}).value.toNat e.word.wthresh then 0xF else 0)
      else BitVec.ofNat 4 (listMask ((maskList 4 e.bset.toNat).filter fun j =>
        reached (tabGet (s.coreE (s.ctxOn cl.val) (4 * cl.val + j)).sc e.word.wctr {}).value.toNat e.word.wthresh))) →
    (e.word.waitv = true → ((s.seqE (s.ctxOn cl.val) cl.val).syncDone ||| now) &&& e.bset = e.bset) →
    (o = .sig → exec (.sig cl) s = .next ((if e.word.sigv then
        (s.seqM (s.ctxOn cl.val) cl.val SeqCtx.leaveSync).signalOf (s.ctxOn cl.val) e.word e.epoch (bsetCores cl.val e.bset)
      else s.seqM (s.ctxOn cl.val) cl.val SeqCtx.leaveSync).pump (s.ctxOn cl.val) cl.val)) ∧
    (o = .wait → exec (.wait cl) s = .next ((if e.word.sigv then
        (s.seqM (s.ctxOn cl.val) cl.val SeqCtx.leaveSync).signalOf (s.ctxOn cl.val) e.word e.epoch (bsetCores cl.val e.bset)
      else s.seqM (s.ctxOn cl.val) cl.val SeqCtx.leaveSync).pump (s.ctxOn cl.val) cl.val)) ∧
    (o = .scset → exec (.scset cl) s = .next (((s.seqM (s.ctxOn cl.val) cl.val SeqCtx.leaveSync).scsetAll
      (s.ctxOn cl.val) cl.val e).pump (s.ctxOn cl.val) cl.val))) ∧
  (∀ (w : Writer) (unit : BitVec 32) (v : BitVec 64) (s : State) (u : UnitF), u = uidFields unit →
    (s.unitValid unit = true → u.module = s.modIdx → u.level ≤ 1 → s.signalsCtx w (bits v 63 52) = true → bits v 37 32 < ctrCount u →
      exec (.syncSignal w unit v) s = .next { s with
        sigs := s.sigs ++ [{
          ctx := bits v 63 52, unit := unit, ctr := bits v 37 32,
          inc := BitVec.ofNat 16 (bits v 31 16), epoch := (s.ctxE (bits v 63 52)).epoch }] }) ∧
    (s.signalsCtx w (bits v 63 52) = false → exec (.syncSignal w unit v) s = .next (s.infoAccess w unit 0x1018 v)) ∧
    (isMgmt w = true ∨ isFirm w = true → exec (.syncSignal w unit v) s = .next (s.infoAccess w unit 0x1018 v)))

/-- R154, R155: an aligned load, store, LR, SC or AMO of the sequencer's processor within the data extent has the effect of the RISC-V base on data
memory, on rd and on the reservation, and retires; SC stores and answers 0 only where the reservation stands on its word; a read of SQ_CTX answers
the context; a misaligned load is the exception of code 4. An instruction of the processor's own program that gives a register a result, fetched whole at
its program counter from 16 or 32 bits, writes it there, retires, and goes on where it says; one that the processor does not have is the exception of
code 2 (what words give which results is presumed from the RISC-V base, notes/assumptions/6.md). -/
def Obligations.DataMemoryAccessesComplete : Prop :=
  ∀ (cl : Cluster) (pc : BitVec 32) (len : Nat) (s : State), s.seqReady cl.val = true →
    (∀ (a : BitVec 32) (n : Nat) (sg : Bool) (rd : Fin 32), n = 1 ∨ n = 2 ∨ n = 4 → a.toNat % n = 0 →
      a.toNat + n ≤ (s.seqE (s.ctxOn cl.val) cl.val).dataExt →
      exec (.sequencerLoadStore cl pc len (.load a n sg rd)) s = .next (s.seqM (s.ctxOn cl.val) cl.val fun q =>
        (q.setX rd.val (extend n sg (bytesNat (q.dataBytes a.toNat n)))).retireBy pc len)) ∧
    (∀ (a : BitVec 32) (n : Nat) (sg : Bool) (rd : Fin 32), n = 2 ∨ n = 4 → a.toNat % n ≠ 0 →
      exec (.sequencerLoadStore cl pc len (.load a n sg rd)) s = .next (s.seqExc (s.ctxOn cl.val) cl.val 4 a pc)) ∧
    (∀ (a : BitVec 32) (n : Nat) (v : BitVec 32), n = 1 ∨ n = 2 ∨ n = 4 → a.toNat % n = 0 →
      a.toNat + n ≤ (s.seqE (s.ctxOn cl.val) cl.val).dataExt →
      exec (.sequencerLoadStore cl pc len (.store a n v)) s = .next (s.seqM (s.ctxOn cl.val) cl.val fun q =>
        ({ q with dmem := cellsPut q.dmem a.toNat (natBytes n v.toNat) }).retireBy pc len)) ∧
    (∀ (a v : BitVec 32) (rd : Fin 32), a.toNat % 4 = 0 → a.toNat + 4 ≤ (s.seqE (s.ctxOn cl.val) cl.val).dataExt →
      exec (.sequencerLoadStore cl pc len (.lr a rd)) s = .next (s.seqM (s.ctxOn cl.val) cl.val fun q =>
        ({ q with resv := some a }.setX rd.val (BitVec.ofNat 32 (bytesNat (q.dataBytes a.toNat 4)))).retireBy pc len) ∧
      exec (.sequencerLoadStore cl pc len (.sc a v rd)) s = .next (s.seqM (s.ctxOn cl.val) cl.val fun q =>
        ({ q with resv := none,
                  dmem := if q.resv = some a then cellsPut q.dmem a.toNat (natBytes 4 v.toNat) else q.dmem }.setX rd.val
          (if q.resv = some a then 0 else 1)).retireBy pc len) ∧
      ∀ op : AmoOp, exec (.sequencerLoadStore cl pc len (.amo op a v rd)) s = .next (s.seqM (s.ctxOn cl.val) cl.val fun q =>
        ({ q with dmem := cellsPut q.dmem a.toNat (natBytes 4
            (amoResult op (BitVec.ofNat 32 (bytesNat (q.dataBytes a.toNat 4))) v).toNat) }.setX rd.val
          (BitVec.ofNat 32 (bytesNat (q.dataBytes a.toNat 4)))).retireBy pc len)) ∧
    (∀ rd : Fin 32, exec (.sequencerLoadStore cl pc len (.csrRead 0xCC3 rd)) s = .next (s.seqM (s.ctxOn cl.val) cl.val fun q =>
      (q.setX rd.val (BitVec.ofNat 32 (s.ctxOn cl.val))).retireBy pc len)) ∧
    ∀ (q : SeqCtx) (s1 s2 : State) (lo w : BitVec 32) (long : Bool), q = s.seqE (s.ctxOn cl.val) cl.val →
      s.seqFetch (s.ctxOn cl.val) cl.val q.pc 2 q.pc = (s1, some lo) → (long = true ↔ bits lo 1 0 = 3) →
      (long = true → s1.seqFetch (s.ctxOn cl.val) cl.val q.pc 4 q.pc = (s2, some w)) →
      (long = false → s2 = s1 ∧ rvExpand (lo.setWidth 16) = some w) →
      (∀ (rd : Nat) (v next : BitVec 32), rvAct w q.pc (if long then 4 else 2) q.getX = .put rd v next →
        exec (.sequencerLoadStore cl pc len .step) s = .next (s2.seqM (s.ctxOn cl.val) cl.val fun q' =>
          { (q'.setX rd v).retireBy q.pc (if long then 4 else 2) with pc := next })) ∧
      (rvAct w q.pc (if long then 4 else 2) q.getX = .illegal →
        exec (.sequencerLoadStore cl pc len .step) s =
          .next (s2.seqExc (s.ctxOn cl.val) cl.val 2 (if long then w else lo) q.pc))

/-- R75 to R78, R84, R89, R192: a load that its slot allows fills the shadow set of every array in its mask with the chunk it read (each array its own
chunk under AS, the same one otherwise; turned under LDWT) and the chunk's recorded format, and sets the anchors of those arrays; the active sets,
the other arrays and memory stay; the instruction ends with DONE. R86, Table 4-9: an idle array shows its idle count,
saturated at 511; below 256 its columns stay as they are, from 256 cycles they ramp down, and from 288 they are cold. -/
def Obligations.LoadFillsTheShadowSets : Prop :=
  (∀ (cmd : Instr) (c : CoreN) (ready ctx : Nat) (s s1 s2 : State) (e : QEntry) (o : Op) (d : Desc) (st : Int) (as : Bool)
    (places : List (List (Nat × List Nat))) (f : Fetched),
    (cmd = .ldw c ready ∧ o = .ldw) ∨ (cmd = .ldwt c ready ∧ o = .ldwt) →
    s.ready c.val 0 (· == o) (fun s ctx e o => mxeRest s c.val ctx e o) = some (s1, ctx, e, o) →
    e.word.arrays ≠ 0 → d = e.desc (e.word.td 0) → st = issueCycle e.word (s1.coreE ctx c.val) ready →
    slotFail e.word o (loadCycles e.word.pcode d.fmt) st (s1.coreE ctx c.val) = none → as = (e.word.modeAs && o == .ldw) →
    places = (List.range (if as then (arrayList e.word).length else 1)).map (fun j =>
      chunkPlaces d (originOf d (e.word.off 0)) (o == .ldwt) (pOf e.word.pcode) (64 * j)) →
    (s1.coreM ctx c.val fun k => { k with anchor := some st }).fetchAt (agentOf ctx c.val 2)
      (readAddrs d (places.flatten.map Prod.snd)) = (s2, .ok f) →
    ∃ arrs : List (Nat × ArrCtx), exec cmd s = .next (s2.coreM ctx c.val fun k =>
        { k with arrays := arrs,
                 mxeQ := updFirst (fun x => x.slot == e.slot) (fun x => { x with taken := true, result := some {} }) k.mxeQ }) ∧
      ∀ a : Nat, tabGet arrs a {} =
        if a ∈ arrayList e.word then
          { (s2.coreE ctx c.val).arr a with
            shadow := { loaded := true, modeAs := as, fmt := BitVec.ofNat 4 d.fmt, role := BitVec.ofNat 2 d.role, fll := d.fll,
                        pcode := BitVec.ofNat 2 e.word.pcode,
                        elems := (places.getD (if as then (arrayList e.word).idxOf a else 0) []).map fun q => (q.1, elAt d f q.2) },
            time := { ((s2.coreE ctx c.val).arr a).time with
              loadStart := some st, loadKind := if o == .ldwt then 2 else if as then 1 else 0, loadN := (arrayList e.word).length,
              loadL := loadCycles e.word.pcode d.fmt,
              loadEnd := some (st + (if as then (arrayList e.word).length * loadCycles e.word.pcode d.fmt
                else loadCycles e.word.pcode d.fmt)) } }
        else (s2.coreE ctx c.val).arr a) ∧
  (∀ (c : CoreN) (a : Fin 4) (idle : Nat) (s : State),
    exec (.arrayRampDown c a idle) s = .next (s.physM c.val fun p =>
      { p with arrIdle := tabSet p.arrIdle a.val (min idle 511),
               arrState := if idle < 256 then p.arrState else tabSet p.arrState a.val (if 288 ≤ idle then 0 else 3) }))

/-- R72 to R74, R79, R80, R83, R192: a pass that its slot allows adds, into the LA at row m and column n of its tile on every array of its mask, both
bands of the products of stream vector m and column n of the stationary set in use (the shadow set after SWAP); with CLEAR from a cleared tile. The
LAs of other arrays, and memory, stay; the instruction ends with DONE. (Sets of one MMULA that record different P: notes/assumptions/22.md.) -/
def Obligations.PassAddsIntoTheTiles : Prop :=
  ∀ (cmd : Instr) (c : CoreN) (ready ctx p : Nat) (s s1 s2 : State) (e : QEntry) (o : Op) (d : Desc) (i : Int)
    (rows : List (List (Nat × List Nat))) (f : Fetched),
    (cmd = .mmul c ready ∧ o = .mmul) ∨ (cmd = .mmula c ready ∧ o = .mmula) →
    s.ready c.val 0 (· == o) (fun s ctx e o => mxeRest s c.val ctx e o) = some (s1, ctx, e, o) →
    e.word.arrays ≠ 0 → d = e.desc (e.word.td 0) → i = issueCycle e.word (s1.coreE ctx c.val) ready →
    slotFail e.word o 0 (i + rampOf e.word (s1.coreE ctx c.val) (s1.physE c.val) i) (s1.coreE ctx c.val) = none →
    p = passP e.word o (s1.coreE ctx c.val) d →
    rows = (List.range (if o == .mmula then 64 else 64 * (arrayList e.word).length)).map
      (fun m => vectorPlaces d (originOf d (e.word.off 0)) p m) →
    (s1.coreM ctx c.val fun k => { k with anchor := some (i + rampOf e.word (s1.coreE ctx c.val) (s1.physE c.val) i) }).fetchAt (agentOf ctx c.val 2)
      (readAddrs d (rows.flatten.map Prod.snd)) = (s2, .ok f) →
    ∃ u : State, exec cmd s = .next u ∧ u = { s2 with cores := u.cores, phys := u.phys, runs := u.runs } ∧
      (u.coreE ctx c.val).mxeQ = updFirst (fun x => x.slot == e.slot) (fun x => { x with taken := true, result := some {} })
        (s2.coreE ctx c.val).mxeQ ∧
      (∀ a : Nat, a ∉ arrayList e.word → ∀ t m n : Nat, t < 2 → m < 64 → n < 64 →
        (u.coreE ctx c.val).la ctx (laKey a t m n) = (s2.coreE ctx c.val).la ctx (laKey a t m n)) ∧
      ∀ (j a : Nat) (set : StatSet), (arrayList e.word)[j]? = some a → set = passSet e.word ((s2.coreE ctx c.val).arr a) →
        ∀ (m n pa : Nat) (vec col : List (Option El)) (base : LA), m < 64 → n < 64 →
          pa = (if o == .mmula then pOf set.pcode.toNat else p) →
          vec = denseOf 0 (64 * p) ((rows.getD (if o == .mmula then m else 64 * j + m) []).map fun q => (q.1, elAt d f q.2)) →
          col = column set n pa →
          base = (if e.word.clearT then laClear ctx else (s2.coreE ctx c.val).la ctx (laKey a e.word.tile m n)) →
          (u.coreE ctx c.val).la ctx (laKey a e.word.tile m n) =
            if vec.any Option.isSome && col.any Option.isSome then
              laPass d.fmt set.fmt.toNat (if o == .mmula then fmtRate set.fmt.toNat else fmtRate d.fmt) pa base vec col
            else base

/-- R63 to R65, R80, R81, R84, R92, R116, R117: a drain that its slot allows, of tiles whose every LA passes its residue check, writes each resolved LA
to its place through the lehr (row by row under AS, turned otherwise), counts flagged blocks, adds the written values to the norm slot of its tag,
closes the captures of its tiles and ends with DONE, DONE_FLAGGED, or the residue mismatch of a slot it merged; its tiles keep the OVF that the
resolve set. -/
def Obligations.DrainWritesTheResolvedTiles : Prop :=
  ∀ (c : CoreN) (ready ctx : Nat) (s s1 s2 s2r s3 s4 : State) (e : QEntry) (d : Desc) (st : Int) (vals : List (List Nat × Res)) (out : ConvOut)
    (w : Option Outcm),
    s.ready c.val 0 (· == .drn) (fun s ctx e o => mxeRest s c.val ctx e o) = some (s1, ctx, e, .drn) →
    e.word.arrays ≠ 0 → d = e.desc (e.word.td 0) → st = issueCycle e.word (s1.coreE ctx c.val) ready →
    slotFail e.word .drn 0 st (s1.coreE ctx c.val) = none →
    s2 = (arrayList e.word).zipIdx.foldl (fun s aj => s.coreM ctx c.val fun k => k.arrM aj.1 fun x =>
        if e.word.tile = 0 then { x with time := { x.time with drain0 := some st } } else { x with time := { x.time with drain1 := some st } })
      (s1.coreM ctx c.val fun k => { k with anchor := some st }) →
    s2r = s2.coreM ctx c.val (fun k => k.resolveTiles (arrayList e.word) e.word.tile) →
    (∀ a ∈ arrayList e.word, ∀ m n : Nat, m < 64 → n < 64 →
      laMismatch (laResolve ((s2.coreE ctx c.val).la ctx (laKey a e.word.tile m n))) = false) →
    vals = (arrayList e.word).zipIdx.flatMap (fun aj =>
      (((List.range 64).flatMap fun m => (List.range 64).map fun n => (m, n)).map fun p =>
        (drnPlace (originOf d (e.word.off 0))
          (if e.word.tile = 0 then ((s2.coreE ctx c.val).arr aj.1).tileAs0 else ((s2.coreE ctx c.val).arr aj.1).tileAs1) aj.2 p.1 p.2,
         laValue (laResolve ((s2.coreE ctx c.val).la ctx (laKey aj.1 e.word.tile p.1 p.2))))).filter fun q => presentAt d q.1) →
    s2r.convertTo (agentOf ctx c.val 2) d (s2r.convCtx ctx e false) vals = (s3, .ok out) →
    (s3.addFlagged ctx out.count).normWritten ctx c.val e.word.tag d out.written = (s4, w) →
    exec (.drn c ready) s = .next (endAfterNorm ((arrayList e.word).zipIdx.foldl (fun s aj =>
        s.closeTile ctx c.val aj.1 e.word.tile
          ((List.range 64).flatMap fun m => (List.range 64).map fun n =>
            laResolve ((s2.coreE ctx c.val).la ctx (laKey aj.1 e.word.tile m n)))
          (streamOf out.bytes) e out.scales) s4, w) ctx c.val 0 e.slot out.flagged)

/-- R129, R131, R132, R116: a VEW whose operands are read gives every present element of its destination f(a, b) of Table 6-4 and then the fused step,
and a VCVT.CONVERT the source element, each rounded once by the lehr; flagged blocks are counted; VCVT adds the written values to the norm slot of
its tag; the instruction ends with DONE or DONE_FLAGGED. R113, R119, R195, R197: VNRM.ADD adds the exact squares of its source window to the slot of
its MOD and TAG; VNRM.FLUSH merges the core's partials and ends with what the merges gave; VCVT.COMMIT replaces every entry whose block meets its
window by the committed one and writes nothing else. -/
def Obligations.ElementwiseResultsAreWritten : Prop :=
  (∀ (c : CoreN) (ctx : Nat) (s s1 s2 s3 : State) (e : QEntry) (ft : Fetched) (out : ConvOut),
    (∀ fn fuse : Nat,
      s.ready c.val 1 isVew (fun s ctx e o => vewRest s c.val ctx e o) =
        some (s1, ctx, e, .vew fn fuse) →
      s1.fetchAt (agentOf ctx c.val 2) (([e.view 1] ++ (if opHas (.vew fn fuse) 2 then [e.view 2] else []) ++
        (if opHasX (.vew fn fuse) then [e.view 3] else [])).flatMap fun v => readAddrs v.d v.xs) = (s2, .ok ft) →
      s2.convertTo (agentOf ctx c.val 2) (e.view 0).d (s2.convCtx ctx e false) ((e.view 0).present.map fun p =>
        (p.2, vewElem fn fuse ((e.view 1).at ft p.1) (if opHas (.vew fn fuse) 2 then (e.view 2).at ft p.1 else vZero)
          (if opHasX (.vew fn fuse) then (e.view 3).at ft p.1 else vZero))) = (s3, .ok out) →
      exec (.vew c) s = .next ((s3.addFlagged ctx out.count).doneEntry ctx c.val 1 e.slot out.flagged)) ∧
    (s.ready c.val 1 (· == .vcvt) (fun s ctx e o => vcvtRest s c.val ctx e o) = some (s1, ctx, e, .vcvt) →
      s1.fetchAt (agentOf ctx c.val 2) ([e.view 1].flatMap fun v => readAddrs v.d v.xs) = (s2, .ok ft) →
      s2.convertTo (agentOf ctx c.val 2) (e.view 0).d (s2.convCtx ctx e false) ((e.view 0).present.map fun p =>
        (p.2, resOf ((e.view 1).at ft p.1))) = (s3, .ok out) →
      exec (.vcvtConvert c) s = .next (endAfterNorm ((s3.addFlagged ctx out.count).normWritten ctx c.val e.word.tag (e.view 0).d out.written)
        ctx c.val 1 e.slot out.flagged))) ∧
  (∀ (c : CoreN) (ctx : Nat) (s s1 s2 s3 : State) (e : QEntry) (f : Fetched) (r : Option Outcm),
    (s.ready c.val 1 (· == .vnrmAdd) (fun s ctx e o => vnrmRest s c.val ctx e o) = some (s1, ctx, e, .vnrmAdd) →
      s1.fetchAt (agentOf ctx c.val 2) ([e.view 1].flatMap fun v => readAddrs v.d v.xs) = (s2, .ok f) →
      exec (.vnrmAdd c) s = .next (endAfterNorm (s2.normAdd ctx c.val (e.word.mod % 4 * 256 + e.word.tag)
        ((e.view 1).xs.map fun x => (valAt (e.view 1).d f x).sq)) ctx c.val 1 e.slot false)) ∧
    (s.ready c.val 1 (· == .vnrmFlush) (fun s _ _ _ => (s, [], [], [])) = some (s1, ctx, e, .vnrmFlush) →
      s1.flushNorms ctx c.val = (s2, r) →
      exec (.vnrmFlush c) s = .next (s2.endEntry ctx c.val 1 e.slot (r.getD {}))) ∧
    (s.ready c.val 1 (· == .vcommit) (fun s ctx e o => commitRest s c.val ctx e o) = some (s1, ctx, e, .vcommit) →
      s1.fetchAt (agentOf ctx c.val 2) ((((e.view 0).xs.map (blockNo (e.view 0).d)).eraseDups).flatMap fun j =>
        [entryAddr (e.view 0).d j, entryAddr (e.view 0).d j + 1]) = (s2, .ok f) →
      s2.writeMasked (agentOf ctx c.val 2) ((((e.view 0).xs.map (blockNo (e.view 0).d)).eraseDups).flatMap fun j =>
        [(entryAddr (e.view 0).d j, 255, (commitEntry (BitVec.ofNat 8 (f.get (entryAddr (e.view 0).d j)))
            (BitVec.ofNat 8 (f.get (entryAddr (e.view 0).d j + 1)))).1.toNat),
         (entryAddr (e.view 0).d j + 1, 255, (commitEntry (BitVec.ofNat 8 (f.get (entryAddr (e.view 0).d j)))
            (BitVec.ofNat 8 (f.get (entryAddr (e.view 0).d j + 1)))).2.toNat)]) = (s3, none) →
      exec (.vcvtCommit c) s = .next (s3.doneEntry ctx c.val 1 e.slot false)))

/-- R133, R134, R135, R194: a VRED clears its accumulators in its phases 0 and 1 and adds every present source element to its own; in phases 1 and 2 it
ends there; otherwise, where every residue agrees, it writes the resolved accumulators through the lehr, or hands its accumulator to the return
combiner of its cluster; an accumulator that overflowed keeps its OVF (R63). R135, R164: outside a drain, the combiner's oldest complete sum for a
slot with room, with no earlier VRED of the slot outstanding and its residue in agreement, is rounded to F32 and joins the slot; its VRED ends on
every core of its broadcast set, a TAWAIT that waits on the slot takes a value, and the failure tokens that waited for it enter. -/
def Obligations.ReductionsAccumulateAndFinish : Prop :=
  (∀ (c : CoreN) (ctx phase dim n : Nat) (sret : Bool) (s s1 s2 s3 s4 : State) (e : QEntry) (f : Fetched) (ext : List Nat) (out : ConvOut),
    s.ready c.val 1 isVred (fun s ctx e o => vredRest s c.val ctx e o) =
      some (s1, ctx, e, .vred phase sret dim) →
    s1.fetchAt (agentOf ctx c.val 2) ([e.view 1].flatMap fun v => readAddrs v.d v.xs) = (s2, .ok f) →
    ext = vredExt (e.view 1).e sret dim → n = ext.getD 0 0 * ext.getD 1 0 * ext.getD 2 0 * ext.getD 3 0 →
    s3 = (if phase ≤ 1 then
        s2.coreM ctx c.val fun k => { k with vacc := forN (accBase e.word) n (fun i l => tabSet l i (laClear ctx)) k.vacc }
      else s2).coreM ctx c.val (fun k => vredAdd k ctx ((e.view 1).present.map fun p =>
        (accBase e.word + (if sret then 0 else winIdx ext (p.1.set dim 0)), valAt (e.view 1).d f p.2))) →
    (phase = 1 ∨ phase = 2 → exec (.vred c) s = .next (s3.doneEntry ctx c.val 1 e.slot false)) ∧
    (phase ≠ 1 → phase ≠ 2 →
      (∀ i < n, laMismatch (laResolve ((s3.coreE ctx c.val).acc ctx (accBase e.word + i))) = false) →
      (sret = true → exec (.vred c) s = .next ((s3.coreM ctx c.val fun k => k.resolveAccs (accBase e.word) n).seqM ctx e.cluster fun q =>
        { q with combine := q.combine ++ [(e.word.mod % 8, e.issueNo, c.val, laResolve ((s3.coreE ctx c.val).acc ctx (accBase e.word)))] })) ∧
      (sret = false →
        (s3.coreM ctx c.val fun k => k.resolveAccs (accBase e.word) n).convertTo (agentOf ctx c.val 2) (e.view 0).d
          ((s3.coreM ctx c.val fun k => k.resolveAccs (accBase e.word) n).convCtx ctx e false)
          (((e.view 0).present.filter fun p => winIdx ext p.1 < n).map fun p =>
            (p.2, laValue (laResolve ((s3.coreE ctx c.val).acc ctx (accBase e.word + winIdx ext p.1))))) = (s4, .ok out) →
        exec (.vred c) s = .next ((s4.addFlagged ctx out.count).doneEntry ctx c.val 1 e.slot out.flagged)))) ∧
  (∀ (cl : Cluster) (slot : Fin 8) (s : State) (no : Nat) (parts : List (Nat × Nat × Nat × LA)) (cores : List Nat),
    s.frozen = false → s.combined (s.ctxOn cl.val) cl.val slot.val = some (no, parts, cores) →
    laMismatch (combineSum (s.ctxOn cl.val) parts) = false →
    exec (.scalarReturn cl slot) s = .next ((((s.seqM (s.ctxOn cl.val) cl.val fun q =>
      { q.uncombine slot.val no with
        slots := tabSet q.slots slot.val (tabGet q.slots slot.val [] ++
          [⟨BitVec.ofNat 32 (lehrRound 10 true 0 (laValue (combineSum (s.ctxOn cl.val) parts)) 127 0 0).code, none, no⟩]) }).endVred
        (s.ctxOn cl.val) no cores {}).takeScalar (s.ctxOn cl.val) cl.val).enterTokens (s.ctxOn cl.val) cl.val))

/-- R217, R236 to R239, R345: a VOPT whose γ and operands are read gives every present weight the update of its algorithm, rounded with SR, and every
state plane its moment; the squares of the written weights and of their changes join the norm slots of a non-zero tag; the digest of the written
weights goes to the span master's hub; flagged blocks are counted. R232, R233, R234: a VHRV writes the kept sums (and zeros) to op0, the remainders
to the residual and the kept indices to its list; a VSGN writes the sign bits and scales of the sums, the remainders and the magnitudes; each counts
its flagged blocks and ends. -/
def Obligations.OptimizerStepIsWritten : Prop :=
  (∀ (c : CoreN) (ctx alg : Nat) (s s1 s2 s3 s4 s5 s6 s7 : State) (e : QEntry) (f : Fetched) (gamma : Val) (ow om : ConvOut)
    (n0 n2 : Option Outcm) (step : List Nat → Val × Val × Val),
    s.ready c.val 1 isVopt (fun s ctx e o => voptRest s c.val ctx e o) =
      some (s1, ctx, e, .vopt alg) →
    s1.clipGamma ctx c.val (optRec (e.desc e.word.opx)) = (s2, .ok gamma) →
    s2.fetchAt (agentOf ctx c.val 2) ([e.view 0, e.view 1, e.view 2].flatMap fun v => readAddrs v.d v.xs) = (s3, .ok f) →
    (∀ i, step i = optElem alg (optRec (e.desc e.word.opx)) gamma ((e.view 0).at f i) ((e.view 1).at f i) ((e.view 2).at f i)
      (if optPlanes alg = 2 then (e.view 2).at f (i.set (e.view 0).d.rank 1) else vZero)) →
    s3.convertTo (agentOf ctx c.val 2) (e.view 0).d (s3.convCtx ctx e true) ((e.view 0).present.map fun p =>
      (p.2, resOf (((e.view 0).at f p.1).add (step p.1).1.negate))) = (s4, .ok ow) →
    (s4.addFlagged ctx ow.count).convertTo (agentOf ctx c.val 2) (e.view 2).d ((s4.addFlagged ctx ow.count).convCtx ctx e true)
      ((e.view 2).present.map fun p => (p.2, resOf (if p.1.getD (e.view 0).d.rank 0 = 0 then (step (p.1.set (e.view 0).d.rank 0)).2.1
        else (step (p.1.set (e.view 0).d.rank 0)).2.2))) = (s5, .ok om) →
    (s6, n0) = (if e.word.tag = 0 then (s5.addFlagged ctx om.count, none)
      else (s5.addFlagged ctx om.count).normAdd ctx c.val e.word.tag (ow.written.map fun p => p.2.sq)) →
    (s7, n2) = (if e.word.tag = 0 then (s6, none) else s6.normAdd ctx c.val (512 + e.word.tag)
        (ow.written.map fun p => match (e.view 0).present.find? fun q => q.2 == p.1 with
          | some q => (p.2.add ((e.view 0).at f q.1).negate).sq
          | none => vZero)) →
    exec (.vopt c) s = .next (endAfterNorm
      (s7.sendDigest ctx e (e.view 0) (BitVec.ofNat 64 (crcOf 2 (elemStream (e.view 0) ow.bytes))), n0.or n2)
      ctx c.val 1 e.slot (ow.flagged || om.flagged))) ∧
  (∀ (c : CoreN) (ctx : Nat) (s s1 s2 s2o s3 s4 s5 : State) (e : QEntry) (f : Fetched) (o1 o2 : ConvOut),
    (s.ready c.val 1 (· == .vhrv) (fun s ctx e o => vhrvRest s c.val ctx e o) = some (s1, ctx, e, .vhrv) →
      s1.fetchAt (agentOf ctx c.val 2) ([e.view 1, e.view 2].flatMap fun v => readAddrs v.d v.xs) = (s2, .ok f) →
      s2.convertTo (agentOf ctx c.val 2) (e.view 0).d (s2.convCtx ctx e true) (vhrvValues e f) = (s3, .ok o1) →
      (s3.addFlagged ctx o1.count).convertTo (agentOf ctx c.val 2) (e.view 2).d ((s3.addFlagged ctx o1.count).convCtx ctx e true)
        (vhrvResidual e f o1.written) = (s4, .ok o2) →
      (s4.addFlagged ctx o2.count).writeMasked (agentOf ctx c.val 2) (vhrvList e f) = (s5, none) →
      exec (.vhrv c) s = .next (s5.doneEntry ctx c.val 1 e.slot (o1.flagged || o2.flagged))) ∧
    (∀ (blocks : List (Nat × (Nat × Bool) × List (List Nat × Val))) (old : Fetched),
      s.ready c.val 1 (· == .vsgn) (fun s ctx e o => vsgnRest s c.val ctx e o) = some (s1, ctx, e, .vsgn) →
      s1.fetchAt (agentOf ctx c.val 2) ([e.view 1, e.view 2].flatMap fun v => readAddrs v.d v.xs) = (s2, .ok f) →
      blocks = vsgnBlocks e (s1.convCtx ctx e true) f →
      s2.fetchAt (agentOf ctx c.val 2) (if (e.view 0).d.ledger then
        blocks.flatMap fun b => [entryAddr (e.view 0).d b.1, entryAddr (e.view 0).d b.1 + 1] else []) = (s2o, .ok old) →
      s2o.writeMasked (agentOf ctx c.val 2) (vsgnBytes e blocks) = (s3, none) →
      (s3.addFlagged ctx (vsgnCount (e.view 0).d old blocks)).convertTo (agentOf ctx c.val 2) (e.view 2).d
        ((s3.addFlagged ctx (vsgnCount (e.view 0).d old blocks)).convCtx ctx e true)
        (vsgnResidual e blocks f) = (s4, .ok o1) →
      (s4.addFlagged ctx o1.count).convertTo (agentOf ctx c.val 2) (e.desc e.word.opx)
        ((s4.addFlagged ctx o1.count).convCtx ctx e true) (vsgnMags e blocks) = (s5, .ok o2) →
      exec (.vsgn c) s = .next ((s5.addFlagged ctx o2.count).doneEntry ctx c.val 1 e.slot ((blocks.any fun b => b.2.1.2) || o1.flagged || o2.flagged))))

/-- R140, R147, R149: a DMOV whose source is read and whose bytes land copies the elements present in both windows, bit for bit, to the other cores of a
broadcast too, and feeds the armed check units the two streams; a DGTH does so with one shard for every present member of its group, shard i at i
times the shard's element count. R142, R143: a DSCT whose indices are all below DIM1 writes to every destination element that its list names the
exact sum of itself and its source rows, rounded once. -/
def Obligations.MovesCopyTheirWindows : Prop :=
  (∀ (c : CoreN) (ctx : Nat) (s s1 s2 s3 : State) (e : QEntry),
    (∀ (flaws : List (Nat × Flaw)) (f : Fetched) (els : List (List Nat × List Nat)) (bytes : List MByte),
      ({ s with mem := { s.mem with flaws := flaws.foldl (fun l p =>
          if s.mem.poison.contains p.1 || s.stackCap ≤ p.1 * 64 then l else tabSet l p.1 p.2) s.mem.flaws } } : State).ready c.val 2
        (· == .dmov) (fun s ctx e o => dmovRest s c.val ctx e o) = some (s1, ctx, e, .dmov) →
      els = dmovElems (e.view 0) (e.view 1) →
      s1.bytesWait (dmaOf ctx c.val 2 e.slot) (moveBytes (e.view 0).d (els.map fun p => (p.2, ({ x := p.1 } : Bits)))) = false →
      s1.fetchAt (dmaOf ctx c.val 2 e.slot) (copyAddrs (e.view 1).d (els.map Prod.fst) ++
        (if e.word.check then streamAddrs (e.view 1) else [])) = (s2, .ok f) →
      bytes = moveBytes (e.view 0).d (els.map fun p => (p.2, bitsAt (e.view 1).d f p.1)) →
      s2.writeMasked (dmaOf ctx c.val 2 e.slot) bytes = (s3, none) →
      exec (.dmov c flaws) s = .next (((s3.broadcast (dmaOf ctx c.val 2 e.slot) c.val (e.word.imm.toNat % 16) bytes).checkStreams ctx c.val e
        (dmaOf ctx c.val 2 e.slot) (planeRanges (e.view 1)) (planeRanges (e.view 0)) (readStream (e.view 1) f)
        (writtenStream (e.view 0) bytes)).doneEntry ctx c.val 2 e.slot false)) ∧
    (∀ (ms : List ((Option Agent × Nat) × Nat)) (fs : List (Nat × Fetched)),
      s.ready c.val 2 (· == .dgth) (fun s ctx e o => dgthRest s c.val ctx e o) = some (s1, ctx, e, .dgth) →
      ms = (s1.gatherMembers ctx c.val e.slot (uidFields e.word.imm)).zipIdx →
      s1.bytesWait (dmaOf ctx c.val 1 e.slot) (gatherShape e ms) = false →
      (∀ m ∈ ms, m.1.1 = none → bit s1.span.withdrawn m.1.2 = false) →
      s1.gatherRead (dmaOf ctx c.val 1 e.slot) e ms = (s2, .ok fs) → s2.writeMasked (dmaOf ctx c.val 1 e.slot) (gatherBytes e fs) = (s3, none) →
      exec (.dgth c) s = .next ((s3.checkStreams ctx c.val e (dmaOf ctx c.val 1 e.slot) (planeRanges (e.view 1))
        (runsOf ((gatherBytes e fs).map fun b => b.1))
        (gatherRead e fs) (gatherWritten e fs)).doneEntry ctx c.val 2 e.slot false))) ∧
  (∀ (c : CoreN) (ctx : Nat) (s s1 s2 s3 s4 : State) (e : QEntry) (fl f : Fetched) (idx : List Nat) (out : ConvOut),
    s.ready c.val 2 (· == .dsct) (fun s ctx e o => dsctRest s c.val ctx e o) = some (s1, ctx, e, .dsct) →
    s1.fetchAt (dmaOf ctx c.val 2 e.slot) (listAddrs (e.view 2) ((e.view 1).e.getD 1 0)) = (s2, .ok fl) →
    idx = (List.range ((e.view 1).e.getD 1 0)).map (listIndex (e.view 2) fl) → (∀ q ∈ idx, q < (e.view 0).d.dim 1) →
    s2.bytesWait (dmaOf ctx c.val 2 e.slot) ((dsctPlaces e idx).flatMap fun y => codeBytes (e.view 0).d y.2.2 0) = false →
    s2.fetchAt (dmaOf ctx c.val 2 e.slot) (dsctAddrs e idx) = (s3, .ok f) →
    (∀ p ∈ dsctSums ctx e idx f, laMismatch p.2 = false) →
    s3.convertTo (dmaOf ctx c.val 2 e.slot) (e.view 0).d (s3.convCtx ctx e false)
      ((dsctSums ctx e idx f).map fun p => (p.1, laValue p.2)) = (s4, .ok out) →
    exec (.dsct c) s = .next (((s4.addFlagged ctx out.count).checkStreams ctx c.val e (dmaOf ctx c.val 2 e.slot)
      (planeRanges (dsctSrc e)) (runsOf (out.bytes.map fun b => b.1)) (readStream (dsctSrc e) f)
      (dsctWritten e idx out.bytes)).doneEntry ctx c.val 2 e.slot out.flagged))

/-- R356, R357, R358: a DCOW whose region resolves protects every page of its source and writes zero to the first bytes of the manifest place; its copy
of a page leaves the page's digest, its final CV1 and the page out of the protection table, and after the last page the manifest is written, its
header last, and the DCOW has its outcome. -/
def Obligations.CopyOnWriteCopiesItsPages : Prop :=
  ∀ (c : CoreN) (ctx : Nat) (s s1 s2 s3 s4 : State) (e : QEntry),
    (∀ (pages : List Nat), s.ready c.val 2 (· == .dcow) (fun s ctx e o => dcowRest s c.val ctx e o) = some (s1, ctx, e, .dcow) →
      s1.cowResolve (dmaOf ctx c.val 3 e.slot) (e.desc (e.word.td 1)).base (4 * (e.desc (e.word.td 1)).dim 0) true = (s2, .ok pages) →
      ({ s2 with protect := pages.foldl (fun l p => tabSet l p (64 * ctx + c.val)) s2.protect } : State).outWrite (dmaOf ctx c.val 3 e.slot)
        false ((e.desc (e.word.td 0)).base + 65536 * pages.length) (List.replicate 8 0) = (s3, none) →
      exec (.dcow c) s = .next (s3.coreM ctx c.val fun k => { k with dcows := k.dcows ++ [{
        slot := e.slot, core := c.val, ctx := ctx, srcVa := (e.desc (e.word.td 1)).base, dstVa := (e.desc (e.word.td 0)).base,
        pages := pages, todo := List.range pages.length,
        cvSave := match (s3.coreE ctx c.val).dcows with | r :: _ => r.cvSave | [] => (s3.coreE ctx c.val).cv1, step := e.step }] })) ∧
    (∀ (r : DcowRun) (slot i : Nat) (rest : List Nat) (bs : List (BitVec 8)) (stale : Bool), ctx = (s.clusE (c.val / 4)).ctx →
      ctx ≠ 0 → (s.runE ctx).running = true → (s.coreE ctx c.val).dcows.find? (fun r => r.slot == slot) = some r →
      (s.coreE ctx c.val).dxeQ.find? (fun e => e.slot == slot) = some e → r.failed = none → e.result = none → r.todo = i :: rest →
      s.frozen = false → s.mem.hostHeld = [] → stale = (e.epoch != (s.ctxE ctx).epoch) →
      s.stackRead (r.pages.getD i 0 * 65536) 65536 (s.reqOf (dmaOf ctx c.val 3 slot) 3) =
        (s1, .ok bs) →
      s1.outWrite (dmaOf ctx c.val 3 slot) stale (r.dstVa + 65536 * i) bs = (s2, none) →
      s3 = s2.dcowCopied ctx c.val slot i (r.pages.getD i 0) bs →
      (∀ r', (s3.coreE ctx c.val).dcows.find? (fun r => r.slot == slot) = some r' →
        (r'.todo ≠ [] → exec (.dcowPageCopy c slot) s = .next s3) ∧
        (r'.todo = [] → s3.outWrite (dmaOf ctx c.val 3 slot) stale
            (r'.dstVa + 65536 * r'.pages.length + 64) (manifestBytes ctx (s3.ctxE ctx) s3.modIdx r').2 = (s4, none) →
          ∀ u, s4.outWrite (dmaOf ctx c.val 3 slot) stale
            (r'.dstVa + 65536 * r'.pages.length) (manifestBytes ctx (s3.ctxE ctx) s3.modIdx r').1 = (u, none) →
          exec (.dcowPageCopy c slot) s = .next (u.dcowEnds ctx c.val slot {}))))

/-- R149: DCRC.FEED gives its source stream to both armed check units of its core, and to those of the host where CHECK says so, and writes nothing;
DCRC.SAVE writes VALUE of CV0 and CV1 to its 16 bytes; DCRC.LOAD loads both, the bits that their polynomial does not use reading zero. R148, R348:
writing INIT loads the initial value of the polynomial and the fields; only the management port with OPERATE and PF0 write the hub's check-value
units, and HCV_REARM clears DONE; any other agent's write has no effect and leaves an access record. -/
def Obligations.CheckUnitsAreFedSavedAndLoaded : Prop :=
  (∀ (c : CoreN) (ctx : Nat) (s s1 s2 : State) (e : QEntry),
    (∀ f : Fetched, s.ready c.val 2 (· == .feed) (fun s ctx e o => feedRest s c.val ctx e o) = some (s1, ctx, e, .feed) →
      s1.fetchAt (dmaOf ctx c.val 2 e.slot) (streamAddrs (e.view 1)) = (s2, .ok f) → e.word.check = false →
      exec (.dcrcFeed c) s = .next ((s2.coreM ctx c.val fun k =>
        (k.feedCv false (readStream (e.view 1) f)).feedCv true (readStream (e.view 1) f)).doneEntry ctx c.val 2 e.slot false)) ∧
    (∀ bs : List (BitVec 8), s.ready c.val 2 (· == .save) (fun s ctx e o => saveRest s c.val ctx e o) = some (s1, ctx, e, .save) →
      s1.bytesWait (dmaOf ctx c.val 2 e.slot) ((List.range 16).map fun i => (crcAt e 0 + i, 255, 0)) = false →
      bs = natBytes 8 (cvMask (s1.coreE ctx c.val).cv0.poly (s1.coreE ctx c.val).cv0.value.toNat).toNat ++
        natBytes 8 (cvMask (s1.coreE ctx c.val).cv1.poly (s1.coreE ctx c.val).cv1.value.toNat).toNat →
      s1.vaWrite (dmaOf ctx c.val 2 e.slot) (crcAt e 0) bs = (s2, none) →
      exec (.dcrcSave c) s = .next ((s2.checkStreams ctx c.val e (dmaOf ctx c.val 2 e.slot) [] [(crcAt e 0, 16)] [] bs).doneEntry
        ctx c.val 2 e.slot false)) ∧
    (∀ bs : List (BitVec 8), s.ready c.val 2 (· == .load) (fun s ctx e o => loadRest s c.val ctx e o) = some (s1, ctx, e, .load) →
      s1.vaRead (dmaOf ctx c.val 2 e.slot) (crcAt e 1) 16 = (s2, .ok bs) → e.word.check = false →
      exec (.dcrcLoad c) s = .next ((s2.coreM ctx c.val fun k => { k with
          cv0 := { k.cv0 with value := cvMask k.cv0.poly (bytesNat (bs.take 8)) },
          cv1 := { k.cv1 with value := cvMask k.cv1.poly (bytesNat (bs.drop 8)) } }).doneEntry ctx c.val 2 e.slot false))) ∧
  (∀ (w : Writer) (v : BitVec 64) (s : State),
    (∀ (c : CoreN) (n : Fin 2), s.corePresent c.val = true → exec (.cvInit w c n v) s = .next (s.coreM (s.clusE (c.val / 4)).ctx c.val
      fun k => k.putCv n.val { side := bit v 4, poly := BitVec.ofNat 2 (bits v 3 2), arm := bit v 0 && bits v 3 2 != 3,
                               value := BitVec.ofNat 64 (crcInit (bits v 3 2)) })) ∧
    ∀ n : Fin 8,
      ((isMgmt w = true ∧ s.hasRole w 1 = true) ∨ w = .func 0 →
        exec (.hcvInit w n v) s = .next (s.hcvM n.val fun h => {
          ctx := BitVec.ofNat 12 (bits v 63 52), path := bit v 45,
          link := BitVec.ofNat 4 (bits v 44 41), dir := bit v 40, done := h.done && !(bit v 8), poly := BitVec.ofNat 2 (bits v 3 2),
          arm := bit v 0 && bits v 3 2 != 3, value := BitVec.ofNat 64 (crcInit (bits v 3 2)) }) ∧
        exec (.hcvRearm w n) s = .next (s.hcvM n.val fun h => { h with done := false })) ∧
      (isMgmt w = false → w ≠ .func 0 → exec (.hcvInit w n v) s = .next (s.infoAccess w s.modUid (0x2200 + 0x20 * n.val) v) ∧
        exec (.hcvRearm w n) s = .next (s.infoAccess w s.modUid (0x2200 + 0x20 * n.val) (reg [(1, 8, 1)]))))

/-- R110, R221, R222, R230, R231, R235: a CRED, CRED.NORM, CRSC, CBCS or CA2A at the head of its core's queue joins the next collective of its unit, a
CRED or CRSC with the scale bytes of its destination as they then stand, and the last of its module to join tells the others (notes/assumptions/10.md); a
CRED or CRSC whose collective holds every term, all residues agreeing, rounds the sums of its destination once and ends, and a CRED.NORM writes the
summed slot; the collective goes when no participant is left. R220, R221, R222, R224, R227, R228, R235: once every participant has joined it, here and
by the word of the other modules, and all agree, a collective starts: the participants' terms are summed, die by die, and every module is sent the
sums that it wants; of a CRED.NORM the slots are summed and sent; CBCS and CA2A send what other modules are due and move the bits to every participant
here. Participants that disagree all fail. -/
def Obligations.CollectivesJoinAndStart : Prop :=
  (∀ (c : CoreN) (ctx : Nat) (s s1 s2 : State) (e : QEntry),
    (∀ (i : Instr) (o : Op) (f : Fetched) (k : Nat),
      (i, o) ∈ [(.cred c, .cred), (.credNorm c, .credNorm), (.crsc c, .crsc), (.cbcs c, .cbcs), (.ca2a c, .ca2a)] →
      (∀ x ∈ (s.coreE (s.clusE (c.val / 4)).ctx c.val).dxeQ, x.joined = none) →
      s.ready c.val 2 (· == o) (fun s ctx e o => cxeRest s c.val ctx e o) = some (s1, ctx, e, o) →
      (if o == .cred || o == .crsc then s1.takeScales (dmaOf ctx c.val 2 e.slot) (e.view 0).d (e.view 0).xs = (s2, .ok f)
        else s2 = s1 ∧ f = []) → k = tabGet (s1.coreE ctx c.val).collNo e.word.imm.toNat 0 →
      exec i s = .next (((s2.coreM ctx c.val fun x => { x with collNo := tabSet x.collNo e.word.imm.toNat (k + 1) }).entryM ctx c.val 2 e.slot
        fun x => { x with joined := some k, scales := f }).announce ctx e.word.imm k o)) ∧
    (∀ (i : Instr) (o : Op) (k : Nat) (w : Coll) (r : List QEntry) (out : ConvOut), (i, o) ∈ [(.cred c, .cred), (.crsc c, .crsc)] →
      ctx = (s.clusE (c.val / 4)).ctx → ctx ≠ 0 → (s.runE ctx).running = true → (s.coreE ctx c.val).dxeQ = e :: r →
      e.taken = true → e.result = none → e.joined = some k → e.word.op = some o → s.collE ctx e.word.imm k = some w → w.whole = true →
      s.bytesWait (s.dmaLate ctx c.val e) ((e.view 0).xs.flatMap fun x => codeBytes (e.view 0).d x 0) = false →
      (∀ x ∈ (e.view 0).xs, laMismatch (laResolve (tabGet w.elems (linearIdx (e.view 0).d x) (laClear ctx))) = false) →
      s.convertTo (s.dmaLate ctx c.val e) (e.view 0).d (s.convCtx ctx e false) ((e.view 0).xs.map fun x =>
        (x, laValue (laResolve (tabGet w.elems (linearIdx (e.view 0).d x) (laClear ctx))))) e.scales = (s1, .ok out) →
      exec i s = .next ((((if w.slowed then (s1.addFlagged ctx out.count).escRec ctx c.val w out.flagged else s1.addFlagged ctx out.count).doneEntry
        ctx c.val 2 e.slot (out.flagged || w.slowed)).progress c.val 3).collEnd ctx w.unit w.k)) ∧
    (∀ (k : Nat) (w : Coll) (l : LA) (r : List QEntry), ctx = (s.clusE (c.val / 4)).ctx → ctx ≠ 0 → (s.runE ctx).running = true →
      (s.coreE ctx c.val).dxeQ = e :: r → e.taken = true → e.result = none → e.joined = some k → e.word.op = some .credNorm →
      s.collE ctx e.word.imm k = some w → w.whole = true → l = laResolve ((w.slots.map Prod.snd).foldl laAddLA (laClear ctx)) →
      laMismatch l = false →
      s.vaWrite (s.dmaLate ctx c.val e) (s.normAddr ctx (e.word.mod % 4 * 256 + e.word.tag)) (bytesOfSlot l) = (s2, none) →
      exec (.credNorm c) s = .next (((s2.doneEntry ctx c.val 2 e.slot false).progress c.val 3).collEnd ctx w.unit w.k))) ∧
  (∀ (ctx : CtxId) (unit : BitVec 32) (k n : Nat) (s s1 : State) (ps : List (Nat × QEntry)) (e : QEntry) (r : List (Nat × QEntry)) (o : Op)
    (peers : List Nat) (js : List Join),
    ctx.toNat ≠ 0 → ps = s.joinedAll ctx.toNat unit k → ps.length = (s.parts ctx.toNat (uidFields unit)).length →
    peers = s.partPeers ctx.toNat (uidFields unit) → js = peers.filterMap (fun m => s.joinOf ctx.toNat unit k m) → js.length = peers.length →
    s.collE ctx.toNat unit k = none → ps = (n, e) :: r → e.word.op = some o →
    ((js.any Join.differ = true ∨ ∃ x ∈ ps.map (fun p => joinKey p.2) ++ js.map Join.key, x ≠ joinKey e) →
      exec (.collectiveStart ctx unit k) s = .next ((ps.foldl (fun t p =>
        t.failEntry ctx.toNat p.1 2 p.2 0x10 9 (badWords (badRow 9) (issueWord p.2 2))) s).collOpen ctx.toNat unit k)) ∧
    ((∀ p ∈ ps, joinKey p.2 = joinKey e) → (∀ j ∈ js, j.differ = false ∧ j.key = joinKey e) →
      (∀ dies els away t, o = .cred ∨ o = .crsc → s.sumDies ctx.toNat ps = (s1, .ok dies) → els = addDies ctx.toNat dies →
        away = peers.map (fun m => (m, streamWords (((s1.joinOf ctx.toNat unit k m).elim [] Join.wants).map fun i =>
          (i, tabGet els i (laClear ctx.toNat))))) →
        t = away.foldl (fun u w => u.sendStream ctx.toNat unit k w.1 w.2) s1 →
        ∃ esc tl, exec (.collectiveStart ctx unit k) s = .next (({ t with
          colls := t.colls ++ [{ ctx := ctx.toNat, unit := unit, k := k, elems := els,
                                 peers := if (t.wanted ctx.toNat unit k).isEmpty then [] else peers,
                                 escBound := esc, tlws := tl }] } : State).collOpen ctx.toNat unit k)) ∧
      (∀ ls t, o = .credNorm → s.readSlots ctx.toNat ps = (s1, .ok ls) →
        t = peers.foldl (fun u m => ls.foldl (fun u l =>
          u.emit (.flit m .e (.tlw (BitVec.ofNat 12 ctx.toNat) unit k (tlwBytes (tlwOf (laResolve l)))))) u) s1 →
        exec (.collectiveStart ctx unit k) s = .next (({ t with
          colls := t.colls ++ [{ ctx := ctx.toNat, unit := unit, k := k, peers := peers,
                                 slots := [(t.modIdx, ls.foldl laAddLA (laClear ctx.toNat))] }] } : State).collOpen ctx.toNat unit k)) ∧
      (∀ count at_ senders form t due, o = .cbcs ∨ o = .ca2a → count = s.partCount ctx.toNat (uidFields unit) →
        at_ = atPositions (s.partBase ctx.toNat (uidFields unit) s.modIdx) ps →
        senders = (if o == .ca2a then at_ else at_.filter fun x => x.1 == e.word.mod) →
        form = (match senders with
          | x :: _ => (x.2.2.view 1).form
          | [] => (js.find? fun j => !j.wants.isEmpty).elim [] Join.wants) →
        t = peers.foldl (fun u m => (List.range (s.partsOn ctx.toNat (uidFields unit) m)).foldl (fun u i =>
          senders.foldl (fun u x => u.sendPart ctx.toNat unit k m o count (s.partBase ctx.toNat (uidFields unit) m + i) x) u) u) s →
        due = at_.flatMap (fun x => ((cxeMoves o count x.2.2.word.mod (x.2.2.view 0)).filter fun mv => !(at_.any fun y => y.1 == mv.2)).map
          fun mv => (mv.2, x.1)) →
        exec (.collectiveStart ctx unit k) s = .next (((at_.foldl (fun u me => u.moveOne ctx.toNat at_ o count form me)
          (if due.isEmpty then t else { t with colls := t.colls ++ [{ ctx := ctx.toNat, unit := unit, k := k, pending := due }] })).collEnd
            ctx.toNat unit k).collOpen ctx.toNat unit k))))

/-- R225 to R231, R235: a chunk of legal words with no escaped one and an agreeing residue adds every word to its element and marks the elements that a
sparse chunk leaves out; its last chunk ends the wait for its sender; an undefined word fails every participant. A TLW adds to the slot of its sender,
whose stream ends with the slot of its last participant, or to the next escaped element of its sender. What came is counted for its path. A word of a
collective that has not started here waits for its start. -/
def Obligations.ArrivalsJoinTheSums : Prop :=
  ∀ (ctx : CtxId) (unit : BitVec 32) (k : Nat) (m : ModN) (bytes : List (BitVec 8)) (s : State),
    (s.collE ctx.toNat unit k = none → (s.partPeers ctx.toNat (uidFields unit)).contains m.val = true →
      (∀ last : Bool, exec (.chunkReceive ctx unit k m bytes last) s =
        .next { s with collHeld := s.collHeld ++ [(m.val, .chunk ctx unit k bytes last)] }) ∧
      exec (.tlwReceive ctx unit k m bytes) s = .next { s with collHeld := s.collHeld ++ [(m.val, .tlw ctx unit k bytes)] }) ∧
    (∀ w : Coll, s.collE ctx.toNat unit k = some w →
      (∀ (last : Bool) (h : ChunkHdr) (range : List Nat) (listed : List (Nat × Blw)), w.peers.contains m.val = true → h = chunkHdrOf bytes →
        range = ((s.wanted ctx.toNat unit k).drop (256 * h.chunk)).take 256 →
        listed = (chunkWords h bytes).zipIdx.map (fun p => (p.1.1.getD (range.getD p.2 0), p.1.2)) →
        (∀ p ∈ listed, blwPosOk p.2.pos = true ∧ p.2.pos ≠ 0xFF) → (listed.map fun p => wordResidue p.2.w).sum % 255 = h.resSum % 255 →
        exec (.chunkReceive ctx unit k m bytes last) s = .next (s.collM ctx.toNat unit k fun c =>
          { (c.lane m.val (16 * h.count) 0) with
            elems := (if h.sparse then range.filter fun i => !(listed.any fun p => p.1 == i) else []).foldl
              (fun l i => tabSet l i (laMark (tabGet l i (laClear ctx.toNat)) { any := true, nzero := false } 0))
              (listed.foldl (fun l p => tabSet l p.1 (laAddBlw (tabGet l p.1 (laClear ctx.toNat)) p.2)) c.elems),
            peers := if last then setDel c.peers m.val else c.peers })) ∧
      (∀ t, tlwOfBytes bytes = some t →
        (w.slots ≠ [] → exec (.tlwReceive ctx unit k m bytes) s = .next (s.collM ctx.toNat unit k fun c =>
          { (c.lane m.val 0 1) with
            slots := tabSet c.slots m.val (laAddTlw (tabGet c.slots m.val (laClear ctx.toNat)) t),
            peers := if s.partsOn ctx.toNat (uidFields unit) m.val ≤ ((tabFind w.laneIn m.val).getD (0, 0)).2 + 1 then setDel c.peers m.val
              else c.peers })) ∧
        (∀ i n chunk want sum left, w.slots = [] → w.escapes.find? (fun p => p.1 == m.val) = some (n, i) →
          w.resWant.find? (fun p => p.1 == m.val) = some (n, chunk, want, sum, left) →
          (left = 1 → (sum + wordResidue t.z) % 255 = want) →
          exec (.tlwReceive ctx unit k m bytes) s = .next (s.collM ctx.toNat unit k fun c =>
            { (c.lane m.val 0 (8 + 8 * t.count)) with
              elems := tabSet c.elems i (laAddTlw (tabGet c.elems i (laClear ctx.toNat)) t), escapes := c.escapes.erase (m.val, i),
              resWant := (updFirst (fun (p : Nat × Nat × Nat × Nat × Nat) => p.1 == m.val)
                (fun _ => (m.val, chunk, want, (sum + wordResidue t.z) % 255, left - 1)) c.resWant).filter
                  fun (p : Nat × Nat × Nat × Nat × Nat) => p.2.2.2.2 != 0 }))) ∧
      (tlwOfBytes bytes = none → exec (.tlwReceive ctx unit k m bytes) s = .next (s.wireFault ctx.toNat unit k m.val)))

/-- R126, R160, R172, R181, R215: an instruction that ended with DONE or DONE_FLAGGED completes: its entry is free, DONE_FLAGGED sets its engine's flag,
its signal goes out where SIGV says so, and the issue path moves on; one of a superseded placement completes with STALE_EPOCH, is counted, and sends
no signal; the arrays of a pass are then at speed (R86). R188: the fault of a context drops what its issue stages hold; on each of its cores the active instructions of the DXE queue end with
FAILED_FAULT, CAUSE 0x0A and the fault's ESN, those of the VXE with DONE, the untaken ones leave and are reported; its collectives are forgotten;
and this happens once. R173: once a context's fault is in force, SEQUENCER_STOP stops every sequencer of it that has not ended, and each such share
ends with the failure's status, cause and ESN; where no other module of the span has yet to hear of it, nothing else changes. -/
def Obligations.InstructionsComplete : Prop :=
  (∀ (c : CoreN) (q : Fin 3) (slot ctx : Nat) (s : State) (e : QEntry) (o : Outcm), ctx = s.entryCtx c.val q.val slot →
    s.entryE ctx c.val q.val slot = some e → e.result = some o → s.frozen = false → e.word.op ≠ some .dcow →
    (e.epoch = (s.ctxE ctx).epoch → o.status = 0 ∨ o.status = 1 → ∀ t u v : State,
      t = (s.coreM ctx c.val fun k => k.setQueue q.val ((k.queue q.val).filter fun x => x.slot != slot)).seqM ctx e.cluster (fun k =>
        { k with fence := k.fence ||| (if o.status = 1 then BitVec.ofNat 4 (2 ^ e.word.engine) else 0),
                 flagged := k.flagged || o.status = 1 }) →
      u = (if e.word.sigv then t.signalOf ctx e.word e.epoch [c.val] else t) →
      v = (if e.word.op = some .mmul ∨ e.word.op = some .mmula then u.physM c.val (fun p => (arrayList e.word).foldl (fun p a =>
          if tabGet p.arrState a 0 = 1 then { p with arrState := tabSet p.arrState a 2 } else p) p) else u) →
      exec (.instructionComplete c q slot) s = .next (v.pump ctx e.cluster)) ∧
    (e.epoch ≠ (s.ctxE ctx).epoch → ∀ t v : State,
      t = (s.coreM ctx c.val fun k => { k.setQueue q.val ((k.queue q.val).filter fun x => x.slot != slot) with
        staleDone := k.staleDone + 1 }).seqM ctx e.cluster (fun k => k) →
      v = (if e.word.op = some .mmul ∨ e.word.op = some .mmula then t.physM c.val (fun p => (arrayList e.word).foldl (fun p a =>
          if tabGet p.arrState a 0 = 1 then { p with arrState := tabSet p.arrState a 2 } else p) p) else t) →
      exec (.instructionComplete c q slot) s = .next (v.pump ctx e.cluster))) ∧
  (∀ (ctx : CtxId) (s : State) (f : FaultInfo), (s.runE ctx.toNat).fault = some f →
    (f.flushed = true → exec (.contextFault ctx) s = .next s) ∧
    (f.flushed = false → ∃ u : State, u = ((s.dropIssue ctx.toNat).1.coresOf ctx.toNat).foldl (fun t n =>
        t.faultCore ctx.toNat n { status := 0x10, cause := 0x0A, esn := f.esn }) (s.dropIssue ctx.toNat).1 ∧
      (∀ k ∈ (u.dropColls ctx.toNat).colls, k.ctx ≠ ctx.toNat) ∧ (∀ k ∈ (u.dropColls ctx.toNat).joins, k.ctx ≠ ctx.toNat) ∧
      exec (.contextFault ctx) s = .next ((u.dropColls ctx.toNat).runM ctx.toNat fun r =>
        { r with fault := some { f with flushed := true } })) ∧
    ∀ (t : State) (c n : Nat) (o : Outcm), n < 64 →
      ((t.faultCore c n o).coreE c n).dxeQ = ((t.coreE c n).dxeQ.filter fun e => e.taken || e.result.isSome).map
        (fun e => if e.result = none then { e with result := some o } else e) ∧
      ((t.faultCore c n o).coreE c n).vxeQ = ((t.coreE c n).vxeQ.filter fun e => e.taken || e.result.isSome).map
        (fun e => if e.result = none then { e with result := some {} } else e)) ∧
  (∀ (ctx : CtxId) (s : State) (f : FaultInfo) (o : Outcm), (s.runE ctx.toNat).fault = some f → o = (s.faultOut f).2 →
    (s.jobs.any fun j => j.ctx == ctx.toNat && j.phase == .running && (uidFields j.unit).level == 4 && !j.told) = false →
    ∃ t : State, exec (.sequencerStop ctx) s = .next t ∧ t = { s with seqs := t.seqs } ∧
      ∀ c k : Nat, k < 16 → t.seqE c k =
        if c = ctx.toNat ∧ (s.seqE c k).run ≠ .idle ∧ (s.seqE c k).run ≠ .faulted then
          { s.seqE c k with
            run := .faulted,
            ended := (s.seqE c k).ended.or (some (o.status, 0, o)) }
        else s.seqE c k)

/-- R203, R208, R209: a wait that is pending and that its counter does not satisfy ends, at its timeout, with WAIT_TIMEOUT and the words of Table 9-4:
of an instruction at a queue head, of a SYNC instruction at the issue stage, of QCWAIT and TAWAIT; the context faults; and a wait that its counter
satisfies stays. -/
def Obligations.WaitsTimeOut : Prop :=
  ∀ (s : State) (cl : Cluster) (ctx : Nat) (q : SeqCtx), ctx = s.ctxOn cl.val → q = s.seqE ctx cl.val → s.seqLive cl.val = true →
    (∀ (c : CoreN) (k : Fin 3) (e : QEntry), c.val / 4 = cl.val → s.takes ctx c.val = true → (s.coreE ctx c.val).head k.val = some e →
      e.waiting = true → e.waitDone = false →
      (reached (s.waitCtr ctx c.val e).value.toNat e.word.wthresh = true → exec (.waitTimeout (.engine c k)) s = .next s) ∧
      (reached (s.waitCtr ctx c.val e).value.toNat e.word.wthresh = false → exec (.waitTimeout (.engine c k)) s =
        .next (s.failEntry ctx c.val k.val e 0x15 0 (timeoutWords (timeoutCtr (s.waitCtr ctx c.val e) (s.ctxE ctx).epoch e.word.wscope
          e.word.wctr (if e.word.wscope then s.clusUid e.cluster else s.coreUid c.val)) (s.limitOf ctx e.word.tclass) e.word.tclass
          e.word.wthresh (issueWord e k.val) (s.coreUid c.val))))) ∧
    (∀ (e : QEntry), q.sync = some e → q.syncWait = true → e.word.wscope = true → q.syncDone &&& e.bset ≠ e.bset → ∃ u : State,
      u = s.failRec (s.clusUid cl.val) ctx e.word.opcode 0x15 0 (timeoutWords (timeoutCtr (s.ctrE ctx (uidFields (s.clusUid cl.val))
        e.word.wctr) (s.ctxE ctx).epoch true e.word.wctr (uid (uidFields (s.clusUid cl.val)))) (s.limitOf ctx e.word.tclass) e.word.tclass
        e.word.wthresh (issueWord e 3) (s.clusUid cl.val)) ∧
      exec (.waitTimeout (.issue cl)) s = .next ((u.seqM ctx cl.val SeqCtx.leaveSync).setFault ctx { status := 0x15, esn := u.lastEsn })) ∧
    (∀ i t tc, q.run = .waitQc i t tc → ∃ u : State,
      u = s.failRec (s.clusUid cl.val) ctx 0 0x15 0 (timeoutWords (timeoutCtr (tabGet q.qc i {}) (s.ctxE ctx).epoch true i (s.clusUid cl.val))
        (s.limitOf ctx tc) tc t.toNat (reg [(q.pc.toNat, 32, 32), (4, 0, 4)]) (s.clusUid cl.val)) ∧
      exec (.waitTimeout (.proc cl)) s = .next (u.seqFail ctx cl.val { status := 0x15, esn := u.lastEsn })) ∧
    (∀ slot rd tc, q.run = .waitScalar slot rd tc → ∃ u : State,
      u = s.failRec (s.clusUid cl.val) ctx 0 0x15 0 (timeoutWords (reg [(slot, 0, 3)]) (s.limitOf ctx tc) tc 0
        (reg [(q.pc.toNat, 32, 32), (4, 0, 4)]) (s.clusUid cl.val)) ∧
      exec (.waitTimeout (.proc cl)) s = .next (u.seqFail ctx cl.val { status := 0x15, esn := u.lastEsn }))

/-- R21: without debug privilege every access to the debug block of a unit window of this module, of any width and by any agent that may access
registers at all, has no effect but an INFO-class record that names the unit and the offset, and a read returns all ones. -/
def Obligations.DebugBlockNeedsPrivilege : Prop :=
  ∀ (w : Writer) (unit : BitVec 32) (off : BitVec 24) (width : Nat) (x : BitVec 64) (s : State), 0x8000 ≤ off.toNat → off.toNat < 0x10000 →
    s.hasRole w 0 = true → s.hasRole w 1 = true → s.unitValid unit = true → s.farOf unit = none → s.hasDebug w = false →
    (isBar w = true → s.writerFunc w ≠ none) →
    exec (.invalidRegisterAccess w unit off width none) s = .next ((s.infoAccess w unit off.toNat 0).emit (.readData ones)) ∧
    exec (.invalidRegisterAccess w unit off width (some x)) s = .next (s.infoAccess w unit off.toNat x) ∧
    exec (.registerWrite w unit off width x) s = .next (s.infoAccess w unit off.toNat x) ∧
    (∃ r, (s.infoAccess w unit off.toNat x).led.tail.getLast? = some r ∧ r.cls = 4 ∧ r.code = 0xC0 ∧ r.d0 = writerWord w unit ∧
      r.d1 = BitVec.ofNat 64 off.toNat)

/-- R21, R211: DBG_SCSET with debug privilege sets VALUE of a counter of a unit's context, tests the pending waits against it and records the writer,
the old value and the new; without debug privilege it has no effect and leaves an access record. R21, R65, R70, R169: PEEK with debug privilege
copies the selected LA while no peek is in progress, and PEEK_DONE leaves its limbs, its flags and its residues in the result registers; a mismatch
has the ledger and module effects of an SDC with no instruction to fail. Without debug privilege PEEK has no effect and leaves an access record. -/
def Obligations.DebugAccessTakesEffect : Prop :=
  (∀ (w : Writer) (unit : BitVec 32) (v : BitVec 64) (s : State) (u : UnitF), u = uidFields unit →
    (s.hasDebug w = false → exec (.dbgScset w unit v) s = .next (s.infoAccess w unit 0x8100 v)) ∧
    (s.unitValid unit = true → u.module = s.modIdx → u.level ≤ 1 → s.hasDebug w = true → isMgmt w = true ∨ isFirm w = true →
      bits v 63 52 ≠ 0 → (s.ctxE (bits v 63 52)).state ≠ .free → (s.ctxE (bits v 63 52)).state ≠ .scrubbing → bits v 37 32 < ctrCount u →
      exec (.dbgScset w unit v) s = .next (s.setCtr (bits v 63 52) unit (bits v 37 32) (BitVec.ofNat 16 (bits v 15 0)) (writerWord w unit)
        (s.writerFunc w))) ∧
    ∀ (ctx i : Nat) (x : BitVec 16) (d : BitVec 64) (o : Option (Fin 32)), u.level ≤ 1 →
      ∀ k : Nat, (s.setCtr ctx unit i x d o).ctrE ctx u k = if k = i then { s.ctrE ctx u k with value := x } else s.ctrE ctx u k) ∧
  (∀ (w : Writer) (c : CoreN) (v : BitVec 64) (s : State) (la : LA), s.corePresent c.val = true →
    (s.hasDebug w = false → exec (.peek w c v) s = .next (s.infoAccess w (s.coreUid c.val) 0x8008 v)) ∧
    (s.hasDebug w = true → (s.physE c.val).peekBusy = false → bit v 0 = true → s.peekSel c.val = .ok la →
      exec (.peek w c v) s = .next (s.physM c.val fun p => { p with selerr := false, peekValid := false, peekBusy := true, peekLa := la })) ∧
    (s.hasDebug w = true → (s.physE c.val).peekBusy = false → bit v 0 = true → s.peekSel c.val = .error false →
      exec (.peek w c v) s = .next (s.physM c.val fun p => { p with selerr := true })) ∧
    (∀ t : State, (s.physE c.val).peekBusy = true → (s.physE c.val).peekLa = la →
      t = s.physM c.val (fun p => { p with
        peekBusy := false, peekValid := true, lalimb := (laResolve la).limb,
        laflags := reg [((laResolve la).ctx.toNat, 52, 12), ((laResolve la).adds, 24, 28), ((laResolve la).resAcc, 16, 8),
          (limbResidue (laResolve la), 8, 8), (b2n (laMismatch (laResolve la)), 7, 1), (b2n (laResolve la).ovfNeg, 6, 1),
          (b2n (laResolve la).ovf, 5, 1), (b2n (laResolve la).nzero, 4, 1), (b2n (laResolve la).any, 3, 1),
          (b2n (laResolve la).nan, 2, 1), (b2n (laResolve la).ninf, 1, 1), (b2n (laResolve la).pinf, 0, 1)] }) →
      (laMismatch (laResolve la) = false → exec (.peekDone c) s = .next t) ∧
      (laMismatch (laResolve la) = true → ∃ x : State, x = t.raiseRec {
          unit := s.coreUid c.val, cls := 2, code := 0x80,
          ctx := BitVec.ofNat 12 (s.clusE (c.val / 4)).ctx, d0 := (sdcWords (laResolve la) 4 (bits (s.physE c.val).lasel 15 0) 0 0).1 } ∧
        exec (.peekDone c) s = .next (x.sdcEffect x.lastEsn (s.clusE (c.val / 4)).ctx))))

/-- R7, R8, R9, R13, R24: an access whose width or alignment is not of R9 has no effect but an access record, and a read answers all ones; one of a unit
that does not exist, or of no slot of the BAR0 that the agent sees, likewise, the record of an agent without a BAR0 being the UNC-class event of R24; a
read of a register that is there answers its value and changes nothing else (a read of KD_STAT brings the fill's progress up to date, R277); a write of
one changes it under the access types of its fields. R386, R387: REG_READ with OBSERVE answers the value of the register and REG_WRITE with OPERATE
writes it, with the management port's rights; an address outside every unit window is INVALID, and a debug block without DEBUG DENIED. R14, R25, R308:
a read or write by an admitted module of a register of this module has its effect here, without privileges; an access of this module to a unit of an
admitted module is forwarded there, and its answer comes back once. -/
def Obligations.RegisterAccessesTakeEffect : Prop :=
  (∀ (w : Writer) (unit : BitVec 32) (off : BitVec 24) (width : Nat) (x : BitVec 64) (s : State), off.toNat < 0x10000 → isMgmt w = false →
    (isBar w = true → s.writerFunc w ≠ none) →
    ((isBar w = true ∧ (s.unitValid unit = false ∨ s.slotUnit (slotOf (uidFields unit)) ≠ unit ∨ goodAccess off.toNat width = false)) ∨
        (s.unitValid unit = true ∧ goodAccess off.toNat width = false) →
      exec (.invalidRegisterAccess w unit off width none) s = .next ((s.infoAccess w unit off.toNat 0).emit (.readData ones)) ∧
      exec (.invalidRegisterAccess w unit off width (some x)) s = .next (s.infoAccess w unit off.toNat x)) ∧
    (isBar w = false → s.unitValid unit = false →
      exec (.invalidRegisterAccess w unit off width none) s =
        .next ((s.uncAccess w unit (windowBase unit + off.toNat) 0).emit (.readData ones)) ∧
      exec (.invalidRegisterAccess w unit off width (some x)) s = .next (s.uncAccess w unit (windowBase unit + off.toNat) x)) ∧
    (s.unitValid unit = true → goodAccess off.toNat width = true → s.farOf unit = none →
      (isBar w = true → s.slotUnit (slotOf (uidFields unit)) = unit) →
      (∀ (t : State) (r : BitVec 64), t = (if off.toNat / 8 * 8 = 0x260 ∧ (uidFields unit).level = 3 then s.kdProgress else s) →
        t.readReg w unit (off.toNat / 8 * 8) = .val r →
        exec (.invalidRegisterAccess w unit off width none) s = .next (t.emit (.readData (readPart off.toNat width r)))) ∧
      (∀ r : BitVec 64, s.readReg w unit (off.toNat / 8 * 8) = .val r →
        exec (.registerWrite w unit off width x) s = .next (s.writeReg w unit (off.toNat / 8 * 8) (regW off.toNat width x)
          (s.infoAccess w unit off.toNat x))))) ∧
  (∀ (id : Fin 8) (addr : BitVec 52) (width : Nat) (x : BitVec 64) (s : State), s.sessionHas id 0 = true → s.sessionHas id 1 = true →
    (windowOfAddr addr.toNat = none → exec (.regRead id addr width) s = .next (s.fmpAns id 2) ∧
      exec (.regWrite id addr width x) s = .next (s.fmpAns id 2)) ∧
    ∀ (unit : BitVec 32) (off : Nat), windowOfAddr addr.toNat = some (unit, off) →
      (0x8000 ≤ off → s.hasRole (mgmtOf id) 4 = false → exec (.regRead id addr width) s = .next (s.fmpAns id 1) ∧
        exec (.regWrite id addr width x) s = .next (s.fmpAns id 1)) ∧
      (off < 0x8000 → s.unitValid unit = true → goodAccess off width = true → s.farOf unit = none →
        (∀ (t : State) (r : BitVec 64), t = (if off / 8 * 8 = 0x260 ∧ (uidFields unit).level = 3 then s.kdProgress else s) →
          t.readReg (mgmtOf id) unit (off / 8 * 8) = .val r →
          exec (.regRead id addr width) s = .next ((t.fmpAns id 0).emit (.fmpBody id.val [readPart off width r]))) ∧
        (∀ r : BitVec 64, s.readReg (mgmtOf id) unit (off / 8 * 8) = .val r →
          exec (.regWrite id addr width x) s = .next ((s.writeReg (mgmtOf id) unit (off / 8 * 8) (regW off width x)
            (s.infoAccess (mgmtOf id) unit off x)).fmpAns id 0)))) ∧
  (∀ (m : ModN) (addr : BitVec 52) (width : Nat) (x : BitVec 64) (s : State) (unit : BitVec 32) (off : Nat),
    windowOfAddr addr.toNat = some (unit, off) →
    (off < 0x10000 → s.farOf unit = none → bit s.span.admitted m.val = true → s.unitValid unit = true → goodAccess off width = true →
      (∀ (t : State) (r : BitVec 64), t = (if off / 8 * 8 = 0x260 ∧ (uidFields unit).level = 3 then s.kdProgress else s) →
        t.readReg (.peer m) unit (off / 8 * 8) = .val r →
        exec (.forwardedAccess m addr width none) s = .next (t.emit (.readData (readPart off width r)))) ∧
      (∀ r : BitVec 64, s.readReg (.peer m) unit (off / 8 * 8) = .val r →
        exec (.forwardedAccess m addr width (some x)) s = .next (s.writeReg (.peer m) unit (off / 8 * 8) (regW off width x)
          (s.infoAccess (.peer m) unit off x)))) ∧
    (∀ f : Nat × Nat × Writer × Bool, s.farOf unit = some m.val →
      (s.span.forwards.find? (fun f => f.1 == m.val && f.2.1 == addr.toNat && f.2.2.2 == true) = some f →
        exec (.forwardedAccess m addr width (some x)) s = .next { s with span := { s.span with forwards := s.span.forwards.erase f } }) ∧
      (s.span.forwards.find? (fun f => f.1 == m.val && f.2.1 == addr.toNat && f.2.2.2 == false) = some f →
        exec (.forwardedAccess m addr width none) s =
          .next (({ s with span := { s.span with forwards := s.span.forwards.erase f } } : State).forwardAnswer f.2.2.1 false))) ∧
    (∀ (w : Writer) (o : BitVec 24), isMgmt w = false → o.toNat < 0x10000 → s.unitValid unit = true → goodAccess o.toNat width = true →
      (isBar w = true → s.writerFunc w ≠ none ∧ s.slotUnit (slotOf (uidFields unit)) = unit) →
      s.farOf unit = some m.val → bit s.span.admitted m.val = true → exec (.registerWrite w unit o width x) s =
        .next (({ s with span := { s.span with forwards := s.span.forwards ++ [(m.val, windowBase unit + o.toNat, w, true)] } } : State).emit
          (.spanC m.val 12 (BitVec.ofNat 64 (windowBase unit + o.toNat))))))

/-- R79, R88, R119, R174, R270, R272: a context whose slice is over, that another waits for and that has no MXE instruction under way leaves its clusters:
its norm partials are merged, its arrays are cold, its stationary sets count as not loaded, its anchors and translations are gone, and its clusters
are free; R263, R272: the one that SCH must choose then, whose entry reads well, has its own clusters, waits no longer, runs in debug where its entry
and its function say so, and its sequencers go on. R272: the end of a slice on a cluster, while SCH and the CFC serve, counts one more wait of every
context with work that is resident there, is RUNNING by its state and does not run, and ends the slice of one that does; nothing else changes. -/
def Obligations.ContextsSwitch : Prop :=
  (∀ (outc inc : CtxId) (s t t1 u v w x y : State) (o i : Nat), o = outc.toNat → i = inc.toNat → s.schUp = true →
    (s.jobClusters o ++ s.jobClusters i).all s.cfcUp = true → o ≠ i →
    t = (s.jobCoreList o).foldl (fun a n => (a.flushNorms o n).1.coreM o n fun c =>
      { c with anchor := none, arrays := c.arrays.map fun p => (p.1, { p.2 with
          time := { cold := true }, active := { p.2.active with loaded := false }, shadow := { p.2.shadow with loaded := false } }) }) s →
    t1 = t.dropLeaves o →
    u = (t1.jobClusters o).foldl (fun a k => if a.ctxOn k = o then a.clusM k fun c => { c with ctx := 0 } else a) t1 →
    v = (if o = 0 then s else { u.runM o (fun r => { r with running := false, lastRun := u.sch.stamp + 1 }) with
      sch := { u.sch with stamp := u.sch.stamp + 1 } }) →
    (i ≠ 0 → v.readCtxLines i = (w, true)) →
    x = { w.runM i (fun r => { r with
            running := true, waited := 0, lastRun := w.sch.stamp + 1, expired := false, epochDue := false,
            debug := (w.ctxE i).debug && (w.funcE (w.ctxE i).func.toNat).debug }) with
          sch := { w.sch with stamp := w.sch.stamp + 1 } } →
    y = (x.jobClusters i).foldl (fun a k => a.clusM k fun c => { c with ctx := i }) x →
    (o ≠ 0 → s.mayLeave o = true) → (i ≠ 0 → s.mayRun i o = true) →
    exec (.contextSwitch outc inc) s = .next (if i = 0 then v else (y.jobClusters i).foldl (fun a k => a.pump i k) y)) ∧
  (∀ (cl : Cluster) (s : State), s.schUp = true → s.cfcUp cl.val = true →
    exec (.sliceExpiry cl) s = .next ((s.residents cl.val).foldl (fun t c =>
      if (t.ctxE c).state = .running && !(t.runE c).running && t.hasWork c then t.runM c fun r => { r with waited := r.waited + 1 }
      else if (t.runE c).running then t.runM c fun r => { r with expired := true } else t) s))

/-- R271, R273: a context with a queued job becomes resident on the clusters of its unit, with allocations of the lengths that its image needs at the
offsets chosen for it, and its entry names the place; an evicted one returns from its save area. R249, R259, R273: where a queued context wants slots or
space, the least recently run resident context that does not run is saved: its allocations lie in its save area, in its key domain, the pages there
that are retired as they were, and it gives up its slots. -/
def Obligations.ContextsBecomeResident : Prop :=
  (∀ (ctx : CtxId) (so po sb pb sl pl : Nat) (s : State) (j : Job) (cores : List Nat), s.schUp = true →
    ((s.runE ctx.toNat).evicted = false → s.queuedJob ctx.toNat = some j → cores = s.jobCoresOf j.unit → cores ≠ [] →
      (s.runE ctx.toNat).running = false → (∀ k ∈ clustersOf cores, ((s.residents k).filter (· != ctx.toNat)).length < 8) →
      s.jobNeeds j = (sb, pb, sl, pl) → s.allocFits ctx.toNat cores so sl po pl = true → (∀ n ∈ cores, (s.physE n).inReset = false) →
      (∀ k ∈ clustersOf cores, (s.clusE k).removed = false ∧ (s.clusE k).inReset = false ∧ (s.dieE (k / 4)).inReset = false) →
      exec (.contextResident ctx so po) s = .next ((s.runM ctx.toNat fun r =>
        { r with resident := true, storeOff := so, poolOff := po, storeBytes := sb, poolBytes := pb, storeLen := sl, poolLen := pl,
                 jobCores := BitVec.ofNat 64 (listMask cores) }).ctxM ctx.toNat fun e =>
        { e with place := BitVec.ofNat 16 (listMask (clustersOf cores)), placeUnit := j.unit })) ∧
    ((s.runE ctx.toNat).evicted = true → (s.runE ctx.toNat).resident = false → (s.runE ctx.toNat).fence = none →
      (∀ k ∈ s.jobClusters ctx.toNat, (s.residents k).length < 8) →
      s.allocFits ctx.toNat (s.jobCoreList ctx.toNat) so (s.storeLen ctx.toNat) po (s.poolLen ctx.toNat) = true →
      exec (.contextResident ctx so po) s = .next ((s.runM ctx.toNat fun r =>
        { r with resident := true, storeOff := so, poolOff := po }).restoreSave ctx.toNat))) ∧
  (∀ (ctx : CtxId) (s s1 s2 : State) (k base : Nat) (bs : List (BitVec 8)), s.schUp = true → (s.runE ctx.toNat).resident = true →
    (s.runE ctx.toNat).running = false → (s.runE ctx.toNat).evicted = false →
    (∀ p ∈ s.runs, p.1 ≠ ctx.toNat → p.2.resident = true → p.2.running = false → (∃ k ∈ s.jobClusters p.1, k ∈ s.jobClusters ctx.toNat) →
      (s.runE ctx.toNat).lastRun ≤ p.2.lastRun) →
    base = (s.ctxE ctx.toNat).saveBase.toNat →
    s1 = (s.saveMap ctx.toNat).foldl (fun t p => t.copyRange p.1 (base + p.2.2) p.2.1) s → k = (s.jobClusters ctx.toNat).length →
    s1.freeBytes (524288 * k) = (s2, bs) →
    s.wanted273 ctx.toNat = true →
    ∃ u : State, u = ((((s2.putBytes (base + s2.saveLen ctx.toNat - 524288 * k) bs).stackClaim base (s2.saveLen ctx.toNat)
        (s2.ctxE ctx.toNat).keydom.toNat).countLines base (s2.saveLen ctx.toNat) 0).keepRetired s base (s2.saveLen ctx.toNat)).runM ctx.toNat
          (fun r => { r with resident := false, evicted := true }) ∧
      exec (.contextEvict ctx) s = .next { u with sch := { u.sch with evictions := u.sch.evictions + 1 } })

/-- R214, R216, R306: a clean move advances the context's epoch with every counter keeping its value, carries its allocations to the new clusters and
scrubs the old, carries its state, and names the new place; that of a span job is ordered by the master, of which a member asks it first. R215,
R216, R306: a context that fails to switch out gets a FAILED_FAULT record, and a forced move:
its fault, its next epoch, and a fence over its old place. A fence closes once nothing of its epoch is left there: the stale completions are
recorded, the old allocations are scrubbed and the fence is gone; at its timeout the cores that still hold such instructions are reset. -/
def Obligations.MovesAdvanceTheEpoch : Prop :=
  (∀ (ctx : CtxId) (place : BitVec 16) (so po : Nat) (s t0 t : State) (old new : List Nat) (mv : Nat → Nat),
    old = s.jobClusters ctx.toNat → new = maskList 16 place.toNat →
    (∀ k, mv k = (((old.zip new).find? fun p => p.1 == k).elim k Prod.snd)) →
    s.schUp = true → (s.runE ctx.toNat).resident = true → (s.runE ctx.toNat).running = false → (s.ctxE ctx.toNat).state = .running →
    (s.runE ctx.toNat).fence = none → (s.runE ctx.toNat).fault = none → old.length = new.length →
    (∀ p ∈ old.zip new, s.presentMask p.1 = s.presentMask p.2 ∧ (s.clusE p.2).inReset = false ∧ (s.clusE p.2).removed = false ∧
      (s.dieE (p.2 / 4)).inReset = false) →
    (∀ g ∈ s.sigs, g.ctx ≠ ctx.toNat) → (∀ k ∈ new, ((s.residents k).filter (· != ctx.toNat)).length < 8) →
    s.allocFits ctx.toNat ((s.jobCoreList ctx.toNat).map fun n => 4 * mv (n / 4) + n % 4) so (s.storeLen ctx.toNat) po
      (s.poolLen ctx.toNat) = true →
    (s.runsSpan ctx.toNat = true → s.leads = false → (s.runE ctx.toNat).epochDue = false →
      exec (.cleanMove ctx place so po) s = .next (s.emit (.flit s.leader .c (.moveAsk ctx false)))) ∧
    (s.runsSpan ctx.toNat = false ∨ s.leads = true ∨ (s.runE ctx.toNat).epochDue = true →
    t0 = (if s.runsSpan ctx.toNat && !s.leads then s
      else (s.newEpoch ctx.toNat ((s.ctxE ctx.toNat).epoch + 1) true).orderEpoch ctx.toNat ((s.ctxE ctx.toNat).epoch + 1) false) →
    t = (((t0.moveAllocs ctx.toNat mv so po).moveUnits ctx.toNat mv).runM ctx.toNat
      fun r => { r with storeOff := so, poolOff := po, epochDue := false,
                        jobCores := BitVec.ofNat 64 (listMask ((s.jobCoreList ctx.toNat).map fun n => 4 * mv (n / 4) + n % 4)) }) →
    exec (.cleanMove ctx place so po) s = .next (({ t with
      jobs := t.jobs.map fun (j : Job) => if j.ctx = ctx.toNat then { j with shares := j.shares.map mv } else j } : State).ctxM ctx.toNat
        fun e => { e with place := place }))) ∧
  (∀ (ctx : CtxId) (s t : State), s.schUp = true →
    ((s.runE ctx.toNat).running = true → (s.runE ctx.toNat).resident = true → (s.runE ctx.toNat).fence = none → (s.runE ctx.toNat).fault = none →
      s.runsSpan ctx.toNat = false ∨ s.leads = true → t = s.failRec s.modUid ctx.toNat 0 0x10 0 (0, 0, 0, 0) → Completes (.switchOutTimeout ctx) s fun u =>
        ((u.runE ctx.toNat).fault.any fun f => f.status == 0x10 && f.esn == t.lastEsn) = true ∧
        (u.ctxE ctx.toNat).epoch = (s.ctxE ctx.toNat).epoch + 1 ∧
        (u.runE ctx.toNat).fence = some {
          place := (s.ctxE ctx.toNat).place, cores := (s.runE ctx.toNat).jobCores, epoch := (s.ctxE ctx.toNat).epoch, forced := true,
          storeOff := (s.runE ctx.toNat).storeOff, poolOff := (s.runE ctx.toNat).poolOff, storeLen := s.storeLen ctx.toNat,
          poolLen := s.poolLen ctx.toNat } ∧ u.led = t.led) ∧
    ∀ f : Fence, (s.runE ctx.toNat).fence = some f →
      ((∀ n ∈ maskList 64 f.cores.toNat, ∀ e ∈ (s.coreE ctx.toNat n).mxeQ ++ (s.coreE ctx.toNat n).vxeQ ++ (s.coreE ctx.toNat n).dxeQ, e.epoch ≠ f.epoch) →
        (∀ g ∈ s.sigs, g.ctx = ctx.toNat → g.epoch ≠ f.epoch) →
        (s.funcs.any fun p => p.2.ctxBusy && p.2.ctxCmd == ctx) = false → (s.mgmt.ctxCmd.ctxBusy && s.mgmt.ctxCmd.ctxCmd == ctx) = false →
        (s.funcE (s.ctxE ctx.toNat).func.toNat).scrubAll = false →
        t = (maskList 64 f.cores.toNat).foldl (fun t n => if (t.coreE ctx.toNat n).staleDone = 0 then t else
            (t.infoOther (t.coreUid n) ctx.toNat 0 (BitVec.ofNat 64 (t.coreE ctx.toNat n).staleDone)).coreM ctx.toNat n fun x =>
              { x with staleDone := 0 }) s →
        exec (.fenceClose ctx) s = .next ((t.scrubUnits (maskList 64 f.cores.toNat) f.storeOff f.storeLen f.poolOff f.poolLen).runM ctx.toNat
          fun r => { r with fence := none,
                            resident := r.resident && !(f.forced && (t.runE ctx.toNat).jobCores = f.cores) })) ∧
      (f.forced = true → exec (.fenceTimeout ctx) s = .next (((maskList 64 f.cores.toNat).filter fun n =>
        ((s.coreE ctx.toNat n).mxeQ ++ (s.coreE ctx.toNat n).vxeQ ++ (s.coreE ctx.toNat n).dxeQ).any fun e => e.epoch == f.epoch).foldl
          (fun t n => (t.askReset 0 n 0 [2]).1) s)))

/-- R263, R264, R265, R266: CREATE and SET of an agent whose instance is not busy, with an image that can be read and whose fields are good: CREATE of a
FREE context, below the quota and with the key domain ready, makes the entry from the image, IDLE and with the function, the key domain and CHECKF
that the hub sets; SET of an IDLE or FAULTED one copies the image's fields and leaves it IDLE with no fault; RESULT is 0. A field that fails leaves
RESULT 3 and its word; a context of another function leaves RESULT 1. R266, R270, R275, R276: DESTROY of an IDLE or FAULTED context with no open
fence begins its scrub; INVAL of a context that is not FREE drops its translations; READ writes its 512-byte entry to the function's window or
range; each leaves RESULT 0. The end of a scrub leaves the entry FREE with nothing of the context in any queue, register or counter, its slots free,
and a record. -/
def Obligations.ContextCommandsTakeEffect : Prop :=
  (∀ (w : Writer) (ctx : CtxId) (addr : BitVec 48) (i : Option Nat) (f : Nat) (s s0 s1 : State) (b : List (BitVec 8)),
    s.instOf w = some i → s.hasRole w 1 = true → (s.inst i).ctxBusy = false → ctx ≠ 0 →
    s0 = s.instM i (fun e => { e with ctxBusy := true, ctxCmd := ctx }) →
    (i ≠ none → s0.owner ctx.toNat ≠ i → (s0.ctxE ctx.toNat).state ≠ .free →
      exec (.ctxCreate w ctx addr) s = .next (s0.ctxResult i 1 0) ∧ exec (.ctxSet w ctx addr) s = .next (s0.ctxResult i 1 0)) ∧
    (i = none ∨ s0.owner ctx.toNat = i ∨ (s0.ctxE ctx.toNat).state = .free → addr.toNat % 512 = 0 → s0.imgFunc i addr.toNat = some f →
      s0.readImg f addr.toNat = (s1, some b) →
      (∀ (g d : Nat), (s1.ctxE ctx.toNat).state = .free → g = i.getD (fld (imgAt b 0 8) 47 43) → s1.ctxCount g < (s1.funcE g).quota →
        (s1.funcE g).dom = some d → (s1.domE d).state = 1 →
        (s1.badField g b false (!s1.firmOpen) = none → ∀ t : State, t = (s1.ctxM ctx.toNat fun _ =>
            entryWith { valid := true, state := .idle, keydom := BitVec.ofNat 8 d, func := BitVec.ofNat 5 g, checkf := (s1.funcE g).checkf,
                        early := !s1.firmOpen } b false) →
          exec (.ctxCreate w ctx addr) s = .next (((if s1.firmOpen then t.stackClaim (s1.firmBase + 512 * ctx.toNat) 512 0 else t).runM ctx.toNat
            fun _ => {}).ctxResult i 0 0)) ∧
        (∀ k, s1.badField g b false (!s1.firmOpen) = some k → exec (.ctxCreate w ctx addr) s = .next (s1.ctxResult i 3 k))) ∧
      ((s1.ctxE ctx.toNat).state = .idle ∨ (s1.ctxE ctx.toNat).state = .faulted → (s1.runE ctx.toNat).restore = none →
        s1.badField (s1.ctxE ctx.toNat).func.toNat b i.isNone (s1.ctxE ctx.toNat).early = none →
        exec (.ctxSet w ctx addr) s = .next (((s1.ctxM ctx.toNat fun e => { entryWith e b i.isNone with state := .idle }).runM ctx.toNat
          fun r => { r with fault := none }).ctxResult i 0 0)))) ∧
  (∀ (w : Writer) (ctx : CtxId) (addr : BitVec 48) (i : Option Nat) (f : Nat) (s s0 : State),
    (s.instOf w = some i → s.hasRole w 1 = true → (s.inst i).ctxBusy = false → ctx ≠ 0 →
      s0 = s.instM i (fun e => { e with ctxBusy := true, ctxCmd := ctx }) → i = none ∨ s0.owner ctx.toNat = i →
      ((s0.ctxE ctx.toNat).state = .idle ∨ (s0.ctxE ctx.toNat).state = .faulted → (s0.runE ctx.toNat).restore = none →
        (s0.runE ctx.toNat).fence = none →
        exec (.ctxDestroy w ctx) s = .next ((s0.ctxM ctx.toNat fun e => { e with state := .scrubbing }).ctxResult i 0 0)) ∧
      ((s0.ctxE ctx.toNat).state ≠ .free → exec (.ctxInval w ctx) s = .next ((s0.dropLeaves ctx.toNat).ctxResult i 0 0)) ∧
      (addr.toNat % 512 = 0 → s0.imgFunc i addr.toNat = some f → s0.firmOpen = false → s0.sch.hostLink = true →
        exec (.ctxRead w ctx addr) s = .next ((s0.hostWrite f addr.toNat (entryBytes (s0.ctxE ctx.toNat))).ctxResult i 0 0))) ∧
    ((s.ctxE ctx.toNat).state = .scrubbing → (s.runE ctx.toNat).resident = false → (s.runE ctx.toNat).evicted = false →
      Completes (.contextScrubEnd ctx) s fun t => t.ctxE ctx.toNat = {} ∧ t.runE ctx.toNat = {} ∧ (∀ n < 64, t.coreE ctx.toNat n = {}) ∧
        (∀ k < 16, t.seqE ctx.toNat k = {}) ∧ (∀ c, c ≠ ctx.toNat → t.ctxE c = s.ctxE c) ∧ t.led = (s.infoOther 0 ctx.toNat 0 0).led))

/-- R286, R287, R290, R292: JR_CFG written with ENABLE while it is clear enables the ring, HEAD and TAIL taking the tail line's value; CR_CFG written
with ENABLE while it is clear empties the ring; a HEAD up to TAIL is taken, one beyond it ignored with a record; and DELAY past the oldest
uninterrupted record raises the ring's interrupt. R286, R287: the TAIL that a device write left in a ring's tail line, in host memory, becomes the
ring's TAIL; a poll takes that of every enabled ring; one that lies more than N beyond HEAD stops the ring with reason 3, a line outside the host
windows with reason 2, one for which ATS fails with reason 1, and one that reads as poison with reason 0. -/
def Obligations.RingsAreSetUp : Prop :=
  (∀ (f : FuncN) (v : BitVec 64) (s : State),
    (∀ (slot : SlotN) (ring : Fin 4) (tail : BitVec 32) (k : Nat), k = ringKey slot.val ring.val → bit v 63 = true → bit v 62 = false →
      s.unitValid (s.slotUnit slot.val) = true → slot.val ≠ 1 → (s.funcE f.val).jrEnable.contains k = false → bits v 47 44 < 11 →
      bit v 61 = false → s.inHostWin f.val (bits (tabGet (s.funcE f.val).jrTailAddr k 0) 63 6 * 64) 64 = true →
      s.atsFails f.val (bits (tabGet (s.funcE f.val).jrTailAddr k 0) 63 6 * 64) 64 = false →
      ∃ t, exec (.jrEnable f slot ring v (some tail)) s = .next t ∧ t = { s with funcs := t.funcs } ∧
        t.funcE f.val = { s.funcE f.val with
          jrCfg := tabSet (s.funcE f.val).jrCfg k (v &&& jrCfgMask), jrEnable := setIns (s.funcE f.val).jrEnable k
          jrHead := tabSet (s.funcE f.val).jrHead k tail, jrTail := tabSet (s.funcE f.val).jrTail k tail }) ∧
    ∀ (cq : Fin 32),
      (bit v 63 = true → bit ((s.funcE f.val).crc cq.val) 63 = false → bits v 31 28 < 9 → bit ((s.funcE f.val).crc cq.val) 61 = false →
        (∀ j ∈ s.jobs, j.held = none) → (s.funcE f.val).cancelling = false →
        exec (.crEnable f cq v) s = .next (s.funcM f.val fun e => { e with
          crCfg := tabSet e.crCfg cq.val (setBits (setBits (v &&& crCfgMask) 61 61 0) 63 63 1), crTail := tabSet e.crTail cq.val 0
          crHead := tabSet e.crHead cq.val 0, irqCount := tabSet e.irqCount cq.val 0 })) ∧
      (∀ (head tail old : BitVec 32), tail = tabGet (s.funcE f.val).crTail cq.val 0 → old = tabGet (s.funcE f.val).crHead cq.val 0 →
        ((head - old).toNat ≤ (tail - old).toNat → exec (.crHeadWrite f cq head) s =
          .next ((s.funcM f.val fun e => { e with crHead := tabSet e.crHead cq.val head }).flushHeld f.val cq.val)) ∧
        ((tail - old).toNat < (head - old).toNat → exec (.crHeadWrite f cq head) s =
          .next (s.infoAccess (.func f) s.modUid (0x610 + 0x20 * cq.val) (BitVec.ofNat 64 head.toNat)))) ∧
      (tabGet (s.funcE f.val).irqCount cq.val 0 ≠ 0 → bits ((s.funcE f.val).crc cq.val) 47 32 ≠ 0 →
        exec (.crDelayExpiry f cq) s = .next (s.crInterrupt f.val cq.val) ∧
        (bit ((s.funcE f.val).crc cq.val) 62 = false → s.crInterrupt f.val cq.val =
          (s.funcM f.val fun e => { e with irqCount := tabSet e.irqCount cq.val 0 }).msix f.val (bits ((s.funcE f.val).crc cq.val) 10 0 % 64)))) ∧
  (∀ (f : FuncN) (slot : SlotN) (ring : Fin 4) (cfg : BitVec 64) (tail : BitVec 32) (k a : Nat) (s u : State),
    k = ringKey slot.val ring.val → cfg = tabGet (s.funcE f.val).jrCfg k 0 → a = bits (tabGet (s.funcE f.val).jrTailAddr k 0) 63 6 * 64 →
    (s.funcE f.val).jrEnable.contains k = true → bit cfg 61 = false → s.sch.hostLink = true →
    u = s.funcM f.val (fun e => { e with jrTail := tabSet e.jrTail k tail }) →
    (s.inHostWin f.val a 64 = true → s.atsFails f.val a 64 = false → (tail - tabGet (s.funcE f.val).jrHead k 0).toNat ≤ ringN cfg →
      exec (.tailLineTaken f slot ring (some tail)) s = .next u ∧
      ((s.funcE f.val).jrEnable = [k] → (∀ g : Nat, g ≠ f.val → (s.funcE g).jrEnable = []) →
        ∀ refused, refused.map (fun p => (p.1.val, p.2)) = s.mem.atsRefused →
        exec (.tailLinePoll [(f, slot, ring, some tail)] refused) s = .next u)) ∧
    (s.inHostWin f.val a 64 = true → s.atsFails f.val a 64 = false → ringN cfg < (tail - tabGet (s.funcE f.val).jrHead k 0).toNat →
      exec (.tailLineTaken f slot ring (some tail)) s = .next (u.ringStop f.val slot.val ring.val 0 3 tail)) ∧
    (s.inHostWin f.val a 64 = true → s.atsFails f.val a 64 = false →
      exec (.tailLineTaken f slot ring none) s = .next (s.ringStop f.val slot.val ring.val a 0 (tabGet (s.funcE f.val).jrTail k 0))) ∧
    (s.inHostWin f.val a 64 = false ∨ s.atsFails f.val a 64 = true → exec (.tailLineTaken f slot ring (some tail)) s =
      .next (s.ringStop f.val slot.val ring.val a (if s.inHostWin f.val a 64 then 1 else 2) (tabGet (s.funcE f.val).jrTail k 0))))

/-- R171, R287, R288, R289: the record at HEAD of a ring in host memory is fetched, HEAD advances, and a good record of a context of its function that
is IDLE, with no earlier job for it, makes the job queued and the context QUEUED; a reserved field that is not zero fails it with CAUSE 0x28, a
context of another function with CAUSE 0x29. R166, R172, R173, R291, R292: a job of this module whose shares have all ended completes: with the
status of its shares and the exit code of the first, its record goes to its completion ring, the context is left IDLE or FAULTED with the first
share's STEP, its clusters are free, and jobs held behind it are judged. -/
def Obligations.JobsAreFetchedAndComplete : Prop :=
  (∀ (f : FuncN) (slot : SlotN) (ring : Fin 4) (line : Line) (agree busy : Bool) (k : Nat) (cfg : BitVec 64) (d : Nat → BitVec 64) (s t : State) (j : Job),
    k = ringKey slot.val ring.val → cfg = tabGet (s.funcE f.val).jrCfg k 0 → (s.funcE f.val).jrEnable.contains k = true →
    tabGet (s.funcE f.val).jrHead k 0 ≠ tabGet (s.funcE f.val).jrTail k 0 → (s.funcE f.val).disable = false →
    (s.funcE f.val).cancelling = false → (s.funcE f.val).busMaster = true → s.serving = true → (s.jobs.filter fun j => j.master.isNone).length < 16384 →
    bit cfg 61 = false → s.sch.hostLink = true →
    s.inHostWin f.val (bits (tabGet (s.funcE f.val).jrBase k 0) 63 6 * 64 + 64 * ((tabGet (s.funcE f.val).jrHead k 0).toNat % ringN cfg)) 64 = true →
    s.atsFails f.val (bits (tabGet (s.funcE f.val).jrBase k 0) 63 6 * 64 + 64 * ((tabGet (s.funcE f.val).jrHead k 0).toNat % ringN cfg)) 64 = false →
    (∀ i, d i = line.getD i 0) →
    j = {
      id := s.sch.jobNo, func := f.val, unit := s.slotUnit slot.val, ring := ring.val, idx := tabGet (s.funcE f.val).jrHead k 0,
      cq := bits cfg 52 48, ctx := bits (d 0) 11 0, op := BitVec.ofNat 8 (bits (d 0) 23 16), irq := bit (d 0) 24, order := bit (d 0) 25,
      arg := BitVec.ofNat 32 (bits (d 0) 63 32), image := d 1, cookie := d 2 } →
    t = { s.funcM f.val fun e => { e with jrHead := tabSet e.jrHead k (tabGet (s.funcE f.val).jrHead k 0 + 1) } with
      jobs := s.jobs ++ [j], sch := { s.sch with jobNo := s.sch.jobNo + 1 } } →
    (bits (d 0) 15 12 ≠ 0 ∨ bits (d 0) 31 26 ≠ 0 ∨ bits (d 1) 63 48 ≠ 0 ∨ (∃ i ∈ [3, 4, 5, 6, 7], d i ≠ 0) ∨ (j.op ≠ 1 ∧ j.op ≠ 2) →
      exec (.jobFetch f slot ring (some line) agree busy) s = .next (t.jobFail j 0x10 0x28)) ∧
    (bits (d 0) 15 12 = 0 → bits (d 0) 31 26 = 0 → bits (d 1) 63 48 = 0 → (∀ i ∈ [3, 4, 5, 6, 7], d i = 0) → j.op = 1 →
      s.unitValid j.unit = true →
      (j.ctx ≠ 0 → s.owner j.ctx = some f.val → (s.ctxE j.ctx).state = .idle → (uidFields j.unit).level ≠ 4 → (∀ x ∈ s.jobs, x.ctx ≠ j.ctx) →
        exec (.jobFetch f slot ring (some line) agree busy) s = .next ((t.jobM j.id fun x =>
          { x with phase := .queued, accepted := true, rowOne := false }).ctxM j.ctx fun e => { e with state := .queued })) ∧
      (∀ g, s.owner j.ctx = some g → g ≠ f.val → exec (.jobFetch f slot ring (some line) agree busy) s = .next (t.jobFail j 0x10 0x29)))) ∧
  (∀ (job : Nat) (s : State) (j : Job) (o : Outcm) (x : BitVec 32), s.jobs.find? (fun j => j.id == job) = some j → j.master = none →
    j.spans = false →
    (j.phase = .running → s.sharesEnded j = true → o = s.jobStatus j →
      x = (if o.status = 0 ∨ o.status = 1 then match j.shares.head? with
        | some k => ((s.seqE j.ctx k).ended.elim 0 fun e => e.2.1) | none => 0 else 0) →
      exec (.jobComplete job none) s = .next (((s.finishJob j o x).endCtxJob j o.status.toNat none).promote)) ∧
    (j.phase = .ended → j.held = none → j.accepted = false → exec (.jobComplete job none) s = .next ((s.finishJob j (j.res.getD {}) 0).promote)) ∧
    (∀ (t : State), j.discard = false → j.flr = false → (∀ k ∈ s.jobs, k.held = none) → (s.funcE j.func).cancelling = false →
      s.crWrite j.func j.cq j.irq (s.jobRecord j o x) = (t, true) → (t.funcE j.func).cancelling = false →
      s.finishJob j o x = { t with jobs := t.jobs.filter fun k => k.id != j.id }))

/-- R168, R170, R171, R271, R318, R432: a queued job of this module whose context's entry and image pass their checks, whose resident context has the
room its image needs and whose power domains are awake starts a share on each of its clusters, the first core's sequencers in rank order; the context is
RUNNING and takes its clusters where they are free. A member whose context is IDLE or QUEUED queues its share of a span job that the master starts. A
share starts in the state of Table 7-5. -/
def Obligations.SharesStart : Prop :=
  ∀ (job : Nat) (agree busy : Bool) (s s0 s1 s2 s3 t u : State) (j : Job) (h : Header) (cores cls : List Nat) (g : Agent) (data rep : List (BitVec 8)),
    (s.jobs.find? (fun j => j.id == job) = some j → s.jobs.find? (fun k => k.id == job && k.phase == .held && k.spans) = none →
      cores = s.jobCoresOf j.unit → cls = clustersOf cores → j.phase = .queued →
      s.orderMet j = true → s.serving = true → s.schUp = true → cls.all s.cfcUp = true → j.spans = false → s.readCtxLines j.ctx = (s0, true) →
      g = { ctx := j.ctx, core := none, cluster := cls.headD 0, cls := 0 } → s0.checkImage g j.image.toNat = (s1, .ok h) →
      (∀ k ∈ cls, h.minCores ≤ (s1.clusCores k).length) → (s0.ctxE j.ctx).early = false →
      (s0.ctxE j.ctx).saveBase.toNat + saveSize h.storeBytes h.poolBytes cores.length cls.length ≤
        (s1.funcE (s0.ctxE j.ctx).func.toNat).base + (s1.funcE (s0.ctxE j.ctx).func.toNat).size →
      storeNeed h.storeBytes (s0.ctxE j.ctx).checkf ≤ 8 * 2 ^ 20 → poolNeed h ≤ 16 * 2 ^ 20 →
      (s1.runE j.ctx).resident = true → (s1.runE j.ctx).evicted = false → s1.jobCoreList j.ctx = cores →
      (s1.runE j.ctx).storeBytes = h.storeBytes → (s1.runE j.ctx).poolBytes = h.poolBytes →
      (s1.runE j.ctx).storeLen = storeNeed h.storeBytes (s0.ctxE j.ctx).checkf → (s1.runE j.ctx).poolLen = poolNeed h →
      (∀ f, (s1.runE j.ctx).fence = some f → ∀ n ∈ cores, f.cores.getLsbD n = false) → s1.asleep (s1.ctxDomains j.ctx) = false →
      s1.vaRead g (j.image.toNat + h.dataOff) h.dataSize = (s2, .ok data) →
      s2.vaRead g (j.image.toNat + h.replayOff) (32 * h.replayCount) = (s3, .ok rep) →
      t = cls.zipIdx.foldl (fun t p => t.startShare j h p.1 p.2 cls.length data rep)
        (s3.runM j.ctx fun r => { r with fault := none }) →
      u = (t.ctxM j.ctx fun e => { e with state := .running }).jobM j.id (fun k => { k with phase := .running, shares := cls, peers := [] }) →
      exec (.shareStart job (.own agree busy)) s = .next (if u.mayRun j.ctx 0 then u.switchIn j.ctx else u)) ∧
    (∀ (ctx : CtxId) (image : BitVec 64) (arg : BitVec 32), s.isMaster = false → s.span.selfOut = false → (∀ j ∈ s.jobs, j.master ≠ some job) →
      (s.ctxE ctx.toNat).state = .idle ∨ (s.ctxE ctx.toNat).state = .queued →
      (∀ j ∈ s.jobs, j.ctx = ctx.toNat → j.accepted = false ∨ j.phase = .ended) →
      exec (.shareStart job (.ordered ctx image arg)) s = .next (({ s with
        jobs := s.jobs ++ [{
          id := s.sch.jobNo, func := (s.ctxE ctx.toNat).func.toNat, unit := spanUid, ctx := ctx.toNat, op := 1, arg := arg, image := image,
          phase := .queued, accepted := true, master := some job }]
        sch := { s.sch with jobNo := s.sch.jobNo + 1 } } : State).ctxM ctx.toNat fun e => { e with state := .queued })) ∧
    ∀ (v : State) (cl rank count : Nat) (q : SeqCtx), cl < 16 → q = (v.startShare j h cl rank count data rep).seqE j.ctx cl →
      q.pc = BitVec.ofNat 32 (0x10000000 + h.entry) ∧ q.run = .run ∧ q.step = (v.ctxE j.ctx).step ∧ q.bmask = q.job ∧
      q.x = ((List.replicate 32 (0 : BitVec 32)).set 10 j.arg).set 11 (BitVec.ofNat 32 (packFields [(count, 16, 16), (rank, 0, 16)])) ∧
      q.fence = 0 ∧ q.pm = [] ∧ q.slots = [] ∧ (∀ i < 32, (tabGet q.qc i {}).value = 0 ∧ (tabGet q.qc i {}).epoch = (v.ctxE j.ctx).epoch)

/-- R293, R371: FUNC_DISABLE takes ENABLE from every job ring of the function and ends its jobs with CANCELLED_DISABLE, and so does the loss of Bus
Master Enable without touching its rings; an FLR, and the clearing of VF Enable for every enabled VF, also discards the records of disabled or
stopped rings and destroys the contexts; DISABLED is set once the function has no job left, and DISABLE = 0 then re-enables it; records held go out
when Bus Master Enable is set again. R280, R284, R293, R408: a link that goes down, or a host that does not answer a back-invalidation, stops every
function: the records of its jobs are discarded, its contexts are destroyed and one record counts them; a configuration request gets retry status
until the port is ready, and then brings the link up, and tells whether a capability shows, or sets a BAR0 base or a decoder's window (R281, R283);
which request the host makes next is a free value (the model's choice, notes/assumptions/24.md). -/
def Obligations.FunctionsStop : Prop :=
  (∀ (f : FuncN) (s : State),
    ((s.funcE f.val).cancelling = false → (s.funcE f.val).disable = false → exec (.funcDisable f) s =
      .next (((s.funcM f.val fun e => { e with disable := true, jrEnable := [] }).stopFunc f.val).stopDone f.val)) ∧
    ((s.funcE f.val).disabled = true → exec (.funcReenable f) s = .next (s.funcM f.val fun e => { e with disable := false, disabled := false })) ∧
    (∀ t u v : State, t = (s.resetRec 5 f.val).stopFunc f.val →
      u = { t with jobs := (t.jobs.filter fun j =>
        !(j.func == f.val && j.held.isSome && (!(bit ((t.funcE f.val).crc j.cq) 63) || !(t.funcE f.val).busMaster))).map fun j =>
          if j.func = f.val then { j with flr := true } else j } →
      v = (u.funcM f.val fun e => { e with jrEnable := [] }).destroyAll f.val →
      exec (.flr f) s = .next (({ v with rst := { v.rst with active := v.rst.active ++ [(5, f.val)] } } : State).stopDone f.val) ∧
      (f.val ≠ 0 → (s.funcE f.val).enabled = true → (∀ g : Nat, g ≠ f.val → (s.funcE g).enabled = false) →
        exec .vfEnableClear s = .next ((({ v with rst := { v.rst with active := v.rst.active ++ [(5, f.val)] } } : State).stopDone f.val).funcM
          f.val fun e => { e with enabled := false }))) ∧
    ((s.funcE f.val).busMaster = true → exec (.busMasterDisable f) s =
      .next (((s.funcM f.val fun e => { e with busMaster := false }).stopFunc f.val).stopDone f.val)) ∧
    ((∀ j ∈ s.jobs, j.func = f.val → j.held = none) → exec (.busMasterEnable f) s =
      .next (s.funcM f.val fun e => { e with busMaster := true, disabled := e.disabled && e.disable })) ∧
    ∀ t : State, (∀ j ∈ t.jobs, j.func ≠ f.val) → (∀ p ∈ t.harts, p.2.func ≠ some f.val) →
      (t.stopFunc f.val).stopDone f.val =
        (if (t.funcE f.val).disable then (t.funcM f.val fun e => { e with cancelling := false, disabled := true }).msix f.val 0
         else t.funcM f.val fun e => { e with cancelling := false, disabled := e.disabled || !e.busMaster })) ∧
  (∀ (s t u v : State), s.sch.hostLink = true →
    t = (List.range 32).foldl (fun t f => (t.stopFunc f).destroyAll f) { s with
      sch := { s.sch with hostLink := false }, jobs := s.jobs.map fun j => { j with discard := true } } →
    u = { t with jobs := t.jobs.filter fun j => j.held.isNone } → v = (List.range 32).foldl (fun t f => t.stopDone f) u →
    exec .linkDown s = .next (v.infoOther 0 0 0 (BitVec.ofNat 64 (s.jobs.filter fun j => j.master.isNone).length)) ∧
    (∀ line : Nat, s.out.contains (.backInvalidate line) = true →
      exec (.backInvalidateTimeout line) s = .next (v.infoOther 0 0 0 (BitVec.ofNat 64 (s.jobs.filter fun j => j.master.isNone).length))) ∧
    ∀ (x y : State) (n : CfgReq), n = Config.hostRequest x.free →
      y = { x with sch := { x.sch with hostLink := true }, boot := { x.boot with request := n }, free := x.free + 1 } →
      (x.boot.configUp = true → exec .configRequest x = .next (match x.boot.request with
        | .ask g c => y.emit (.configCap ((g.val = 0 || (y.funcE g.val).enabled) && capShows g.val c))
        | .bar g base => (y.funcM g.val fun e => { e with bar0 := base &&& ~~~0xFFFFFF#64 }).emit (.config false)
        | .decoder g base => (y.funcM g.val fun e => { e with hdmWin := some base.toNat }).emit (.config false)
        | .other => y.emit (.config false))) ∧
      (x.boot.configUp = false → exec .configRequest x = .next (x.emit (.config true))))

/-- R256, R257, R277, R283, R284, R357, R413: a host access through a decoder that maps it to the device memory of a function with a ready key domain,
within the function's range and an open one, reads the data under that key domain and enters the snoop filter, or writes them; a write to a protected
page waits for its copy; an access outside the decoder's window or the range reads poison, writes nothing, and is recorded; while the domain is
being filled, a write is dropped and counted. -/
def Obligations.HostAccessesReachTheirRange : Prop :=
  ∀ (dec : FuncN) (addr a n : Nat) (bs : List (BitVec 8)) (flaws : List (Nat × Flaw)) (s s1 s2 : State), s.sch.hostLink = true →
    (∀ w, (s.funcE dec.val).hdmWin = some w → w ≤ addr → a = (s.funcE dec.val).base + (addr - w) →
      (s.hdmBar dec.val a n = none → (∀ l ∈ linesOf a n, s.rangeOpen (64 * l) = true ∧ s.retired (64 * l) = false) →
        s1 = { s with mem := { s.mem with flaws := flaws.foldl (fun l p => tabSet l p.1 p.2) s.mem.flaws } } →
        (s1.stackRead a n (s1.hdmReq dec.val) = (s2, .ok bs) →
          exec (.hdmRead dec addr n flaws) s = .next ((s2.snoopAdd (linesOf a n)).emit (.hdmData (some bs)))) ∧
        (∀ l, s1.stackRead a n (s1.hdmReq dec.val) = (s2, .error l) → exec (.hdmRead dec addr n flaws) s = .next (s2.emit (.hdmData none)))) ∧
      (n = bs.length → s.hdmBar dec.val a n = none → (∀ l ∈ linesOf a n, s.rangeOpen (64 * l) = true ∧ s.retired (64 * l) = false) →
        ((∀ l ∈ linesOf a n, s.protector (l / 1024) = none) →
          s1 = { s with mem := { s.mem with snoop := s.mem.snoop.filter fun l => !((linesOf a n).contains l) } } →
          exec (.hdmWrite dec addr bs) s = .next (s1.stackWrite a bs (s1.hdmReq dec.val) false).1) ∧
        ((∃ l ∈ linesOf a n, s.protector (l / 1024) ≠ none) → exec (.hdmWrite dec addr bs) s = .next { s with
          mem := { s.mem with hostHeld := s.mem.hostHeld ++ [(a, (s.funcE dec.val).dom.getD 0, bs)] } })) ∧
      (∀ d : Nat, n = bs.length → s.hdmBar dec.val a n = some false → (s.funcE dec.val).dom = some d → (s.domE d).state = 2 →
        exec (.hdmWrite dec addr bs) s = .next { s with kdStat := { s.kdStat with discards := satAdd 0x3FFFFF s.kdStat.discards 1 } })) ∧
    (n = bs.length → (s.funcE dec.val).hdmWin = none ∨
        (∃ w, (s.funcE dec.val).hdmWin = some w ∧ (addr < w ∨ s.hdmBar dec.val ((s.funcE dec.val).base + (addr - w)) n = some true)) →
      exec (.hdmRead dec addr n []) s = .next ((s.infoAccess (.func dec) 0 addr 0).emit (.hdmData none)) ∧
      exec (.hdmWrite dec addr bs) s = .next (s.infoAccess (.func dec) 0 addr (BitVec.ofNat 64 (bytesNat (bs.take 8)))))

/-- R294, R295: PF0 gives a stopped hart to a function, starts one that has a function in supervisor mode at COMP_BOOT, where that lies in its
function's range, and stops one, which is then reset and without power; another function's write has no effect and is recorded. A running hart reads
and writes its function's memory under its key domain; its access outside its function's range, host windows and BAR0 view is recorded and raises
the access fault; its monitor sets its timer, sends interrupts to the function's harts, and stops it. -/
def Obligations.CompanionCoresFollowTheirFunction : Prop :=
  ∀ (h : Fin 32) (f g : FuncN) (addr : BitVec 64) (s : State),
    ((s.hartE h.val).running = false → exec (.compAssign (.func 0) h f) s = .next (s.hartM h.val fun e => { e with func := some f.val })) ∧
    ((s.hartE h.val).func = some f.val → (s.hartE h.val).running = false → (s.funcE f.val).base ≤ s.sch.compBoot.toNat →
      s.sch.compBoot.toNat < (s.funcE f.val).base + (s.funcE f.val).size → (s.dieE (h.val / 8)).inReset = false → (s.funcE f.val).disable = false →
      exec (.compStart (.func 0) h) s = .next (({ s with pwr := { s.pwr with off := setDel s.pwr.off (464 + h.val) } } : State).hartM h.val
        fun e => { e with running := true, pc := s.sch.compBoot, supervisor := true })) ∧
    exec (.compStop (.func 0) h) s = .next { s.hartM h.val fun e => { func := e.func } with
      pwr := { s.pwr with off := setIns s.pwr.off (464 + h.val) } } ∧
    (g ≠ 0 → exec (.compAssign (.func g) h f) s = .next (s.infoAccess (.func g) 0 0xE10108 (reg [(h.val, 32, 5), (f.val, 24, 5), (1, 0, 2)])) ∧
      exec (.compStart (.func g) h) s = .next (s.infoAccess (.func g) 0 0xE10108 (reg [(h.val, 32, 5), (2, 0, 2)])) ∧
      exec (.compStop (.func g) h) s = .next (s.infoAccess (.func g) 0 0xE10108 (reg [(h.val, 32, 5), (3, 0, 2)]))) ∧
    ((s.hartE h.val).running = true → (s.hartE h.val).func = some f.val →
      (∀ n : Nat, addr.toNat < (s.funcE f.val).base ∨ (s.funcE f.val).base + (s.funcE f.val).size < addr.toNat + n →
        s.inHostWin f.val addr.toNat n = false → addr.toNat < 0x040000000000 ∨ 0x040001000000 ≤ addr.toNat →
        exec (.hartAccessRefused h (.load addr n)) s = .next ((s.infoAccess (.hart h) 0 addr.toNat 0).hartFault h.val 5 addr)) ∧
      (∀ (n : Nat) (bs : List (BitVec 8)) (rq : Req) (t : State), (s.funcE f.val).base ≤ addr.toNat →
        addr.toNat + n ≤ (s.funcE f.val).base + (s.funcE f.val).size → s.hdmBar f.val addr.toNat n = none →
        (∀ l ∈ linesOf addr.toNat n, s.rangeOpen (64 * l) = true ∧ s.retired (64 * l) = false) →
        rq = { s.hdmReq f.val with unit := s.dieUid (h.val / 8) } →
        (s.stackRead addr.toNat n rq = (t, .ok bs) →
          exec (.hartAccessRefused h (.load addr n)) s = .next (t.emit (.readData (BitVec.ofNat 64 (bytesNat bs))))) ∧
        (n = bs.length → (∀ l ∈ linesOf addr.toNat n, s.protector (l / 1024) = none) → s.stackWrite addr.toNat bs rq = (t, none) →
          exec (.hartAccessRefused h (.store addr bs)) s = .next t)) ∧
      exec (.hartAccessRefused h (.setTimer addr)) s = .next (s.hartM h.val fun e => { e with timer := some addr }) ∧
      exec (.hartAccessRefused h .stop) s = .next (s.hartM h.val fun e => { e with running := false }) ∧
      ∀ mask : BitVec 32, Completes (.hartAccessRefused h (.sendIpi mask)) s fun t => t = { s with harts := t.harts } ∧
        ∀ k : Nat, k < 32 → t.hartE k = if bit mask k && (s.hartE k).func == some f.val then { s.hartE k with ipi := true } else s.hartE k)

/-- R259, R260: PF0 with its companion cores and the management port with OPERATE retire a page at once, an index already listed changing nothing, one beyond the
capacity refused with a record, and a full list setting FULL; PERSIST starts the write of the list to NVM, whose end leaves it there and counted, or
leaves NVM as it was with PERSIST_ERR and a UNC-class record. R242, R243, R255, R256, R258: the patrol reads one line of a joined stack whose
channel answers, with the patrol's own record codes; a refresh counts on one bank; a channel that is lost is in state LOST, with a record 0x44 of the
access that met it. R253, R255, R256: reading a line of a channel that answers: a line with no error whose key is its domain's own reads good with its
class counted; a correctable error is corrected in memory and counted, with its pins; an uncorrectable one, a failed tag and another key make the line
poison, with their records, and a poison line stays poison. -/
def Obligations.MemoryIsMaintained : Prop :=
  (∀ (w : Writer) (v : BitVec 64) (s : State) (p : Nat), p = bits v 24 0 →
    (s.pf0OrMgmt w = true → p * 65536 < s.stackCap →
      (s.mem.cullet.contains p = true → exec (.memCulladd w v) s = .next s) ∧
      (s.mem.cullet.contains p = false → s.mem.cullet.length < 4096 →
        exec (.memCulladd w v) s = .next { s with mem := { s.mem with cullet := s.mem.cullet ++ [p] } }) ∧
      (s.mem.cullet.contains p = false → 4096 ≤ s.mem.cullet.length → exec (.memCulladd w v) s =
        .next (({ s with mem := { s.mem with cullFull := true } } : State).infoAccess w s.modUid 0x200 v))) ∧
    (s.pf0OrMgmt w = false ∨ s.stackCap ≤ p * 65536 → exec (.memCulladd w v) s = .next (s.infoAccess w s.modUid 0x200 v)) ∧
    (s.pf0OrMgmt w = true → s.mem.persistBusy = false → s.pwr.emerg = false →
      exec (.persist w) s = .next { s with mem := { s.mem with persistBusy := true } }) ∧
    (s.mem.persistBusy = true → s.pwr.deferred.contains .persist = false →
      (∃ t : State, t = s.writeImage (fun c => { c with cull := s.mem.cullet }) ∧ exec (.persistDone true) s = .next { t with
        mem := { t.mem with persistBusy := false, persistErr := false, persisted := s.mem.cullet.length } }) ∧
      Completes (.persistDone false) s fun t => t.nvm = s.nvm ∧ t.mem.cells = s.mem.cells ∧ t.mem.cullet = s.mem.cullet ∧
        t.mem.persisted = s.mem.persisted ∧ t.mem.persistBusy = false ∧ t.mem.persistErr = true ∧
        t.led.tail.getLast?.any (fun r => r.cls == 1 && r.unit == s.modUid) = true)) ∧
  (∀ (s : State) (line addr : Nat) (st : Fin 20) (ch : Fin 128) (bank : Fin 16),
    (∀ fl : Option Flaw, s.joinedLine (64 * line) = true → s.chanUp (s.lineAt (64 * line)) = true →
      exec (.patrolScrub line fl) s = .next ((match fl with
        | some f => ({ s with mem := { s.mem with flaws := tabSet s.mem.flaws line f } } : State)
        | none => s).readLine (64 * line) { cls := 3, unit := s.dieUid ((s.lineAt (64 * line)).stack / 5) } true).1) ∧
    (bit s.part.stackMap st.val = true → s.chanUp { stack := st.val, chan := ch.val } = true →
      exec (.refresh st ch bank) s = .next (s.chanM st.val ch.val fun c =>
        { c with refreshed := tabSet c.refreshed bank.val (tabGet c.refreshed bank.val 0 + 1) })) ∧
    (s.joinedLine addr = true → (s.lineAt addr).stack = st.val → (s.lineAt addr).chan = ch.val → s.chanUp (s.lineAt addr) = true →
      ∀ (ctx : CtxId) (cls : Fin 4) (unit : BitVec 32), exec (.channelLost st ch ⟨addr, ctx, cls, unit⟩) s =
        .next ((s.chanM st.val ch.val fun c => { c with state := 3 }).memRec 0x44 1 addr
          { ctx := ctx.toNat, cls := cls.val, unit := unit } none))) ∧
  (∀ (s t : State) (a : Nat) (rq : Req), s.chanUp (s.lineAt a) = true → t = s.chanM (s.lineAt a).stack (s.lineAt a).chan (fun c => c.served rq.cls) →
    t.lineLost (64 * (a / 64)) (s.lineAt a) = false →
    (s.mem.poison.contains (a / 64) = false →
      (tabFind s.mem.flaws (a / 64) = none → s.keyFits (a / 64) rq.dom = true → s.readLine a rq = (t, true)) ∧
      (tabFind s.mem.flaws (a / 64) = some .uncorrectable → s.readLine a rq =
        (((t.poisonLine (a / 64)).chanM (s.lineAt a).stack (s.lineAt a).chan fun c => { c with uncorr := satAdd 0xFFFFFFFF c.uncorr 1 }).memRec
          0x40 1 a rq none, false)) ∧
      (tabFind s.mem.flaws (a / 64) = some .tag ∨ tabFind s.mem.flaws (a / 64) = none ∧ s.keyFits (a / 64) rq.dom = false →
        s.readLine a rq =
          (((t.poisonLine (a / 64)).chanM (s.lineAt a).stack (s.lineAt a).chan fun c => { c with uncorr := satAdd 0xFFFFFFFF c.uncorr 1 }).memRec
            0x41 1 a rq none, false)) ∧
      (∀ pins, tabFind s.mem.flaws (a / 64) = some (.correctable pins) → s.keyFits (a / 64) rq.dom = true →
        (s.readLine a rq).2 = true ∧ tabFind (s.readLine a rq).1.mem.flaws (a / 64) = none ∧
        ((s.readLine a rq).1.chanE (s.lineAt a).stack (s.lineAt a).chan).corr =
          satAdd 0xFFFFFFFF (s.chanE (s.lineAt a).stack (s.lineAt a).chan).corr 1)) ∧
    (s.mem.poison.contains (a / 64) = true → s.readLine a rq = (t.memRec 0x42 1 a rq none, false)))

/-- R319 to R323, R327: an evaluation of the governor, with main power on, counts the time of every reason in force, moves every die's point one code at
most or to the floor, lets none rise while the PMC is down, and holds one at the floor under a trip; with the PMC up it switches off every
domain that may sleep (that it switches off all of them is the model's choice, notes/assumptions/41.md). R318, R242: a sleeping domain that the PMC
wakes is awake, and a channel group among them is on again; the management port powers down a channel group that no range maps, whose lines lose
their contents. -/
def Obligations.GovernorMovesOneCode : Prop :=
  (∀ (s : State) (us : Nat), s.pwr.mainOn = true →
    exec (.governorEval us) s = .next ({ s with pwr := s.pwr.evaluate us s.pmcUp s.dieEarly } : State).domainsOff ∧
    (∀ t : State, t.domainsOff = { t with pwr := { t.pwr with off := t.domainsOff.pwr.off } } ∧ (t.pmcUp = false → t.domainsOff = t) ∧
      (t.pmcUp = true → ∀ k : Nat, k ∈ t.domainsOff.pwr.off ↔ k ∈ t.pwr.off ∨ k ∈ t.sleepable)) ∧
    ∀ d : Nat, d < 4 →
      ((s.pwr.evaluate us s.pmcUp s.dieEarly).point.getD d 0 = 0 ∨
        s.pwr.point.getD d 0 ≤ (s.pwr.evaluate us s.pmcUp s.dieEarly).point.getD d 0 + 1) ∧
      (s.pwr.evaluate us s.pmcUp s.dieEarly).point.getD d 0 ≤ s.pwr.point.getD d 0 + 1 ∧
      (s.pmcUp = false → (s.pwr.evaluate us s.pmcUp s.dieEarly).point.getD d 0 ≤ s.pwr.point.getD d 0) ∧
      (s.pwr.trip = true → (s.pwr.evaluate us s.pmcUp s.dieEarly).point.getD d 0 = 0)) ∧
  (∀ (s : State),
    (∀ d : Fin 528, s.pmcUp = true → s.pwr.off.contains d.val = true → exec (.domainWake d) s = .next { s with
      pwr := { s.pwr with off := setDel s.pwr.off d.val }
      mem := if 384 ≤ d.val ∧ d.val < 464 then { s.mem with groupOff := setDel s.mem.groupOff (d.val - 384) } else s.mem }) ∧
    (∀ (id : Fin 8) (g : Fin 80), s.hasRole (mgmtOf id) 1 = true → s.groupMapped (g.val / 4) = false → bit s.part.stackMap (g.val / 4) = true →
      s.mem.groupOff.contains g.val = false → exec (.channelGroupPowerDown id g) s = .next { s.loseGroup g.val with
        mem := { (s.loseGroup g.val).mem with groupOff := setIns (s.loseGroup g.val).mem.groupOff g.val }
        pwr := { (s.loseGroup g.val).pwr with off := setIns (s.loseGroup g.val).pwr.off (384 + g.val) } }))

/-- R319, R323, R324, R329, Table 15-3: an energy sample counts its power; an input current above 56 A puts every die to the floor, with reason 3 and an
emergency; its release ends reason 3 and the trip; a droop puts reason 4 in force on its die, and its recovery ends it. R327: only the management
port writes PWR_CAP, from 900 to 2,600 W, in force from the next interval, and PWR_MODE, where a point code above 23 leaves its field; any other
write has no effect and is recorded. R325, R326, R330: the end of an interval with the PMC up takes the cap written before, judges the lower of the
cap and the coolant limit against the average, steps duty cycling, and divides the interval's energy among the contexts by their array-cycles. -/
def Obligations.PowerEventsTakeEffect : Prop :=
  (∀ (s : State) (d : Fin 4),
    (∀ mv ma : Nat, exec (.energySample mv ma) s = .next { s with pwr := { s.pwr with
      uj := s.pwr.uj + mv * ma / 10000, ujRest := (s.pwr.ujRest + mv * ma / 10000) % 1000
      energy := (s.pwr.energy + (s.pwr.ujRest + mv * ma / 10000) / 1000) % 2 ^ 64 } }) ∧
    (∀ ma : Nat, 56000 < ma → s.pwr.mainOn = true → ∃ p : Pwr, p = s.pwr.putAll 3 true ∧ (∀ k : Nat, k < 4 → p.has k 3 = true) ∧
      exec (.inputCurrentTrip ma) s = .next { s with pwr := { p with trip := true, emerg := true, point := [0, 0, 0, 0] } }) ∧
    (∃ p : Pwr, p = s.pwr.putAll 3 false ∧ exec .currentTripRelease s = .next { s with pwr := { p with trip := false } }) ∧
    exec (.droopDetect d) s = .next { s with pwr := { s.pwr with reason := setPut s.pwr.reason (8 * d.val + 4) true } } ∧
    exec (.droopRecovery d) s = .next { s with pwr := { s.pwr with reason := setPut s.pwr.reason (8 * d.val + 4) false } }) ∧
  (∀ (w : Writer) (v : BitVec 64) (s : State),
    (isMgmt w = true → s.hasRole w 1 = true →
      (900 ≤ bits v 11 0 → bits v 11 0 ≤ 2600 → exec (.pwrCapWrite w v) s = .next { s with pwr := { s.pwr with capNext := some (bits v 11 0) } }) ∧
      (bits v 12 8 ≤ 23 → bits v 6 2 ≤ 23 → exec (.pwrModeWrite w v) s = .next { s with
        pwr := { s.pwr with mgmtMax := bits v 12 8, fixedPoint := bits v 6 2, fixed := bit v 0 } })) ∧
    (isMgmt w = false ∨ bits v 11 0 < 900 ∨ 2600 < bits v 11 0 → exec (.pwrCapWrite w v) s = .next (s.infoAccess w s.modUid 0x3100 v)) ∧
    (isMgmt w = false → exec (.pwrModeWrite w v) s = .next (s.infoAccess w s.modUid 0x3108 v))) ∧
  (∀ (avg run stop : Nat) (s : State) (p q : Pwr), s.pmcUp = true →
    p = ({ s.pwr with
      cap := s.pwr.capNext.getD s.pwr.cap, capNext := none, power := avg
      effective := min (s.pwr.capNext.getD s.pwr.cap) (coolantLimit s.pwr.inlet s.pwr.flow run s.pwr.noFlow) } : Pwr).putAll 7
        (coolantLimit s.pwr.inlet s.pwr.flow run s.pwr.noFlow < 2600) →
    q = (if p.effective < avg then p.putAll 0 true else if avg + 50 ≤ p.effective then p.putAll 0 false else p) →
    ((q.duty avg run stop).2 = false → exec (.powerInterval avg run stop) s = .next (({ s with
      pwr := (q.duty avg run stop).1.putAll 6 (0 < (q.duty avg run stop).1.stopped) } : State).shareEnergy)) ∧
    ((q.duty avg run stop).2 = true → exec (.powerInterval avg run stop) s = .next (((({ s with
      pwr := (q.duty avg run stop).1.putAll 6 (0 < (q.duty avg run stop).1.stopped) } : State).raiseRec
        { unit := s.modUid, cls := 4, code := 0x72 }).fmpEventAll 0x1A).shareEnergy)))

/-- R336, R337: LDG_SEL is each reader's own, per window: a write of it sets that reader's N, which selects one of the records that the reader may see
there, newest first, and no other reader's; an agent without an instance leaves only an access record. R394: LEDGER_STREAM moves the stream to its
session and delivers what is stored; LEDGER_ACK takes the delivered records up to its ESN out of the buffer. -/
def Obligations.LedgerReadersSeeTheirOwn : Prop :=
  (∀ (w : Writer) (unit : BitVec 32) (v : BitVec 64) (s : State), s.unitValid unit = true →
    (s.readerOf w = none → exec (.ldgSelWrite w unit v) s = .next (s.infoAccess w unit 0x2008 v)) ∧
    ∀ r : Nat, s.readerOf w = some r → ∃ t, exec (.ldgSelWrite w unit v) s = .next t ∧
      t = { s with ldgSel := tabSet s.ldgSel (selKey r unit) (reg [(v.toNat, 0, 14)]) } ∧
      t.selected r unit = (s.visible r unit)[bits v 13 0]? ∧
      ∀ q u, selKey q u ≠ selKey r unit → t.selected q u = s.selected q u) ∧
  (∀ (s : State) (id : Fin 8) (esn : BitVec 64), s.sessionHas id 0 = true →
    (Completes (.ledgerStream id) s fun t => t.mgmt.stream = some id.val ∧
      t.led.recs = s.led.recs.map (fun (r : Rec) => { r with delivered := true }) ∧ t.led.esn = s.led.esn ∧
      (∀ r ∈ s.led.recs, OutEv.ledgerEvent id.val r.esn ∈ t.out)) ∧
    exec (.ledgerAck id esn) s = .next
      (({ s with led := { s.led with recs := s.led.recs.filter fun r => !(r.delivered && r.esn ≤ esn.toNat) } } : State).fmpAns id 0))

/-- R342, R343, R344: a check interval that is due of a running context without a fault, whose MXE instructions have ended, switches it out, compares every captured tile with what its shadow core
found, frees the buffers and switches it in; a tile that agrees only counts, one that differs is an SDC with code 0x81. R345 to R347: at the span's
master the first digest of a key is stored, a later one compared and counted; the first disagreement faults the context on every module; 1 ms later
the modules whose digest is not the most common one are named, this module by an SDC record of its own, and the others by a message. -/
def Obligations.CheckIntervalsCompareTiles : Prop :=
  (∀ (ctx : CtxId) (ds : List (BitVec 64 × BitVec 64)) (s t u : State), (s.runE ctx.toNat).running = true → (s.runE ctx.toNat).fault = none →
    s.frozen = false → s.checkDue ctx.toNat = true → s.mxeIdle ctx.toNat = true → (s.captured ctx.toNat).length = ds.length → (s.jobClusters ctx.toNat).all s.cfcUp = true →
    t = ((s.captured ctx.toNat).zip ds).foldl (fun t x => t.compareTile ctx.toNat x) (s.switchOut ctx.toNat) →
    u = (t.jobCoreList ctx.toNat).foldl (fun u n => u.coreM ctx.toNat n fun k => { k with shadows := k.shadows.filter fun h => !h.closed }) t →
    exec (.checkInterval ctx ds) s = .next (u.switchIn ctx.toNat) ∧
    ∀ (x : State) (n : Nat) (h : Shadow), x.compareTile ctx.toNat ((n, h), (h.laDigest, h.outDigest)) =
      (x.physM n fun p => { p with checked := satAdd 0xFFFFFFFF p.checked 1 }).runM ctx.toNat fun r =>
        { r with arrayCycles := r.arrayCycles + 64 * h.passes }) ∧
  (∀ (m : ModN) (ctx : CtxId) (step tag : BitVec 32) (origin count dg : BitVec 64) (s : State) (old : List Digest),
    old = s.dig.entries.filter (fun d => !(d.ctx == ctx.toNat && d.step.toNat + 2 ≤ step.toNat)) →
    (s.isMaster = true → bit s.span.withdrawn m.val = false →
      (old.find? (fun d => d.isKey ctx.toNat step tag origin.toNat count.toNat) = none → old.length < 32768 →
        exec (.digestMessage m ctx step tag origin count dg) s = .next { s with dig := { s.dig with entries := old ++ [{
          ctx := ctx.toNat, step := step, tag := tag, origin := origin.toNat, count := count.toNat, first := dg, seen := [(m.val, dg)] }] } }) ∧
      (∀ d : Digest, old.find? (fun d => d.isKey ctx.toNat step tag origin.toNat count.toNat) = some d → d.first = dg →
        exec (.digestMessage m ctx step tag origin count dg) s = .next { s with dig := { s.dig with
          entries := updFirst (fun d => d.isKey ctx.toNat step tag origin.toNat count.toNat)
            (fun d => { d with seen := d.seen ++ [(m.val, dg)], differ := d.differ || false }) old
          compared := satAdd 0xFFFFFFFF s.dig.compared 1 } }) ∧
      (∀ d : Digest, old.find? (fun d => d.isKey ctx.toNat step tag origin.toNat count.toNat) = some d → d.first ≠ dg → d.differ = false →
        s.inSpan = false → (s.runE ctx.toNat).fault = none →
        Completes (.digestMessage m ctx step tag origin count dg) s fun t => ((t.runE ctx.toNat).fault.any fun f => f.status == 0x18) = true)) ∧
    (∀ d : Digest, s.dig.entries.find? (fun d => d.isKey ctx.toNat step tag origin.toNat count.toNat) = some d →
      (d.differ = false → exec (.digestCollectEnd ctx step tag origin count) s = .next s) ∧
      (d.differ = true → mostCommon d.seen = some d.first → (∀ p ∈ d.seen, p.2 = d.first ∨ p.1 = s.modIdx) →
        (∃ p ∈ d.seen, p.2 ≠ d.first) → Completes (.digestCollectEnd ctx step tag origin count) s fun t =>
          t.led.tail.any (fun r => r.cls == 2 && r.code == 0x82 && r.unit == s.modUid) = true)))

/-- R349, R350, R351: DRAIN by management completes from BRINGUP, EARLY and SERVICE: DRAINING, with code 0x90, its cause, and every job's end; in
DRAINING it changes nothing, and in DRAINED or REPLACE it only writes its record. DRAIN_COMPLETE, once every job has completed, withdraws the
module from its span, writes code 0x91 with the counts, and leaves it DRAINED, or in REPLACE. RESUME takes a DRAINED module back to where its
bring-up stands. CLEAR_REPLACE ends REPLACE, here and in NVM, with code 0x93, and REPLACE_NVM_RETRY puts the flag into NVM. Only management may
ask. -/
def Obligations.DrainsRunTheirCourse : Prop :=
  ∀ (w : Writer) (s : State),
    (isMgmt w = false → exec (.drain w) s = .next (s.infoAccess w s.modUid 0x21A0 1) ∧ exec (.resume w) s = .next (s.infoAccess w s.modUid 0x21A0 2) ∧
      exec (.clearReplace w) s = .next (s.infoAccess w s.modUid 0x21A0 3)) ∧
    (isMgmt w = true → s.hasRole w 1 = true →
      (s.drainable = true → Completes (.drain w) s fun t => t.health.state = 4 ∧ t.health.cause = 2 ∧ t.health.trigger = 0 ∧
        (∃ r ∈ t.led.tail, r.esn = s.led.esn ∧ r.code = 0x90 ∧ r.d0 = 2 ∧ r.d1 = 0) ∧
        ∀ j ∈ t.jobs, j.phase = .ended ∨ j.res.isSome = true ∨ (t.runE j.ctx).fault.isSome = true) ∧
      (s.health.state = 4 → exec (.drain w) s = .next s) ∧
      (s.health.state = 5 ∨ s.health.state = 6 → Completes (.drain w) s fun t => t.health = s.health ∧ t.jobs = s.jobs ∧
        ∃ r ∈ t.led.tail, r.esn = s.led.esn ∧ r.code = 0x90 ∧ r.d0 = 2 ∧ r.d1 = 0) ∧
      (s.health.state = 5 → Completes (.resume w) s fun t => t = { s with health := t.health, out := t.out } ∧ t.health.replace = s.health.replace ∧
        t.health.state = if s.pwr.mainOn = false then 0 else if s.boot.phase = 4 then 3
          else if s.boot.ended.contains 2 = true ∧ s.boot.image.early = true then 2 else 1) ∧
      (s.health.state ≠ 5 → exec (.resume w) s = .next (s.infoAccess w s.modUid 0x21A0 2)) ∧
      (s.health.replace = true → Completes (.clearReplace w) s fun t => t.health.replace = false ∧ t.nvm.replace = false ∧
        t.health.state = (if s.health.state = 6 then 5 else s.health.state) ∧ t.jobs = s.jobs ∧
        ∃ r ∈ t.led.tail, r.esn = s.led.esn ∧ r.code = 0x93) ∧
      (s.health.replace = false → exec (.clearReplace w) s = .next s)) ∧
    (s.health.state = 4 → (∀ j ∈ s.jobs, j.held.isSome = true) → Completes .drainComplete s fun t =>
      t.health.state = (if s.health.replace then 6 else 5) ∧ t.jobs = s.jobs ∧ (s.inSpan = true → t.span.selfOut = true) ∧
      ∃ r ∈ t.led.tail, r.esn = s.led.esn ∧ r.code = 0x91 ∧ r.d2 = BitVec.ofNat 64 s.sch.drainJobs ∧ r.d3 = BitVec.ofNat 64 s.sch.drainInstrs) ∧
    (s.health.state ≠ 4 ∨ (∃ j ∈ s.jobs, j.held.isNone = true) → exec .drainComplete s = .next s) ∧
    (s.health.replace = true → s.health.replaceNvm = false → exec (.replaceNvmRetry true) s = .next { s with
      health := { s.health with replaceNvm := true }, nvm := { s.nvm with replace := true, esn := s.led.esn - 1 } }) ∧
    (∀ ok : Bool, s.health.replace = false ∨ s.health.replaceNvm = true ∨ ok = false → exec (.replaceNvmRetry ok) s = .next s)

/-- R360: BEGIN from IDLE or FAULTED makes the context FAULTED with a restore open; LOAD starts a load of the open restore and leaves the instance BUSY;
ABORT closes the restore, the context staying FAULTED; END of a restore whose loads all succeeded, whose manifests agree and whose regions cover
every ledger root puts SEED and STEP into the entry and leaves the context IDLE; without a restore open LOAD, END and ABORT give RESULT 9, and for a
context of another function all give RESULT 1. R360, R361, Table 17-1: a LOAD ends with its RESULT: an unreadable header gives 5, a header that is
not of this context 3; a good manifest of one page whose page is read, written and has its digest adds the region to the restore, with the
manifest's SEED and STEP. -/
def Obligations.RestoresOpenAndClose : Prop :=
  (∀ (w : Writer) (ctx : CtxId) (src : Fin 4) (m : ModN) (i : Option Nat) (s s0 : State) (x : Restore), s.instOf w = some i → s.hasRole w 1 = true →
    (s.inst i).ckpBusy = false → ctx ≠ 0 → s0 = s.instM i (fun e => { e with ckpCtx := ctx }) →
    (i = none ∨ s0.owner ctx.toNat = i →
      ((s0.ctxE ctx.toNat).state = .idle ∨ (s0.ctxE ctx.toNat).state = .faulted → exec (.ckpBegin w ctx) s =
        .next (((s0.ctxM ctx.toNat fun e => { e with state := .faulted }).runM ctx.toNat fun r => { r with restore := some {} }).ckpResult i 0 0)) ∧
      ((s0.runE ctx.toNat).restore = some x →
        exec (.ckpLoad w ctx src m) s = .next (s0.instM i fun e =>
          { e with ckpBusy := true, ckpLoad := [ckpWord 2 ctx.toNat src.val m.val, e.ckpAddr] }) ∧
        exec (.ckpAbort w ctx) s = .next ((s0.runM ctx.toNat fun r => { r with restore := none }).ckpResult i 0 0) ∧
        (x.failed = [] → x.agree = true → (∀ r ∈ (s0.ctxE ctx.toNat).roots, covers x.regions r.1.toNat r.2.toNat = true) →
          exec (.ckpEnd w ctx) s = .next (((s0.ctxM ctx.toNat fun e =>
            { e with state := .idle, seed := x.seed.getD e.seed, step := x.step.getD e.step }).runM ctx.toNat fun r =>
              { r with restore := none, fault := none }).ckpResult i 0 0)) ∧
        (x.failed = [] → x.agree = false → exec (.ckpEnd w ctx) s = .next (s0.ckpResult i 7 0))) ∧
      ((s0.runE ctx.toNat).restore = none → exec (.ckpLoad w ctx src m) s = .next (s0.ckpResult i 9 0) ∧
        exec (.ckpEnd w ctx) s = .next (s0.ckpResult i 9 0) ∧ exec (.ckpAbort w ctx) s = .next (s0.ckpResult i 9 0))) ∧
    (i ≠ none → s0.owner ctx.toNat ≠ i → (s0.ctxE ctx.toNat).state ≠ .free →
      exec (.ckpBegin w ctx) s = .next (s0.ckpResult i 1 0) ∧ exec (.ckpLoad w ctx src m) s = .next (s0.ckpResult i 1 0) ∧
      exec (.ckpEnd w ctx) s = .next (s0.ckpResult i 1 0) ∧ exec (.ckpAbort w ctx) s = .next (s0.ckpResult i 1 0))) ∧
  (∀ (w : Writer) (i : Option Nat) (s s1 s2 s3 : State) (word addr : BitVec 64) (c f src m a : Nat) (x : Restore) (h : List (BitVec 8)),
    s.instOf w = some i → (s.inst i).ckpLoad = [word, addr] → c = bits word 59 48 → (s.runE c).restore = some x →
    f = i.getD (s.ctxE c).func.toNat → src = bits word 47 46 → m = bits word 45 42 → a = bits addr 63 6 * 64 →
    (s.ckpRead f c src m a 64 = (s1, none) → exec (.restoreLoadDone w) s = .next ((s1.runM c fun r =>
      { r with restore := r.restore.map fun x => { x with failed := tabSet x.failed a 5 } }).ckpResult i 5 0)) ∧
    (s.ckpRead f c src m a 64 = (s1, some h) → imgAt h 0 4 ≠ 0x4B434E47 ∨ imgAt h 4 2 ≠ 1 ∨ imgAt h 6 2 ≠ c →
      exec (.restoreLoadDone w) s = .next ((s1.runM c fun r =>
        { r with restore := r.restore.map fun x => { x with failed := tabSet x.failed a 3 } }).ckpResult i 3 0)) ∧
    (∀ e : List (BitVec 8), s.ckpRead f c src m a 64 = (s1, some h) → imgAt h 0 4 = 0x4B434E47 → imgAt h 4 2 = 1 → imgAt h 6 2 = c →
      imgAt h 20 4 = 1 → s1.ckpRead f c src m (a + 64) 8 = (s2, some e) → crcOf 1 (h.take 60 ++ e) = imgAt h 60 4 → 65536 ≤ a →
      s2.loadPage f c src m (a - 65536) (imgAt h 24 8) (imgAt e 0 8) = (s3, none) →
      exec (.restoreLoadDone w) s = .next ((s3.runM c fun r => { r with restore := r.restore.map fun x => { x with
        seed := some (x.seed.getD (BitVec.ofNat 64 (imgAt h 8 8))), step := some (x.step.getD (BitVec.ofNat 32 (imgAt h 16 4)))
        agree := x.agree && x.seed.getD (BitVec.ofNat 64 (imgAt h 8 8)) == BitVec.ofNat 64 (imgAt h 8 8) &&
          x.step.getD (BitVec.ofNat 32 (imgAt h 16 4)) == BitVec.ofNat 32 (imgAt h 16 4)
        failed := tabDel x.failed a, regions := x.regions ++ [(imgAt h 24 8, 65536)] } }).ckpResult i 0 1)))

/-- R363 to R368, R379: a heartbeat keeps its processor's word and its age; a missed one, and a watchdog's expiry, leave records 0xA0 and 0xA1 and
restart the processor; a held one is left alone. The first two restarts within 60 s only restart; the third holds it, with code 0xA3. One that went
down serves again with code 0xA2, SCH with the epoch changes that waited for it. -/
def Obligations.ProcessorsBeatAndRestart : Prop :=
  ∀ (p : ProcN) (s t : State),
    (∀ x : BitVec 64, (s.procE p.val).served = true → exec (.heartbeat p x) s = .next (s.procM p.val fun e => { e with
      progress := x, beatAge := 0, recent := (e.recent.map (· + 1)).filter fun t => decide (t < 60000)
      fresh := match e.fresh with | some t => if t + 1 < 10000 then some (t + 1) else none | none => none })) ∧
    ((s.procE p.val).state = 2 → exec (.heartbeatMiss p) s = .next s ∧ exec (.watchdogExpiry p) s = .next s) ∧
    ((s.procE p.val).state ≠ 2 →
      exec (.heartbeatMiss p) s = .next (((s.raiseRec { unit := s.modUid, cls := 1, code := 0xA0, d0 := BitVec.ofNat 64 p.val }).procM p.val
        fun e => { e with beatAge := 3 }).restart p.val) ∧
      exec (.watchdogExpiry p) s = .next ((s.raiseRec { unit := s.modUid, cls := 1, code := 0xA1, d0 := BitVec.ofNat 64 p.val }).restart p.val)) ∧
    ((t.procE p.val).served = false → t.restart p.val = t) ∧
    ((t.procE p.val).served = true → (t.procE p.val).state ≠ 2 → (t.procE p.val).state ≠ 3 → (t.procE p.val).recent.length < 2 →
      t.restart p.val = (t.goDown p.val 1 (t.procE p.val).bank).procM p.val fun e => { e with recent := (t.procE p.val).recent ++ [0] }) ∧
    ((t.procE p.val).served = true → (t.procE p.val).state ≠ 2 → (t.procE p.val).state ≠ 3 → (t.procE p.val).recent.length = 2 → (t.procE p.val).fresh = none →
      t.restart p.val = ((t.goDown p.val 1 (t.procE p.val).bank).procM p.val fun e => { e with recent := (t.procE p.val).recent ++ [0] }).hold p.val) ∧
    (p.val = 1 ∨ p.val = 2 → (s.procE p.val).served = false → (s.procE p.val).state = 1 →
      t = (s.procM p.val fun e => { e with
        state := if s.pwr.deferred.contains (.activate (compOf p.val)) then 4 else 0, served := true, beatAge := 0 }).info s.modUid 0xA2 0 p.val 0 →
      exec (.processorServing p) s = .next (if p.val = 2 then t.schServes else t))

/-- R187, R369, R370: an instruction of a VXE, DXE or CXE that is taken and has no outcome and makes no progress past its context's limit ends with
FAILED_FAULT and CAUSE 0x2C, code 0xA4 names it and the dump, its context faults, and its core's dump and reset begin. R373 to R376: a word of a
dump that times out is bad in it, and the 64th in a row gives up the rest of its unit's section; a complete dump of a core, which no other reset
lies in, is kept with code 0xA5 where it fits, and then the core's reset takes effect; a completed dump is committed to NVM, the oldest unpinned
ones giving way. -/
def Obligations.HungEnginesAreReset : Prop :=
  (∀ (c : CoreN) (e : Fin 4) (slot ctx q : Nat) (s t : State) (x : QEntry), ctx = s.ctxOn (c.val / 4) → e.val ≠ 0 → q = (if e.val = 1 then 1 else 2) →
    s.cfcUp (c.val / 4) = true → s.takes ctx c.val = true → s.entryE ctx c.val q slot = some x → x.taken = true → x.result = none →
    (q = 2 → (3 ≤ x.word.engine ↔ e.val = 3)) →
    t = s.raiseRec {
      unit := s.coreUid c.val, cls := 1, code := 0xA4, ctx := BitVec.ofNat 12 ctx, opcode := BitVec.ofNat 8 x.word.opcode, cause := 0x2C,
      status := 0x10, d0 := reg [(slot, 0, 8)], d1 := reg [(s.limitOf ctx 15, 32, 32), (e.val, 0, 4)],
      d2 := BitVec.ofNat 64 (tabGet (s.physE c.val).prog e.val 0), d3 := reg [(s.nextDump, 0, 16)] } →
    exec (.engineHang c e slot) s = .next ((((t.endEntry ctx c.val q slot { status := 0x10, cause := 0x2C, esn := t.lastEsn }).setFault ctx
      { status := 0x10, cause := 0x2C, esn := t.lastEsn }).askReset 0 c.val t.lastEsn [3 + c.val / 4]).1)) ∧
  (∀ (s t u : State) (d : Dump),
    (∀ index word unitEnd : Nat, exec (.dumpWordTimeout index word unitEnd) s = .next t →
      ∀ e ∈ s.crust.dumps, e.open_ = true → e.index = index → (∀ f ∈ s.crust.dumps, f.open_ = true → f.index = index → f = e) →
        word < unitEnd → ∃ g ∈ t.crust.dumps, g = { e with badWords := g.badWords, consec := g.consec } ∧ word ∈ g.badWords ∧
          (e.consec = 63 → 0 < word → e.badWords.contains (word - 1) = true → ∀ k, word < k → k < unitEnd → k ∈ g.badWords)) ∧
    (∀ index word unitEnd : Nat, Completes (.dumpWordTimeout index word unitEnd) s fun t => t = { s with crust := { s.crust with dumps := t.crust.dumps } }) ∧
    (∀ (unit : BitVec 32) (index : Nat), s.dumpAt 0 unit index = some d →
      (∀ p ∈ s.rst.active, takesIn [((0 : BitVec 4), (uidFields unit).coreN)] p.1.toNat p.2 = true → p = (0, (uidFields unit).coreN)) →
      exec (.crustDump 0 unit index) s = .next ((s.closeDump d.index false).unitReset 0 (uidFields unit).coreN)) ∧
    (∀ index : Nat, s.crust.dumps.find? (fun d => d.index == index && !d.open_ && !d.committed) = some d →
      u = { s with crust := { s.crust with
        dumps := updFirst (fun e => e.index == index && !e.open_) (fun _ => { d with committed := true }) s.crust.dumps
        nvmDumps := dropOldest (8 * 2 ^ 20 - ({ d with committed := true } : Dump).size) s.crust.nvmDumps ++ [{ d with committed := true }] } } →
      exec (.dumpCommit index) s = .next u.nvmCommit))

/-- R371, R373, R374: only the management port resets through RST_CTL, and another agent's write is recorded; a request while BUSY gives RESULT 2, one
for a bad unit or part 1, one that a reset in progress takes in 3; else BUSY and LAST are set: a core, cluster, die or module begins its dump, and a
channel group, a span link and a host function, which have none, begin at once with their record. R371, R373, R393: the end of a core's reset, its
dump made, takes the core out of reset, and RST_CTL out of BUSY where it was the last asked for; PF0 with the grant starts a module warm reset by
REQ = 1, and any other write is recorded. -/
def Obligations.ResetsAreRequested : Prop :=
  (∀ (w : Writer) (unit : BitVec 32) (part : BitVec 8) (s : State) (u : UnitF) (b : Nat → State),
    u = uidFields unit → (∀ d, b d = { s with rst := { s.rst with busy := true, last := BitVec.ofNat 4 d, result := 0 } }) →
    (isMgmt w = true → s.hasRole w 1 = true → s.rst.busy = false →
      (s.unitValid unit = true → u.module = s.modIdx →
        (u.level = 0 → takesIn s.rst.active 0 u.coreN = false → exec (.resetCore w unit) s = .next ((b 0).askReset 0 u.coreN 0).1) ∧
        (u.level = 1 → takesIn s.rst.active 1 u.clusN = false → exec (.resetCluster w unit) s = .next ((b 1).askReset 1 u.clusN 0).1) ∧
        (u.level = 2 → takesIn s.rst.active 2 u.die = false → exec (.resetDie w unit) s = .next ((b 2).askReset 2 u.die 0).1) ∧
        (u.level ≠ 0 → exec (.resetCore w unit) s = .next { s with rst := { s.rst with result := 1 } }) ∧
        (u.level = 0 → takesIn s.rst.active 0 u.coreN = true → exec (.resetCore w unit) s =
          .next { s with rst := { s.rst with last := 0, result := 3 } })) ∧
      (∀ t v : State, part.toNat < 80 → bit s.part.stackMap (part.toNat / 4) = true → takesIn s.rst.active 3 part.toNat = false →
        t = ((b 3).plainReset 3 part.toNat).loseGroup part.toNat →
        v = (List.range 32).foldl (fun x i => x.chanM (part.toNat / 4) (32 * (part.toNat % 4) + i) fun _ => { state := 4 }) t →
        exec (.resetChannelGroup w part) s = .next { v with mem := { v.mem with groupReset := setIns v.mem.groupReset part.toNat } }) ∧
      (∀ t : State, part.toNat < 16 → takesIn s.rst.active 4 part.toNat = false → t = (b 4).plainReset 4 part.toNat →
        exec (.resetSpanLink w part) s = .next { t with span := { t.span with links := tabSet t.span.links part.toNat { state := t.linkStart part.toNat } } }) ∧
      (part.toNat < 32 → takesIn s.rst.active 5 part.toNat = false → exec (.resetHostFunction w part) s = .next ((b 5).funcReset part.toNat)) ∧
      (takesIn s.rst.active 6 0 = false → exec (.resetModuleWarm w) s = .next ((b 6).askReset 6 0 0).1) ∧
      (takesIn s.rst.active 7 0 = false → exec (.resetModuleCold w) s =
        .next (({ b 7 with rst := { (b 7).rst with active := [(7, 0)] } } : State).openDump 7 s.modUid 0))) ∧
    (isMgmt w = true → s.hasRole w 1 = true → s.rst.busy = true → ∀ i ∈ [Instr.resetCore w unit, .resetCluster w unit, .resetDie w unit,
      .resetChannelGroup w part, .resetSpanLink w part, .resetHostFunction w part, .resetModuleWarm w, .resetModuleCold w],
      exec i s = .next { s with rst := { s.rst with result := 2 } }) ∧
    (isMgmt w = false → exec (.resetModuleWarm w) s = .next (s.infoAccess w s.modUid 0x24C0 (rstWord 6 0 0)) ∧
      exec (.resetModuleCold w) s = .next (s.infoAccess w s.modUid 0x24C0 (rstWord 7 0 0)))) ∧
  (∀ (s : State) (n : Nat) (v : BitVec 64) (w : Writer),
    (s.rst.active.contains ((0 : BitVec 4), n) = true → s.dumpOf 0 (s.coreUid n) = none → exec (.resetComplete 0 n) s =
      .next (({ s with rst := { s.rst with active := s.rst.active.filter fun p => p != (0, n)
                                           busy := s.rst.busy && s.rst.last != 0 } } : State).physM n fun p => { p with inReset := false })) ∧
    (bit v 0 = true → s.mgmt.resetGrant = true → exec (.mgmtRstreq (.func 0) v) s = .next (s.askReset 6 0 0).1) ∧
    (bit v 0 = true → s.mgmt.resetGrant = false → exec (.mgmtRstreq (.func 0) v) s = .next (s.infoAccess (.func 0) s.modUid 0x2A8 v)) ∧
    ((∀ f, w = .func f → f ≠ 0) → exec (.mgmtRstreq w v) s = .next (s.infoAccess w s.modUid 0x2A8 v)))

/-- R30, R371, R429, Tables 18-5 and 20-4: a loss of both inputs leaves the ledger empty, its next ESN at 0 in the lower half and one more in the upper
than NVM holds, the memory without contents, no context, no job and no
session, while fuses, NVM and what hands hold stay; a loss of main power off the latch path takes the host link down and leaves bring-up in phase
0's state, with the ledger, the sessions and NVM as they were after the link. R323, R325, R328: a report of a sensor keeps its reading and what
Table 15-3 makes of it; one at 112 °C of a junction, or 100 °C of a stack, trips the module: a FATAL-class record with code 0x74, every engine
stopped, and the crust's dump of the module begun. -/
def Obligations.PowerLossClears : Prop :=
  (∀ s : State,
    (Completes .coldPowerLoss s fun t => t.led = { esn := (s.nvm.esn / 2 ^ 32 + 1) * 2 ^ 32 } ∧ t.mem.cells = [] ∧ t.ctxs = [] ∧ t.jobs = [] ∧ t.mgmt.sessions = [] ∧ t.cores = [] ∧
      t.nvm = s.nvm ∧ t.part = { s.part with failedCores := 0 } ∧ t.panel.latch = s.panel.latch ∧ t.pwr.mainOn = false ∧ t.health.state = 0 ∧
      t.health.replace = s.nvm.replace ∧ t.pending = s.pending) ∧
    (s.pwr.mainOn = true → s.panel.latchPath = false → Completes .mainPowerLoss s fun t => t.sch.hostLink = false ∧ t.pwr.mainOn = false ∧
      t.mem.cells = [] ∧ t.ctxs = [] ∧ t.jobs = [] ∧ t.cores = [] ∧ t.led = s.linkDown.led ∧ t.nvm = s.linkDown.nvm ∧
      t.mgmt.sessions = s.linkDown.mgmt.sessions ∧ t.mem.cullet = s.linkDown.mem.cullet ∧ t.health.state = 0 ∧ t.boot.phase = 0)) ∧
  (∀ (sensor : Sensor) (v : Nat) (s t : State), t = { s with pwr := s.pwr.report sensor v s.pmcUp } →
    (criticalTrip sensor v = false → exec (.temperatureReport sensor v) s = .next t) ∧
    (criticalTrip sensor v = true → s.pwr.tripped = false → s.pwr.mainOn = true → s.panel.latchPath = false → ∃ u : State,
      u = t.raiseRec { unit := s.modUid, cls := 3, code := 0x74, d0 := BitVec.ofNat 64 (sensorWord sensor), d1 := BitVec.ofNat 64 v } ∧
      exec (.temperatureReport sensor v) s = .next (({ u with pwr := { u.pwr with tripped := true } } : State).openDump 6 s.modUid u.lastEsn) ∧
      (({ u with pwr := { u.pwr with tripped := true } } : State).openDump 6 s.modUid u.lastEsn).frozen = true))

/-- R384 to R386, R388, R389: a session opens for an account of the list whose proof verifies, with code 0xB0; a proof that fails counts against its
source, with code 0xB2, and the eighth bars it, whatever it proves, until 60 s have passed; 600 s without a message close a session; an open session
whose account lacks the role is answered DENIED, and nothing else happens; one in which 2^32 records were sent closes at its next request (that it is
the next request that closes it is the model's reading, notes/assumptions/30.md). -/
def Obligations.SessionsOpenWithProof : Prop :=
  ∀ (s : State) (source : Nat) (account : String) (verified : Bool) (id i : Fin 8) (k : Nat),
    (s.panel.aux = true → (s.procE 0).served = true → (List.range 8).find? (fun i => !(s.mgmt.sessions.any fun e => e.id == i)) = some i.val →
      (s.mgmt.barred.contains source = false → (s.nvm.accounts.findIdx? fun a => a.name == account) = some k →
        exec (.fmpSessionOpen source account true) s =
          .next (({ s with mgmt := { s.mgmt with
            sessions := s.mgmt.sessions ++ [({ id := i.val, account := account, source := source } : Sess)] } } : State).info s.modUid 0xB0 0 k source)) ∧
      (s.mgmt.barred.contains source = false → (s.nvm.accounts.findIdx? (fun a => a.name == account) = none ∨ verified = false) →
        Completes (.fmpSessionOpen source account verified) s fun t =>
          t.mgmt.sessions.map (fun x => (x.id, x.account, x.source)) = s.mgmt.sessions.map (fun x => (x.id, x.account, x.source)) ∧
          tabGet t.mgmt.failures source 0 = tabGet s.mgmt.failures source 0 + 1 ∧ t.led.esn = s.led.esn + 1 ∧
          (8 ≤ tabGet t.mgmt.failures source 0 → source ∈ t.mgmt.barred)) ∧
      (s.mgmt.barred.contains source = true → Completes (.fmpSessionOpen source account verified) s fun t =>
        t.mgmt.sessions.map (fun x => (x.id, x.account, x.source)) = s.mgmt.sessions.map (fun x => (x.id, x.account, x.source)) ∧
        t.mgmt.failures = s.mgmt.failures ∧ t.mgmt.barred = s.mgmt.barred ∧ t.led.esn = s.led.esn + 1)) ∧
    exec (.fmpSessionIdle id) s = .next (s.dropSessions (fun x => x.id == id.val) 2) ∧
    Completes (.fmpLockoutExpiry source) s (fun t => t.mgmt.barred.contains source = false ∧ tabGet t.mgmt.failures source 0 = 0 ∧
      t.mgmt.sessions = s.mgmt.sessions) ∧
    (∀ role, s.sessionOpen id = true → s.hasRole (mgmtOf id) role = false →
      ∀ (f : FuncN) (d : BitVec 8) (g : CfgImage) (m : Fin 4) (p : ProcN) (a : Account) (n : Nat) (on : Bool) (esn : BitVec 64),
      (role = 0 → ∀ c ∈ [Instr.measure id, .ledgerStream id, .ledgerAck id esn], exec c s = .next (s.fmpAns id 1)) ∧
      (role = 1 → ∀ c ∈ [Instr.procRelease id p, .mainPowerOn id, .resetGrant id on], exec c s = .next (s.fmpAns id 1)) ∧
      (role = 2 → ∀ c ∈ [Instr.kdBind id f d, .kdRelease id d, .configWrite id g], exec c s = .next (s.fmpAns id 1)) ∧
      (role = 3 → ∀ c ∈ [Instr.fwActivate id m, .fwCommit id m], exec c s = .next (s.fmpAns id 1)) ∧
      (role = 4 → ∀ c ∈ [Instr.debugGrant id f on, .dumpList id, .dumpRead id n, .dumpPin id n on], exec c s = .next (s.fmpAns id 1)) ∧
      (role = 5 → ∀ c ∈ [Instr.accountAdd id a, .accountRemove id account, .accountClear id], exec c s = .next (s.fmpAns id 1))) ∧
    ((∃ e ∈ s.mgmt.sessions, e.id = id.val ∧ 2 ^ 32 ≤ e.sent) → exec (.measure id) s = .next (s.dropSessions (fun e => e.id == id.val) 5))

/-- R274, R277, R390, R391: FUNC_ASSIGN sets range, quota and CHECKF of a function, with code 0xB6; KD_BIND binds a FREE domain to a function with none,
with code 0xB5, and refuses domain 0; KD_RELEASE takes a BOUND one whose function has no context to RETIRING with fresh keys, and the end of its
zero fill to FREE. -/
def Obligations.FunctionsAndDomainsAreAssigned : Prop :=
  ∀ (s : State) (id : Fin 8) (f : FuncN) (base size : BitVec 52) (quota : BitVec 12) (checkf : BitVec 3) (d : BitVec 8),
    (s.sessionHas id 2 = true →
      (s.rangeFits f.val base.toNat size.toNat = true → checkf.toNat ≤ 5 → (s.funcE f.val).dom = none → s.ctxCount f.val = 0 →
        Completes (.funcAssign id f base size quota checkf) s fun t => ((t.funcE f.val).base = base.toNat ∧ (t.funcE f.val).size = size.toNat ∧
          (t.funcE f.val).quota = quota.toNat ∧ (t.funcE f.val).checkf = checkf ∧ (t.funcE f.val).enabled = true) ∧
          t.led.esn = s.led.esn + 1 ∧ ∀ g, g ≠ f.val → t.funcE g = s.funcE g) ∧
      (5 < checkf.toNat → exec (.funcAssign id f base size quota checkf) s = .next (s.fmpAns id 2)) ∧
      (d ≠ 0 → (s.domE d.toNat).state = 0 → (s.funcE f.val).dom = none → Completes (.kdBind id f d) s fun t =>
        (t.domE d.toNat).state = 1 ∧ (t.funcE f.val).dom = some d.toNat ∧ t.led.esn = s.led.esn + 1) ∧
      (d = 0 ∨ (s.domE d.toNat).state ≠ 0 ∨ (s.funcE f.val).dom.isSome = true → exec (.kdBind id f d) s = .next (s.fmpAns id 5)) ∧
      (∀ g, s.domFunc d.toNat = some g → (s.domE d.toNat).state = 1 → s.ctxCount g = 0 → Completes (.kdRelease id d) s fun t =>
        (t.domE d.toNat).state = 2 ∧ (t.domE d.toNat).gen = (s.domE d.toNat).gen + 1 ∧ t.kdStat.domain = d) ∧
      (∀ g, s.domFunc d.toNat = some g → s.ctxCount g ≠ 0 → exec (.kdRelease id d) s = .next (s.fmpAns id 5))) ∧
    ((s.domE d.toNat).state = 2 → Completes (.kdFillDone d) s fun t => (t.domE d.toNat).state = 0 ∧
      (t.funcE (s.domE d.toNat).func).dom = none) ∧
    ((s.domE d.toNat).state ≠ 2 → exec (.kdFillDone d) s = .next s)

/-- R260, R324, R377, R378, R380, R387, R406: what CONFIG_WRITE, FW_LOAD, FW_ACTIVATE and FW_COMMIT do, and what an emergency puts off and its end takes up:
an image that fails a check is not staged, with code 0xAB and REFUSED, and a load while another session loads is BUSY; F rises to the active image's SVN and never falls. A write of the configuration image goes
into one copy, which is then the newest with the next GENERATION, and leaves the other. -/
def Obligations.ImagesAreLoadedAndActivated : Prop :=
  ∀ (s : State) (id : Fin 8) (img : CfgImage) (comp slotComp : Fin 4) (version : BitVec 16) (svn : BitVec 8) (digest : BitVec 384) (e m : Bool) (part : Option (Fin 4)),
    (s.sessionHas id 2 = true →
      (cfgFits img = false → exec (.configWrite id img) s = .next (s.fmpAns id 2)) ∧
      (cfgFits img = true → s.pwr.emerg = false → exec (.configWrite id img) s = .next ((s.putImage img).fmpAns id 0)) ∧
      (cfgFits img = true → s.pwr.emerg = true → exec (.configWrite id img) s = .next
        (({ s with pwr := { s.pwr with deferred := s.pwr.deferred ++ [Defer.configWrite img] } } : State).fmpAns id 4))) ∧
    (s.sessionHas id 3 = true →
      (s.mgmt.loading.any (· != id.val) = true → exec (.fwLoad id part slotComp version svn digest e m) s = .next (s.fmpAns id 3)) ∧
      (s.mgmt.loading.any (· != id.val) = false → exec (.fwLoad id none slotComp version svn digest e m) s =
        .next (({ s with mgmt := { s.mgmt with loading := some id.val } } : State).fmpAns id 0)) ∧
      (s.mgmt.loading.any (· != id.val) = false → comp = slotComp → s.mgmt.fuseF.toNat ≤ svn.toNat →
        Completes (.fwLoad id (some comp) slotComp version svn digest true true) s fun t =>
          t.imgOf (!(s.bankOf comp.val)) comp.val = { valid := true, version := version, svn := svn, digest := digest, staged := true } ∧
          t.led.esn = s.led.esn + 1) ∧
      (s.mgmt.loading.any (· != id.val) = false → (e = false ∨ m = false ∨ comp ≠ slotComp ∨ svn.toNat < s.mgmt.fuseF.toNat) →
        Completes (.fwLoad id (some comp) slotComp version svn digest e m) s fun t => t.nvm = s.nvm ∧ t.led.esn = s.led.esn + 1) ∧
      ((s.imgOf (!(s.bankOf comp.val)) comp.val).staged = true → s.pwr.emerg = false → 4 ≤ s.boot.phase →
        exec (.fwActivate id comp) s = .next ((s.fmpAns id 0).startActivation comp.val)) ∧
      ((s.imgOf (!(s.bankOf comp.val)) comp.val).staged = true → s.pwr.emerg = true →
        exec (.fwActivate id comp) s = .next (((s.putOff comp.val).info s.modUid 0xA9 0 comp.val 0).fmpAns id 4)) ∧
      ((s.imgOf (!(s.bankOf comp.val)) comp.val).staged = false → exec (.fwActivate id comp) s = .next (s.fmpAns id 5)) ∧
      (s.mgmt.fuseF.toNat < (s.imgOf (s.bankOf comp.val) comp.val).svn.toNat → (s.imgOf (s.bankOf comp.val) comp.val).svn.toNat ≤ 64 →
        Completes (.fwCommit id comp) s fun t => t.mgmt.fuseF = (s.imgOf (s.bankOf comp.val) comp.val).svn ∧ t.led.esn = s.led.esn + 1) ∧
      ((s.imgOf (s.bankOf comp.val) comp.val).svn.toNat ≤ s.mgmt.fuseF.toNat → exec (.fwCommit id comp) s = .next (s.fmpAns id 5))) ∧
    (s.pwr.emerg = true → s.pwr.hotNow = false → exec .emergencyEnd s =
      .next ({ s with pwr := { s.pwr with emerg := false } } : State).takeDeferred) ∧
    ((s.pwr.emerg = false ∨ s.pwr.hotNow = true) → exec .emergencyEnd s = .next s) ∧
    (∀ g : CfgImage → CfgImage, (s.writeImage g).nvm.newest = { g s.nvm.newest with gen := s.nvm.newest.gen + 1, valid := true } ∧
      ((s.writeImage g).nvm.copy0 = s.nvm.copy0 ∨ (s.writeImage g).nvm.copy1 = s.nvm.copy1) ∧ (s.putImage img).nvm.newest =
        { img with cull := s.nvm.newest.cull, gen := s.nvm.newest.gen + 1, valid := true })

/-- R328, R368, R374, R376, R392, R393: operations of the roles OPERATE and DEBUG: a held processor restarts, main power comes back after a trip with a
present module and its latch closed, the reset and debug grants are set, and dumps are listed, read and pinned. -/
def Obligations.OperatorsGrantAndReadDumps : Prop :=
  ∀ (s : State) (id : Fin 8) (p : ProcN) (f : FuncN) (on : Bool) (n : Nat) (d : Dump),
    (s.sessionHas id 1 = true →
      exec (.resetGrant id on) s = .next (({ s with mgmt := { s.mgmt with resetGrant := on } } : State).fmpAns id 0) ∧
      ((s.procE p.val).state = 2 → Completes (.procRelease id p) s fun t => (t.procE p.val).state = 1 ∧ (t.procE p.val).recent = []) ∧
      ((s.procE p.val).state ≠ 2 → exec (.procRelease id p) s = .next (s.fmpAns id 5)) ∧
      (s.pwr.tripped = true → s.pwr.mainOn = false → s.panel.latchPath = false → s.panel.pres0 = true → s.panel.pres1 = true →
        s.panel.latch = true → Completes (.mainPowerOn id) s fun t => t.pwr.mainOn = true ∧ t.pwr.tripped = false) ∧
      (s.pwr.tripped = false → s.panel.latchDone = false → exec (.mainPowerOn id) s = .next (s.fmpAns id 5))) ∧
    (s.sessionHas id 4 = true →
      (s.boot.image.nodebug = true → exec (.debugGrant id f on) s = .next (s.fmpAns id 5)) ∧
      (s.boot.image.nodebug = false → Completes (.debugGrant id f on) s fun t => (t.funcE f.val).debug = on ∧ t.led.esn = s.led.esn + 1) ∧
      exec (.dumpList id) s = .next ((s.fmpAns id 0).emit (.fmpBody id.val (s.dumps.map fun d =>
        reg [(d.unit.toNat, 32, 32), (b2n d.incomplete + 2 * b2n d.pinned + 4 * b2n d.committed, 24, 8), (d.domain.toNat, 16, 8),
             (d.index, 0, 16)]))) ∧
      ((s.dumps.find? fun d => d.index == n) = some d → exec (.dumpRead id n) s = .next ((s.fmpAns id 0).emit (.fmpBody id.val (bodyWords d.bytes))) ∧
        Completes (.dumpPin id n on) s fun t => ∀ x ∈ t.crust.dumps, x.index = n → x.open_ = false → x.pinned = on) ∧
      ((s.dumps.find? fun d => d.index == n) = none → exec (.dumpRead id n) s = .next (s.fmpAns id 6) ∧
        exec (.dumpPin id n on) s = .next (s.fmpAns id 6)))

/-- R385, R388, R389: accounts: an added name replaces its like or joins up to 16, the last one with SECURITY stays, a removed one's sessions close, a
clear waits for a touch and lapses, and an empty list enrols one account with every role. R383, R397 to R401: MEASURE and SPDM answer with a report
over the blocks while SEC serves, an activating SEC answers Busy, a restarting one Unspecified with code 0xB8, and a PLDM reading answers with its
sensor's value. R395, R396: a certificate slot answers with its chain of four, whose DeviceID certificate carries the identity extension and whose
Alias certificate the running SEC image's digest and SVN; the DeviceID keys come from the device secret at the first start, whose fuses are then
locked (that SPDM codes the request 0x82 is the model's, notes/assumptions/42.md). -/
def Obligations.AccountsAndAttestation : Prop :=
  (∀ (s : State) (id : Fin 8) (a : Account) (name : String), a.name.utf8ByteSize ≤ 32 →
    (s.sessionHas id 5 = true →
      (s.nvm.accounts.any (fun e => e.name == a.name) = false → s.nvm.accounts.length < 16 →
        exec (.accountAdd id a) s = .next ((s.putAccounts (s.nvm.accounts ++ [a])).fmpAns id 0)) ∧
      (s.nvm.accounts.any (fun e => e.name == a.name) = true → exec (.accountAdd id a) s =
        .next ((s.putAccounts (s.nvm.accounts.map fun e => if e.name = a.name then a else e)).fmpAns id 0)) ∧
      (s.nvm.accounts.any (fun e => e.name == a.name) = false → 16 ≤ s.nvm.accounts.length → exec (.accountAdd id a) s = .next (s.fmpAns id 5)) ∧
      (s.nvm.accounts.any (fun e => e.name == name && bit e.roles 5) = true →
        (∀ e ∈ s.nvm.accounts, e.name ≠ name → bit e.roles 5 = false) → exec (.accountRemove id name) s = .next (s.fmpAns id 5)) ∧
      ((∃ e ∈ s.nvm.accounts, e.name = name) → (∃ e ∈ s.nvm.accounts, e.name ≠ name ∧ bit e.roles 5 = true) →
        exec (.accountRemove id name) s = .next (((s.putAccounts (s.nvm.accounts.filter fun e => e.name != name)).fmpAns id 0).dropSessions
          (fun x => x.account == name) 3)) ∧
      exec (.accountClear id) s = .next (({ s with mgmt := { s.mgmt with clearPending := true } } : State).fmpAns id 0)) ∧
    exec .accountClearLapse s = .next { s with mgmt := { s.mgmt with clearPending := false } } ∧
    (s.nvm.accounts = [] → s.panel.aux = true → Completes (.enrolment a) s fun t => t.nvm.accounts = [{ a with roles := 0x3F }] ∧
      t.led.esn = s.led.esn + 1) ∧
    (s.nvm.accounts ≠ [] → exec (.enrolment a) s = .next s)) ∧
  (∀ (s : State) (id : Fin 8) (doe : Bool) (code : BitVec 8) (n v : Nat),
    (s.sessionHas id 0 = true → exec (.measure id) s =
      .next (((s.report s.blocks).1.fmpAns id 0).emit (.fmpBody id.val (bodyWords (s.report s.blocks).2)))) ∧
    (s.panel.aux = true → s.sch.hostLink = true → (s.procE 0).served = true →
      exec (.spdmMeasurements doe none) s = .next ((s.report s.blocks).1.emit (.spdm false (some (s.report s.blocks).2))) ∧
      (Completes (.spdmRequest doe (.other code)) s fun t => ∃ b, t.out = .spdm false (some b) :: s.out) ∧
      (n < 2 → exec (.spdmRequest doe (.certificate n)) s = .next (s.emit (.certs n (s.certChain n)))) ∧
      (2 ≤ n → exec (.spdmRequest doe (.certificate n)) s = .next (s.emit (.spdm false none)))) ∧
    (s.panel.aux = true → s.sch.hostLink = true → (s.procE 0).served = false → s.boot.halted = false → ∀ ask b,
      ∀ c ∈ [Instr.spdmRequest doe ask, .spdmMeasurements doe b],
        (s.mgmt.spdmBusy = true → exec c s = .next (s.emit (.spdm true none))) ∧
        (s.mgmt.spdmBusy = false → (s.procE 0).state = 2 → exec c s = .next (s.emit (.spdm false none))) ∧
        (s.mgmt.spdmBusy = false → (s.procE 0).state ≠ 2 → exec c s = .next ((s.emit (.spdm false none)).info s.modUid 0xB8 0 (b2n doe) 0))) ∧
    ((∀ k < 2, ∃ c0 c1 c2 c3 : Cert, s.certChain k = [c0, c1, c2, c3] ∧ c3.ext = .tcbInfo s.ident.tcbDigest s.ident.tcbSvn ∧
      c2.ext = .identity s.identityExt) ∧
      ∀ (i : Ident) (g : Img), (i.layer1 g).tcbDigest = g.digest ∧ (i.layer1 g).tcbSvn = g.svn ∧ (i.locked = true → i.layer0 = i) ∧
        (i.locked = false → i.layer0.locked = true ∧ i.layer0.device = [Config.deviceKey 0 i.secret, Config.deviceKey 1 i.secret])) ∧
    (s.panel.aux = true → s.boot.halted = false → s.pldmSensor n = some v → exec (.pldmRequest true n) s = .next (s.emit (.pldm n v))))

/-- R299 to R302, R316, R402: a link that is awake and whose SECs prove each other is UP where the peer's identity is the expected one, else MISWIRED
with code 0x62; a failed proof leaves it TRAINING with code 0x63; the link of a module that is not in the span and comes back trains again from any
state. On a link that is UP a good flit is applied and numbered; one that fails is replayed once, with every later one after it, and twice, or a
failed tag, or a lost lane lock, takes the link DOWN; a flit on a WITHDRAWN link is discarded. -/
def Obligations.LinksTrainAndCarry : Prop :=
  ∀ (s t : State) (l : Fin 16) (m : Nat) (spanId : BitVec 32) (index master : BitVec 4) (members : BitVec 16) (crcOk tagOk : Bool)
    (seq : Nat) (load : FlitLoad), s.linkPeer l.val = some m →
    (s.spanMask.testBit m = true → s.asleep [linkDomain l.val] = false →
      ((s.linkE l.val).state = 1 ∨ ((s.linkE l.val).state = 3 ∨ (s.linkE l.val).state = 4 ∨ (s.linkE l.val).state = 5) ∧
          bit s.span.admitted m = false →
        (s.health.replace = false → index.toNat = m → spanId = s.boot.image.spanId → master = s.boot.image.master → members = s.boot.image.members →
          Completes (.spanLinkTrained l true spanId index master members false) s fun t => (t.linkE l.val).state = 2 ∧ (t.linkE l.val).keyed = true ∧
            t.led = s.led ∧ ((s.linkE l.val).state ≠ 1 → bit t.span.expelled m = false)) ∧
        (s.health.replace = false → index.toNat ≠ m → Completes (.spanLinkTrained l true spanId index master members false) s fun t =>
          (t.linkE l.val).state = 5 ∧ ∃ r ∈ t.led.tail, r.esn = s.led.esn ∧ r.code = 0x62) ∧
        (s.health.replace = true → exec (.spanLinkTrained l true spanId index master members false) s =
          .next ((s.linkM l.val fun k => { k with keyed := true }).linkM l.val fun k => { k with state := 5 }))) ∧
      ((s.linkE l.val).state = 1 → (s.linkE l.val).keyed = false → exec (.spanLinkTrained l false spanId index master members false) s =
        .next ((s.linkM l.val fun k => { k with state := 1, keyed := false }).linkRec 0x63 l.val 0))) ∧
    ((s.linkE l.val).state = 1 → (s.linkE l.val).keyed = false →
      exec (.linkHandshakeRetry l true) s = .next (s.linkM l.val fun k => { k with keyed := true }) ∧
      exec (.linkHandshakeRetry l false) s = .next (s.linkRec 0x63 l.val 0)) ∧
    ((s.linkE l.val).state = 2 →
      (t = s.linkM l.val (fun k => { k with seqNo := k.seqNo + 1, retried := none, rxBytes := k.rxBytes + flitSize load }) →
        seq = (s.linkE l.val).seqNo → exec (.flitReceive l seq true true false load) s = .next (t.flitApply m load)) ∧
      ((crcOk = false ∨ seq ≠ (s.linkE l.val).seqNo) → (s.linkE l.val).retried ≠ some (s.linkE l.val).seqNo →
        Completes (.flitReceive l seq crcOk tagOk false load) s fun t => (t.linkE l.val).state = 2 ∧ (t.linkE l.val).seqNo = (s.linkE l.val).seqNo ∧
          (t.linkE l.val).retried = some (s.linkE l.val).seqNo ∧ t.ctxs = s.ctxs ∧ t.mem = s.mem) ∧
      ((s.linkE l.val).retried = some (s.linkE l.val).seqNo →
        (seq = (s.linkE l.val).seqNo → exec (.flitReceive l seq false tagOk false load) s = .next (s.linkFails l.val 3)) ∧
        (seq ≠ (s.linkE l.val).seqNo → exec (.flitReceive l seq crcOk tagOk false load) s = .next s)) ∧
      (seq = (s.linkE l.val).seqNo → exec (.flitReceive l seq true false false load) s = .next (s.linkFails l.val 5)) ∧
      exec (.laneLockLoss l) s = .next (s.linkFails l.val 3) ∧
      (bit s.span.admitted m = false → (s.linkFails l.val 3 = s.linkM l.val fun k => { k with state := 4, keyed := false }))) ∧
    ((s.linkE l.val).state = 3 → exec (.flitReceive l seq crcOk tagOk false load) s = .next s)

/-- R303, R306, R311, R312, R317: a silent peer, a notice of the peer itself, of the module that acts for the master or, to that module, of a link that
is DOWN, and the master's expulsion mark a module WITHDRAWN once; only the master admits, one whose link to it is UP and whose links to the others
are reported so, while no span job runs, and a member takes its word; only the master's management port expels and readmits. R173, R309: a
report that a module's shares of a span job ended takes it out of those the job waits for, and a failure there is the context's here. -/
def Obligations.MembersComeAndGo : Prop :=
  (∀ (s : State) (l : Fin 16) (m : ModN) (cause : BitVec 4) (w : Writer) (cores : BitVec 64) (up : Bool),
    (s.linkPeer l.val = some m.val → (s.linkE l.val).state = 2 → exec (.peerSilence l) s = .next (s.memberLost m.val 2)) ∧
    (s.linkPeer l.val = some m.val → (s.linkE l.val).state ≠ 2 → exec (.peerSilence l) s = .next s) ∧
    ((s.linkE l.val).state = 2 → m.val ≠ s.modIdx →
      (s.leads = false → s.linkPeer l.val = some m.val ∨ s.linkPeer l.val = some s.leader →
        exec (.withdrawalNotice l m cause) s = .next (s.memberLost m.val cause.toNat)) ∧
      (s.leads = true → s.linkPeer l.val = some m.val → bit s.span.admitted m.val = true → cause ≠ 3 → cause ≠ 5 →
        exec (.withdrawalNotice l m cause) s = .next (s.memberLost m.val cause.toNat)) ∧
      (∀ p, s.leads = true → s.linkPeer l.val = some p → bit s.span.admitted p = true → bit s.span.admitted m.val = true → cause = 3 ∨ cause = 5 →
        exec (.withdrawalNotice l m cause) s = .next ((s.relay m.val cause.toNat).memberLost m.val cause.toNat))) ∧
    ((s.linkE l.val).state = 2 → m.val = s.modIdx → s.leads = false → s.linkPeer l.val = some s.leader →
      exec (.withdrawalNotice l m cause) s = .next (s.selfLost cause.toNat l.val)) ∧
    (bit s.span.withdrawn m.val = true → s.memberLost m.val cause.toNat = s) ∧
    (bit s.span.withdrawn m.val = false → bit s.span.admitted m.val = true → s.jobs = [] →
      (s.memberLost m.val cause.toNat).span.withdrawals = s.span.withdrawals + 1) ∧
    (s.inSpan = true → s.isMaster = true → s.spanMask.testBit m.val = true → bit s.span.admitted m.val = false → s.schUp = true → s.jobs = [] →
      bit s.span.expelled m.val = false → bit s.span.admitted s.modIdx = true → (s.linkE (s.linkTo m.val)).state = 2 →
      Completes (.memberAdmit ⟨m, cores, true⟩) s (fun t => bit t.span.admitted m.val = true ∧ bit t.span.withdrawn m.val = false ∧
        tabGet t.span.peerCores m.val 0 = cores) ∧
      exec (.memberAdmit ⟨m, cores, false⟩) s = .next s) ∧
    (s.inSpan = true → s.isMaster = false → s.spanMask.testBit m.val = true → bit s.span.admitted m.val = false →
      exec (.memberAdmit ⟨m, cores, up⟩) s = .next (s.admitMember m.val cores)) ∧
    (s.spanBusy = true → s.isMaster = true → exec (.memberAdmit ⟨m, cores, up⟩) s = .next s) ∧
    (isMgmt w = true → s.isMaster = true → s.hasRole w 1 = true → m.val ≠ s.masterIdx → s.spanMask.testBit m.val = true →
      Completes (.expel w m) s (fun t => bit t.span.expelled m.val = true) ∧
      (bit s.span.expelled m.val = true → Completes (.readmit w m) s fun t => bit t.span.expelled m.val = false ∧
        (t.linkE (s.linkTo m.val)).state = 1)) ∧
    (isMgmt w = false ∨ s.isMaster = false → exec (.expel w m) s = .next (s.infoAccess w spanUid 0x210 (reg [(m.val, 4, 4), (1, 0, 2)])) ∧
      exec (.readmit w m) s = .next (s.infoAccess w spanUid 0x210 (reg [(m.val, 4, 4), (2, 0, 2)])))) ∧
  (∀ (s : State) (m : ModN) (job : Nat) (status cause : BitVec 8) (esn : Nat) (flagged : Bool) (j : Job),
    s.leads = true → s.jobs.find? (fun j => j.master.isNone && j.id == job) = some j → j.spans = true → j.phase = .running →
      (status.toNat < 0x10 → exec (.shareEndNotice m job ⟨status, cause, esn⟩ flagged) s = .next (s.jobM j.id fun k =>
        { k with peers := k.peers.filter (· != m.val), flagged := k.flagged || flagged })) ∧
      (m.val ≠ s.modIdx → statusFaults status.toNat = true → (s.runE j.ctx).fault = none →
        Completes (.shareEndNotice m job ⟨status, cause, esn⟩ flagged) s fun t =>
          (t.runE j.ctx).fault = some { status := status, cause := cause, esn := esn, from_ := some m.val }))

/-- R30, R395, R403 to R409, R417, R418, Table 20-3: bring-up runs its phases in order: phase 0 with SEC, with codes 0x97 and 0xAE and SEC's identity
derived, each component whose image fails from its other bank, without SEC a halt; phase 1
to phase 2, or to REPLACE; phase 2 to phase 3, EARLY where the image says so; phase 4 once every stack has joined or failed, to SERVICE; an overrun
halts it with code 0xAF. R411, R412, R414: a stack that trained joins with code 0x45 in its die, its channels in SERVICE; one that fails has code
0x46 and its channels LOST; a stack that does not train does neither. -/
def Obligations.BringUpRunsItsPhases : Prop :=
  (∀ (s : State) (t : BitVec 16) (bc : BitVec 64) (bk : BitVec 16) (bad : BitVec 4),
    (s.boot.ended.contains 0 = false → s.boot.halted = false → s.pwr.mainOn = false →
      Completes (.bringupPhase0 t (some bad)) s (fun u => u.boot.ended = s.boot.ended ++ [0] ∧ u.panel.aux = true ∧ u.boot.p0 = t ∧ u.mgmt.ethUp = true ∧
        u.mgmt.i3cUp = true ∧ u.health.replace = s.nvm.replace ∧ u.ident.locked = true ∧ u.ident.tcbSvn = (u.imgOf (u.bankOf 0) 0).svn) ∧
      Completes (.bringupPhase0 t none) s (fun u => u.boot.halted = true ∧ u.boot.ended = s.boot.ended ∧ (u.procE 0).served = false)) ∧
    (s.boot.ended.contains 0 = true → exec (.bringupPhase0 t (some bad)) s = .next s) ∧
    (s.inPhase 1 = true →
      (s.health.replace = false → Completes (.bringupPhase1 t) s fun u => u.boot.phase = 2 ∧ u.boot.ended = s.boot.ended ++ [1] ∧ u.boot.configUp = true) ∧
      (s.health.replace = true → Completes (.bringupPhase1 t) s fun u => u.health.state = 6 ∧ u.boot.phase = 1)) ∧
    (s.inPhase 2 = true →
      (Completes (.bringupPhase2 t bc bk true) s fun u => u.boot.halted = true ∧ u.boot.phase = 2) ∧
      Completes (.bringupPhase2 t 0 0 false) s fun u => u.boot.phase = 3 ∧ u.boot.ended = s.boot.ended ++ [2] ∧ u.pwr.point = [3, 3, 3, 3] ∧
        u.boot.tableInPool = true ∧ (s.health.state.toNat ≤ 2 → u.health.state = if s.boot.image.early then 2 else 1)) ∧
    (s.inPhase 3 = true →
      (s.mem.chan = [] → Completes .bringupPhase3 s fun u => ∀ st ∈ s.stackList, ∀ c < 128, (128 * st + c, ({ state := 1 } : Chan)) ∈ u.mem.chan) ∧
      (s.stackList.all (fun st => bit s.boot.joined st || bit s.boot.failed st) = true →
        Completes (.bringupPhase4 t) s fun u => u.boot.phase = 4) ∧
      (s.stackList.all (fun st => bit s.boot.joined st || bit s.boot.failed st) = false → exec (.bringupPhase4 t) s = .next s)) ∧
    (s.boot.phase < 4 → 0 < s.boot.phase → s.inPhase s.boot.phase = true → exec .bringupTimeout s = .next s.bringUpFails ∧
      s.bringUpFails.boot.halted = true) ∧
    (4 ≤ s.boot.phase → exec .bringupTimeout s = .next s)) ∧
  (∀ (s : State) (st : Fin 20) (ch : Fin 128) (step : BitVec 8),
    (s.training st.val = true →
      (Completes (.stackJoin st) s fun u => bit u.boot.joined st.val = true ∧ u.boot.failed = s.boot.failed ∧
        (∀ p ∈ u.mem.chan, p.1 / 128 = st.val → p.2.state = 2) ∧ ∃ r ∈ u.led.tail, r.esn = s.led.esn ∧ r.code = 0x45) ∧
      (Completes (.stackFail st ch step) s fun u => bit u.boot.failed st.val = true ∧ u.boot.joined = s.boot.joined ∧
        (∀ p ∈ u.mem.chan, p.1 / 128 = st.val → p.2.state = 3) ∧
        ∃ r ∈ u.led.tail, r.esn = s.led.esn ∧ r.code = 0x46 ∧ r.d0 = reg [(step.toNat, 32, 8), (ch.val, 16, 7), (st.val, 0, 5)])) ∧
    (s.training st.val = false → exec (.stackJoin st) s = .next s ∧ exec (.stackFail st ch step) s = .next s))

/-- R389, R421, R423 to R429: the panel. LATCH_OPEN of a drained module turns its power off with code 0x95, of any other starts the latch path with
code 0x94 and the module's dump, which LATCH_DUMP_CUTOFF ends; LATCH_CLOSE and PRESENCE_CHANGE give a module main power that is present with its
latch closed and may have it, and a pin that breaks takes it away; DRAIN_BUTTON_HOLD asks for a drain, and where the button is held already lets it go (the model's choice, notes/assumptions/37.md); IDENTIFY_TOUCH of 100 ms confirms a pending
account clear, else toggles identify, which IDENT_ON, IDENT_OFF and IDENT_TOGGLE of PANEL_CTL and PLDM_IDENTIFY set too, each change with code 0x96
and its source. -/
def Obligations.ThePanelActs : Prop :=
  ∀ (s : State) (w : Writer) (pin : Fin 2) (on b : Bool) (ms : Nat) (d : Dump),
    (s.panel.latch = true → s.panel.latchPath = false → s.panel.aux = true →
      (s.pullable = true → Completes .latchOpen s fun t => t.pwr.mainOn = false ∧ t.panel.latch = false ∧ t.health = s.health ∧
        ∃ r ∈ t.led.tail, r.esn = s.led.esn ∧ r.code = 0x95 ∧ r.d0 = 1) ∧
      (s.pullable = false → Completes .latchOpen s fun t => t.panel.latchPath = true ∧ t.panel.latch = false ∧ t.panel.surprise = true ∧
        t.panel.latchEsn = s.led.esn ∧ t.frozen = true ∧ (t.dumpOf 6 s.modUid).isSome = true)) ∧
    (s.panel.latch = true → (s.panel.latchPath = true ∨ s.panel.aux = false) →
      exec .latchOpen s = .next { s with panel := { s.panel with latch := false } }) ∧
    (s.panel.latch = false → exec .latchOpen s = .next s) ∧
    (s.panel.latchPath = true → s.dumpOf 6 s.modUid = some d → Completes .latchDumpCutoff s fun t => t.panel.latchPath = false ∧
      t.panel.latchDone = true ∧ t.pwr.mainOn = false ∧ t.jobs = [] ∧ t.mem.cells = []) ∧
    (s.panel.latchPath = false ∨ s.dumpOf 6 s.modUid = none → exec .latchDumpCutoff s = .next s) ∧
    (s.panel.latch = false → Completes .latchClose s fun t => t.panel = { s.panel with latch := true } ∧
      t.pwr.mainOn = (s.pwr.mainOn || ({ s with panel := { s.panel with latch := true } } : State).mayPower) ∧
      (s.pullable = true → ∃ r ∈ t.led.tail, r.esn = s.led.esn ∧ r.code = 0x95 ∧ r.d0 = 0)) ∧
    (s.panel.latch = true → exec .latchClose s = .next s) ∧
    (∀ u : State, u = { s with panel := if pin.val = 0 then { s.panel with pres0 := on } else { s.panel with pres1 := on } } →
      (on = true → Completes (.presenceChange pin on) s fun t => t.panel = u.panel ∧ t.pwr.mainOn = (s.pwr.mainOn || u.mayPower)) ∧
      (on = false → Completes (.presenceChange pin on) s fun t => t.pwr.mainOn = false ∧ t.panel.pres0 = u.panel.pres0 ∧
        t.panel.pres1 = u.panel.pres1 ∧ (s.pwr.mainOn = true → t.sch.hostLink = false) ∧ (s.pwr.mainOn = false → t = u))) ∧
    (s.panel.button = false → s.panel.aux = true → s.drainable = true → Completes .drainButtonHold s fun t => t.panel = { s.panel with button := true } ∧
      t.health.state = 4 ∧ t.health.cause = 1 ∧ ∃ r ∈ t.led.tail, r.esn = s.led.esn ∧ r.code = 0x90 ∧ r.d0 = 1) ∧
    (s.panel.button = true ∨ s.panel.aux = false ∨ s.health.state = 4 →
      exec .drainButtonHold s = .next { s with panel := { s.panel with button := !s.panel.button } }) ∧
    (s.panel.aux = true → 100 ≤ ms →
      (s.mgmt.clearPending = true → Completes (.identifyTouch ms false) s fun t => t.nvm.accounts = [] ∧ t.mgmt.sessions = [] ∧
        t.mgmt.clearPending = false ∧ (∀ f : Nat, (t.funcE f).debug = false) ∧ t.led.esn = s.led.esn + 1 + s.mgmt.sessions.length) ∧
      (s.mgmt.clearPending = false → Completes (.identifyTouch ms false) s fun t => t.panel = { s.panel with identify := !s.panel.identify } ∧
        t.health = s.health ∧ ∃ r ∈ t.led.tail, r.esn = s.led.esn ∧ r.code = 0x96 ∧ r.d0 = 0)) ∧
    (ms < 100 ∨ b = true ∨ s.panel.aux = false → exec (.identifyTouch ms b) s = .next s) ∧
    (isMgmt w = true → s.hasRole w 1 = true →
      (s.panel.identify = false → Completes (.identOn w) s fun t => t.panel = { s.panel with identify := true } ∧
        ∃ r ∈ t.led.tail, r.esn = s.led.esn ∧ r.code = 0x96 ∧ r.d0 = 1) ∧
      (s.panel.identify = true → Completes (.identOff w) s fun t => t.panel = { s.panel with identify := false } ∧
        ∃ r ∈ t.led.tail, r.esn = s.led.esn ∧ r.code = 0x96 ∧ r.d0 = 1) ∧
      (s.panel.identify = true → exec (.identOn w) s = .next s) ∧ (s.panel.identify = false → exec (.identOff w) s = .next s) ∧
      Completes (.identToggle w) s fun t => t.panel = { s.panel with identify := !s.panel.identify } ∧
        ∃ r ∈ t.led.tail, r.esn = s.led.esn ∧ r.code = 0x96 ∧ r.d0 = 1) ∧
    (isMgmt w = false → exec (.identOn w) s = .next (s.infoAccess w s.modUid 0x2D0 1) ∧
      exec (.identOff w) s = .next (s.infoAccess w s.modUid 0x2D0 2) ∧ exec (.identToggle w) s = .next (s.infoAccess w s.modUid 0x2D0 3)) ∧
    (s.panel.aux = true → s.panel.identify ≠ on → Completes (.pldmIdentify on) s fun t => t.panel = { s.panel with identify := on } ∧
      ∃ r ∈ t.led.tail, r.esn = s.led.esn ∧ r.code = 0x96 ∧ r.d0 = 2) ∧
    (s.panel.aux = false ∨ s.panel.identify = on → exec (.pldmIdentify on) s = .next s)
end

