-- ==== Sys2Proof/Laws/Tab.lean ====
section
/-! SUPPORT. Tables and sets: what is found after an entry is put or taken out, and that keys stay in rising order. -/

namespace Sys2Proof.Machine

variable {α : Type}

theorem tabFind_tabSet (l : List (Nat × α)) (k j : Nat) (v : α) :
    tabFind (tabSet l k v) j = if k = j then some v else tabFind l j := by
  induction l with
  | nil => simp [tabSet, tabFind]
  | cons p r ih =>
    obtain ⟨i, w⟩ := p
    simp only [tabSet]
    split
    · simp [tabFind]
    · split
      · rename_i h; subst h; simp only [tabFind]; split <;> rfl
      · simp only [tabFind, ih]
        split
        · rename_i hk hi; subst hi; simp [hk]
        · rfl

@[simp] theorem tabGet_tabSet_same (l : List (Nat × α)) (k : Nat) (v d : α) : tabGet (tabSet l k v) k d = v := by
  simp [tabGet, tabFind_tabSet]

theorem tabGet_tabSet_ne (l : List (Nat × α)) (k j : Nat) (v d : α) (h : j ≠ k) : tabGet (tabSet l k v) j d = tabGet l j d := by
  simp [tabGet, tabFind_tabSet, Ne.symm h]

@[simp] theorem tabSet_tabSet (l : List (Nat × α)) (k : Nat) (v w : α) : tabSet (tabSet l k v) k w = tabSet l k w := by
  induction l with
  | nil => simp [tabSet]
  | cons p r ih =>
    obtain ⟨i, x⟩ := p
    simp only [tabSet]
    split
    · simp [tabSet]
    · split
      · rename_i h; simp [tabSet, h]
      · rename_i h1 h2; simp [tabSet, h1, h2, ih]

theorem tabFind_tabDel (l : List (Nat × α)) (k j : Nat) : tabFind (tabDel l k) j = if j = k then none else tabFind l j := by
  induction l with
  | nil => simp [tabDel, tabFind]
  | cons p r ih =>
    obtain ⟨i, w⟩ := p
    simp only [tabDel, List.filter_cons] at *
    by_cases h : i = k
    · subst h
      simp only [bne_self_eq_false, Bool.false_eq_true, if_false, ih, tabFind]
      split
      · rfl
      · rename_i hj; simp [Ne.symm hj]
    · simp only [bne_iff_ne, ne_eq, h, not_false_eq_true, if_true, tabFind, ih]
      split
      · rename_i hi; subst hi; simp [h]
      · rfl

theorem tabGet_tabDel (l : List (Nat × α)) (k j : Nat) (d : α) : tabGet (tabDel l k) j d = if j = k then d else tabGet l j d := by
  simp only [tabGet, tabFind_tabDel]; split <;> rfl

/-- Keys in rising order. -/
def Rising (l : List (Nat × α)) : Prop := l.Pairwise fun a b => a.1 < b.1

theorem Rising.nil : Rising ([] : List (Nat × α)) := List.Pairwise.nil

theorem Rising.filter {l : List (Nat × α)} (p : Nat × α → Bool) (h : Rising l) : Rising (l.filter p) := List.Pairwise.filter p h

theorem mem_tabSet {l : List (Nat × α)} {k : Nat} {v : α} {q : Nat × α} (h : q ∈ tabSet l k v) : q = (k, v) ∨ q ∈ l := by
  induction l with
  | nil => simpa [tabSet] using h
  | cons p r ih =>
    obtain ⟨i, w⟩ := p
    simp only [tabSet] at h
    split at h
    · simpa using h
    · split at h
      · rcases List.mem_cons.1 h with h | h
        · exact .inl h
        · exact .inr (List.mem_cons_of_mem _ h)
      · rcases List.mem_cons.1 h with h | h
        · exact .inr (h ▸ List.mem_cons_self)
        · rcases ih h with h | h
          · exact .inl h
          · exact .inr (List.mem_cons_of_mem _ h)

theorem Rising.tabSet {l : List (Nat × α)} (k : Nat) (v : α) (h : Rising l) : Rising (tabSet l k v) := by
  induction l with
  | nil => simp [Machine.tabSet, Rising]
  | cons p r ih =>
    obtain ⟨i, w⟩ := p
    have ⟨hp, hr⟩ := List.pairwise_cons.1 h
    simp only [Machine.tabSet]
    split
    · rename_i hk
      refine List.pairwise_cons.2 ⟨fun q hq => ?_, h⟩
      rcases List.mem_cons.1 hq with rfl | hq
      · exact hk
      · exact Nat.lt_trans hk (hp q hq)
    · split
      · rename_i hk; subst hk; exact List.pairwise_cons.2 ⟨hp, hr⟩
      · rename_i h1 h2
        refine List.pairwise_cons.2 ⟨fun q hq => ?_, ih hr⟩
        rcases mem_tabSet hq with rfl | hq
        · exact Nat.lt_of_le_of_ne (Nat.le_of_not_lt h1) (Ne.symm h2)
        · exact hp q hq

theorem Rising.tabDel {l : List (Nat × α)} (k : Nat) (h : Rising l) : Rising (tabDel l k) := h.filter _

theorem mem_setIns (l : List Nat) (k j : Nat) : j ∈ setIns l k ↔ j = k ∨ j ∈ l := by
  induction l with
  | nil => simp [setIns]
  | cons i r ih =>
    simp only [setIns]
    split
    · simp
    · split
      · rename_i h; subst h; simp
      · simp only [List.mem_cons, ih]; tauto

theorem mem_setDel (l : List Nat) (k j : Nat) : j ∈ setDel l k ↔ j ∈ l ∧ j ≠ k := by simp [setDel]

@[simp] theorem setIns_contains_same (l : List Nat) (k : Nat) : (setIns l k).contains k = true := by
  simp [mem_setIns]
@[simp] theorem setDel_contains_same (l : List Nat) (k : Nat) : (setDel l k).contains k = false := by
  simp [setDel]

end Sys2Proof.Machine
end

