-- ==== Sys2Proof/Laws/State.lean ====
section
/-! SUPPORT. What each named update of the state leaves alone: one lemma per field per update; and what a table shows after one of
its entries was changed. -/

namespace Sys2Proof.Machine

@[simp] theorem State.ctxM_pending (s : State) (c : Nat) (g : CtxEntry → CtxEntry) : (s.ctxM c g).pending = s.pending := rfl
@[simp] theorem State.ctxM_part (s : State) (c : Nat) (g : CtxEntry → CtxEntry) : (s.ctxM c g).part = s.part := rfl
@[simp] theorem State.ctxM_boot (s : State) (c : Nat) (g : CtxEntry → CtxEntry) : (s.ctxM c g).boot = s.boot := rfl
@[simp] theorem State.ctxM_health (s : State) (c : Nat) (g : CtxEntry → CtxEntry) : (s.ctxM c g).health = s.health := rfl
@[simp] theorem State.ctxM_nvm (s : State) (c : Nat) (g : CtxEntry → CtxEntry) : (s.ctxM c g).nvm = s.nvm := rfl
@[simp] theorem State.ctxM_led (s : State) (c : Nat) (g : CtxEntry → CtxEntry) : (s.ctxM c g).led = s.led := rfl
@[simp] theorem State.ctxM_mem (s : State) (c : Nat) (g : CtxEntry → CtxEntry) : (s.ctxM c g).mem = s.mem := rfl
@[simp] theorem State.ctxM_runs (s : State) (c : Nat) (g : CtxEntry → CtxEntry) : (s.ctxM c g).runs = s.runs := rfl
@[simp] theorem State.ctxM_seqs (s : State) (c : Nat) (g : CtxEntry → CtxEntry) : (s.ctxM c g).seqs = s.seqs := rfl
@[simp] theorem State.ctxM_cores (s : State) (c : Nat) (g : CtxEntry → CtxEntry) : (s.ctxM c g).cores = s.cores := rfl
@[simp] theorem State.ctxM_clus (s : State) (c : Nat) (g : CtxEntry → CtxEntry) : (s.ctxM c g).clus = s.clus := rfl
@[simp] theorem State.ctxM_phys (s : State) (c : Nat) (g : CtxEntry → CtxEntry) : (s.ctxM c g).phys = s.phys := rfl
@[simp] theorem State.ctxM_dies (s : State) (c : Nat) (g : CtxEntry → CtxEntry) : (s.ctxM c g).dies = s.dies := rfl
@[simp] theorem State.ctxM_funcs (s : State) (c : Nat) (g : CtxEntry → CtxEntry) : (s.ctxM c g).funcs = s.funcs := rfl
@[simp] theorem State.ctxM_doms (s : State) (c : Nat) (g : CtxEntry → CtxEntry) : (s.ctxM c g).doms = s.doms := rfl
@[simp] theorem State.ctxM_kdStat (s : State) (c : Nat) (g : CtxEntry → CtxEntry) : (s.ctxM c g).kdStat = s.kdStat := rfl
@[simp] theorem State.ctxM_jobs (s : State) (c : Nat) (g : CtxEntry → CtxEntry) : (s.ctxM c g).jobs = s.jobs := rfl
@[simp] theorem State.ctxM_sigs (s : State) (c : Nat) (g : CtxEntry → CtxEntry) : (s.ctxM c g).sigs = s.sigs := rfl
@[simp] theorem State.ctxM_colls (s : State) (c : Nat) (g : CtxEntry → CtxEntry) : (s.ctxM c g).colls = s.colls := rfl
@[simp] theorem State.ctxM_protect (s : State) (c : Nat) (g : CtxEntry → CtxEntry) : (s.ctxM c g).protect = s.protect := rfl
@[simp] theorem State.ctxM_dig (s : State) (c : Nat) (g : CtxEntry → CtxEntry) : (s.ctxM c g).dig = s.dig := rfl
@[simp] theorem State.ctxM_hcv (s : State) (c : Nat) (g : CtxEntry → CtxEntry) : (s.ctxM c g).hcv = s.hcv := rfl
@[simp] theorem State.ctxM_ldgSel (s : State) (c : Nat) (g : CtxEntry → CtxEntry) : (s.ctxM c g).ldgSel = s.ldgSel := rfl
@[simp] theorem State.ctxM_pwr (s : State) (c : Nat) (g : CtxEntry → CtxEntry) : (s.ctxM c g).pwr = s.pwr := rfl
@[simp] theorem State.ctxM_procs (s : State) (c : Nat) (g : CtxEntry → CtxEntry) : (s.ctxM c g).procs = s.procs := rfl
@[simp] theorem State.ctxM_mgmt (s : State) (c : Nat) (g : CtxEntry → CtxEntry) : (s.ctxM c g).mgmt = s.mgmt := rfl
@[simp] theorem State.ctxM_crust (s : State) (c : Nat) (g : CtxEntry → CtxEntry) : (s.ctxM c g).crust = s.crust := rfl
@[simp] theorem State.ctxM_rst (s : State) (c : Nat) (g : CtxEntry → CtxEntry) : (s.ctxM c g).rst = s.rst := rfl
@[simp] theorem State.ctxM_span (s : State) (c : Nat) (g : CtxEntry → CtxEntry) : (s.ctxM c g).span = s.span := rfl
@[simp] theorem State.ctxM_panel (s : State) (c : Nat) (g : CtxEntry → CtxEntry) : (s.ctxM c g).panel = s.panel := rfl
@[simp] theorem State.ctxM_harts (s : State) (c : Nat) (g : CtxEntry → CtxEntry) : (s.ctxM c g).harts = s.harts := rfl
@[simp] theorem State.ctxM_sch (s : State) (c : Nat) (g : CtxEntry → CtxEntry) : (s.ctxM c g).sch = s.sch := rfl
@[simp] theorem State.ctxM_out (s : State) (c : Nat) (g : CtxEntry → CtxEntry) : (s.ctxM c g).out = s.out := rfl
@[simp] theorem State.ctxM_free (s : State) (c : Nat) (g : CtxEntry → CtxEntry) : (s.ctxM c g).free = s.free := rfl

@[simp] theorem State.runM_pending (s : State) (c : Nat) (g : CtxRun → CtxRun) : (s.runM c g).pending = s.pending := rfl
@[simp] theorem State.runM_part (s : State) (c : Nat) (g : CtxRun → CtxRun) : (s.runM c g).part = s.part := rfl
@[simp] theorem State.runM_boot (s : State) (c : Nat) (g : CtxRun → CtxRun) : (s.runM c g).boot = s.boot := rfl
@[simp] theorem State.runM_health (s : State) (c : Nat) (g : CtxRun → CtxRun) : (s.runM c g).health = s.health := rfl
@[simp] theorem State.runM_nvm (s : State) (c : Nat) (g : CtxRun → CtxRun) : (s.runM c g).nvm = s.nvm := rfl
@[simp] theorem State.runM_led (s : State) (c : Nat) (g : CtxRun → CtxRun) : (s.runM c g).led = s.led := rfl
@[simp] theorem State.runM_mem (s : State) (c : Nat) (g : CtxRun → CtxRun) : (s.runM c g).mem = s.mem := rfl
@[simp] theorem State.runM_ctxs (s : State) (c : Nat) (g : CtxRun → CtxRun) : (s.runM c g).ctxs = s.ctxs := rfl
@[simp] theorem State.runM_seqs (s : State) (c : Nat) (g : CtxRun → CtxRun) : (s.runM c g).seqs = s.seqs := rfl
@[simp] theorem State.runM_cores (s : State) (c : Nat) (g : CtxRun → CtxRun) : (s.runM c g).cores = s.cores := rfl
@[simp] theorem State.runM_clus (s : State) (c : Nat) (g : CtxRun → CtxRun) : (s.runM c g).clus = s.clus := rfl
@[simp] theorem State.runM_phys (s : State) (c : Nat) (g : CtxRun → CtxRun) : (s.runM c g).phys = s.phys := rfl
@[simp] theorem State.runM_dies (s : State) (c : Nat) (g : CtxRun → CtxRun) : (s.runM c g).dies = s.dies := rfl
@[simp] theorem State.runM_funcs (s : State) (c : Nat) (g : CtxRun → CtxRun) : (s.runM c g).funcs = s.funcs := rfl
@[simp] theorem State.runM_doms (s : State) (c : Nat) (g : CtxRun → CtxRun) : (s.runM c g).doms = s.doms := rfl
@[simp] theorem State.runM_kdStat (s : State) (c : Nat) (g : CtxRun → CtxRun) : (s.runM c g).kdStat = s.kdStat := rfl
@[simp] theorem State.runM_jobs (s : State) (c : Nat) (g : CtxRun → CtxRun) : (s.runM c g).jobs = s.jobs := rfl
@[simp] theorem State.runM_sigs (s : State) (c : Nat) (g : CtxRun → CtxRun) : (s.runM c g).sigs = s.sigs := rfl
@[simp] theorem State.runM_colls (s : State) (c : Nat) (g : CtxRun → CtxRun) : (s.runM c g).colls = s.colls := rfl
@[simp] theorem State.runM_protect (s : State) (c : Nat) (g : CtxRun → CtxRun) : (s.runM c g).protect = s.protect := rfl
@[simp] theorem State.runM_dig (s : State) (c : Nat) (g : CtxRun → CtxRun) : (s.runM c g).dig = s.dig := rfl
@[simp] theorem State.runM_hcv (s : State) (c : Nat) (g : CtxRun → CtxRun) : (s.runM c g).hcv = s.hcv := rfl
@[simp] theorem State.runM_ldgSel (s : State) (c : Nat) (g : CtxRun → CtxRun) : (s.runM c g).ldgSel = s.ldgSel := rfl
@[simp] theorem State.runM_pwr (s : State) (c : Nat) (g : CtxRun → CtxRun) : (s.runM c g).pwr = s.pwr := rfl
@[simp] theorem State.runM_procs (s : State) (c : Nat) (g : CtxRun → CtxRun) : (s.runM c g).procs = s.procs := rfl
@[simp] theorem State.runM_mgmt (s : State) (c : Nat) (g : CtxRun → CtxRun) : (s.runM c g).mgmt = s.mgmt := rfl
@[simp] theorem State.runM_crust (s : State) (c : Nat) (g : CtxRun → CtxRun) : (s.runM c g).crust = s.crust := rfl
@[simp] theorem State.runM_rst (s : State) (c : Nat) (g : CtxRun → CtxRun) : (s.runM c g).rst = s.rst := rfl
@[simp] theorem State.runM_span (s : State) (c : Nat) (g : CtxRun → CtxRun) : (s.runM c g).span = s.span := rfl
@[simp] theorem State.runM_panel (s : State) (c : Nat) (g : CtxRun → CtxRun) : (s.runM c g).panel = s.panel := rfl
@[simp] theorem State.runM_harts (s : State) (c : Nat) (g : CtxRun → CtxRun) : (s.runM c g).harts = s.harts := rfl
@[simp] theorem State.runM_sch (s : State) (c : Nat) (g : CtxRun → CtxRun) : (s.runM c g).sch = s.sch := rfl
@[simp] theorem State.runM_out (s : State) (c : Nat) (g : CtxRun → CtxRun) : (s.runM c g).out = s.out := rfl
@[simp] theorem State.runM_free (s : State) (c : Nat) (g : CtxRun → CtxRun) : (s.runM c g).free = s.free := rfl

@[simp] theorem State.clusM_pending (s : State) (c : Nat) (g : Clus → Clus) : (s.clusM c g).pending = s.pending := rfl
@[simp] theorem State.clusM_part (s : State) (c : Nat) (g : Clus → Clus) : (s.clusM c g).part = s.part := rfl
@[simp] theorem State.clusM_boot (s : State) (c : Nat) (g : Clus → Clus) : (s.clusM c g).boot = s.boot := rfl
@[simp] theorem State.clusM_health (s : State) (c : Nat) (g : Clus → Clus) : (s.clusM c g).health = s.health := rfl
@[simp] theorem State.clusM_nvm (s : State) (c : Nat) (g : Clus → Clus) : (s.clusM c g).nvm = s.nvm := rfl
@[simp] theorem State.clusM_led (s : State) (c : Nat) (g : Clus → Clus) : (s.clusM c g).led = s.led := rfl
@[simp] theorem State.clusM_mem (s : State) (c : Nat) (g : Clus → Clus) : (s.clusM c g).mem = s.mem := rfl
@[simp] theorem State.clusM_ctxs (s : State) (c : Nat) (g : Clus → Clus) : (s.clusM c g).ctxs = s.ctxs := rfl
@[simp] theorem State.clusM_runs (s : State) (c : Nat) (g : Clus → Clus) : (s.clusM c g).runs = s.runs := rfl
@[simp] theorem State.clusM_seqs (s : State) (c : Nat) (g : Clus → Clus) : (s.clusM c g).seqs = s.seqs := rfl
@[simp] theorem State.clusM_cores (s : State) (c : Nat) (g : Clus → Clus) : (s.clusM c g).cores = s.cores := rfl
@[simp] theorem State.clusM_phys (s : State) (c : Nat) (g : Clus → Clus) : (s.clusM c g).phys = s.phys := rfl
@[simp] theorem State.clusM_dies (s : State) (c : Nat) (g : Clus → Clus) : (s.clusM c g).dies = s.dies := rfl
@[simp] theorem State.clusM_funcs (s : State) (c : Nat) (g : Clus → Clus) : (s.clusM c g).funcs = s.funcs := rfl
@[simp] theorem State.clusM_doms (s : State) (c : Nat) (g : Clus → Clus) : (s.clusM c g).doms = s.doms := rfl
@[simp] theorem State.clusM_kdStat (s : State) (c : Nat) (g : Clus → Clus) : (s.clusM c g).kdStat = s.kdStat := rfl
@[simp] theorem State.clusM_jobs (s : State) (c : Nat) (g : Clus → Clus) : (s.clusM c g).jobs = s.jobs := rfl
@[simp] theorem State.clusM_sigs (s : State) (c : Nat) (g : Clus → Clus) : (s.clusM c g).sigs = s.sigs := rfl
@[simp] theorem State.clusM_colls (s : State) (c : Nat) (g : Clus → Clus) : (s.clusM c g).colls = s.colls := rfl
@[simp] theorem State.clusM_protect (s : State) (c : Nat) (g : Clus → Clus) : (s.clusM c g).protect = s.protect := rfl
@[simp] theorem State.clusM_dig (s : State) (c : Nat) (g : Clus → Clus) : (s.clusM c g).dig = s.dig := rfl
@[simp] theorem State.clusM_hcv (s : State) (c : Nat) (g : Clus → Clus) : (s.clusM c g).hcv = s.hcv := rfl
@[simp] theorem State.clusM_ldgSel (s : State) (c : Nat) (g : Clus → Clus) : (s.clusM c g).ldgSel = s.ldgSel := rfl
@[simp] theorem State.clusM_pwr (s : State) (c : Nat) (g : Clus → Clus) : (s.clusM c g).pwr = s.pwr := rfl
@[simp] theorem State.clusM_procs (s : State) (c : Nat) (g : Clus → Clus) : (s.clusM c g).procs = s.procs := rfl
@[simp] theorem State.clusM_mgmt (s : State) (c : Nat) (g : Clus → Clus) : (s.clusM c g).mgmt = s.mgmt := rfl
@[simp] theorem State.clusM_crust (s : State) (c : Nat) (g : Clus → Clus) : (s.clusM c g).crust = s.crust := rfl
@[simp] theorem State.clusM_rst (s : State) (c : Nat) (g : Clus → Clus) : (s.clusM c g).rst = s.rst := rfl
@[simp] theorem State.clusM_span (s : State) (c : Nat) (g : Clus → Clus) : (s.clusM c g).span = s.span := rfl
@[simp] theorem State.clusM_panel (s : State) (c : Nat) (g : Clus → Clus) : (s.clusM c g).panel = s.panel := rfl
@[simp] theorem State.clusM_harts (s : State) (c : Nat) (g : Clus → Clus) : (s.clusM c g).harts = s.harts := rfl
@[simp] theorem State.clusM_sch (s : State) (c : Nat) (g : Clus → Clus) : (s.clusM c g).sch = s.sch := rfl
@[simp] theorem State.clusM_out (s : State) (c : Nat) (g : Clus → Clus) : (s.clusM c g).out = s.out := rfl
@[simp] theorem State.clusM_free (s : State) (c : Nat) (g : Clus → Clus) : (s.clusM c g).free = s.free := rfl

@[simp] theorem State.physM_pending (s : State) (c : Nat) (g : CorePhys → CorePhys) : (s.physM c g).pending = s.pending := rfl
@[simp] theorem State.physM_part (s : State) (c : Nat) (g : CorePhys → CorePhys) : (s.physM c g).part = s.part := rfl
@[simp] theorem State.physM_boot (s : State) (c : Nat) (g : CorePhys → CorePhys) : (s.physM c g).boot = s.boot := rfl
@[simp] theorem State.physM_health (s : State) (c : Nat) (g : CorePhys → CorePhys) : (s.physM c g).health = s.health := rfl
@[simp] theorem State.physM_nvm (s : State) (c : Nat) (g : CorePhys → CorePhys) : (s.physM c g).nvm = s.nvm := rfl
@[simp] theorem State.physM_led (s : State) (c : Nat) (g : CorePhys → CorePhys) : (s.physM c g).led = s.led := rfl
@[simp] theorem State.physM_mem (s : State) (c : Nat) (g : CorePhys → CorePhys) : (s.physM c g).mem = s.mem := rfl
@[simp] theorem State.physM_ctxs (s : State) (c : Nat) (g : CorePhys → CorePhys) : (s.physM c g).ctxs = s.ctxs := rfl
@[simp] theorem State.physM_runs (s : State) (c : Nat) (g : CorePhys → CorePhys) : (s.physM c g).runs = s.runs := rfl
@[simp] theorem State.physM_seqs (s : State) (c : Nat) (g : CorePhys → CorePhys) : (s.physM c g).seqs = s.seqs := rfl
@[simp] theorem State.physM_cores (s : State) (c : Nat) (g : CorePhys → CorePhys) : (s.physM c g).cores = s.cores := rfl
@[simp] theorem State.physM_clus (s : State) (c : Nat) (g : CorePhys → CorePhys) : (s.physM c g).clus = s.clus := rfl
@[simp] theorem State.physM_dies (s : State) (c : Nat) (g : CorePhys → CorePhys) : (s.physM c g).dies = s.dies := rfl
@[simp] theorem State.physM_funcs (s : State) (c : Nat) (g : CorePhys → CorePhys) : (s.physM c g).funcs = s.funcs := rfl
@[simp] theorem State.physM_doms (s : State) (c : Nat) (g : CorePhys → CorePhys) : (s.physM c g).doms = s.doms := rfl
@[simp] theorem State.physM_kdStat (s : State) (c : Nat) (g : CorePhys → CorePhys) : (s.physM c g).kdStat = s.kdStat := rfl
@[simp] theorem State.physM_jobs (s : State) (c : Nat) (g : CorePhys → CorePhys) : (s.physM c g).jobs = s.jobs := rfl
@[simp] theorem State.physM_sigs (s : State) (c : Nat) (g : CorePhys → CorePhys) : (s.physM c g).sigs = s.sigs := rfl
@[simp] theorem State.physM_colls (s : State) (c : Nat) (g : CorePhys → CorePhys) : (s.physM c g).colls = s.colls := rfl
@[simp] theorem State.physM_protect (s : State) (c : Nat) (g : CorePhys → CorePhys) : (s.physM c g).protect = s.protect := rfl
@[simp] theorem State.physM_dig (s : State) (c : Nat) (g : CorePhys → CorePhys) : (s.physM c g).dig = s.dig := rfl
@[simp] theorem State.physM_hcv (s : State) (c : Nat) (g : CorePhys → CorePhys) : (s.physM c g).hcv = s.hcv := rfl
@[simp] theorem State.physM_ldgSel (s : State) (c : Nat) (g : CorePhys → CorePhys) : (s.physM c g).ldgSel = s.ldgSel := rfl
@[simp] theorem State.physM_pwr (s : State) (c : Nat) (g : CorePhys → CorePhys) : (s.physM c g).pwr = s.pwr := rfl
@[simp] theorem State.physM_procs (s : State) (c : Nat) (g : CorePhys → CorePhys) : (s.physM c g).procs = s.procs := rfl
@[simp] theorem State.physM_mgmt (s : State) (c : Nat) (g : CorePhys → CorePhys) : (s.physM c g).mgmt = s.mgmt := rfl
@[simp] theorem State.physM_crust (s : State) (c : Nat) (g : CorePhys → CorePhys) : (s.physM c g).crust = s.crust := rfl
@[simp] theorem State.physM_rst (s : State) (c : Nat) (g : CorePhys → CorePhys) : (s.physM c g).rst = s.rst := rfl
@[simp] theorem State.physM_span (s : State) (c : Nat) (g : CorePhys → CorePhys) : (s.physM c g).span = s.span := rfl
@[simp] theorem State.physM_panel (s : State) (c : Nat) (g : CorePhys → CorePhys) : (s.physM c g).panel = s.panel := rfl
@[simp] theorem State.physM_harts (s : State) (c : Nat) (g : CorePhys → CorePhys) : (s.physM c g).harts = s.harts := rfl
@[simp] theorem State.physM_sch (s : State) (c : Nat) (g : CorePhys → CorePhys) : (s.physM c g).sch = s.sch := rfl
@[simp] theorem State.physM_out (s : State) (c : Nat) (g : CorePhys → CorePhys) : (s.physM c g).out = s.out := rfl
@[simp] theorem State.physM_free (s : State) (c : Nat) (g : CorePhys → CorePhys) : (s.physM c g).free = s.free := rfl

@[simp] theorem State.dieM_pending (s : State) (c : Nat) (g : Die → Die) : (s.dieM c g).pending = s.pending := rfl
@[simp] theorem State.dieM_part (s : State) (c : Nat) (g : Die → Die) : (s.dieM c g).part = s.part := rfl
@[simp] theorem State.dieM_boot (s : State) (c : Nat) (g : Die → Die) : (s.dieM c g).boot = s.boot := rfl
@[simp] theorem State.dieM_health (s : State) (c : Nat) (g : Die → Die) : (s.dieM c g).health = s.health := rfl
@[simp] theorem State.dieM_nvm (s : State) (c : Nat) (g : Die → Die) : (s.dieM c g).nvm = s.nvm := rfl
@[simp] theorem State.dieM_led (s : State) (c : Nat) (g : Die → Die) : (s.dieM c g).led = s.led := rfl
@[simp] theorem State.dieM_mem (s : State) (c : Nat) (g : Die → Die) : (s.dieM c g).mem = s.mem := rfl
@[simp] theorem State.dieM_ctxs (s : State) (c : Nat) (g : Die → Die) : (s.dieM c g).ctxs = s.ctxs := rfl
@[simp] theorem State.dieM_runs (s : State) (c : Nat) (g : Die → Die) : (s.dieM c g).runs = s.runs := rfl
@[simp] theorem State.dieM_seqs (s : State) (c : Nat) (g : Die → Die) : (s.dieM c g).seqs = s.seqs := rfl
@[simp] theorem State.dieM_cores (s : State) (c : Nat) (g : Die → Die) : (s.dieM c g).cores = s.cores := rfl
@[simp] theorem State.dieM_clus (s : State) (c : Nat) (g : Die → Die) : (s.dieM c g).clus = s.clus := rfl
@[simp] theorem State.dieM_phys (s : State) (c : Nat) (g : Die → Die) : (s.dieM c g).phys = s.phys := rfl
@[simp] theorem State.dieM_funcs (s : State) (c : Nat) (g : Die → Die) : (s.dieM c g).funcs = s.funcs := rfl
@[simp] theorem State.dieM_doms (s : State) (c : Nat) (g : Die → Die) : (s.dieM c g).doms = s.doms := rfl
@[simp] theorem State.dieM_kdStat (s : State) (c : Nat) (g : Die → Die) : (s.dieM c g).kdStat = s.kdStat := rfl
@[simp] theorem State.dieM_jobs (s : State) (c : Nat) (g : Die → Die) : (s.dieM c g).jobs = s.jobs := rfl
@[simp] theorem State.dieM_sigs (s : State) (c : Nat) (g : Die → Die) : (s.dieM c g).sigs = s.sigs := rfl
@[simp] theorem State.dieM_colls (s : State) (c : Nat) (g : Die → Die) : (s.dieM c g).colls = s.colls := rfl
@[simp] theorem State.dieM_protect (s : State) (c : Nat) (g : Die → Die) : (s.dieM c g).protect = s.protect := rfl
@[simp] theorem State.dieM_dig (s : State) (c : Nat) (g : Die → Die) : (s.dieM c g).dig = s.dig := rfl
@[simp] theorem State.dieM_hcv (s : State) (c : Nat) (g : Die → Die) : (s.dieM c g).hcv = s.hcv := rfl
@[simp] theorem State.dieM_ldgSel (s : State) (c : Nat) (g : Die → Die) : (s.dieM c g).ldgSel = s.ldgSel := rfl
@[simp] theorem State.dieM_pwr (s : State) (c : Nat) (g : Die → Die) : (s.dieM c g).pwr = s.pwr := rfl
@[simp] theorem State.dieM_procs (s : State) (c : Nat) (g : Die → Die) : (s.dieM c g).procs = s.procs := rfl
@[simp] theorem State.dieM_mgmt (s : State) (c : Nat) (g : Die → Die) : (s.dieM c g).mgmt = s.mgmt := rfl
@[simp] theorem State.dieM_crust (s : State) (c : Nat) (g : Die → Die) : (s.dieM c g).crust = s.crust := rfl
@[simp] theorem State.dieM_rst (s : State) (c : Nat) (g : Die → Die) : (s.dieM c g).rst = s.rst := rfl
@[simp] theorem State.dieM_span (s : State) (c : Nat) (g : Die → Die) : (s.dieM c g).span = s.span := rfl
@[simp] theorem State.dieM_panel (s : State) (c : Nat) (g : Die → Die) : (s.dieM c g).panel = s.panel := rfl
@[simp] theorem State.dieM_harts (s : State) (c : Nat) (g : Die → Die) : (s.dieM c g).harts = s.harts := rfl
@[simp] theorem State.dieM_sch (s : State) (c : Nat) (g : Die → Die) : (s.dieM c g).sch = s.sch := rfl
@[simp] theorem State.dieM_out (s : State) (c : Nat) (g : Die → Die) : (s.dieM c g).out = s.out := rfl
@[simp] theorem State.dieM_free (s : State) (c : Nat) (g : Die → Die) : (s.dieM c g).free = s.free := rfl

@[simp] theorem State.funcM_pending (s : State) (c : Nat) (g : Func → Func) : (s.funcM c g).pending = s.pending := rfl
@[simp] theorem State.funcM_part (s : State) (c : Nat) (g : Func → Func) : (s.funcM c g).part = s.part := rfl
@[simp] theorem State.funcM_boot (s : State) (c : Nat) (g : Func → Func) : (s.funcM c g).boot = s.boot := rfl
@[simp] theorem State.funcM_health (s : State) (c : Nat) (g : Func → Func) : (s.funcM c g).health = s.health := rfl
@[simp] theorem State.funcM_nvm (s : State) (c : Nat) (g : Func → Func) : (s.funcM c g).nvm = s.nvm := rfl
@[simp] theorem State.funcM_led (s : State) (c : Nat) (g : Func → Func) : (s.funcM c g).led = s.led := rfl
@[simp] theorem State.funcM_mem (s : State) (c : Nat) (g : Func → Func) : (s.funcM c g).mem = s.mem := rfl
@[simp] theorem State.funcM_ctxs (s : State) (c : Nat) (g : Func → Func) : (s.funcM c g).ctxs = s.ctxs := rfl
@[simp] theorem State.funcM_runs (s : State) (c : Nat) (g : Func → Func) : (s.funcM c g).runs = s.runs := rfl
@[simp] theorem State.funcM_seqs (s : State) (c : Nat) (g : Func → Func) : (s.funcM c g).seqs = s.seqs := rfl
@[simp] theorem State.funcM_cores (s : State) (c : Nat) (g : Func → Func) : (s.funcM c g).cores = s.cores := rfl
@[simp] theorem State.funcM_clus (s : State) (c : Nat) (g : Func → Func) : (s.funcM c g).clus = s.clus := rfl
@[simp] theorem State.funcM_phys (s : State) (c : Nat) (g : Func → Func) : (s.funcM c g).phys = s.phys := rfl
@[simp] theorem State.funcM_dies (s : State) (c : Nat) (g : Func → Func) : (s.funcM c g).dies = s.dies := rfl
@[simp] theorem State.funcM_doms (s : State) (c : Nat) (g : Func → Func) : (s.funcM c g).doms = s.doms := rfl
@[simp] theorem State.funcM_kdStat (s : State) (c : Nat) (g : Func → Func) : (s.funcM c g).kdStat = s.kdStat := rfl
@[simp] theorem State.funcM_jobs (s : State) (c : Nat) (g : Func → Func) : (s.funcM c g).jobs = s.jobs := rfl
@[simp] theorem State.funcM_sigs (s : State) (c : Nat) (g : Func → Func) : (s.funcM c g).sigs = s.sigs := rfl
@[simp] theorem State.funcM_colls (s : State) (c : Nat) (g : Func → Func) : (s.funcM c g).colls = s.colls := rfl
@[simp] theorem State.funcM_protect (s : State) (c : Nat) (g : Func → Func) : (s.funcM c g).protect = s.protect := rfl
@[simp] theorem State.funcM_dig (s : State) (c : Nat) (g : Func → Func) : (s.funcM c g).dig = s.dig := rfl
@[simp] theorem State.funcM_hcv (s : State) (c : Nat) (g : Func → Func) : (s.funcM c g).hcv = s.hcv := rfl
@[simp] theorem State.funcM_ldgSel (s : State) (c : Nat) (g : Func → Func) : (s.funcM c g).ldgSel = s.ldgSel := rfl
@[simp] theorem State.funcM_pwr (s : State) (c : Nat) (g : Func → Func) : (s.funcM c g).pwr = s.pwr := rfl
@[simp] theorem State.funcM_procs (s : State) (c : Nat) (g : Func → Func) : (s.funcM c g).procs = s.procs := rfl
@[simp] theorem State.funcM_mgmt (s : State) (c : Nat) (g : Func → Func) : (s.funcM c g).mgmt = s.mgmt := rfl
@[simp] theorem State.funcM_crust (s : State) (c : Nat) (g : Func → Func) : (s.funcM c g).crust = s.crust := rfl
@[simp] theorem State.funcM_rst (s : State) (c : Nat) (g : Func → Func) : (s.funcM c g).rst = s.rst := rfl
@[simp] theorem State.funcM_span (s : State) (c : Nat) (g : Func → Func) : (s.funcM c g).span = s.span := rfl
@[simp] theorem State.funcM_panel (s : State) (c : Nat) (g : Func → Func) : (s.funcM c g).panel = s.panel := rfl
@[simp] theorem State.funcM_harts (s : State) (c : Nat) (g : Func → Func) : (s.funcM c g).harts = s.harts := rfl
@[simp] theorem State.funcM_sch (s : State) (c : Nat) (g : Func → Func) : (s.funcM c g).sch = s.sch := rfl
@[simp] theorem State.funcM_out (s : State) (c : Nat) (g : Func → Func) : (s.funcM c g).out = s.out := rfl
@[simp] theorem State.funcM_free (s : State) (c : Nat) (g : Func → Func) : (s.funcM c g).free = s.free := rfl

@[simp] theorem State.domM_pending (s : State) (c : Nat) (g : Dom → Dom) : (s.domM c g).pending = s.pending := rfl
@[simp] theorem State.domM_part (s : State) (c : Nat) (g : Dom → Dom) : (s.domM c g).part = s.part := rfl
@[simp] theorem State.domM_boot (s : State) (c : Nat) (g : Dom → Dom) : (s.domM c g).boot = s.boot := rfl
@[simp] theorem State.domM_health (s : State) (c : Nat) (g : Dom → Dom) : (s.domM c g).health = s.health := rfl
@[simp] theorem State.domM_nvm (s : State) (c : Nat) (g : Dom → Dom) : (s.domM c g).nvm = s.nvm := rfl
@[simp] theorem State.domM_led (s : State) (c : Nat) (g : Dom → Dom) : (s.domM c g).led = s.led := rfl
@[simp] theorem State.domM_mem (s : State) (c : Nat) (g : Dom → Dom) : (s.domM c g).mem = s.mem := rfl
@[simp] theorem State.domM_ctxs (s : State) (c : Nat) (g : Dom → Dom) : (s.domM c g).ctxs = s.ctxs := rfl
@[simp] theorem State.domM_runs (s : State) (c : Nat) (g : Dom → Dom) : (s.domM c g).runs = s.runs := rfl
@[simp] theorem State.domM_seqs (s : State) (c : Nat) (g : Dom → Dom) : (s.domM c g).seqs = s.seqs := rfl
@[simp] theorem State.domM_cores (s : State) (c : Nat) (g : Dom → Dom) : (s.domM c g).cores = s.cores := rfl
@[simp] theorem State.domM_clus (s : State) (c : Nat) (g : Dom → Dom) : (s.domM c g).clus = s.clus := rfl
@[simp] theorem State.domM_phys (s : State) (c : Nat) (g : Dom → Dom) : (s.domM c g).phys = s.phys := rfl
@[simp] theorem State.domM_dies (s : State) (c : Nat) (g : Dom → Dom) : (s.domM c g).dies = s.dies := rfl
@[simp] theorem State.domM_funcs (s : State) (c : Nat) (g : Dom → Dom) : (s.domM c g).funcs = s.funcs := rfl
@[simp] theorem State.domM_kdStat (s : State) (c : Nat) (g : Dom → Dom) : (s.domM c g).kdStat = s.kdStat := rfl
@[simp] theorem State.domM_jobs (s : State) (c : Nat) (g : Dom → Dom) : (s.domM c g).jobs = s.jobs := rfl
@[simp] theorem State.domM_sigs (s : State) (c : Nat) (g : Dom → Dom) : (s.domM c g).sigs = s.sigs := rfl
@[simp] theorem State.domM_colls (s : State) (c : Nat) (g : Dom → Dom) : (s.domM c g).colls = s.colls := rfl
@[simp] theorem State.domM_protect (s : State) (c : Nat) (g : Dom → Dom) : (s.domM c g).protect = s.protect := rfl
@[simp] theorem State.domM_dig (s : State) (c : Nat) (g : Dom → Dom) : (s.domM c g).dig = s.dig := rfl
@[simp] theorem State.domM_hcv (s : State) (c : Nat) (g : Dom → Dom) : (s.domM c g).hcv = s.hcv := rfl
@[simp] theorem State.domM_ldgSel (s : State) (c : Nat) (g : Dom → Dom) : (s.domM c g).ldgSel = s.ldgSel := rfl
@[simp] theorem State.domM_pwr (s : State) (c : Nat) (g : Dom → Dom) : (s.domM c g).pwr = s.pwr := rfl
@[simp] theorem State.domM_procs (s : State) (c : Nat) (g : Dom → Dom) : (s.domM c g).procs = s.procs := rfl
@[simp] theorem State.domM_mgmt (s : State) (c : Nat) (g : Dom → Dom) : (s.domM c g).mgmt = s.mgmt := rfl
@[simp] theorem State.domM_crust (s : State) (c : Nat) (g : Dom → Dom) : (s.domM c g).crust = s.crust := rfl
@[simp] theorem State.domM_rst (s : State) (c : Nat) (g : Dom → Dom) : (s.domM c g).rst = s.rst := rfl
@[simp] theorem State.domM_span (s : State) (c : Nat) (g : Dom → Dom) : (s.domM c g).span = s.span := rfl
@[simp] theorem State.domM_panel (s : State) (c : Nat) (g : Dom → Dom) : (s.domM c g).panel = s.panel := rfl
@[simp] theorem State.domM_harts (s : State) (c : Nat) (g : Dom → Dom) : (s.domM c g).harts = s.harts := rfl
@[simp] theorem State.domM_sch (s : State) (c : Nat) (g : Dom → Dom) : (s.domM c g).sch = s.sch := rfl
@[simp] theorem State.domM_out (s : State) (c : Nat) (g : Dom → Dom) : (s.domM c g).out = s.out := rfl
@[simp] theorem State.domM_free (s : State) (c : Nat) (g : Dom → Dom) : (s.domM c g).free = s.free := rfl

@[simp] theorem State.procM_pending (s : State) (c : Nat) (g : Proc → Proc) : (s.procM c g).pending = s.pending := rfl
@[simp] theorem State.procM_part (s : State) (c : Nat) (g : Proc → Proc) : (s.procM c g).part = s.part := rfl
@[simp] theorem State.procM_boot (s : State) (c : Nat) (g : Proc → Proc) : (s.procM c g).boot = s.boot := rfl
@[simp] theorem State.procM_health (s : State) (c : Nat) (g : Proc → Proc) : (s.procM c g).health = s.health := rfl
@[simp] theorem State.procM_nvm (s : State) (c : Nat) (g : Proc → Proc) : (s.procM c g).nvm = s.nvm := rfl
@[simp] theorem State.procM_led (s : State) (c : Nat) (g : Proc → Proc) : (s.procM c g).led = s.led := rfl
@[simp] theorem State.procM_mem (s : State) (c : Nat) (g : Proc → Proc) : (s.procM c g).mem = s.mem := rfl
@[simp] theorem State.procM_ctxs (s : State) (c : Nat) (g : Proc → Proc) : (s.procM c g).ctxs = s.ctxs := rfl
@[simp] theorem State.procM_runs (s : State) (c : Nat) (g : Proc → Proc) : (s.procM c g).runs = s.runs := rfl
@[simp] theorem State.procM_seqs (s : State) (c : Nat) (g : Proc → Proc) : (s.procM c g).seqs = s.seqs := rfl
@[simp] theorem State.procM_cores (s : State) (c : Nat) (g : Proc → Proc) : (s.procM c g).cores = s.cores := rfl
@[simp] theorem State.procM_clus (s : State) (c : Nat) (g : Proc → Proc) : (s.procM c g).clus = s.clus := rfl
@[simp] theorem State.procM_phys (s : State) (c : Nat) (g : Proc → Proc) : (s.procM c g).phys = s.phys := rfl
@[simp] theorem State.procM_dies (s : State) (c : Nat) (g : Proc → Proc) : (s.procM c g).dies = s.dies := rfl
@[simp] theorem State.procM_funcs (s : State) (c : Nat) (g : Proc → Proc) : (s.procM c g).funcs = s.funcs := rfl
@[simp] theorem State.procM_doms (s : State) (c : Nat) (g : Proc → Proc) : (s.procM c g).doms = s.doms := rfl
@[simp] theorem State.procM_kdStat (s : State) (c : Nat) (g : Proc → Proc) : (s.procM c g).kdStat = s.kdStat := rfl
@[simp] theorem State.procM_jobs (s : State) (c : Nat) (g : Proc → Proc) : (s.procM c g).jobs = s.jobs := rfl
@[simp] theorem State.procM_sigs (s : State) (c : Nat) (g : Proc → Proc) : (s.procM c g).sigs = s.sigs := rfl
@[simp] theorem State.procM_colls (s : State) (c : Nat) (g : Proc → Proc) : (s.procM c g).colls = s.colls := rfl
@[simp] theorem State.procM_protect (s : State) (c : Nat) (g : Proc → Proc) : (s.procM c g).protect = s.protect := rfl
@[simp] theorem State.procM_dig (s : State) (c : Nat) (g : Proc → Proc) : (s.procM c g).dig = s.dig := rfl
@[simp] theorem State.procM_hcv (s : State) (c : Nat) (g : Proc → Proc) : (s.procM c g).hcv = s.hcv := rfl
@[simp] theorem State.procM_ldgSel (s : State) (c : Nat) (g : Proc → Proc) : (s.procM c g).ldgSel = s.ldgSel := rfl
@[simp] theorem State.procM_pwr (s : State) (c : Nat) (g : Proc → Proc) : (s.procM c g).pwr = s.pwr := rfl
@[simp] theorem State.procM_mgmt (s : State) (c : Nat) (g : Proc → Proc) : (s.procM c g).mgmt = s.mgmt := rfl
@[simp] theorem State.procM_crust (s : State) (c : Nat) (g : Proc → Proc) : (s.procM c g).crust = s.crust := rfl
@[simp] theorem State.procM_rst (s : State) (c : Nat) (g : Proc → Proc) : (s.procM c g).rst = s.rst := rfl
@[simp] theorem State.procM_span (s : State) (c : Nat) (g : Proc → Proc) : (s.procM c g).span = s.span := rfl
@[simp] theorem State.procM_panel (s : State) (c : Nat) (g : Proc → Proc) : (s.procM c g).panel = s.panel := rfl
@[simp] theorem State.procM_harts (s : State) (c : Nat) (g : Proc → Proc) : (s.procM c g).harts = s.harts := rfl
@[simp] theorem State.procM_sch (s : State) (c : Nat) (g : Proc → Proc) : (s.procM c g).sch = s.sch := rfl
@[simp] theorem State.procM_out (s : State) (c : Nat) (g : Proc → Proc) : (s.procM c g).out = s.out := rfl
@[simp] theorem State.procM_free (s : State) (c : Nat) (g : Proc → Proc) : (s.procM c g).free = s.free := rfl

@[simp] theorem State.hcvM_pending (s : State) (c : Nat) (g : Hcv → Hcv) : (s.hcvM c g).pending = s.pending := rfl
@[simp] theorem State.hcvM_part (s : State) (c : Nat) (g : Hcv → Hcv) : (s.hcvM c g).part = s.part := rfl
@[simp] theorem State.hcvM_boot (s : State) (c : Nat) (g : Hcv → Hcv) : (s.hcvM c g).boot = s.boot := rfl
@[simp] theorem State.hcvM_health (s : State) (c : Nat) (g : Hcv → Hcv) : (s.hcvM c g).health = s.health := rfl
@[simp] theorem State.hcvM_nvm (s : State) (c : Nat) (g : Hcv → Hcv) : (s.hcvM c g).nvm = s.nvm := rfl
@[simp] theorem State.hcvM_led (s : State) (c : Nat) (g : Hcv → Hcv) : (s.hcvM c g).led = s.led := rfl
@[simp] theorem State.hcvM_mem (s : State) (c : Nat) (g : Hcv → Hcv) : (s.hcvM c g).mem = s.mem := rfl
@[simp] theorem State.hcvM_ctxs (s : State) (c : Nat) (g : Hcv → Hcv) : (s.hcvM c g).ctxs = s.ctxs := rfl
@[simp] theorem State.hcvM_runs (s : State) (c : Nat) (g : Hcv → Hcv) : (s.hcvM c g).runs = s.runs := rfl
@[simp] theorem State.hcvM_seqs (s : State) (c : Nat) (g : Hcv → Hcv) : (s.hcvM c g).seqs = s.seqs := rfl
@[simp] theorem State.hcvM_cores (s : State) (c : Nat) (g : Hcv → Hcv) : (s.hcvM c g).cores = s.cores := rfl
@[simp] theorem State.hcvM_clus (s : State) (c : Nat) (g : Hcv → Hcv) : (s.hcvM c g).clus = s.clus := rfl
@[simp] theorem State.hcvM_phys (s : State) (c : Nat) (g : Hcv → Hcv) : (s.hcvM c g).phys = s.phys := rfl
@[simp] theorem State.hcvM_dies (s : State) (c : Nat) (g : Hcv → Hcv) : (s.hcvM c g).dies = s.dies := rfl
@[simp] theorem State.hcvM_funcs (s : State) (c : Nat) (g : Hcv → Hcv) : (s.hcvM c g).funcs = s.funcs := rfl
@[simp] theorem State.hcvM_doms (s : State) (c : Nat) (g : Hcv → Hcv) : (s.hcvM c g).doms = s.doms := rfl
@[simp] theorem State.hcvM_kdStat (s : State) (c : Nat) (g : Hcv → Hcv) : (s.hcvM c g).kdStat = s.kdStat := rfl
@[simp] theorem State.hcvM_jobs (s : State) (c : Nat) (g : Hcv → Hcv) : (s.hcvM c g).jobs = s.jobs := rfl
@[simp] theorem State.hcvM_sigs (s : State) (c : Nat) (g : Hcv → Hcv) : (s.hcvM c g).sigs = s.sigs := rfl
@[simp] theorem State.hcvM_colls (s : State) (c : Nat) (g : Hcv → Hcv) : (s.hcvM c g).colls = s.colls := rfl
@[simp] theorem State.hcvM_protect (s : State) (c : Nat) (g : Hcv → Hcv) : (s.hcvM c g).protect = s.protect := rfl
@[simp] theorem State.hcvM_dig (s : State) (c : Nat) (g : Hcv → Hcv) : (s.hcvM c g).dig = s.dig := rfl
@[simp] theorem State.hcvM_ldgSel (s : State) (c : Nat) (g : Hcv → Hcv) : (s.hcvM c g).ldgSel = s.ldgSel := rfl
@[simp] theorem State.hcvM_pwr (s : State) (c : Nat) (g : Hcv → Hcv) : (s.hcvM c g).pwr = s.pwr := rfl
@[simp] theorem State.hcvM_procs (s : State) (c : Nat) (g : Hcv → Hcv) : (s.hcvM c g).procs = s.procs := rfl
@[simp] theorem State.hcvM_mgmt (s : State) (c : Nat) (g : Hcv → Hcv) : (s.hcvM c g).mgmt = s.mgmt := rfl
@[simp] theorem State.hcvM_crust (s : State) (c : Nat) (g : Hcv → Hcv) : (s.hcvM c g).crust = s.crust := rfl
@[simp] theorem State.hcvM_rst (s : State) (c : Nat) (g : Hcv → Hcv) : (s.hcvM c g).rst = s.rst := rfl
@[simp] theorem State.hcvM_span (s : State) (c : Nat) (g : Hcv → Hcv) : (s.hcvM c g).span = s.span := rfl
@[simp] theorem State.hcvM_panel (s : State) (c : Nat) (g : Hcv → Hcv) : (s.hcvM c g).panel = s.panel := rfl
@[simp] theorem State.hcvM_harts (s : State) (c : Nat) (g : Hcv → Hcv) : (s.hcvM c g).harts = s.harts := rfl
@[simp] theorem State.hcvM_sch (s : State) (c : Nat) (g : Hcv → Hcv) : (s.hcvM c g).sch = s.sch := rfl
@[simp] theorem State.hcvM_out (s : State) (c : Nat) (g : Hcv → Hcv) : (s.hcvM c g).out = s.out := rfl
@[simp] theorem State.hcvM_free (s : State) (c : Nat) (g : Hcv → Hcv) : (s.hcvM c g).free = s.free := rfl

@[simp] theorem State.hartM_pending (s : State) (c : Nat) (g : Hart → Hart) : (s.hartM c g).pending = s.pending := rfl
@[simp] theorem State.hartM_part (s : State) (c : Nat) (g : Hart → Hart) : (s.hartM c g).part = s.part := rfl
@[simp] theorem State.hartM_boot (s : State) (c : Nat) (g : Hart → Hart) : (s.hartM c g).boot = s.boot := rfl
@[simp] theorem State.hartM_health (s : State) (c : Nat) (g : Hart → Hart) : (s.hartM c g).health = s.health := rfl
@[simp] theorem State.hartM_nvm (s : State) (c : Nat) (g : Hart → Hart) : (s.hartM c g).nvm = s.nvm := rfl
@[simp] theorem State.hartM_led (s : State) (c : Nat) (g : Hart → Hart) : (s.hartM c g).led = s.led := rfl
@[simp] theorem State.hartM_mem (s : State) (c : Nat) (g : Hart → Hart) : (s.hartM c g).mem = s.mem := rfl
@[simp] theorem State.hartM_ctxs (s : State) (c : Nat) (g : Hart → Hart) : (s.hartM c g).ctxs = s.ctxs := rfl
@[simp] theorem State.hartM_runs (s : State) (c : Nat) (g : Hart → Hart) : (s.hartM c g).runs = s.runs := rfl
@[simp] theorem State.hartM_seqs (s : State) (c : Nat) (g : Hart → Hart) : (s.hartM c g).seqs = s.seqs := rfl
@[simp] theorem State.hartM_cores (s : State) (c : Nat) (g : Hart → Hart) : (s.hartM c g).cores = s.cores := rfl
@[simp] theorem State.hartM_clus (s : State) (c : Nat) (g : Hart → Hart) : (s.hartM c g).clus = s.clus := rfl
@[simp] theorem State.hartM_phys (s : State) (c : Nat) (g : Hart → Hart) : (s.hartM c g).phys = s.phys := rfl
@[simp] theorem State.hartM_dies (s : State) (c : Nat) (g : Hart → Hart) : (s.hartM c g).dies = s.dies := rfl
@[simp] theorem State.hartM_funcs (s : State) (c : Nat) (g : Hart → Hart) : (s.hartM c g).funcs = s.funcs := rfl
@[simp] theorem State.hartM_doms (s : State) (c : Nat) (g : Hart → Hart) : (s.hartM c g).doms = s.doms := rfl
@[simp] theorem State.hartM_kdStat (s : State) (c : Nat) (g : Hart → Hart) : (s.hartM c g).kdStat = s.kdStat := rfl
@[simp] theorem State.hartM_jobs (s : State) (c : Nat) (g : Hart → Hart) : (s.hartM c g).jobs = s.jobs := rfl
@[simp] theorem State.hartM_sigs (s : State) (c : Nat) (g : Hart → Hart) : (s.hartM c g).sigs = s.sigs := rfl
@[simp] theorem State.hartM_colls (s : State) (c : Nat) (g : Hart → Hart) : (s.hartM c g).colls = s.colls := rfl
@[simp] theorem State.hartM_protect (s : State) (c : Nat) (g : Hart → Hart) : (s.hartM c g).protect = s.protect := rfl
@[simp] theorem State.hartM_dig (s : State) (c : Nat) (g : Hart → Hart) : (s.hartM c g).dig = s.dig := rfl
@[simp] theorem State.hartM_hcv (s : State) (c : Nat) (g : Hart → Hart) : (s.hartM c g).hcv = s.hcv := rfl
@[simp] theorem State.hartM_ldgSel (s : State) (c : Nat) (g : Hart → Hart) : (s.hartM c g).ldgSel = s.ldgSel := rfl
@[simp] theorem State.hartM_pwr (s : State) (c : Nat) (g : Hart → Hart) : (s.hartM c g).pwr = s.pwr := rfl
@[simp] theorem State.hartM_procs (s : State) (c : Nat) (g : Hart → Hart) : (s.hartM c g).procs = s.procs := rfl
@[simp] theorem State.hartM_mgmt (s : State) (c : Nat) (g : Hart → Hart) : (s.hartM c g).mgmt = s.mgmt := rfl
@[simp] theorem State.hartM_crust (s : State) (c : Nat) (g : Hart → Hart) : (s.hartM c g).crust = s.crust := rfl
@[simp] theorem State.hartM_rst (s : State) (c : Nat) (g : Hart → Hart) : (s.hartM c g).rst = s.rst := rfl
@[simp] theorem State.hartM_span (s : State) (c : Nat) (g : Hart → Hart) : (s.hartM c g).span = s.span := rfl
@[simp] theorem State.hartM_panel (s : State) (c : Nat) (g : Hart → Hart) : (s.hartM c g).panel = s.panel := rfl
@[simp] theorem State.hartM_sch (s : State) (c : Nat) (g : Hart → Hart) : (s.hartM c g).sch = s.sch := rfl
@[simp] theorem State.hartM_out (s : State) (c : Nat) (g : Hart → Hart) : (s.hartM c g).out = s.out := rfl
@[simp] theorem State.hartM_free (s : State) (c : Nat) (g : Hart → Hart) : (s.hartM c g).free = s.free := rfl

@[simp] theorem State.seqM_pending (s : State) (c cl : Nat) (g : SeqCtx → SeqCtx) : (s.seqM c cl g).pending = s.pending := rfl
@[simp] theorem State.seqM_part (s : State) (c cl : Nat) (g : SeqCtx → SeqCtx) : (s.seqM c cl g).part = s.part := rfl
@[simp] theorem State.seqM_boot (s : State) (c cl : Nat) (g : SeqCtx → SeqCtx) : (s.seqM c cl g).boot = s.boot := rfl
@[simp] theorem State.seqM_health (s : State) (c cl : Nat) (g : SeqCtx → SeqCtx) : (s.seqM c cl g).health = s.health := rfl
@[simp] theorem State.seqM_nvm (s : State) (c cl : Nat) (g : SeqCtx → SeqCtx) : (s.seqM c cl g).nvm = s.nvm := rfl
@[simp] theorem State.seqM_led (s : State) (c cl : Nat) (g : SeqCtx → SeqCtx) : (s.seqM c cl g).led = s.led := rfl
@[simp] theorem State.seqM_mem (s : State) (c cl : Nat) (g : SeqCtx → SeqCtx) : (s.seqM c cl g).mem = s.mem := rfl
@[simp] theorem State.seqM_ctxs (s : State) (c cl : Nat) (g : SeqCtx → SeqCtx) : (s.seqM c cl g).ctxs = s.ctxs := rfl
@[simp] theorem State.seqM_runs (s : State) (c cl : Nat) (g : SeqCtx → SeqCtx) : (s.seqM c cl g).runs = s.runs := rfl
@[simp] theorem State.seqM_cores (s : State) (c cl : Nat) (g : SeqCtx → SeqCtx) : (s.seqM c cl g).cores = s.cores := rfl
@[simp] theorem State.seqM_clus (s : State) (c cl : Nat) (g : SeqCtx → SeqCtx) : (s.seqM c cl g).clus = s.clus := rfl
@[simp] theorem State.seqM_phys (s : State) (c cl : Nat) (g : SeqCtx → SeqCtx) : (s.seqM c cl g).phys = s.phys := rfl
@[simp] theorem State.seqM_dies (s : State) (c cl : Nat) (g : SeqCtx → SeqCtx) : (s.seqM c cl g).dies = s.dies := rfl
@[simp] theorem State.seqM_funcs (s : State) (c cl : Nat) (g : SeqCtx → SeqCtx) : (s.seqM c cl g).funcs = s.funcs := rfl
@[simp] theorem State.seqM_doms (s : State) (c cl : Nat) (g : SeqCtx → SeqCtx) : (s.seqM c cl g).doms = s.doms := rfl
@[simp] theorem State.seqM_kdStat (s : State) (c cl : Nat) (g : SeqCtx → SeqCtx) : (s.seqM c cl g).kdStat = s.kdStat := rfl
@[simp] theorem State.seqM_jobs (s : State) (c cl : Nat) (g : SeqCtx → SeqCtx) : (s.seqM c cl g).jobs = s.jobs := rfl
@[simp] theorem State.seqM_sigs (s : State) (c cl : Nat) (g : SeqCtx → SeqCtx) : (s.seqM c cl g).sigs = s.sigs := rfl
@[simp] theorem State.seqM_colls (s : State) (c cl : Nat) (g : SeqCtx → SeqCtx) : (s.seqM c cl g).colls = s.colls := rfl
@[simp] theorem State.seqM_protect (s : State) (c cl : Nat) (g : SeqCtx → SeqCtx) : (s.seqM c cl g).protect = s.protect := rfl
@[simp] theorem State.seqM_dig (s : State) (c cl : Nat) (g : SeqCtx → SeqCtx) : (s.seqM c cl g).dig = s.dig := rfl
@[simp] theorem State.seqM_hcv (s : State) (c cl : Nat) (g : SeqCtx → SeqCtx) : (s.seqM c cl g).hcv = s.hcv := rfl
@[simp] theorem State.seqM_ldgSel (s : State) (c cl : Nat) (g : SeqCtx → SeqCtx) : (s.seqM c cl g).ldgSel = s.ldgSel := rfl
@[simp] theorem State.seqM_pwr (s : State) (c cl : Nat) (g : SeqCtx → SeqCtx) : (s.seqM c cl g).pwr = s.pwr := rfl
@[simp] theorem State.seqM_procs (s : State) (c cl : Nat) (g : SeqCtx → SeqCtx) : (s.seqM c cl g).procs = s.procs := rfl
@[simp] theorem State.seqM_mgmt (s : State) (c cl : Nat) (g : SeqCtx → SeqCtx) : (s.seqM c cl g).mgmt = s.mgmt := rfl
@[simp] theorem State.seqM_crust (s : State) (c cl : Nat) (g : SeqCtx → SeqCtx) : (s.seqM c cl g).crust = s.crust := rfl
@[simp] theorem State.seqM_rst (s : State) (c cl : Nat) (g : SeqCtx → SeqCtx) : (s.seqM c cl g).rst = s.rst := rfl
@[simp] theorem State.seqM_span (s : State) (c cl : Nat) (g : SeqCtx → SeqCtx) : (s.seqM c cl g).span = s.span := rfl
@[simp] theorem State.seqM_panel (s : State) (c cl : Nat) (g : SeqCtx → SeqCtx) : (s.seqM c cl g).panel = s.panel := rfl
@[simp] theorem State.seqM_harts (s : State) (c cl : Nat) (g : SeqCtx → SeqCtx) : (s.seqM c cl g).harts = s.harts := rfl
@[simp] theorem State.seqM_sch (s : State) (c cl : Nat) (g : SeqCtx → SeqCtx) : (s.seqM c cl g).sch = s.sch := rfl
@[simp] theorem State.seqM_out (s : State) (c cl : Nat) (g : SeqCtx → SeqCtx) : (s.seqM c cl g).out = s.out := rfl
@[simp] theorem State.seqM_free (s : State) (c cl : Nat) (g : SeqCtx → SeqCtx) : (s.seqM c cl g).free = s.free := rfl

@[simp] theorem State.coreM_pending (s : State) (c n : Nat) (g : CoreCtx → CoreCtx) : (s.coreM c n g).pending = s.pending := rfl
@[simp] theorem State.coreM_part (s : State) (c n : Nat) (g : CoreCtx → CoreCtx) : (s.coreM c n g).part = s.part := rfl
@[simp] theorem State.coreM_boot (s : State) (c n : Nat) (g : CoreCtx → CoreCtx) : (s.coreM c n g).boot = s.boot := rfl
@[simp] theorem State.coreM_health (s : State) (c n : Nat) (g : CoreCtx → CoreCtx) : (s.coreM c n g).health = s.health := rfl
@[simp] theorem State.coreM_nvm (s : State) (c n : Nat) (g : CoreCtx → CoreCtx) : (s.coreM c n g).nvm = s.nvm := rfl
@[simp] theorem State.coreM_led (s : State) (c n : Nat) (g : CoreCtx → CoreCtx) : (s.coreM c n g).led = s.led := rfl
@[simp] theorem State.coreM_mem (s : State) (c n : Nat) (g : CoreCtx → CoreCtx) : (s.coreM c n g).mem = s.mem := rfl
@[simp] theorem State.coreM_ctxs (s : State) (c n : Nat) (g : CoreCtx → CoreCtx) : (s.coreM c n g).ctxs = s.ctxs := rfl
@[simp] theorem State.coreM_runs (s : State) (c n : Nat) (g : CoreCtx → CoreCtx) : (s.coreM c n g).runs = s.runs := rfl
@[simp] theorem State.coreM_seqs (s : State) (c n : Nat) (g : CoreCtx → CoreCtx) : (s.coreM c n g).seqs = s.seqs := rfl
@[simp] theorem State.coreM_clus (s : State) (c n : Nat) (g : CoreCtx → CoreCtx) : (s.coreM c n g).clus = s.clus := rfl
@[simp] theorem State.coreM_phys (s : State) (c n : Nat) (g : CoreCtx → CoreCtx) : (s.coreM c n g).phys = s.phys := rfl
@[simp] theorem State.coreM_dies (s : State) (c n : Nat) (g : CoreCtx → CoreCtx) : (s.coreM c n g).dies = s.dies := rfl
@[simp] theorem State.coreM_funcs (s : State) (c n : Nat) (g : CoreCtx → CoreCtx) : (s.coreM c n g).funcs = s.funcs := rfl
@[simp] theorem State.coreM_doms (s : State) (c n : Nat) (g : CoreCtx → CoreCtx) : (s.coreM c n g).doms = s.doms := rfl
@[simp] theorem State.coreM_kdStat (s : State) (c n : Nat) (g : CoreCtx → CoreCtx) : (s.coreM c n g).kdStat = s.kdStat := rfl
@[simp] theorem State.coreM_jobs (s : State) (c n : Nat) (g : CoreCtx → CoreCtx) : (s.coreM c n g).jobs = s.jobs := rfl
@[simp] theorem State.coreM_sigs (s : State) (c n : Nat) (g : CoreCtx → CoreCtx) : (s.coreM c n g).sigs = s.sigs := rfl
@[simp] theorem State.coreM_colls (s : State) (c n : Nat) (g : CoreCtx → CoreCtx) : (s.coreM c n g).colls = s.colls := rfl
@[simp] theorem State.coreM_protect (s : State) (c n : Nat) (g : CoreCtx → CoreCtx) : (s.coreM c n g).protect = s.protect := rfl
@[simp] theorem State.coreM_dig (s : State) (c n : Nat) (g : CoreCtx → CoreCtx) : (s.coreM c n g).dig = s.dig := rfl
@[simp] theorem State.coreM_hcv (s : State) (c n : Nat) (g : CoreCtx → CoreCtx) : (s.coreM c n g).hcv = s.hcv := rfl
@[simp] theorem State.coreM_ldgSel (s : State) (c n : Nat) (g : CoreCtx → CoreCtx) : (s.coreM c n g).ldgSel = s.ldgSel := rfl
@[simp] theorem State.coreM_pwr (s : State) (c n : Nat) (g : CoreCtx → CoreCtx) : (s.coreM c n g).pwr = s.pwr := rfl
@[simp] theorem State.coreM_procs (s : State) (c n : Nat) (g : CoreCtx → CoreCtx) : (s.coreM c n g).procs = s.procs := rfl
@[simp] theorem State.coreM_mgmt (s : State) (c n : Nat) (g : CoreCtx → CoreCtx) : (s.coreM c n g).mgmt = s.mgmt := rfl
@[simp] theorem State.coreM_crust (s : State) (c n : Nat) (g : CoreCtx → CoreCtx) : (s.coreM c n g).crust = s.crust := rfl
@[simp] theorem State.coreM_rst (s : State) (c n : Nat) (g : CoreCtx → CoreCtx) : (s.coreM c n g).rst = s.rst := rfl
@[simp] theorem State.coreM_span (s : State) (c n : Nat) (g : CoreCtx → CoreCtx) : (s.coreM c n g).span = s.span := rfl
@[simp] theorem State.coreM_panel (s : State) (c n : Nat) (g : CoreCtx → CoreCtx) : (s.coreM c n g).panel = s.panel := rfl
@[simp] theorem State.coreM_harts (s : State) (c n : Nat) (g : CoreCtx → CoreCtx) : (s.coreM c n g).harts = s.harts := rfl
@[simp] theorem State.coreM_sch (s : State) (c n : Nat) (g : CoreCtx → CoreCtx) : (s.coreM c n g).sch = s.sch := rfl
@[simp] theorem State.coreM_out (s : State) (c n : Nat) (g : CoreCtx → CoreCtx) : (s.coreM c n g).out = s.out := rfl
@[simp] theorem State.coreM_free (s : State) (c n : Nat) (g : CoreCtx → CoreCtx) : (s.coreM c n g).free = s.free := rfl

@[simp] theorem State.chanM_pending (s : State) (st ch : Nat) (g : Chan → Chan) : (s.chanM st ch g).pending = s.pending := rfl
@[simp] theorem State.chanM_part (s : State) (st ch : Nat) (g : Chan → Chan) : (s.chanM st ch g).part = s.part := rfl
@[simp] theorem State.chanM_boot (s : State) (st ch : Nat) (g : Chan → Chan) : (s.chanM st ch g).boot = s.boot := rfl
@[simp] theorem State.chanM_health (s : State) (st ch : Nat) (g : Chan → Chan) : (s.chanM st ch g).health = s.health := rfl
@[simp] theorem State.chanM_nvm (s : State) (st ch : Nat) (g : Chan → Chan) : (s.chanM st ch g).nvm = s.nvm := rfl
@[simp] theorem State.chanM_led (s : State) (st ch : Nat) (g : Chan → Chan) : (s.chanM st ch g).led = s.led := rfl
@[simp] theorem State.chanM_ctxs (s : State) (st ch : Nat) (g : Chan → Chan) : (s.chanM st ch g).ctxs = s.ctxs := rfl
@[simp] theorem State.chanM_runs (s : State) (st ch : Nat) (g : Chan → Chan) : (s.chanM st ch g).runs = s.runs := rfl
@[simp] theorem State.chanM_seqs (s : State) (st ch : Nat) (g : Chan → Chan) : (s.chanM st ch g).seqs = s.seqs := rfl
@[simp] theorem State.chanM_cores (s : State) (st ch : Nat) (g : Chan → Chan) : (s.chanM st ch g).cores = s.cores := rfl
@[simp] theorem State.chanM_clus (s : State) (st ch : Nat) (g : Chan → Chan) : (s.chanM st ch g).clus = s.clus := rfl
@[simp] theorem State.chanM_phys (s : State) (st ch : Nat) (g : Chan → Chan) : (s.chanM st ch g).phys = s.phys := rfl
@[simp] theorem State.chanM_dies (s : State) (st ch : Nat) (g : Chan → Chan) : (s.chanM st ch g).dies = s.dies := rfl
@[simp] theorem State.chanM_funcs (s : State) (st ch : Nat) (g : Chan → Chan) : (s.chanM st ch g).funcs = s.funcs := rfl
@[simp] theorem State.chanM_doms (s : State) (st ch : Nat) (g : Chan → Chan) : (s.chanM st ch g).doms = s.doms := rfl
@[simp] theorem State.chanM_kdStat (s : State) (st ch : Nat) (g : Chan → Chan) : (s.chanM st ch g).kdStat = s.kdStat := rfl
@[simp] theorem State.chanM_jobs (s : State) (st ch : Nat) (g : Chan → Chan) : (s.chanM st ch g).jobs = s.jobs := rfl
@[simp] theorem State.chanM_sigs (s : State) (st ch : Nat) (g : Chan → Chan) : (s.chanM st ch g).sigs = s.sigs := rfl
@[simp] theorem State.chanM_colls (s : State) (st ch : Nat) (g : Chan → Chan) : (s.chanM st ch g).colls = s.colls := rfl
@[simp] theorem State.chanM_protect (s : State) (st ch : Nat) (g : Chan → Chan) : (s.chanM st ch g).protect = s.protect := rfl
@[simp] theorem State.chanM_dig (s : State) (st ch : Nat) (g : Chan → Chan) : (s.chanM st ch g).dig = s.dig := rfl
@[simp] theorem State.chanM_hcv (s : State) (st ch : Nat) (g : Chan → Chan) : (s.chanM st ch g).hcv = s.hcv := rfl
@[simp] theorem State.chanM_ldgSel (s : State) (st ch : Nat) (g : Chan → Chan) : (s.chanM st ch g).ldgSel = s.ldgSel := rfl
@[simp] theorem State.chanM_pwr (s : State) (st ch : Nat) (g : Chan → Chan) : (s.chanM st ch g).pwr = s.pwr := rfl
@[simp] theorem State.chanM_procs (s : State) (st ch : Nat) (g : Chan → Chan) : (s.chanM st ch g).procs = s.procs := rfl
@[simp] theorem State.chanM_mgmt (s : State) (st ch : Nat) (g : Chan → Chan) : (s.chanM st ch g).mgmt = s.mgmt := rfl
@[simp] theorem State.chanM_crust (s : State) (st ch : Nat) (g : Chan → Chan) : (s.chanM st ch g).crust = s.crust := rfl
@[simp] theorem State.chanM_rst (s : State) (st ch : Nat) (g : Chan → Chan) : (s.chanM st ch g).rst = s.rst := rfl
@[simp] theorem State.chanM_span (s : State) (st ch : Nat) (g : Chan → Chan) : (s.chanM st ch g).span = s.span := rfl
@[simp] theorem State.chanM_panel (s : State) (st ch : Nat) (g : Chan → Chan) : (s.chanM st ch g).panel = s.panel := rfl
@[simp] theorem State.chanM_harts (s : State) (st ch : Nat) (g : Chan → Chan) : (s.chanM st ch g).harts = s.harts := rfl
@[simp] theorem State.chanM_sch (s : State) (st ch : Nat) (g : Chan → Chan) : (s.chanM st ch g).sch = s.sch := rfl
@[simp] theorem State.chanM_out (s : State) (st ch : Nat) (g : Chan → Chan) : (s.chanM st ch g).out = s.out := rfl
@[simp] theorem State.chanM_free (s : State) (st ch : Nat) (g : Chan → Chan) : (s.chanM st ch g).free = s.free := rfl

@[simp] theorem State.putBytes_pending (s : State) (a : Nat) (bs : List (BitVec 8)) : (s.putBytes a bs).pending = s.pending := rfl
@[simp] theorem State.putBytes_part (s : State) (a : Nat) (bs : List (BitVec 8)) : (s.putBytes a bs).part = s.part := rfl
@[simp] theorem State.putBytes_boot (s : State) (a : Nat) (bs : List (BitVec 8)) : (s.putBytes a bs).boot = s.boot := rfl
@[simp] theorem State.putBytes_health (s : State) (a : Nat) (bs : List (BitVec 8)) : (s.putBytes a bs).health = s.health := rfl
@[simp] theorem State.putBytes_nvm (s : State) (a : Nat) (bs : List (BitVec 8)) : (s.putBytes a bs).nvm = s.nvm := rfl
@[simp] theorem State.putBytes_led (s : State) (a : Nat) (bs : List (BitVec 8)) : (s.putBytes a bs).led = s.led := rfl
@[simp] theorem State.putBytes_ctxs (s : State) (a : Nat) (bs : List (BitVec 8)) : (s.putBytes a bs).ctxs = s.ctxs := rfl
@[simp] theorem State.putBytes_runs (s : State) (a : Nat) (bs : List (BitVec 8)) : (s.putBytes a bs).runs = s.runs := rfl
@[simp] theorem State.putBytes_seqs (s : State) (a : Nat) (bs : List (BitVec 8)) : (s.putBytes a bs).seqs = s.seqs := rfl
@[simp] theorem State.putBytes_cores (s : State) (a : Nat) (bs : List (BitVec 8)) : (s.putBytes a bs).cores = s.cores := rfl
@[simp] theorem State.putBytes_clus (s : State) (a : Nat) (bs : List (BitVec 8)) : (s.putBytes a bs).clus = s.clus := rfl
@[simp] theorem State.putBytes_phys (s : State) (a : Nat) (bs : List (BitVec 8)) : (s.putBytes a bs).phys = s.phys := rfl
@[simp] theorem State.putBytes_dies (s : State) (a : Nat) (bs : List (BitVec 8)) : (s.putBytes a bs).dies = s.dies := rfl
@[simp] theorem State.putBytes_funcs (s : State) (a : Nat) (bs : List (BitVec 8)) : (s.putBytes a bs).funcs = s.funcs := rfl
@[simp] theorem State.putBytes_doms (s : State) (a : Nat) (bs : List (BitVec 8)) : (s.putBytes a bs).doms = s.doms := rfl
@[simp] theorem State.putBytes_kdStat (s : State) (a : Nat) (bs : List (BitVec 8)) : (s.putBytes a bs).kdStat = s.kdStat := rfl
@[simp] theorem State.putBytes_jobs (s : State) (a : Nat) (bs : List (BitVec 8)) : (s.putBytes a bs).jobs = s.jobs := rfl
@[simp] theorem State.putBytes_sigs (s : State) (a : Nat) (bs : List (BitVec 8)) : (s.putBytes a bs).sigs = s.sigs := rfl
@[simp] theorem State.putBytes_colls (s : State) (a : Nat) (bs : List (BitVec 8)) : (s.putBytes a bs).colls = s.colls := rfl
@[simp] theorem State.putBytes_protect (s : State) (a : Nat) (bs : List (BitVec 8)) : (s.putBytes a bs).protect = s.protect := rfl
@[simp] theorem State.putBytes_dig (s : State) (a : Nat) (bs : List (BitVec 8)) : (s.putBytes a bs).dig = s.dig := rfl
@[simp] theorem State.putBytes_hcv (s : State) (a : Nat) (bs : List (BitVec 8)) : (s.putBytes a bs).hcv = s.hcv := rfl
@[simp] theorem State.putBytes_ldgSel (s : State) (a : Nat) (bs : List (BitVec 8)) : (s.putBytes a bs).ldgSel = s.ldgSel := rfl
@[simp] theorem State.putBytes_pwr (s : State) (a : Nat) (bs : List (BitVec 8)) : (s.putBytes a bs).pwr = s.pwr := rfl
@[simp] theorem State.putBytes_procs (s : State) (a : Nat) (bs : List (BitVec 8)) : (s.putBytes a bs).procs = s.procs := rfl
@[simp] theorem State.putBytes_mgmt (s : State) (a : Nat) (bs : List (BitVec 8)) : (s.putBytes a bs).mgmt = s.mgmt := rfl
@[simp] theorem State.putBytes_crust (s : State) (a : Nat) (bs : List (BitVec 8)) : (s.putBytes a bs).crust = s.crust := rfl
@[simp] theorem State.putBytes_rst (s : State) (a : Nat) (bs : List (BitVec 8)) : (s.putBytes a bs).rst = s.rst := rfl
@[simp] theorem State.putBytes_span (s : State) (a : Nat) (bs : List (BitVec 8)) : (s.putBytes a bs).span = s.span := rfl
@[simp] theorem State.putBytes_panel (s : State) (a : Nat) (bs : List (BitVec 8)) : (s.putBytes a bs).panel = s.panel := rfl
@[simp] theorem State.putBytes_harts (s : State) (a : Nat) (bs : List (BitVec 8)) : (s.putBytes a bs).harts = s.harts := rfl
@[simp] theorem State.putBytes_sch (s : State) (a : Nat) (bs : List (BitVec 8)) : (s.putBytes a bs).sch = s.sch := rfl
@[simp] theorem State.putBytes_out (s : State) (a : Nat) (bs : List (BitVec 8)) : (s.putBytes a bs).out = s.out := rfl
@[simp] theorem State.putBytes_free (s : State) (a : Nat) (bs : List (BitVec 8)) : (s.putBytes a bs).free = s.free := rfl

@[simp] theorem State.zeroBytes_pending (s : State) (a n : Nat) : (s.zeroBytes a n).pending = s.pending := rfl
@[simp] theorem State.zeroBytes_part (s : State) (a n : Nat) : (s.zeroBytes a n).part = s.part := rfl
@[simp] theorem State.zeroBytes_boot (s : State) (a n : Nat) : (s.zeroBytes a n).boot = s.boot := rfl
@[simp] theorem State.zeroBytes_health (s : State) (a n : Nat) : (s.zeroBytes a n).health = s.health := rfl
@[simp] theorem State.zeroBytes_nvm (s : State) (a n : Nat) : (s.zeroBytes a n).nvm = s.nvm := rfl
@[simp] theorem State.zeroBytes_led (s : State) (a n : Nat) : (s.zeroBytes a n).led = s.led := rfl
@[simp] theorem State.zeroBytes_ctxs (s : State) (a n : Nat) : (s.zeroBytes a n).ctxs = s.ctxs := rfl
@[simp] theorem State.zeroBytes_runs (s : State) (a n : Nat) : (s.zeroBytes a n).runs = s.runs := rfl
@[simp] theorem State.zeroBytes_seqs (s : State) (a n : Nat) : (s.zeroBytes a n).seqs = s.seqs := rfl
@[simp] theorem State.zeroBytes_cores (s : State) (a n : Nat) : (s.zeroBytes a n).cores = s.cores := rfl
@[simp] theorem State.zeroBytes_clus (s : State) (a n : Nat) : (s.zeroBytes a n).clus = s.clus := rfl
@[simp] theorem State.zeroBytes_phys (s : State) (a n : Nat) : (s.zeroBytes a n).phys = s.phys := rfl
@[simp] theorem State.zeroBytes_dies (s : State) (a n : Nat) : (s.zeroBytes a n).dies = s.dies := rfl
@[simp] theorem State.zeroBytes_funcs (s : State) (a n : Nat) : (s.zeroBytes a n).funcs = s.funcs := rfl
@[simp] theorem State.zeroBytes_doms (s : State) (a n : Nat) : (s.zeroBytes a n).doms = s.doms := rfl
@[simp] theorem State.zeroBytes_kdStat (s : State) (a n : Nat) : (s.zeroBytes a n).kdStat = s.kdStat := rfl
@[simp] theorem State.zeroBytes_jobs (s : State) (a n : Nat) : (s.zeroBytes a n).jobs = s.jobs := rfl
@[simp] theorem State.zeroBytes_sigs (s : State) (a n : Nat) : (s.zeroBytes a n).sigs = s.sigs := rfl
@[simp] theorem State.zeroBytes_colls (s : State) (a n : Nat) : (s.zeroBytes a n).colls = s.colls := rfl
@[simp] theorem State.zeroBytes_protect (s : State) (a n : Nat) : (s.zeroBytes a n).protect = s.protect := rfl
@[simp] theorem State.zeroBytes_dig (s : State) (a n : Nat) : (s.zeroBytes a n).dig = s.dig := rfl
@[simp] theorem State.zeroBytes_hcv (s : State) (a n : Nat) : (s.zeroBytes a n).hcv = s.hcv := rfl
@[simp] theorem State.zeroBytes_ldgSel (s : State) (a n : Nat) : (s.zeroBytes a n).ldgSel = s.ldgSel := rfl
@[simp] theorem State.zeroBytes_pwr (s : State) (a n : Nat) : (s.zeroBytes a n).pwr = s.pwr := rfl
@[simp] theorem State.zeroBytes_procs (s : State) (a n : Nat) : (s.zeroBytes a n).procs = s.procs := rfl
@[simp] theorem State.zeroBytes_mgmt (s : State) (a n : Nat) : (s.zeroBytes a n).mgmt = s.mgmt := rfl
@[simp] theorem State.zeroBytes_crust (s : State) (a n : Nat) : (s.zeroBytes a n).crust = s.crust := rfl
@[simp] theorem State.zeroBytes_rst (s : State) (a n : Nat) : (s.zeroBytes a n).rst = s.rst := rfl
@[simp] theorem State.zeroBytes_span (s : State) (a n : Nat) : (s.zeroBytes a n).span = s.span := rfl
@[simp] theorem State.zeroBytes_panel (s : State) (a n : Nat) : (s.zeroBytes a n).panel = s.panel := rfl
@[simp] theorem State.zeroBytes_harts (s : State) (a n : Nat) : (s.zeroBytes a n).harts = s.harts := rfl
@[simp] theorem State.zeroBytes_sch (s : State) (a n : Nat) : (s.zeroBytes a n).sch = s.sch := rfl
@[simp] theorem State.zeroBytes_out (s : State) (a n : Nat) : (s.zeroBytes a n).out = s.out := rfl
@[simp] theorem State.zeroBytes_free (s : State) (a n : Nat) : (s.zeroBytes a n).free = s.free := rfl

@[simp] theorem State.poisonLine_pending (s : State) (a : Nat) : (s.poisonLine a).pending = s.pending := rfl
@[simp] theorem State.poisonLine_part (s : State) (a : Nat) : (s.poisonLine a).part = s.part := rfl
@[simp] theorem State.poisonLine_boot (s : State) (a : Nat) : (s.poisonLine a).boot = s.boot := rfl
@[simp] theorem State.poisonLine_health (s : State) (a : Nat) : (s.poisonLine a).health = s.health := rfl
@[simp] theorem State.poisonLine_nvm (s : State) (a : Nat) : (s.poisonLine a).nvm = s.nvm := rfl
@[simp] theorem State.poisonLine_led (s : State) (a : Nat) : (s.poisonLine a).led = s.led := rfl
@[simp] theorem State.poisonLine_ctxs (s : State) (a : Nat) : (s.poisonLine a).ctxs = s.ctxs := rfl
@[simp] theorem State.poisonLine_runs (s : State) (a : Nat) : (s.poisonLine a).runs = s.runs := rfl
@[simp] theorem State.poisonLine_seqs (s : State) (a : Nat) : (s.poisonLine a).seqs = s.seqs := rfl
@[simp] theorem State.poisonLine_cores (s : State) (a : Nat) : (s.poisonLine a).cores = s.cores := rfl
@[simp] theorem State.poisonLine_clus (s : State) (a : Nat) : (s.poisonLine a).clus = s.clus := rfl
@[simp] theorem State.poisonLine_phys (s : State) (a : Nat) : (s.poisonLine a).phys = s.phys := rfl
@[simp] theorem State.poisonLine_dies (s : State) (a : Nat) : (s.poisonLine a).dies = s.dies := rfl
@[simp] theorem State.poisonLine_funcs (s : State) (a : Nat) : (s.poisonLine a).funcs = s.funcs := rfl
@[simp] theorem State.poisonLine_doms (s : State) (a : Nat) : (s.poisonLine a).doms = s.doms := rfl
@[simp] theorem State.poisonLine_kdStat (s : State) (a : Nat) : (s.poisonLine a).kdStat = s.kdStat := rfl
@[simp] theorem State.poisonLine_jobs (s : State) (a : Nat) : (s.poisonLine a).jobs = s.jobs := rfl
@[simp] theorem State.poisonLine_sigs (s : State) (a : Nat) : (s.poisonLine a).sigs = s.sigs := rfl
@[simp] theorem State.poisonLine_colls (s : State) (a : Nat) : (s.poisonLine a).colls = s.colls := rfl
@[simp] theorem State.poisonLine_protect (s : State) (a : Nat) : (s.poisonLine a).protect = s.protect := rfl
@[simp] theorem State.poisonLine_dig (s : State) (a : Nat) : (s.poisonLine a).dig = s.dig := rfl
@[simp] theorem State.poisonLine_hcv (s : State) (a : Nat) : (s.poisonLine a).hcv = s.hcv := rfl
@[simp] theorem State.poisonLine_ldgSel (s : State) (a : Nat) : (s.poisonLine a).ldgSel = s.ldgSel := rfl
@[simp] theorem State.poisonLine_pwr (s : State) (a : Nat) : (s.poisonLine a).pwr = s.pwr := rfl
@[simp] theorem State.poisonLine_procs (s : State) (a : Nat) : (s.poisonLine a).procs = s.procs := rfl
@[simp] theorem State.poisonLine_mgmt (s : State) (a : Nat) : (s.poisonLine a).mgmt = s.mgmt := rfl
@[simp] theorem State.poisonLine_crust (s : State) (a : Nat) : (s.poisonLine a).crust = s.crust := rfl
@[simp] theorem State.poisonLine_rst (s : State) (a : Nat) : (s.poisonLine a).rst = s.rst := rfl
@[simp] theorem State.poisonLine_span (s : State) (a : Nat) : (s.poisonLine a).span = s.span := rfl
@[simp] theorem State.poisonLine_panel (s : State) (a : Nat) : (s.poisonLine a).panel = s.panel := rfl
@[simp] theorem State.poisonLine_harts (s : State) (a : Nat) : (s.poisonLine a).harts = s.harts := rfl
@[simp] theorem State.poisonLine_sch (s : State) (a : Nat) : (s.poisonLine a).sch = s.sch := rfl
@[simp] theorem State.poisonLine_out (s : State) (a : Nat) : (s.poisonLine a).out = s.out := rfl
@[simp] theorem State.poisonLine_free (s : State) (a : Nat) : (s.poisonLine a).free = s.free := rfl

@[simp] theorem State.emit_pending (s : State) (e : OutEv) : (s.emit e).pending = s.pending := rfl
@[simp] theorem State.emit_part (s : State) (e : OutEv) : (s.emit e).part = s.part := rfl
@[simp] theorem State.emit_boot (s : State) (e : OutEv) : (s.emit e).boot = s.boot := rfl
@[simp] theorem State.emit_health (s : State) (e : OutEv) : (s.emit e).health = s.health := rfl
@[simp] theorem State.emit_nvm (s : State) (e : OutEv) : (s.emit e).nvm = s.nvm := rfl
@[simp] theorem State.emit_led (s : State) (e : OutEv) : (s.emit e).led = s.led := rfl
@[simp] theorem State.emit_mem (s : State) (e : OutEv) : (s.emit e).mem = s.mem := rfl
@[simp] theorem State.emit_ctxs (s : State) (e : OutEv) : (s.emit e).ctxs = s.ctxs := rfl
@[simp] theorem State.emit_runs (s : State) (e : OutEv) : (s.emit e).runs = s.runs := rfl
@[simp] theorem State.emit_seqs (s : State) (e : OutEv) : (s.emit e).seqs = s.seqs := rfl
@[simp] theorem State.emit_cores (s : State) (e : OutEv) : (s.emit e).cores = s.cores := rfl
@[simp] theorem State.emit_clus (s : State) (e : OutEv) : (s.emit e).clus = s.clus := rfl
@[simp] theorem State.emit_phys (s : State) (e : OutEv) : (s.emit e).phys = s.phys := rfl
@[simp] theorem State.emit_dies (s : State) (e : OutEv) : (s.emit e).dies = s.dies := rfl
@[simp] theorem State.emit_funcs (s : State) (e : OutEv) : (s.emit e).funcs = s.funcs := rfl
@[simp] theorem State.emit_doms (s : State) (e : OutEv) : (s.emit e).doms = s.doms := rfl
@[simp] theorem State.emit_kdStat (s : State) (e : OutEv) : (s.emit e).kdStat = s.kdStat := rfl
@[simp] theorem State.emit_jobs (s : State) (e : OutEv) : (s.emit e).jobs = s.jobs := rfl
@[simp] theorem State.emit_sigs (s : State) (e : OutEv) : (s.emit e).sigs = s.sigs := rfl
@[simp] theorem State.emit_colls (s : State) (e : OutEv) : (s.emit e).colls = s.colls := rfl
@[simp] theorem State.emit_protect (s : State) (e : OutEv) : (s.emit e).protect = s.protect := rfl
@[simp] theorem State.emit_dig (s : State) (e : OutEv) : (s.emit e).dig = s.dig := rfl
@[simp] theorem State.emit_hcv (s : State) (e : OutEv) : (s.emit e).hcv = s.hcv := rfl
@[simp] theorem State.emit_ldgSel (s : State) (e : OutEv) : (s.emit e).ldgSel = s.ldgSel := rfl
@[simp] theorem State.emit_pwr (s : State) (e : OutEv) : (s.emit e).pwr = s.pwr := rfl
@[simp] theorem State.emit_procs (s : State) (e : OutEv) : (s.emit e).procs = s.procs := rfl
@[simp] theorem State.emit_mgmt (s : State) (e : OutEv) : (s.emit e).mgmt = s.mgmt := rfl
@[simp] theorem State.emit_crust (s : State) (e : OutEv) : (s.emit e).crust = s.crust := rfl
@[simp] theorem State.emit_rst (s : State) (e : OutEv) : (s.emit e).rst = s.rst := rfl
@[simp] theorem State.emit_span (s : State) (e : OutEv) : (s.emit e).span = s.span := rfl
@[simp] theorem State.emit_panel (s : State) (e : OutEv) : (s.emit e).panel = s.panel := rfl
@[simp] theorem State.emit_harts (s : State) (e : OutEv) : (s.emit e).harts = s.harts := rfl
@[simp] theorem State.emit_sch (s : State) (e : OutEv) : (s.emit e).sch = s.sch := rfl
@[simp] theorem State.emit_free (s : State) (e : OutEv) : (s.emit e).free = s.free := rfl

@[simp] theorem State.nvmCommit_pending (s : State) : (s.nvmCommit).pending = s.pending := rfl
@[simp] theorem State.nvmCommit_part (s : State) : (s.nvmCommit).part = s.part := rfl
@[simp] theorem State.nvmCommit_boot (s : State) : (s.nvmCommit).boot = s.boot := rfl
@[simp] theorem State.nvmCommit_health (s : State) : (s.nvmCommit).health = s.health := rfl
@[simp] theorem State.nvmCommit_led (s : State) : (s.nvmCommit).led = s.led := rfl
@[simp] theorem State.nvmCommit_mem (s : State) : (s.nvmCommit).mem = s.mem := rfl
@[simp] theorem State.nvmCommit_ctxs (s : State) : (s.nvmCommit).ctxs = s.ctxs := rfl
@[simp] theorem State.nvmCommit_runs (s : State) : (s.nvmCommit).runs = s.runs := rfl
@[simp] theorem State.nvmCommit_seqs (s : State) : (s.nvmCommit).seqs = s.seqs := rfl
@[simp] theorem State.nvmCommit_cores (s : State) : (s.nvmCommit).cores = s.cores := rfl
@[simp] theorem State.nvmCommit_clus (s : State) : (s.nvmCommit).clus = s.clus := rfl
@[simp] theorem State.nvmCommit_phys (s : State) : (s.nvmCommit).phys = s.phys := rfl
@[simp] theorem State.nvmCommit_dies (s : State) : (s.nvmCommit).dies = s.dies := rfl
@[simp] theorem State.nvmCommit_funcs (s : State) : (s.nvmCommit).funcs = s.funcs := rfl
@[simp] theorem State.nvmCommit_doms (s : State) : (s.nvmCommit).doms = s.doms := rfl
@[simp] theorem State.nvmCommit_kdStat (s : State) : (s.nvmCommit).kdStat = s.kdStat := rfl
@[simp] theorem State.nvmCommit_jobs (s : State) : (s.nvmCommit).jobs = s.jobs := rfl
@[simp] theorem State.nvmCommit_sigs (s : State) : (s.nvmCommit).sigs = s.sigs := rfl
@[simp] theorem State.nvmCommit_colls (s : State) : (s.nvmCommit).colls = s.colls := rfl
@[simp] theorem State.nvmCommit_protect (s : State) : (s.nvmCommit).protect = s.protect := rfl
@[simp] theorem State.nvmCommit_dig (s : State) : (s.nvmCommit).dig = s.dig := rfl
@[simp] theorem State.nvmCommit_hcv (s : State) : (s.nvmCommit).hcv = s.hcv := rfl
@[simp] theorem State.nvmCommit_ldgSel (s : State) : (s.nvmCommit).ldgSel = s.ldgSel := rfl
@[simp] theorem State.nvmCommit_pwr (s : State) : (s.nvmCommit).pwr = s.pwr := rfl
@[simp] theorem State.nvmCommit_procs (s : State) : (s.nvmCommit).procs = s.procs := rfl
@[simp] theorem State.nvmCommit_mgmt (s : State) : (s.nvmCommit).mgmt = s.mgmt := rfl
@[simp] theorem State.nvmCommit_crust (s : State) : (s.nvmCommit).crust = s.crust := rfl
@[simp] theorem State.nvmCommit_rst (s : State) : (s.nvmCommit).rst = s.rst := rfl
@[simp] theorem State.nvmCommit_span (s : State) : (s.nvmCommit).span = s.span := rfl
@[simp] theorem State.nvmCommit_panel (s : State) : (s.nvmCommit).panel = s.panel := rfl
@[simp] theorem State.nvmCommit_harts (s : State) : (s.nvmCommit).harts = s.harts := rfl
@[simp] theorem State.nvmCommit_sch (s : State) : (s.nvmCommit).sch = s.sch := rfl
@[simp] theorem State.nvmCommit_out (s : State) : (s.nvmCommit).out = s.out := rfl
@[simp] theorem State.nvmCommit_free (s : State) : (s.nvmCommit).free = s.free := rfl

@[simp] theorem State.freeWord64_pending (s : State) : s.freeWord64.1.pending = s.pending := rfl
@[simp] theorem State.freeBytes_pending (s : State) (n : Nat) : (s.freeBytes n).1.pending = s.pending := rfl
@[simp] theorem State.freeWord64_part (s : State) : s.freeWord64.1.part = s.part := rfl
@[simp] theorem State.freeBytes_part (s : State) (n : Nat) : (s.freeBytes n).1.part = s.part := rfl
@[simp] theorem State.freeWord64_boot (s : State) : s.freeWord64.1.boot = s.boot := rfl
@[simp] theorem State.freeBytes_boot (s : State) (n : Nat) : (s.freeBytes n).1.boot = s.boot := rfl
@[simp] theorem State.freeWord64_health (s : State) : s.freeWord64.1.health = s.health := rfl
@[simp] theorem State.freeBytes_health (s : State) (n : Nat) : (s.freeBytes n).1.health = s.health := rfl
@[simp] theorem State.freeWord64_nvm (s : State) : s.freeWord64.1.nvm = s.nvm := rfl
@[simp] theorem State.freeBytes_nvm (s : State) (n : Nat) : (s.freeBytes n).1.nvm = s.nvm := rfl
@[simp] theorem State.freeWord64_led (s : State) : s.freeWord64.1.led = s.led := rfl
@[simp] theorem State.freeBytes_led (s : State) (n : Nat) : (s.freeBytes n).1.led = s.led := rfl
@[simp] theorem State.freeWord64_mem (s : State) : s.freeWord64.1.mem = s.mem := rfl
@[simp] theorem State.freeBytes_mem (s : State) (n : Nat) : (s.freeBytes n).1.mem = s.mem := rfl
@[simp] theorem State.freeWord64_ctxs (s : State) : s.freeWord64.1.ctxs = s.ctxs := rfl
@[simp] theorem State.freeBytes_ctxs (s : State) (n : Nat) : (s.freeBytes n).1.ctxs = s.ctxs := rfl
@[simp] theorem State.freeWord64_runs (s : State) : s.freeWord64.1.runs = s.runs := rfl
@[simp] theorem State.freeBytes_runs (s : State) (n : Nat) : (s.freeBytes n).1.runs = s.runs := rfl
@[simp] theorem State.freeWord64_seqs (s : State) : s.freeWord64.1.seqs = s.seqs := rfl
@[simp] theorem State.freeBytes_seqs (s : State) (n : Nat) : (s.freeBytes n).1.seqs = s.seqs := rfl
@[simp] theorem State.freeWord64_cores (s : State) : s.freeWord64.1.cores = s.cores := rfl
@[simp] theorem State.freeBytes_cores (s : State) (n : Nat) : (s.freeBytes n).1.cores = s.cores := rfl
@[simp] theorem State.freeWord64_clus (s : State) : s.freeWord64.1.clus = s.clus := rfl
@[simp] theorem State.freeBytes_clus (s : State) (n : Nat) : (s.freeBytes n).1.clus = s.clus := rfl
@[simp] theorem State.freeWord64_phys (s : State) : s.freeWord64.1.phys = s.phys := rfl
@[simp] theorem State.freeBytes_phys (s : State) (n : Nat) : (s.freeBytes n).1.phys = s.phys := rfl
@[simp] theorem State.freeWord64_dies (s : State) : s.freeWord64.1.dies = s.dies := rfl
@[simp] theorem State.freeBytes_dies (s : State) (n : Nat) : (s.freeBytes n).1.dies = s.dies := rfl
@[simp] theorem State.freeWord64_funcs (s : State) : s.freeWord64.1.funcs = s.funcs := rfl
@[simp] theorem State.freeBytes_funcs (s : State) (n : Nat) : (s.freeBytes n).1.funcs = s.funcs := rfl
@[simp] theorem State.freeWord64_doms (s : State) : s.freeWord64.1.doms = s.doms := rfl
@[simp] theorem State.freeBytes_doms (s : State) (n : Nat) : (s.freeBytes n).1.doms = s.doms := rfl
@[simp] theorem State.freeWord64_kdStat (s : State) : s.freeWord64.1.kdStat = s.kdStat := rfl
@[simp] theorem State.freeBytes_kdStat (s : State) (n : Nat) : (s.freeBytes n).1.kdStat = s.kdStat := rfl
@[simp] theorem State.freeWord64_jobs (s : State) : s.freeWord64.1.jobs = s.jobs := rfl
@[simp] theorem State.freeBytes_jobs (s : State) (n : Nat) : (s.freeBytes n).1.jobs = s.jobs := rfl
@[simp] theorem State.freeWord64_sigs (s : State) : s.freeWord64.1.sigs = s.sigs := rfl
@[simp] theorem State.freeBytes_sigs (s : State) (n : Nat) : (s.freeBytes n).1.sigs = s.sigs := rfl
@[simp] theorem State.freeWord64_colls (s : State) : s.freeWord64.1.colls = s.colls := rfl
@[simp] theorem State.freeBytes_colls (s : State) (n : Nat) : (s.freeBytes n).1.colls = s.colls := rfl
@[simp] theorem State.freeWord64_protect (s : State) : s.freeWord64.1.protect = s.protect := rfl
@[simp] theorem State.freeBytes_protect (s : State) (n : Nat) : (s.freeBytes n).1.protect = s.protect := rfl
@[simp] theorem State.freeWord64_dig (s : State) : s.freeWord64.1.dig = s.dig := rfl
@[simp] theorem State.freeBytes_dig (s : State) (n : Nat) : (s.freeBytes n).1.dig = s.dig := rfl
@[simp] theorem State.freeWord64_hcv (s : State) : s.freeWord64.1.hcv = s.hcv := rfl
@[simp] theorem State.freeBytes_hcv (s : State) (n : Nat) : (s.freeBytes n).1.hcv = s.hcv := rfl
@[simp] theorem State.freeWord64_ldgSel (s : State) : s.freeWord64.1.ldgSel = s.ldgSel := rfl
@[simp] theorem State.freeBytes_ldgSel (s : State) (n : Nat) : (s.freeBytes n).1.ldgSel = s.ldgSel := rfl
@[simp] theorem State.freeWord64_pwr (s : State) : s.freeWord64.1.pwr = s.pwr := rfl
@[simp] theorem State.freeBytes_pwr (s : State) (n : Nat) : (s.freeBytes n).1.pwr = s.pwr := rfl
@[simp] theorem State.freeWord64_procs (s : State) : s.freeWord64.1.procs = s.procs := rfl
@[simp] theorem State.freeBytes_procs (s : State) (n : Nat) : (s.freeBytes n).1.procs = s.procs := rfl
@[simp] theorem State.freeWord64_mgmt (s : State) : s.freeWord64.1.mgmt = s.mgmt := rfl
@[simp] theorem State.freeBytes_mgmt (s : State) (n : Nat) : (s.freeBytes n).1.mgmt = s.mgmt := rfl
@[simp] theorem State.freeWord64_crust (s : State) : s.freeWord64.1.crust = s.crust := rfl
@[simp] theorem State.freeBytes_crust (s : State) (n : Nat) : (s.freeBytes n).1.crust = s.crust := rfl
@[simp] theorem State.freeWord64_rst (s : State) : s.freeWord64.1.rst = s.rst := rfl
@[simp] theorem State.freeBytes_rst (s : State) (n : Nat) : (s.freeBytes n).1.rst = s.rst := rfl
@[simp] theorem State.freeWord64_span (s : State) : s.freeWord64.1.span = s.span := rfl
@[simp] theorem State.freeBytes_span (s : State) (n : Nat) : (s.freeBytes n).1.span = s.span := rfl
@[simp] theorem State.freeWord64_panel (s : State) : s.freeWord64.1.panel = s.panel := rfl
@[simp] theorem State.freeBytes_panel (s : State) (n : Nat) : (s.freeBytes n).1.panel = s.panel := rfl
@[simp] theorem State.freeWord64_harts (s : State) : s.freeWord64.1.harts = s.harts := rfl
@[simp] theorem State.freeBytes_harts (s : State) (n : Nat) : (s.freeBytes n).1.harts = s.harts := rfl
@[simp] theorem State.freeWord64_sch (s : State) : s.freeWord64.1.sch = s.sch := rfl
@[simp] theorem State.freeBytes_sch (s : State) (n : Nat) : (s.freeBytes n).1.sch = s.sch := rfl
@[simp] theorem State.freeWord64_out (s : State) : s.freeWord64.1.out = s.out := rfl
@[simp] theorem State.freeBytes_out (s : State) (n : Nat) : (s.freeBytes n).1.out = s.out := rfl

@[simp] theorem State.ctxE_ctxM_same (s : State) (c : Nat) (g : CtxEntry → CtxEntry) : (s.ctxM c g).ctxE c = g (s.ctxE c) := by
  simp [State.ctxE, State.ctxM]
theorem State.ctxE_ctxM_ne (s : State) (c k : Nat) (g : CtxEntry → CtxEntry) (h : k ≠ c) : (s.ctxM c g).ctxE k = s.ctxE k := by
  simp [State.ctxE, State.ctxM, tabGet_tabSet_ne _ _ _ _ _ h]
@[simp] theorem State.runE_runM_same (s : State) (c : Nat) (g : CtxRun → CtxRun) : (s.runM c g).runE c = g (s.runE c) := by
  simp [State.runE, State.runM]
theorem State.runE_runM_ne (s : State) (c k : Nat) (g : CtxRun → CtxRun) (h : k ≠ c) : (s.runM c g).runE k = s.runE k := by
  simp [State.runE, State.runM, tabGet_tabSet_ne _ _ _ _ _ h]
@[simp] theorem State.clusE_clusM_same (s : State) (c : Nat) (g : Clus → Clus) : (s.clusM c g).clusE c = g (s.clusE c) := by
  simp [State.clusE, State.clusM]
theorem State.clusE_clusM_ne (s : State) (c k : Nat) (g : Clus → Clus) (h : k ≠ c) : (s.clusM c g).clusE k = s.clusE k := by
  simp [State.clusE, State.clusM, tabGet_tabSet_ne _ _ _ _ _ h]
@[simp] theorem State.physE_physM_same (s : State) (c : Nat) (g : CorePhys → CorePhys) : (s.physM c g).physE c = g (s.physE c) := by
  simp [State.physE, State.physM]
theorem State.physE_physM_ne (s : State) (c k : Nat) (g : CorePhys → CorePhys) (h : k ≠ c) : (s.physM c g).physE k = s.physE k := by
  simp [State.physE, State.physM, tabGet_tabSet_ne _ _ _ _ _ h]
@[simp] theorem State.dieE_dieM_same (s : State) (c : Nat) (g : Die → Die) : (s.dieM c g).dieE c = g (s.dieE c) := by
  simp [State.dieE, State.dieM]
theorem State.dieE_dieM_ne (s : State) (c k : Nat) (g : Die → Die) (h : k ≠ c) : (s.dieM c g).dieE k = s.dieE k := by
  simp [State.dieE, State.dieM, tabGet_tabSet_ne _ _ _ _ _ h]
@[simp] theorem State.funcE_funcM_same (s : State) (c : Nat) (g : Func → Func) : (s.funcM c g).funcE c = g (s.funcE c) := by
  simp [State.funcE, State.funcM]
theorem State.funcE_funcM_ne (s : State) (c k : Nat) (g : Func → Func) (h : k ≠ c) : (s.funcM c g).funcE k = s.funcE k := by
  simp [State.funcE, State.funcM, tabGet_tabSet_ne _ _ _ _ _ h]
@[simp] theorem State.domE_domM_same (s : State) (c : Nat) (g : Dom → Dom) : (s.domM c g).domE c = g (s.domE c) := by
  simp [State.domE, State.domM]
theorem State.domE_domM_ne (s : State) (c k : Nat) (g : Dom → Dom) (h : k ≠ c) : (s.domM c g).domE k = s.domE k := by
  simp [State.domE, State.domM, tabGet_tabSet_ne _ _ _ _ _ h]
@[simp] theorem State.procE_procM_same (s : State) (c : Nat) (g : Proc → Proc) : (s.procM c g).procE c = g (s.procE c) := by
  simp [State.procE, State.procM]
theorem State.procE_procM_ne (s : State) (c k : Nat) (g : Proc → Proc) (h : k ≠ c) : (s.procM c g).procE k = s.procE k := by
  simp [State.procE, State.procM, tabGet_tabSet_ne _ _ _ _ _ h]
@[simp] theorem State.hcvE_hcvM_same (s : State) (c : Nat) (g : Hcv → Hcv) : (s.hcvM c g).hcvE c = g (s.hcvE c) := by
  simp [State.hcvE, State.hcvM]
theorem State.hcvE_hcvM_ne (s : State) (c k : Nat) (g : Hcv → Hcv) (h : k ≠ c) : (s.hcvM c g).hcvE k = s.hcvE k := by
  simp [State.hcvE, State.hcvM, tabGet_tabSet_ne _ _ _ _ _ h]
@[simp] theorem State.hartE_hartM_same (s : State) (c : Nat) (g : Hart → Hart) : (s.hartM c g).hartE c = g (s.hartE c) := by
  simp [State.hartE, State.hartM]
theorem State.hartE_hartM_ne (s : State) (c k : Nat) (g : Hart → Hart) (h : k ≠ c) : (s.hartM c g).hartE k = s.hartE k := by
  simp [State.hartE, State.hartM, tabGet_tabSet_ne _ _ _ _ _ h]
@[simp] theorem State.seqE_seqM_same (s : State) (c cl : Nat) (g : SeqCtx → SeqCtx) : (s.seqM c cl g).seqE c cl = g (s.seqE c cl) := by
  simp [State.seqE, State.seqM]
@[simp] theorem State.coreE_coreM_same (s : State) (c n : Nat) (g : CoreCtx → CoreCtx) : (s.coreM c n g).coreE c n = g (s.coreE c n) := by
  simp [State.coreE, State.coreM]
@[simp] theorem State.ctxM_ctxM (s : State) (c : Nat) (f g : CtxEntry → CtxEntry) : (s.ctxM c f).ctxM c g = s.ctxM c fun e => g (f e) := by
  simp [State.ctxM, State.ctxE]
@[simp] theorem State.runM_runM (s : State) (c : Nat) (f g : CtxRun → CtxRun) : (s.runM c f).runM c g = s.runM c fun e => g (f e) := by
  simp [State.runM, State.runE]
@[simp] theorem State.clusM_clusM (s : State) (c : Nat) (f g : Clus → Clus) : (s.clusM c f).clusM c g = s.clusM c fun e => g (f e) := by
  simp [State.clusM, State.clusE]
@[simp] theorem State.physM_physM (s : State) (c : Nat) (f g : CorePhys → CorePhys) : (s.physM c f).physM c g = s.physM c fun e => g (f e) := by
  simp [State.physM, State.physE]
@[simp] theorem State.dieM_dieM (s : State) (c : Nat) (f g : Die → Die) : (s.dieM c f).dieM c g = s.dieM c fun e => g (f e) := by
  simp [State.dieM, State.dieE]
@[simp] theorem State.funcM_funcM (s : State) (c : Nat) (f g : Func → Func) : (s.funcM c f).funcM c g = s.funcM c fun e => g (f e) := by
  simp [State.funcM, State.funcE]
@[simp] theorem State.domM_domM (s : State) (c : Nat) (f g : Dom → Dom) : (s.domM c f).domM c g = s.domM c fun e => g (f e) := by
  simp [State.domM, State.domE]
@[simp] theorem State.procM_procM (s : State) (c : Nat) (f g : Proc → Proc) : (s.procM c f).procM c g = s.procM c fun e => g (f e) := by
  simp [State.procM, State.procE]
@[simp] theorem State.hcvM_hcvM (s : State) (c : Nat) (f g : Hcv → Hcv) : (s.hcvM c f).hcvM c g = s.hcvM c fun e => g (f e) := by
  simp [State.hcvM, State.hcvE]
@[simp] theorem State.hartM_hartM (s : State) (c : Nat) (f g : Hart → Hart) : (s.hartM c f).hartM c g = s.hartM c fun e => g (f e) := by
  simp [State.hartM, State.hartE]
@[simp] theorem State.seqM_seqM (s : State) (c cl : Nat) (f g : SeqCtx → SeqCtx) : (s.seqM c cl f).seqM c cl g = s.seqM c cl fun e => g (f e) := by
  simp [State.seqM, State.seqE]
@[simp] theorem State.coreM_coreM (s : State) (c n : Nat) (f g : CoreCtx → CoreCtx) : (s.coreM c n f).coreM c n g = s.coreM c n fun e => g (f e) := by
  simp [State.coreM, State.coreE]

@[simp] theorem State.ctxM_runE (s : State) (c : Nat) (g : CtxEntry → CtxEntry) (k : Nat) : (s.ctxM c g).runE k = s.runE k := rfl
@[simp] theorem State.ctxM_clusE (s : State) (c : Nat) (g : CtxEntry → CtxEntry) (k : Nat) : (s.ctxM c g).clusE k = s.clusE k := rfl
@[simp] theorem State.ctxM_physE (s : State) (c : Nat) (g : CtxEntry → CtxEntry) (k : Nat) : (s.ctxM c g).physE k = s.physE k := rfl
@[simp] theorem State.ctxM_dieE (s : State) (c : Nat) (g : CtxEntry → CtxEntry) (k : Nat) : (s.ctxM c g).dieE k = s.dieE k := rfl
@[simp] theorem State.ctxM_funcE (s : State) (c : Nat) (g : CtxEntry → CtxEntry) (k : Nat) : (s.ctxM c g).funcE k = s.funcE k := rfl
@[simp] theorem State.ctxM_procE (s : State) (c : Nat) (g : CtxEntry → CtxEntry) (k : Nat) : (s.ctxM c g).procE k = s.procE k := rfl
@[simp] theorem State.ctxM_seqE (s : State) (c : Nat) (g : CtxEntry → CtxEntry) (k j : Nat) : (s.ctxM c g).seqE k j = s.seqE k j := rfl
@[simp] theorem State.ctxM_coreE (s : State) (c : Nat) (g : CtxEntry → CtxEntry) (k j : Nat) : (s.ctxM c g).coreE k j = s.coreE k j := rfl

@[simp] theorem State.runM_ctxE (s : State) (c : Nat) (g : CtxRun → CtxRun) (k : Nat) : (s.runM c g).ctxE k = s.ctxE k := rfl
@[simp] theorem State.runM_clusE (s : State) (c : Nat) (g : CtxRun → CtxRun) (k : Nat) : (s.runM c g).clusE k = s.clusE k := rfl
@[simp] theorem State.runM_physE (s : State) (c : Nat) (g : CtxRun → CtxRun) (k : Nat) : (s.runM c g).physE k = s.physE k := rfl
@[simp] theorem State.runM_dieE (s : State) (c : Nat) (g : CtxRun → CtxRun) (k : Nat) : (s.runM c g).dieE k = s.dieE k := rfl
@[simp] theorem State.runM_funcE (s : State) (c : Nat) (g : CtxRun → CtxRun) (k : Nat) : (s.runM c g).funcE k = s.funcE k := rfl
@[simp] theorem State.runM_procE (s : State) (c : Nat) (g : CtxRun → CtxRun) (k : Nat) : (s.runM c g).procE k = s.procE k := rfl
@[simp] theorem State.runM_seqE (s : State) (c : Nat) (g : CtxRun → CtxRun) (k j : Nat) : (s.runM c g).seqE k j = s.seqE k j := rfl
@[simp] theorem State.runM_coreE (s : State) (c : Nat) (g : CtxRun → CtxRun) (k j : Nat) : (s.runM c g).coreE k j = s.coreE k j := rfl

@[simp] theorem State.clusM_ctxE (s : State) (c : Nat) (g : Clus → Clus) (k : Nat) : (s.clusM c g).ctxE k = s.ctxE k := rfl
@[simp] theorem State.clusM_runE (s : State) (c : Nat) (g : Clus → Clus) (k : Nat) : (s.clusM c g).runE k = s.runE k := rfl
@[simp] theorem State.clusM_physE (s : State) (c : Nat) (g : Clus → Clus) (k : Nat) : (s.clusM c g).physE k = s.physE k := rfl
@[simp] theorem State.clusM_dieE (s : State) (c : Nat) (g : Clus → Clus) (k : Nat) : (s.clusM c g).dieE k = s.dieE k := rfl
@[simp] theorem State.clusM_funcE (s : State) (c : Nat) (g : Clus → Clus) (k : Nat) : (s.clusM c g).funcE k = s.funcE k := rfl
@[simp] theorem State.clusM_procE (s : State) (c : Nat) (g : Clus → Clus) (k : Nat) : (s.clusM c g).procE k = s.procE k := rfl
@[simp] theorem State.clusM_seqE (s : State) (c : Nat) (g : Clus → Clus) (k j : Nat) : (s.clusM c g).seqE k j = s.seqE k j := rfl
@[simp] theorem State.clusM_coreE (s : State) (c : Nat) (g : Clus → Clus) (k j : Nat) : (s.clusM c g).coreE k j = s.coreE k j := rfl

@[simp] theorem State.physM_ctxE (s : State) (c : Nat) (g : CorePhys → CorePhys) (k : Nat) : (s.physM c g).ctxE k = s.ctxE k := rfl
@[simp] theorem State.physM_runE (s : State) (c : Nat) (g : CorePhys → CorePhys) (k : Nat) : (s.physM c g).runE k = s.runE k := rfl
@[simp] theorem State.physM_clusE (s : State) (c : Nat) (g : CorePhys → CorePhys) (k : Nat) : (s.physM c g).clusE k = s.clusE k := rfl
@[simp] theorem State.physM_dieE (s : State) (c : Nat) (g : CorePhys → CorePhys) (k : Nat) : (s.physM c g).dieE k = s.dieE k := rfl
@[simp] theorem State.physM_funcE (s : State) (c : Nat) (g : CorePhys → CorePhys) (k : Nat) : (s.physM c g).funcE k = s.funcE k := rfl
@[simp] theorem State.physM_procE (s : State) (c : Nat) (g : CorePhys → CorePhys) (k : Nat) : (s.physM c g).procE k = s.procE k := rfl
@[simp] theorem State.physM_seqE (s : State) (c : Nat) (g : CorePhys → CorePhys) (k j : Nat) : (s.physM c g).seqE k j = s.seqE k j := rfl
@[simp] theorem State.physM_coreE (s : State) (c : Nat) (g : CorePhys → CorePhys) (k j : Nat) : (s.physM c g).coreE k j = s.coreE k j := rfl

@[simp] theorem State.dieM_ctxE (s : State) (c : Nat) (g : Die → Die) (k : Nat) : (s.dieM c g).ctxE k = s.ctxE k := rfl
@[simp] theorem State.dieM_runE (s : State) (c : Nat) (g : Die → Die) (k : Nat) : (s.dieM c g).runE k = s.runE k := rfl
@[simp] theorem State.dieM_clusE (s : State) (c : Nat) (g : Die → Die) (k : Nat) : (s.dieM c g).clusE k = s.clusE k := rfl
@[simp] theorem State.dieM_physE (s : State) (c : Nat) (g : Die → Die) (k : Nat) : (s.dieM c g).physE k = s.physE k := rfl
@[simp] theorem State.dieM_funcE (s : State) (c : Nat) (g : Die → Die) (k : Nat) : (s.dieM c g).funcE k = s.funcE k := rfl
@[simp] theorem State.dieM_procE (s : State) (c : Nat) (g : Die → Die) (k : Nat) : (s.dieM c g).procE k = s.procE k := rfl
@[simp] theorem State.dieM_seqE (s : State) (c : Nat) (g : Die → Die) (k j : Nat) : (s.dieM c g).seqE k j = s.seqE k j := rfl
@[simp] theorem State.dieM_coreE (s : State) (c : Nat) (g : Die → Die) (k j : Nat) : (s.dieM c g).coreE k j = s.coreE k j := rfl

@[simp] theorem State.funcM_ctxE (s : State) (c : Nat) (g : Func → Func) (k : Nat) : (s.funcM c g).ctxE k = s.ctxE k := rfl
@[simp] theorem State.funcM_runE (s : State) (c : Nat) (g : Func → Func) (k : Nat) : (s.funcM c g).runE k = s.runE k := rfl
@[simp] theorem State.funcM_clusE (s : State) (c : Nat) (g : Func → Func) (k : Nat) : (s.funcM c g).clusE k = s.clusE k := rfl
@[simp] theorem State.funcM_physE (s : State) (c : Nat) (g : Func → Func) (k : Nat) : (s.funcM c g).physE k = s.physE k := rfl
@[simp] theorem State.funcM_dieE (s : State) (c : Nat) (g : Func → Func) (k : Nat) : (s.funcM c g).dieE k = s.dieE k := rfl
@[simp] theorem State.funcM_procE (s : State) (c : Nat) (g : Func → Func) (k : Nat) : (s.funcM c g).procE k = s.procE k := rfl
@[simp] theorem State.funcM_seqE (s : State) (c : Nat) (g : Func → Func) (k j : Nat) : (s.funcM c g).seqE k j = s.seqE k j := rfl
@[simp] theorem State.funcM_coreE (s : State) (c : Nat) (g : Func → Func) (k j : Nat) : (s.funcM c g).coreE k j = s.coreE k j := rfl

@[simp] theorem State.domM_ctxE (s : State) (c : Nat) (g : Dom → Dom) (k : Nat) : (s.domM c g).ctxE k = s.ctxE k := rfl
@[simp] theorem State.domM_runE (s : State) (c : Nat) (g : Dom → Dom) (k : Nat) : (s.domM c g).runE k = s.runE k := rfl
@[simp] theorem State.domM_clusE (s : State) (c : Nat) (g : Dom → Dom) (k : Nat) : (s.domM c g).clusE k = s.clusE k := rfl
@[simp] theorem State.domM_physE (s : State) (c : Nat) (g : Dom → Dom) (k : Nat) : (s.domM c g).physE k = s.physE k := rfl
@[simp] theorem State.domM_dieE (s : State) (c : Nat) (g : Dom → Dom) (k : Nat) : (s.domM c g).dieE k = s.dieE k := rfl
@[simp] theorem State.domM_funcE (s : State) (c : Nat) (g : Dom → Dom) (k : Nat) : (s.domM c g).funcE k = s.funcE k := rfl
@[simp] theorem State.domM_procE (s : State) (c : Nat) (g : Dom → Dom) (k : Nat) : (s.domM c g).procE k = s.procE k := rfl
@[simp] theorem State.domM_seqE (s : State) (c : Nat) (g : Dom → Dom) (k j : Nat) : (s.domM c g).seqE k j = s.seqE k j := rfl
@[simp] theorem State.domM_coreE (s : State) (c : Nat) (g : Dom → Dom) (k j : Nat) : (s.domM c g).coreE k j = s.coreE k j := rfl

@[simp] theorem State.procM_ctxE (s : State) (c : Nat) (g : Proc → Proc) (k : Nat) : (s.procM c g).ctxE k = s.ctxE k := rfl
@[simp] theorem State.procM_runE (s : State) (c : Nat) (g : Proc → Proc) (k : Nat) : (s.procM c g).runE k = s.runE k := rfl
@[simp] theorem State.procM_clusE (s : State) (c : Nat) (g : Proc → Proc) (k : Nat) : (s.procM c g).clusE k = s.clusE k := rfl
@[simp] theorem State.procM_physE (s : State) (c : Nat) (g : Proc → Proc) (k : Nat) : (s.procM c g).physE k = s.physE k := rfl
@[simp] theorem State.procM_dieE (s : State) (c : Nat) (g : Proc → Proc) (k : Nat) : (s.procM c g).dieE k = s.dieE k := rfl
@[simp] theorem State.procM_funcE (s : State) (c : Nat) (g : Proc → Proc) (k : Nat) : (s.procM c g).funcE k = s.funcE k := rfl
@[simp] theorem State.procM_seqE (s : State) (c : Nat) (g : Proc → Proc) (k j : Nat) : (s.procM c g).seqE k j = s.seqE k j := rfl
@[simp] theorem State.procM_coreE (s : State) (c : Nat) (g : Proc → Proc) (k j : Nat) : (s.procM c g).coreE k j = s.coreE k j := rfl

@[simp] theorem State.hcvM_ctxE (s : State) (c : Nat) (g : Hcv → Hcv) (k : Nat) : (s.hcvM c g).ctxE k = s.ctxE k := rfl
@[simp] theorem State.hcvM_runE (s : State) (c : Nat) (g : Hcv → Hcv) (k : Nat) : (s.hcvM c g).runE k = s.runE k := rfl
@[simp] theorem State.hcvM_clusE (s : State) (c : Nat) (g : Hcv → Hcv) (k : Nat) : (s.hcvM c g).clusE k = s.clusE k := rfl
@[simp] theorem State.hcvM_physE (s : State) (c : Nat) (g : Hcv → Hcv) (k : Nat) : (s.hcvM c g).physE k = s.physE k := rfl
@[simp] theorem State.hcvM_dieE (s : State) (c : Nat) (g : Hcv → Hcv) (k : Nat) : (s.hcvM c g).dieE k = s.dieE k := rfl
@[simp] theorem State.hcvM_funcE (s : State) (c : Nat) (g : Hcv → Hcv) (k : Nat) : (s.hcvM c g).funcE k = s.funcE k := rfl
@[simp] theorem State.hcvM_procE (s : State) (c : Nat) (g : Hcv → Hcv) (k : Nat) : (s.hcvM c g).procE k = s.procE k := rfl
@[simp] theorem State.hcvM_seqE (s : State) (c : Nat) (g : Hcv → Hcv) (k j : Nat) : (s.hcvM c g).seqE k j = s.seqE k j := rfl
@[simp] theorem State.hcvM_coreE (s : State) (c : Nat) (g : Hcv → Hcv) (k j : Nat) : (s.hcvM c g).coreE k j = s.coreE k j := rfl

@[simp] theorem State.hartM_ctxE (s : State) (c : Nat) (g : Hart → Hart) (k : Nat) : (s.hartM c g).ctxE k = s.ctxE k := rfl
@[simp] theorem State.hartM_runE (s : State) (c : Nat) (g : Hart → Hart) (k : Nat) : (s.hartM c g).runE k = s.runE k := rfl
@[simp] theorem State.hartM_clusE (s : State) (c : Nat) (g : Hart → Hart) (k : Nat) : (s.hartM c g).clusE k = s.clusE k := rfl
@[simp] theorem State.hartM_physE (s : State) (c : Nat) (g : Hart → Hart) (k : Nat) : (s.hartM c g).physE k = s.physE k := rfl
@[simp] theorem State.hartM_dieE (s : State) (c : Nat) (g : Hart → Hart) (k : Nat) : (s.hartM c g).dieE k = s.dieE k := rfl
@[simp] theorem State.hartM_funcE (s : State) (c : Nat) (g : Hart → Hart) (k : Nat) : (s.hartM c g).funcE k = s.funcE k := rfl
@[simp] theorem State.hartM_procE (s : State) (c : Nat) (g : Hart → Hart) (k : Nat) : (s.hartM c g).procE k = s.procE k := rfl
@[simp] theorem State.hartM_seqE (s : State) (c : Nat) (g : Hart → Hart) (k j : Nat) : (s.hartM c g).seqE k j = s.seqE k j := rfl
@[simp] theorem State.hartM_coreE (s : State) (c : Nat) (g : Hart → Hart) (k j : Nat) : (s.hartM c g).coreE k j = s.coreE k j := rfl

@[simp] theorem State.seqM_ctxE (s : State) (c cl : Nat) (g : SeqCtx → SeqCtx) (k : Nat) : (s.seqM c cl g).ctxE k = s.ctxE k := rfl
@[simp] theorem State.seqM_runE (s : State) (c cl : Nat) (g : SeqCtx → SeqCtx) (k : Nat) : (s.seqM c cl g).runE k = s.runE k := rfl
@[simp] theorem State.seqM_clusE (s : State) (c cl : Nat) (g : SeqCtx → SeqCtx) (k : Nat) : (s.seqM c cl g).clusE k = s.clusE k := rfl
@[simp] theorem State.seqM_physE (s : State) (c cl : Nat) (g : SeqCtx → SeqCtx) (k : Nat) : (s.seqM c cl g).physE k = s.physE k := rfl
@[simp] theorem State.seqM_dieE (s : State) (c cl : Nat) (g : SeqCtx → SeqCtx) (k : Nat) : (s.seqM c cl g).dieE k = s.dieE k := rfl
@[simp] theorem State.seqM_funcE (s : State) (c cl : Nat) (g : SeqCtx → SeqCtx) (k : Nat) : (s.seqM c cl g).funcE k = s.funcE k := rfl
@[simp] theorem State.seqM_procE (s : State) (c cl : Nat) (g : SeqCtx → SeqCtx) (k : Nat) : (s.seqM c cl g).procE k = s.procE k := rfl
@[simp] theorem State.seqM_coreE (s : State) (c cl : Nat) (g : SeqCtx → SeqCtx) (k j : Nat) : (s.seqM c cl g).coreE k j = s.coreE k j := rfl

@[simp] theorem State.coreM_ctxE (s : State) (c n : Nat) (g : CoreCtx → CoreCtx) (k : Nat) : (s.coreM c n g).ctxE k = s.ctxE k := rfl
@[simp] theorem State.coreM_runE (s : State) (c n : Nat) (g : CoreCtx → CoreCtx) (k : Nat) : (s.coreM c n g).runE k = s.runE k := rfl
@[simp] theorem State.coreM_clusE (s : State) (c n : Nat) (g : CoreCtx → CoreCtx) (k : Nat) : (s.coreM c n g).clusE k = s.clusE k := rfl
@[simp] theorem State.coreM_physE (s : State) (c n : Nat) (g : CoreCtx → CoreCtx) (k : Nat) : (s.coreM c n g).physE k = s.physE k := rfl
@[simp] theorem State.coreM_dieE (s : State) (c n : Nat) (g : CoreCtx → CoreCtx) (k : Nat) : (s.coreM c n g).dieE k = s.dieE k := rfl
@[simp] theorem State.coreM_funcE (s : State) (c n : Nat) (g : CoreCtx → CoreCtx) (k : Nat) : (s.coreM c n g).funcE k = s.funcE k := rfl
@[simp] theorem State.coreM_procE (s : State) (c n : Nat) (g : CoreCtx → CoreCtx) (k : Nat) : (s.coreM c n g).procE k = s.procE k := rfl
@[simp] theorem State.coreM_seqE (s : State) (c n : Nat) (g : CoreCtx → CoreCtx) (k j : Nat) : (s.coreM c n g).seqE k j = s.seqE k j := rfl

@[simp] theorem State.chanM_ctxE (s : State) (st ch : Nat) (g : Chan → Chan) (k : Nat) : (s.chanM st ch g).ctxE k = s.ctxE k := rfl
@[simp] theorem State.chanM_runE (s : State) (st ch : Nat) (g : Chan → Chan) (k : Nat) : (s.chanM st ch g).runE k = s.runE k := rfl
@[simp] theorem State.chanM_clusE (s : State) (st ch : Nat) (g : Chan → Chan) (k : Nat) : (s.chanM st ch g).clusE k = s.clusE k := rfl
@[simp] theorem State.chanM_physE (s : State) (st ch : Nat) (g : Chan → Chan) (k : Nat) : (s.chanM st ch g).physE k = s.physE k := rfl
@[simp] theorem State.chanM_dieE (s : State) (st ch : Nat) (g : Chan → Chan) (k : Nat) : (s.chanM st ch g).dieE k = s.dieE k := rfl
@[simp] theorem State.chanM_funcE (s : State) (st ch : Nat) (g : Chan → Chan) (k : Nat) : (s.chanM st ch g).funcE k = s.funcE k := rfl
@[simp] theorem State.chanM_procE (s : State) (st ch : Nat) (g : Chan → Chan) (k : Nat) : (s.chanM st ch g).procE k = s.procE k := rfl
@[simp] theorem State.chanM_seqE (s : State) (st ch : Nat) (g : Chan → Chan) (k j : Nat) : (s.chanM st ch g).seqE k j = s.seqE k j := rfl
@[simp] theorem State.chanM_coreE (s : State) (st ch : Nat) (g : Chan → Chan) (k j : Nat) : (s.chanM st ch g).coreE k j = s.coreE k j := rfl

end Sys2Proof.Machine
end

