-- ==== Sys2Proof/Laws/Lines.lean ====
section
/-! SUPPORT. Stack memory without errors: what a read of whole lines comes to where no line holds one. -/

namespace Sys2Proof.Machine

/-- No line of stack memory holds an error, and every channel answers. -/
structure State.MemSound (s : State) : Prop where
  flaws : s.mem.flaws = []
  poison : s.mem.poison = []
  lost : s.mem.groupLost = []
  off : s.mem.groupOff = []
  reset : s.mem.groupReset = []
  chans : ∀ p ∈ s.mem.chan, p.2.state ≠ 3
  dies : ∀ p ∈ s.dies, p.2.inReset = false

theorem tabGet_of_all {α : Type} {P : α → Prop} {l : List (Nat × α)} {d : α} (h : ∀ p ∈ l, P p.2) (hd : P d) (k : Nat) : P (tabGet l k d) := by
  induction l with
  | nil => exact hd
  | cons p r ih =>
    obtain ⟨i, v⟩ := p
    simp only [tabGet, tabFind] at ih ⊢
    split
    · exact h (i, v) (List.mem_cons_self ..)
    · exact ih fun p hp => h p (List.mem_cons_of_mem _ hp)

theorem Chan.served_state (c : Chan) (k : Nat) : (c.served k).state = c.state := by
  unfold Chan.served; split <;> rfl

theorem State.MemSound.chanUp {s : State} (h : s.MemSound) (l : LineAt) : s.chanUp l = true := by
  have hc : (s.chanE l.stack l.chan).state ≠ 3 := tabGet_of_all (P := fun c : Chan => c.state ≠ 3) h.chans (by decide) _
  have hd : (s.dieE (l.stack / 5)).inReset = false := tabGet_of_all (P := fun c : Die => c.inReset = false) h.dies rfl _
  simp [State.chanUp, h.off, h.reset, hd]
  exact hc

theorem State.keyFits_any {s : State} {line dom : Nat} (h : s.keyFits line dom = true) :
    (s.lineKey line).any (· != s.keyOf dom) = false := by
  unfold State.keyFits at h
  cases hk : s.lineKey line with
  | none => rfl
  | some k => simpa [hk, Option.any] using h

/-- One read of a line without an error: its data are good, and only the count of its channel moves. -/
theorem State.readLine_sound {s : State} (h : s.MemSound) (a : Nat) (rq : Req) (hd : s.keyFits (a / 64) rq.dom = true) :
    s.readLine a rq = (s.chanM (s.lineAt a).stack (s.lineAt a).chan (fun c => c.served rq.cls), true) := by
  have hl : ∀ t : State, t.mem.groupLost = [] → ∀ a l, t.lineLost a l = false := by
    intro t ht a l; simp [State.lineLost, ht, tabFind]
  have hp : (s.chanM (s.lineAt a).stack (s.lineAt a).chan (fun c => c.served rq.cls)).mem.poison = [] := h.poison
  have hf : (s.chanM (s.lineAt a).stack (s.lineAt a).chan (fun c => c.served rq.cls)).mem.flaws = [] := h.flaws
  have hg : (s.chanM (s.lineAt a).stack (s.lineAt a).chan (fun c => c.served rq.cls)).mem.groupLost = [] := h.lost
  have hm : (((s.chanM (s.lineAt a).stack (s.lineAt a).chan (fun c => c.served rq.cls)).lineKey (a / 64)).any
      (· != (s.chanM (s.lineAt a).stack (s.lineAt a).chan (fun c => c.served rq.cls)).keyOf rq.dom)) = false := State.keyFits_any hd
  simp only [State.readLine, h.chanUp, hp, hf, hl _ hg, hm, tabFind]
  simp

theorem State.MemSound.served {s : State} (h : s.MemSound) (st ch k : Nat) : (s.chanM st ch (fun c => c.served k)).MemSound := by
  refine ⟨h.flaws, h.poison, h.lost, h.off, h.reset, fun p hp => ?_, h.dies⟩
  rcases mem_tabSet hp with rfl | hp
  · rw [Chan.served_state]; exact tabGet_of_all (P := fun c : Chan => c.state ≠ 3) h.chans (by decide) _
  · exact h.chans p hp

/-- A read of lines without an error answers their bytes; only counts of channels move. -/
theorem State.stackRead_sound {s : State} (h : s.MemSound) (a n : Nat) (rq : Req)
    (hd : ∀ l ∈ linesOf a n, s.keyFits l rq.dom = true) :
    ∃ t : State, s.stackRead a n rq = (t, .ok (t.bytesAt a n)) ∧ t.MemSound ∧ t = { s with mem := { s.mem with chan := t.mem.chan } } := by
  have key : ∀ (ls : List Nat) (u : State), u.MemSound → (∀ l ∈ ls, u.keyFits l rq.dom = true) →
      ∃ t : State, ls.foldl (fun (p : State × Option Nat) line =>
        let (s, ok) := p.1.readLine (line * 64) rq
        (s, if ok then p.2 else p.2.or (some (line * 64)))) (u, none) = (t, none) ∧ t.MemSound ∧
        t = { u with mem := { u.mem with chan := t.mem.chan } } := by
    intro ls
    induction ls with
    | nil => intro u hu _; exact ⟨u, rfl, hu, rfl⟩
    | cons l r ih =>
      intro u hu hl
      have e := State.readLine_sound hu (l * 64) rq (by
        rw [Nat.mul_div_cancel l (by decide)]; exact hl l (List.mem_cons_self ..))
      obtain ⟨t, h1, h2, h3⟩ := ih _ (hu.served (u.lineAt (l * 64)).stack (u.lineAt (l * 64)).chan rq.cls)
        fun k hk => hl k (List.mem_cons_of_mem _ hk)
      refine ⟨t, ?_, h2, h3⟩
      simp only [List.foldl_cons, e, if_true]
      exact h1
  obtain ⟨t, h1, h2, h3⟩ := key (linesOf a n) s h hd
  refine ⟨t, ?_, h2, h3⟩
  simp only [State.stackRead]
  rw [h1]

end Sys2Proof.Machine
end

