-- ==== Sys2Proof/Laws/Memory.lean ====
section
/-! SUPPORT. The bytes of the physical map: a read after a write, and that every operation keeps the canonical form of
Memory.wf. -/

namespace Sys2Proof.Machine

/-- Rising keys, pair by pair. -/
theorem rising_iff_zip (cs : List Host.Cell) : ((cs.zip (cs.drop 1)).all fun p => decide (p.1.1 < p.2.1)) = true ↔ Rising cs := by
  induction cs with
  | nil => simp [Rising]
  | cons a r ih =>
    cases r with
    | nil => simp [Rising]
    | cons b t =>
      have e : ((a :: b :: t).zip ((a :: b :: t).drop 1)) = (a, b) :: ((b :: t).zip ((b :: t).drop 1)) := rfl
      rw [e, List.all_cons, Bool.and_eq_true, ih, decide_eq_true_eq]
      constructor
      · rintro ⟨h1, h2⟩
        refine List.pairwise_cons.2 ⟨fun q hq => ?_, h2⟩
        rcases List.mem_cons.1 hq with rfl | hq
        · exact h1
        · exact Nat.lt_trans h1 ((List.pairwise_cons.1 h2).1 q hq)
      · intro h
        exact ⟨(List.pairwise_cons.1 h).1 b List.mem_cons_self, (List.pairwise_cons.1 h).2⟩

/-- Memory.wf as a property of every cell and of the order of the keys. -/
theorem Memory.wf_iff (cs : List Host.Cell) : Memory.wf cs = true ↔ (∀ c ∈ cs, c.2 ≠ 0) ∧ Rising cs := by
  rw [Memory.wf, Bool.and_eq_true, rising_iff_zip]
  simp only [List.all_eq_true, bne_iff_ne, ne_eq]

theorem Memory.wf_nil : Memory.wf [] = true := rfl

theorem Memory.wf_filter (cs : List Host.Cell) (p : Host.Cell → Bool) (h : Memory.wf cs = true) : Memory.wf (cs.filter p) = true := by
  rw [Memory.wf_iff] at *
  exact ⟨fun c hc => h.1 c (List.mem_filter.1 hc).1, h.2.filter p⟩

theorem cellPut_wf (cs : List Host.Cell) (a : Nat) (b : BitVec 8) (h : Memory.wf cs = true) : Memory.wf (cellPut cs a b) = true := by
  unfold cellPut
  split
  · exact Memory.wf_filter _ _ h
  · rename_i hb
    rw [Memory.wf_iff] at *
    refine ⟨fun c hc => ?_, h.2.tabSet a b⟩
    rcases mem_tabSet hc with rfl | hc
    · exact hb
    · exact h.1 c hc

theorem cellsPut_wf (bs : List (BitVec 8)) : ∀ (cs : List Host.Cell) (a : Nat), Memory.wf cs = true → Memory.wf (cellsPut cs a bs) = true := by
  induction bs with
  | nil => intro cs a h; exact h
  | cons b r ih => intro cs a h; exact ih _ _ (cellPut_wf cs a b h)

theorem cellsZero_wf (cs : List Host.Cell) (a n : Nat) (h : Memory.wf cs = true) : Memory.wf (cellsZero cs a n) = true :=
  Memory.wf_filter _ _ h

/-- What a byte reads as after one byte was written. -/
theorem cellGet_cellPut (cs : List Host.Cell) (a k : Nat) (b : BitVec 8) :
    cellGet (cellPut cs a b) k = if k = a then b else cellGet cs k := by
  unfold cellGet cellPut
  split
  · rename_i h; subst h; exact tabGet_tabDel cs a k 0
  · split
    · rename_i h; subst h; exact tabGet_tabSet_same cs k b 0
    · rename_i h; exact tabGet_tabSet_ne cs a k b 0 h

theorem cellGet_cellsPut_out (bs : List (BitVec 8)) : ∀ (cs : List Host.Cell) (a k : Nat), (k < a ∨ a + bs.length ≤ k) →
    cellGet (cellsPut cs a bs) k = cellGet cs k := by
  induction bs with
  | nil => intro cs a k _; rfl
  | cons b r ih =>
    intro cs a k h
    simp only [cellsPut, List.length_cons] at *
    rw [ih _ _ _ (by omega), cellGet_cellPut, if_neg (by omega)]

theorem cellGet_cellsPut_in (bs : List (BitVec 8)) : ∀ (cs : List Host.Cell) (a i : Nat), i < bs.length →
    cellGet (cellsPut cs a bs) (a + i) = bs.getD i 0 := by
  induction bs with
  | nil => intro cs a i h; simp at h
  | cons b r ih =>
    intro cs a i h
    simp only [cellsPut]
    cases i with
    | zero => rw [cellGet_cellsPut_out _ _ _ _ (by omega), cellGet_cellPut]; simp
    | succ i =>
      have := ih (cellPut cs a b) (a + 1) i (by simpa using h)
      rw [show a + 1 + i = a + (i + 1) by omega] at this
      simpa using this

/-- Bytes written read back. -/
theorem cellsGet_cellsPut (cs : List Host.Cell) (a : Nat) (bs : List (BitVec 8)) : cellsGet (cellsPut cs a bs) a bs.length = bs := by
  apply List.ext_getElem
  · simp [cellsGet]
  · intro i h1 h2
    simp only [cellsGet, List.getElem_map, List.getElem_range]
    rw [cellGet_cellsPut_in _ _ _ _ h2]
    simp [List.getD_eq_getElem?_getD, h2]

theorem putBytes_wf (s : State) (a : Nat) (bs : List (BitVec 8)) (h : Memory.wf s.mem.cells = true) :
    Memory.wf (s.putBytes a bs).mem.cells = true := cellsPut_wf bs _ _ h

theorem zeroBytes_wf (s : State) (a n : Nat) (h : Memory.wf s.mem.cells = true) : Memory.wf (s.zeroBytes a n).mem.cells = true :=
  cellsZero_wf _ _ _ h

theorem byteAt_putBytes_out (s : State) (a k : Nat) (bs : List (BitVec 8)) (h : k < a ∨ a + bs.length ≤ k) :
    (s.putBytes a bs).byteAt k = s.byteAt k := cellGet_cellsPut_out bs _ _ _ h

theorem bytesAt_putBytes (s : State) (a : Nat) (bs : List (BitVec 8)) : (s.putBytes a bs).bytesAt a bs.length = bs :=
  cellsGet_cellsPut _ _ _

end Sys2Proof.Machine
end

