-- ==== Sys2Proof/Laws/Take.lean ====
section
/-! SUPPORT. An instruction that is ready runs: what taking the head of a queue comes to where nothing holds it or fails. -/

namespace Sys2Proof.Machine

theorem State.takeHead_ready {s s' : State} {core q ctx : Nat} {sel : Op → Bool} {e : QEntry} {o : Op}
    {rest : State → Nat → QEntry → Op → State × List Bad × List Bad × List Bad} {run : State → Nat → QEntry → Op → State}
    (h : s.ready core q sel rest = some (s', ctx, e, o)) : s.takeHead core q sel rest run = run s' ctx e o := by
  unfold State.ready at h
  unfold State.takeHead
  dsimp only at h ⊢
  split at h
  · simp at h
  · rename_i ht
    rw [if_neg ht]
    split at h
    · simp at h
    · rename_i e0 hh
      try simp only [hh]
      split at h
      · simp at h
      · rename_i hq
        rw [if_neg hq]
        split at h
        · simp at h
        · rename_i o0 ho
          try simp only [ho]
          split at h
          · simp at h
          · rename_i hs
            rw [if_neg hs]
            split at h
            · simp at h
            · rename_i hc
              try simp only [hc]
              split at h
              · simp at h
              · rename_i hw
                rw [if_neg hw]
                simp only [Option.some.injEq, Prod.mk.injEq] at h
                obtain ⟨rfl, rfl, rfl, rfl⟩ := h
                rfl

end Sys2Proof.Machine
end

