-- ==== Sys2Proof/WellFormed.lean ====
section
/-! DEFINITION. What a command must satisfy beyond its types to be one that the module can receive: unit IDs in the form of R12,
program counters on a 16-bit boundary, widths that a bus can carry, records of their own length. Commands outside these forms have
a meaning too, since every rule that judges an operand is part of the meaning. -/

namespace Sys2Proof

/-- The reserved low bits of a unit ID are zero (Table 1-4). -/
def unitWf (u : BitVec 32) : Bool := u &&& 0x7FFFF#32 = 0
/-- An RV32IMAC program counter is even (R154). -/
def pcWf (pc : BitVec 32) : Bool := pc.getLsbD 0 = false
/-- The widths of an access that a bus can carry, right or wrong under R9. -/
def widthWf (n : Nat) : Bool := n = 1 || n = 2 || n = 4 || n = 8
/-- The offsets that Registers.lean reads: a unit window, an LA SRAM slot, the BAR0 blocks (Tables 1-5, 1-11, 13-2). -/
def offWf (off : BitVec 24) : Bool :=
  off.toNat < 0x10000 || (0x400000 ≤ off.toNat && off.toNat < 0x800000) || 0xE00000 ≤ off.toNat
/-- An account's name has 1 to 32 bytes (R385). -/
def accountWf (a : Account) : Bool := 1 ≤ a.name.utf8ByteSize && a.name.utf8ByteSize ≤ 32
/-- Loads and stores have 1, 2 or 4 bytes (R155). -/
def accessWf (a : SeqAccess) : Bool :=
  match a with
  | .load _ n _ _ => n = 1 || n = 2 || n = 4
  | .store _ n _ => n = 1 || n = 2 || n = 4
  | .lr _ _ | .sc _ _ _ | .amo _ _ _ _ | .fetch _ | .csrRead _ _ | .csrWrite _ _ _ | .illegal _ | .step => true

/-- The well-formed commands. -/
def Instr.wf (i : Instr) : Bool :=
  match i with
  | .tissue _ pc _ => pcWf pc
  | .treplay _ pc _ _ => pcWf pc
  | .pmsetW _ pc _ _ => pcWf pc
  | .pmsetA _ pc _ _ => pcWf pc
  | .tawait _ pc _ _ => pcWf pc
  | .qcwait _ pc _ _ => pcWf pc
  | .qcsig _ pc _ _ => pcWf pc
  | .tfence _ pc _ _ => pcWf pc
  | .ecall _ pc _ _ => pcWf pc
  | .ebreak _ pc => pcWf pc
  | .counterWindowStore _ pc _ _ => pcWf pc
  | .replayBufferStore _ pc _ _ => pcWf pc
  | .sqBmaskWrite _ pc _ => pcWf pc
  | .sqStepadv _ pc _ => pcWf pc
  | .sequencerStop _ => true
  | .ldw _ _ => true
  | .ldwt _ _ => true
  | .mmul _ _ => true
  | .mmula _ _ => true
  | .drn _ _ => true
  | .arrayRampDown _ _ idle => 1 ≤ idle
  | .vew _ => true
  | .vred _ => true
  | .scalarReturn _ _ => true
  | .vcvtConvert _ => true
  | .vcvtCommit _ => true
  | .vopt _ => true
  | .vnrmAdd _ => true
  | .vnrmFlush _ => true
  | .vhrv _ => true
  | .vsgn _ => true
  | .dmov _ _ => true
  | .dgth _ => true
  | .dsct _ => true
  | .dcow _ => true
  | .dcowPageCopy _ slot => slot < 128
  | .dcrcFeed _ => true
  | .dcrcSave _ => true
  | .dcrcLoad _ => true
  | .cred _ => true
  | .credNorm _ => true
  | .crsc _ => true
  | .cbcs _ => true
  | .ca2a _ => true
  | .collectiveStart _ unit _ => unitWf unit
  | .chunkReceive _ unit _ _ _ _ => unitWf unit
  | .tlwReceive _ unit _ _ _ => unitWf unit
  | .sig _ => true
  | .wait _ => true
  | .scset _ => true
  | .instructionComplete _ q slot => slot < (if q = 2 then 128 else 64)
  | .contextFault _ => true
  | .signalArrival _ => true
  | .waitTimeout _ => true
  | .syncSignal _ unit _ => unitWf unit
  | .dbgScset _ unit _ => unitWf unit
  | .peek _ _ _ => true
  | .peekDone _ => true
  | .cvInit _ _ _ _ => true
  | .hcvInit _ _ _ => true
  | .hcvRearm _ _ => true
  | .sliceExpiry _ => true
  | .contextSwitch outc inc => outc ≠ inc
  | .contextResident ctx _ _ => ctx ≠ 0
  | .contextEvict ctx => ctx ≠ 0
  | .cleanMove ctx place _ _ => ctx ≠ 0 && place ≠ 0
  | .switchOutTimeout _ => true
  | .fenceClose _ => true
  | .fenceTimeout _ => true
  | .ctxCreate _ _ _ => true
  | .ctxSet _ _ _ => true
  | .ctxDestroy _ _ => true
  | .ctxInval _ _ => true
  | .ctxRead _ _ _ => true
  | .contextScrubEnd _ => true
  | .tailLineTaken _ _ _ _ => true
  | .tailLinePoll _ _ => true
  | .jobFetch _ _ _ line _ _ => line.all fun l => l.length = 8
  | .shareStart _ _ => true
  | .jobComplete _ _ => true
  | .crDelayExpiry _ _ => true
  | .jrEnable _ _ _ _ _ => true
  | .crEnable _ _ _ => true
  | .crHeadWrite _ _ _ => true
  | .funcDisable _ => true
  | .funcReenable _ => true
  | .flr _ => true
  | .vfEnableClear => true
  | .busMasterDisable _ => true
  | .busMasterEnable _ => true
  | .linkDown => true
  | .backInvalidateTimeout _ => true
  | .configRequest => true
  | .hdmRead _ _ n _ => 1 ≤ n
  | .hdmWrite _ _ bytes => 1 ≤ bytes.length
  | .compAssign _ _ _ => true
  | .compStart _ _ => true
  | .compStop _ _ => true
  | .hartAccessRefused _ _ => true
  | .memCulladd _ _ => true
  | .persist _ => true
  | .persistDone _ => true
  | .patrolScrub _ _ => true
  | .refresh _ _ _ => true
  | .channelLost _ _ access => unitWf access.unit
  | .kdFillDone _ => true
  | .governorEval _ => true
  | .powerInterval _ _ _ => true
  | .domainWake _ => true
  | .energySample _ _ => true
  | .inputCurrentTrip _ => true
  | .currentTripRelease => true
  | .droopDetect _ => true
  | .temperatureReport _ _ => true
  | .emergencyEnd => true
  | .pwrCapWrite _ _ => true
  | .pwrModeWrite _ _ => true
  | .ledgerRecordArrival _ cls _ _ _ _ _ _ _ _ _ _ => cls.toNat ≤ 4
  | .ldgSelWrite _ unit _ => unitWf unit
  | .checkInterval _ _ => true
  | .digestMessage _ _ _ _ _ _ _ => true
  | .digestCollectEnd _ _ _ _ _ => true
  | .drain _ => true
  | .drainComplete => true
  | .resume _ => true
  | .clearReplace _ => true
  | .replaceNvmRetry _ => true
  | .ckpBegin _ _ => true
  | .ckpLoad _ _ _ _ => true
  | .ckpEnd _ _ => true
  | .ckpAbort _ _ => true
  | .heartbeat _ _ => true
  | .heartbeatMiss _ => true
  | .watchdogExpiry _ => true
  | .processorServing _ => true
  | .engineHang _ e slot => slot < (if e.val < 2 then 64 else 128)
  | .crustDump domain unit _ => domain.toNat ≤ 7 && unitWf unit
  | .dumpWordTimeout _ word unitEnd => word < unitEnd
  | .dumpCommit _ => true
  | .resetCore _ unit => unitWf unit
  | .resetCluster _ unit => unitWf unit
  | .resetDie _ unit => unitWf unit
  | .resetChannelGroup _ _ => true
  | .resetSpanLink _ _ => true
  | .resetHostFunction _ _ => true
  | .resetModuleWarm _ => true
  | .resetModuleCold _ => true
  | .resetComplete domain _ => domain.toNat ≤ 7
  | .mgmtRstreq _ _ => true
  | .coldPowerLoss => true
  | .mainPowerLoss => true
  | .fmpSessionOpen _ _ _ => true
  | .fmpSessionIdle _ => true
  | .fmpLockoutExpiry _ => true
  | .regRead _ _ width => widthWf width
  | .regWrite _ _ width _ => widthWf width
  | .ledgerStream _ => true
  | .ledgerAck _ _ => true
  | .measure _ => true
  | .funcAssign _ _ _ _ _ _ => true
  | .kdBind _ _ _ => true
  | .kdRelease _ _ => true
  | .configWrite _ _ => true
  | .fwLoad _ _ _ _ _ _ _ _ => true
  | .fwActivate _ _ => true
  | .fwCommit _ _ => true
  | .procRelease _ _ => true
  | .mainPowerOn _ => true
  | .resetGrant _ _ => true
  | .debugGrant _ _ _ => true
  | .dumpList _ => true
  | .dumpRead _ _ => true
  | .dumpPin _ _ _ => true
  | .accountAdd _ a => accountWf a
  | .accountRemove _ _ => true
  | .accountClear _ => true
  | .accountClearLapse => true
  | .enrolment a => accountWf a
  | .spdmRequest _ _ => true
  | .spdmMeasurements _ _ => true
  | .pldmRequest _ _ => true
  | .pldmIdentify _ => true
  | .spanLinkTrained _ _ _ _ _ _ _ => true
  | .linkHandshakeRetry _ _ => true
  | .flitReceive _ _ _ _ _ _ => true
  | .laneLockLoss _ => true
  | .peerSilence _ => true
  | .withdrawalNotice _ _ _ => true
  | .memberAdmit _ => true
  | .expel _ _ => true
  | .readmit _ _ => true
  | .shareEndNotice _ _ _ _ => true
  | .forwardedAccess _ _ width _ => widthWf width
  | .bringupPhase0 _ _ => true
  | .bringupPhase1 _ => true
  | .bringupPhase2 _ _ _ _ => true
  | .bringupPhase3 => true
  | .bringupPhase4 _ => true
  | .bringupTimeout => true
  | .stackJoin _ => true
  | .stackFail _ _ _ => true
  | .latchOpen => true
  | .latchDumpCutoff => true
  | .latchClose => true
  | .presenceChange _ _ => true
  | .drainButtonHold => true
  | .identifyTouch _ _ => true
  | .identOn _ => true
  | .identOff _ => true
  | .identToggle _ => true
  | .invalidRegisterAccess _ _ off width _ => offWf off && widthWf width
  | .registerWrite _ _ off width _ => offWf off && widthWf width
  | .sequencerLoadStore _ pc len acc => pcWf pc && (len = 2 || len = 4) && accessWf acc
  | .restoreLoadDone _ => true
  | .droopRecovery _ => true
  | .channelGroupPowerDown _ _ => true

end Sys2Proof
end

