-- ==== Sys2Proof/Tests/Slice0.lean ====
section
/-! SUPPORT. Tests of the model: witnesses that the hypotheses of every statement can be met together, a term that WellFormed refuses
for each of its checks, and the worked examples of the spec. -/

open Sys2Proof Sys2Proof.Machine

set_option Elab.async false

namespace Sys2Proof.Tests

/- States to start from. -/

/-- A module in service: every stack joined, main power on, the host link up, one FMP session with every role, function 0 with a range,
a key domain, a host window, and in its first pages three levels of page tables: virtual addresses below 2 MiB are the stores of the
executing cores, those to 4 MiB stack memory, those to 6 MiB host memory. -/
def up : State :=
  { State.reset with
    boot := { phase := 4, ended := [0, 1, 2, 3], joined := 0xFFFFF, open_ := 0xF, configUp := true }
    health := { state := 3, dieState := [3, 3, 3, 3] }
    pwr := { mainOn := true }
    panel := { pres0 := true, pres1 := true, latch := true, holdup := true }
    sch := { hostLink := true }
    mgmt := { sessions := [{ id := 0, account := "a" }] }
    nvm := { accounts := [{ name := "a", roles := 0x3F }] }
    funcs := [(0, { size := 2 ^ 30, quota := 8, dom := some 1, enabled := true, assigned := true, busMaster := true
                    windows := [(0x400001, 0x600000)] })]
    doms := [(1, { state := 1 })]
    mem := { chan := (List.range 128).map fun c => (c, ({ state := 2 } : Chan))
             cells := [(0x1000, 0x01), (0x1001, 0x20), (0x2000, 0x01), (0x2001, 0x30), (0x3000, 0xC7),
                       (0x3008, 0x07), (0x300A, 0x20), (0x3010, 0x87), (0x3011, 0x01), (0x3012, 0x40)] } }

/-- Context 1 of function 0 runs on cluster 0. -/
def ctx1 : State :=
  { up with
    ctxs := [(1, { valid := true, state := .running, keydom := 1, ptroot := 0x1000, place := 1 })]
    runs := [(1, { jobCores := 0xF, storeBytes := 2 ^ 21, resident := true, running := true })]
    clus := [(0, { ctx := 1 })]
    seqs := [(16, { dataExt := 0x1000, replayExt := 64, bmask := 1, job := 0xF, run := .run, tilesDecl := 0xFF })] }

/-- A descriptor of rank 1: format, role, base (its scale entries 0x8000 bytes on where its format has any) and element count. -/
def td (fmt role base n : Nat) : Desc :=
  { d0 := reg [(1, 63, 1), (role, 54, 2), (fmt, 48, 4), (base, 0, 48)]
    d1 := if fmt < 9 then reg [(base + 0x8000, 0, 48)] else 0, d3 := reg [(n, 32, 32)] }

/-- The same with rank 2. -/
def td2 (d : Desc) (n stride : Nat) : Desc := { d with d0 := d.d0 ||| (1 <<< 52), d4 := BitVec.ofNat 64 n, d5 := reg [(stride, 32, 32)] }

/-- The same with HKEEP. -/
def tdKeep (d : Desc) (k : Nat) : Desc := { d with d1 := d.d1 ||| reg [(k, 48, 9)] }

/-- Context 1 with one instruction at the head of queue q of core 0, its last words given, and its descriptors; OPX names descriptor 3. -/
def eng (q engine opcode : Nat) (w5 w6 w7 : BitVec 32) (ds : List Desc) (x : Bool := false) : State :=
  ctx1.coreM 1 0 fun k => k.setQueue q [{
    word := { w0 := BitVec.ofNat 32 (engine * 256 + opcode), w2 := if x then 3 <<< 10 else 0, w5 := w5, w6 := w6, w7 := w7 }
    descs := ds.zipIdx.map fun p => (p.2, p.1), bset := 1 }]

/-- What a command leaves behind satisfies p. -/
def after (c : Instr) (s : State) (p : State → Bool) : Bool := match exec c s with | .next t => p t | _ => false

/-- The records that the last step left in the ledger's tail: class and code. -/
def codes (s : State) : List (Nat × Nat) := s.led.tail.map fun r => (r.cls.toNat, r.code.toNat)

/-- Core 0's outcome in queue q. -/
def outcome (s : State) (q : Nat) : Option Nat := ((s.coreE 1 0).queue q).head?.bind fun e => e.result.map fun o => o.status.toNat
/-- The start cycle of an MMUL that is taken at cycle 1000. -/
def passIssue (e : QEntry) (k : CoreCtx) (p : CorePhys) : Int := issueCycle e.word k 1000 + rampOf e.word k p (issueCycle e.word k 1000)

/-- An MMUL into array 0, whose active set is loaded. -/
def passing : State :=
  (eng 0 0 0x10 0x1000 0 0 [td 0 0 0x100 1]).coreM 1 0 fun k => k.arrM 0 fun x => { x with active := { loaded := true, role := 1 } }

/-- Context 1 with a CXE instruction taken and joined to collective 0 of cluster 0 on each of its cores. -/
def coll (opcode : Nat) (ds : List Desc) : State :=
  (List.range 4).foldl (fun s n => s.coreM 1 n fun k => k.setQueue 2 [{
    word := { w0 := BitVec.ofNat 32 (768 + opcode), w5 := 1, w7 := 0x80000 }, descs := ds.zipIdx.map fun p => (p.2, p.1), bset := 15
    taken := true, patched := true, joined := some 0 }]) ctx1

/-- A DCOW of one page of stack memory to host memory that was taken in an epoch since superseded. -/
def cowing : State :=
  (eng 2 2 4 1 0 0 [td 10 0 0x400000 32768, td 10 0 0x200000 16384]).coreM 1 0 fun k =>
    { k.setQueue 2 (k.dxeQ.map fun e => { e with taken := true, patched := true, epoch := 1 }) with
      dcows := [{ slot := 0, core := 0, ctx := 1, srcVa := 0x200000, dstVa := 0x400000, pages := [32], todo := [0] }] }

/-- The state in which a DRN reads its tiles. -/
def drainStarts (s1 : State) (ctx : Nat) (e : QEntry) : State :=
  (arrayList e.word).zipIdx.foldl (fun s aj => s.coreM ctx 0 fun k => k.arrM aj.1 fun x =>
        if e.word.tile = 0 then { x with time := { x.time with drain0 := some (issueCycle e.word (s1.coreE ctx 0) 1000) } }
        else { x with time := { x.time with drain1 := some (issueCycle e.word (s1.coreE ctx 0) 1000) } })
      (s1.coreM ctx 0 fun k => { k with anchor := some (issueCycle e.word (s1.coreE ctx 0) 1000) })

/-- The state in which a VRED has added its source. -/
def vredSums (s2 : State) (ctx : Nat) (e : QEntry) (f : Fetched) (phase dim : Nat) : State :=
  let ext := vredExt (e.view 1).e false dim
  let n := ext.getD 0 0 * ext.getD 1 0 * ext.getD 2 0 * ext.getD 3 0
  (if phase ≤ 1 then s2.coreM ctx 0 fun k => { k with vacc := forN (accBase e.word) n (fun i l => tabSet l i (laClear ctx)) k.vacc } else s2).coreM
    ctx 0 fun k => vredAdd k ctx ((e.view 1).present.map fun p => (accBase e.word + winIdx ext (p.1.set dim 0), valAt (e.view 1).d f p.2))


def chain_LoadFillsTheShadowSets (s : State) : Bool :=
  (match s.ready 0 0 (· == .ldw) (fun s ctx e o => mxeRest s 0 ctx e o) with
  | some (s1, ctx, e, .ldw) => if e.word.arrays ≠ 0 then if slotFail e.word .ldw (loadCycles e.word.pcode (e.desc (e.word.td 0)).fmt) (issueCycle e.word (s1.coreE ctx 0) 1000) (s1.coreE ctx 0) = none then (match (s1.coreM ctx 0 fun k => { k with anchor := some (issueCycle e.word (s1.coreE ctx 0) 1000) }).fetchAt (agentOf ctx 0 2)
      (readAddrs (e.desc (e.word.td 0)) (((List.range (if (e.word.modeAs && true) then (arrayList e.word).length else 1)).map fun j =>
        chunkPlaces (e.desc (e.word.td 0)) (originOf (e.desc (e.word.td 0)) (e.word.off 0)) false (pOf e.word.pcode) (64 * j)).flatten.map Prod.snd)) with
    | (_, .ok _) => true
    | _ => false) else false else false
  | _ => false)


/-- The hypotheses of LoadFillsTheShadowSets are met: an LDW into array 0. -/
theorem witness_LoadFillsTheShadowSets : ∃ s : State, ∃ s1 ctx e s2 f,
    s.ready 0 0 (· == .ldw) (fun s ctx e o => mxeRest s 0 ctx e o) = some (s1, ctx, e, .ldw) ∧
    e.word.arrays ≠ 0 ∧
    slotFail e.word .ldw (loadCycles e.word.pcode (e.desc (e.word.td 0)).fmt) (issueCycle e.word (s1.coreE ctx 0) 1000) (s1.coreE ctx 0) = none ∧
    ((s1.coreM ctx 0 fun k => { k with anchor := some (issueCycle e.word (s1.coreE ctx 0) 1000) }).fetchAt (agentOf ctx 0 2)
      (readAddrs (e.desc (e.word.td 0)) (((List.range (if (e.word.modeAs && true) then (arrayList e.word).length else 1)).map fun j =>
        chunkPlaces (e.desc (e.word.td 0)) (originOf (e.desc (e.word.td 0)) (e.word.off 0)) false (pOf e.word.pcode) (64 * j)).flatten.map Prod.snd)) = (s2, .ok f)) := by
  have h : chain_LoadFillsTheShadowSets (eng 0 0 0x01 0x1000 0 0 [td 1 1 0x100 1]) = true := by decide +kernel
  generalize eng 0 0 0x01 0x1000 0 0 [td 1 1 0x100 1] = s at h
  unfold chain_LoadFillsTheShadowSets at h
  split at h
  rotate_left
  · exact absurd h Bool.false_ne_true
  rename_i h0
  split at h
  rotate_left
  · exact absurd h Bool.false_ne_true
  rename_i h1
  split at h
  rotate_left
  · exact absurd h Bool.false_ne_true
  rename_i h2
  split at h
  rotate_left
  · exact absurd h Bool.false_ne_true
  rename_i h3
  exact ⟨s, _, _, _, _, _, h0, h1, h2, h3⟩

def chain_DrainWritesTheResolvedTiles (s : State) : Bool :=
  (match s.ready 0 0 (· == .drn) (fun s ctx e o => mxeRest s 0 ctx e o) with
  | some (s1, ctx, e, .drn) => if e.word.arrays ≠ 0 then if slotFail e.word .drn 0 (issueCycle e.word (s1.coreE ctx 0) 1000) (s1.coreE ctx 0) = none then (match drainStarts s1 ctx e with
    | s2 => if (s2.coreE ctx 0).tiles = [] then if laMismatch (laResolve (laClear ctx)) = false then (match (s2.coreM ctx 0 fun k => k.resolveTiles (arrayList e.word) e.word.tile).convertTo (agentOf ctx 0 2) (e.desc (e.word.td 0))
      ((s2.coreM ctx 0 fun k => k.resolveTiles (arrayList e.word) e.word.tile).convCtx ctx e false) ((arrayList e.word).zipIdx.flatMap fun aj =>
      (((List.range 64).flatMap fun m => (List.range 64).map fun n => (m, n)).map fun p =>
        (drnPlace (originOf (e.desc (e.word.td 0)) (e.word.off 0))
          (if e.word.tile = 0 then ((s2.coreE ctx 0).arr aj.1).tileAs0 else ((s2.coreE ctx 0).arr aj.1).tileAs1) aj.2 p.1 p.2,
         laValue (laResolve ((s2.coreE ctx 0).la ctx (laKey aj.1 e.word.tile p.1 p.2))))).filter fun q => presentAt (e.desc (e.word.td 0)) q.1) with
    | (_, .ok _) => true
    | _ => false) else false else false) else false else false
  | _ => false)


/-- The hypotheses of DrainWritesTheResolvedTiles are met: a DRN of tile 0 of array 0 into one element. -/
theorem witness_DrainWritesTheResolvedTiles : ∃ s : State, ∃ s1 ctx e s2 s3 out,
    s.ready 0 0 (· == .drn) (fun s ctx e o => mxeRest s 0 ctx e o) = some (s1, ctx, e, .drn) ∧
    e.word.arrays ≠ 0 ∧
    slotFail e.word .drn 0 (issueCycle e.word (s1.coreE ctx 0) 1000) (s1.coreE ctx 0) = none ∧
    drainStarts s1 ctx e = s2 ∧
    (s2.coreE ctx 0).tiles = [] ∧
    laMismatch (laResolve (laClear ctx)) = false ∧
    ((s2.coreM ctx 0 fun k => k.resolveTiles (arrayList e.word) e.word.tile).convertTo (agentOf ctx 0 2) (e.desc (e.word.td 0))
      ((s2.coreM ctx 0 fun k => k.resolveTiles (arrayList e.word) e.word.tile).convCtx ctx e false) ((arrayList e.word).zipIdx.flatMap fun aj =>
      (((List.range 64).flatMap fun m => (List.range 64).map fun n => (m, n)).map fun p =>
        (drnPlace (originOf (e.desc (e.word.td 0)) (e.word.off 0))
          (if e.word.tile = 0 then ((s2.coreE ctx 0).arr aj.1).tileAs0 else ((s2.coreE ctx 0).arr aj.1).tileAs1) aj.2 p.1 p.2,
         laValue (laResolve ((s2.coreE ctx 0).la ctx (laKey aj.1 e.word.tile p.1 p.2))))).filter fun q => presentAt (e.desc (e.word.td 0)) q.1) = (s3, .ok out)) := by
  have h : chain_DrainWritesTheResolvedTiles (eng 0 0 0x20 0x1000 0 0 [td 0 0 0x100 1]) = true := by decide +kernel
  generalize eng 0 0 0x20 0x1000 0 0 [td 0 0 0x100 1] = s at h
  unfold chain_DrainWritesTheResolvedTiles at h
  split at h
  rotate_left
  · exact absurd h Bool.false_ne_true
  rename_i h0
  split at h
  rotate_left
  · exact absurd h Bool.false_ne_true
  rename_i h1
  split at h
  rotate_left
  · exact absurd h Bool.false_ne_true
  rename_i h2
  dsimp only at h
  split at h
  rotate_left
  · exact absurd h Bool.false_ne_true
  rename_i h4
  split at h
  rotate_left
  · exact absurd h Bool.false_ne_true
  rename_i h5
  split at h
  rotate_left
  · exact absurd h Bool.false_ne_true
  rename_i h6
  exact ⟨s, _, _, _, _, _, _, h0, h1, h2, rfl, h4, h5, h6⟩

def chain_ElementwiseResultsAreWritten_vew (s : State) : Bool :=
  (match s.ready 0 1 isVew (fun s ctx e o => vewRest s 0 ctx e o) with
  | some (s1, ctx, e, .vew fn fuse) => (match s1.fetchAt (agentOf ctx 0 2) (([e.view 1] ++ (if opHas (.vew fn fuse) 2 then [e.view 2] else []) ++
        (if opHasX (.vew fn fuse) then [e.view 3] else [])).flatMap fun v => readAddrs v.d v.xs) with
    | (s2, .ok ft) => (match s2.convertTo (agentOf ctx 0 2) (e.view 0).d (s2.convCtx ctx e false) ((e.view 0).present.map fun p =>
        (p.2, vewElem fn fuse ((e.view 1).at ft p.1) (if opHas (.vew fn fuse) 2 then (e.view 2).at ft p.1 else vZero)
          (if opHasX (.vew fn fuse) then (e.view 3).at ft p.1 else vZero))) with
      | (_, .ok _) => true
      | _ => false)
    | _ => false)
  | _ => false)


/-- The hypotheses of ElementwiseResultsAreWritten are met: a VEW with two sources. -/
theorem witness_ElementwiseResultsAreWritten_vew : ∃ s : State, ∃ s1 ctx e fn fuse s2 ft s3 out,
    s.ready 0 1 isVew (fun s ctx e o => vewRest s 0 ctx e o) = some (s1, ctx, e, .vew fn fuse) ∧
    (s1.fetchAt (agentOf ctx 0 2) (([e.view 1] ++ (if opHas (.vew fn fuse) 2 then [e.view 2] else []) ++
        (if opHasX (.vew fn fuse) then [e.view 3] else [])).flatMap fun v => readAddrs v.d v.xs) = (s2, .ok ft)) ∧
    (s2.convertTo (agentOf ctx 0 2) (e.view 0).d (s2.convCtx ctx e false) ((e.view 0).present.map fun p =>
        (p.2, vewElem fn fuse ((e.view 1).at ft p.1) (if opHas (.vew fn fuse) 2 then (e.view 2).at ft p.1 else vZero)
          (if opHasX (.vew fn fuse) then (e.view 3).at ft p.1 else vZero))) = (s3, .ok out)) := by
  have h : chain_ElementwiseResultsAreWritten_vew (eng 1 1 0x04 1 2 0 [td 0 0 0x100 1, td 0 0 0x200 1, td 0 0 0x300 1]) = true := by decide +kernel
  generalize eng 1 1 0x04 1 2 0 [td 0 0 0x100 1, td 0 0 0x200 1, td 0 0 0x300 1] = s at h
  unfold chain_ElementwiseResultsAreWritten_vew at h
  split at h
  rotate_left
  · exact absurd h Bool.false_ne_true
  rename_i h0
  split at h
  rotate_left
  · exact absurd h Bool.false_ne_true
  rename_i h1
  split at h
  rotate_left
  · exact absurd h Bool.false_ne_true
  rename_i h2
  exact ⟨s, _, _, _, _, _, _, _, _, _, h0, h1, h2⟩

def chain_ElementwiseResultsAreWritten_vcvt (s : State) : Bool :=
  (match s.ready 0 1 (· == .vcvt) (fun s ctx e o => vcvtRest s 0 ctx e o) with
  | some (s1, ctx, e, .vcvt) => (match s1.fetchAt (agentOf ctx 0 2) ([e.view 1].flatMap fun v => readAddrs v.d v.xs) with
    | (s2, .ok ft) => (match s2.convertTo (agentOf ctx 0 2) (e.view 0).d (s2.convCtx ctx e false) ((e.view 0).present.map fun p => (p.2, resOf ((e.view 1).at ft p.1))) with
      | (_, .ok _) => true
      | _ => false)
    | _ => false)
  | _ => false)


/-- The hypotheses of ElementwiseResultsAreWritten are met: a VCVT.CONVERT. -/
theorem witness_ElementwiseResultsAreWritten_vcvt : ∃ s : State, ∃ s1 ctx e s2 ft s3 out,
    s.ready 0 1 (· == .vcvt) (fun s ctx e o => vcvtRest s 0 ctx e o) = some (s1, ctx, e, .vcvt) ∧
    s1.fetchAt (agentOf ctx 0 2) ([e.view 1].flatMap fun v => readAddrs v.d v.xs) = (s2, .ok ft) ∧
    s2.convertTo (agentOf ctx 0 2) (e.view 0).d (s2.convCtx ctx e false) ((e.view 0).present.map fun p => (p.2, resOf ((e.view 1).at ft p.1))) = (s3, .ok out) := by
  have h : chain_ElementwiseResultsAreWritten_vcvt (eng 1 1 0xA0 1 0 0 [td 0 0 0x100 1, td 0 0 0x200 1]) = true := by decide +kernel
  generalize eng 1 1 0xA0 1 0 0 [td 0 0 0x100 1, td 0 0 0x200 1] = s at h
  unfold chain_ElementwiseResultsAreWritten_vcvt at h
  split at h
  rotate_left
  · exact absurd h Bool.false_ne_true
  rename_i h0
  split at h
  rotate_left
  · exact absurd h Bool.false_ne_true
  rename_i h1
  split at h
  rotate_left
  · exact absurd h Bool.false_ne_true
  rename_i h2
  exact ⟨s, _, _, _, _, _, _, _, h0, h1, h2⟩

def chain_ElementwiseResultsAreWritten_norms (s : State) : Bool :=
  (match s.ready 0 1 (· == .vnrmAdd) (fun s ctx e o => vnrmRest s 0 ctx e o) with
  | some (s1, ctx, e, .vnrmAdd) => (match s1.fetchAt (agentOf ctx 0 2) ([e.view 1].flatMap fun v => readAddrs v.d v.xs) with
    | (_, .ok _) => true
    | _ => false)
  | _ => false)


/-- The hypotheses of ElementwiseResultsAreWritten are met: a VNRM.ADD. -/
theorem witness_ElementwiseResultsAreWritten_norms : ∃ s : State, ∃ s1 ctx e s2 f,
    s.ready 0 1 (· == .vnrmAdd) (fun s ctx e o => vnrmRest s 0 ctx e o) = some (s1, ctx, e, .vnrmAdd) ∧
    s1.fetchAt (agentOf ctx 0 2) ([e.view 1].flatMap fun v => readAddrs v.d v.xs) = (s2, .ok f) := by
  have h : chain_ElementwiseResultsAreWritten_norms (eng 1 1 0xC0 1 0 0 [td 1 0 0x100 1, td 0 0 0x200 1]) = true := by decide +kernel
  generalize eng 1 1 0xC0 1 0 0 [td 1 0 0x100 1, td 0 0 0x200 1] = s at h
  unfold chain_ElementwiseResultsAreWritten_norms at h
  split at h
  rotate_left
  · exact absurd h Bool.false_ne_true
  rename_i h0
  split at h
  rotate_left
  · exact absurd h Bool.false_ne_true
  rename_i h1
  exact ⟨s, _, _, _, _, _, h0, h1⟩

def chain_ElementwiseResultsAreWritten_flush (s : State) : Bool :=
  (match s.ready 0 1 (· == .vnrmFlush) (fun s _ _ _ => (s, [], [], [])) with
  | some (s1, ctx, _, .vnrmFlush) => (match s1.flushNorms ctx 0 with
    | (_, _) => true)
  | _ => false)


/-- The hypotheses of ElementwiseResultsAreWritten are met: a VNRM.FLUSH. -/
theorem witness_ElementwiseResultsAreWritten_flush : ∃ s : State, ∃ s1 ctx e s2 r,
    s.ready 0 1 (· == .vnrmFlush) (fun s _ _ _ => (s, [], [], [])) = some (s1, ctx, e, .vnrmFlush) ∧
    s1.flushNorms ctx 0 = (s2, r) := by
  have h : chain_ElementwiseResultsAreWritten_flush (eng 1 1 0xC1 0 0 0 []) = true := by decide +kernel
  generalize eng 1 1 0xC1 0 0 0 [] = s at h
  unfold chain_ElementwiseResultsAreWritten_flush at h
  split at h
  rotate_left
  · exact absurd h Bool.false_ne_true
  rename_i h0
  split at h
  rename_i h1
  exact ⟨s, _, _, _, _, _, h0, h1⟩

def chain_ElementwiseResultsAreWritten_commit (s : State) : Bool :=
  (match s.ready 0 1 (· == .vcommit) (fun s ctx e o => commitRest s 0 ctx e o) with
  | some (s1, ctx, e, .vcommit) => (match s1.fetchAt (agentOf ctx 0 2) ((((e.view 0).xs.map (blockNo (e.view 0).d)).eraseDups).flatMap fun j =>
        [entryAddr (e.view 0).d j, entryAddr (e.view 0).d j + 1]) with
    | (s2, .ok f) => (match s2.writeMasked (agentOf ctx 0 2) ((((e.view 0).xs.map (blockNo (e.view 0).d)).eraseDups).flatMap fun j =>
        [(entryAddr (e.view 0).d j, 255, (commitEntry (BitVec.ofNat 8 (f.get (entryAddr (e.view 0).d j)))
            (BitVec.ofNat 8 (f.get (entryAddr (e.view 0).d j + 1)))).1.toNat),
         (entryAddr (e.view 0).d j + 1, 255, (commitEntry (BitVec.ofNat 8 (f.get (entryAddr (e.view 0).d j)))
            (BitVec.ofNat 8 (f.get (entryAddr (e.view 0).d j + 1)))).2.toNat)]) with
      | (_, none) => true
      | _ => false)
    | _ => false)
  | _ => false)


/-- The hypotheses of ElementwiseResultsAreWritten are met: a VCVT.COMMIT. -/
theorem witness_ElementwiseResultsAreWritten_commit : ∃ s : State, ∃ s1 ctx e s2 f s3,
    s.ready 0 1 (· == .vcommit) (fun s ctx e o => commitRest s 0 ctx e o) = some (s1, ctx, e, .vcommit) ∧
    (s1.fetchAt (agentOf ctx 0 2) ((((e.view 0).xs.map (blockNo (e.view 0).d)).eraseDups).flatMap fun j =>
        [entryAddr (e.view 0).d j, entryAddr (e.view 0).d j + 1]) = (s2, .ok f)) ∧
    (s2.writeMasked (agentOf ctx 0 2) ((((e.view 0).xs.map (blockNo (e.view 0).d)).eraseDups).flatMap fun j =>
        [(entryAddr (e.view 0).d j, 255, (commitEntry (BitVec.ofNat 8 (f.get (entryAddr (e.view 0).d j)))
            (BitVec.ofNat 8 (f.get (entryAddr (e.view 0).d j + 1)))).1.toNat),
         (entryAddr (e.view 0).d j + 1, 255, (commitEntry (BitVec.ofNat 8 (f.get (entryAddr (e.view 0).d j)))
            (BitVec.ofNat 8 (f.get (entryAddr (e.view 0).d j + 1)))).2.toNat)]) = (s3, none)) := by
  have h : chain_ElementwiseResultsAreWritten_commit (eng 1 1 0xA1 0 0 0 [td 1 0 0x100 1]) = true := by decide +kernel
  generalize eng 1 1 0xA1 0 0 0 [td 1 0 0x100 1] = s at h
  unfold chain_ElementwiseResultsAreWritten_commit at h
  split at h
  rotate_left
  · exact absurd h Bool.false_ne_true
  rename_i h0
  split at h
  rotate_left
  · exact absurd h Bool.false_ne_true
  rename_i h1
  split at h
  rotate_left
  · exact absurd h Bool.false_ne_true
  rename_i h2
  exact ⟨s, _, _, _, _, _, _, h0, h1, h2⟩

def chain_ReductionsAccumulateAndFinish (s : State) : Bool :=
  (match s.ready 0 1 isVred (fun s ctx e o => vredRest s 0 ctx e o) with
  | some (s1, ctx, e, .vred phase false dim) => (match s1.fetchAt (agentOf ctx 0 2) ([e.view 1].flatMap fun v => readAddrs v.d v.xs) with
    | (s2, .ok f) => if phase ≠ 1 then if phase ≠ 2 then (match vredSums s2 ctx e f phase dim with
      | s3 => if ∀ i < (vredExt (e.view 1).e false dim).getD 0 0 * (vredExt (e.view 1).e false dim).getD 1 0 *
      (vredExt (e.view 1).e false dim).getD 2 0 * (vredExt (e.view 1).e false dim).getD 3 0,
      laMismatch (laResolve ((s3.coreE ctx 0).acc ctx (accBase e.word + i))) = false then (match (s3.coreM ctx 0 fun k => k.resolveAccs (accBase e.word) ((vredExt (e.view 1).e false dim).getD 0 0 * (vredExt (e.view 1).e false dim).getD 1 0 *
      (vredExt (e.view 1).e false dim).getD 2 0 * (vredExt (e.view 1).e false dim).getD 3 0)).convertTo (agentOf ctx 0 2) (e.view 0).d
      ((s3.coreM ctx 0 fun k => k.resolveAccs (accBase e.word) ((vredExt (e.view 1).e false dim).getD 0 0 * (vredExt (e.view 1).e false dim).getD 1 0 *
      (vredExt (e.view 1).e false dim).getD 2 0 * (vredExt (e.view 1).e false dim).getD 3 0)).convCtx ctx e false)
          (((e.view 0).present.filter fun p => winIdx (vredExt (e.view 1).e false dim) p.1 < (vredExt (e.view 1).e false dim).getD 0 0 *
      (vredExt (e.view 1).e false dim).getD 1 0 * (vredExt (e.view 1).e false dim).getD 2 0 * (vredExt (e.view 1).e false dim).getD 3 0).map fun p =>
            (p.2, laValue (laResolve ((s3.coreE ctx 0).acc ctx (accBase e.word + winIdx (vredExt (e.view 1).e false dim) p.1))))) with
      | (_, .ok _) => true
      | _ => false) else false) else false else false
    | _ => false)
  | _ => false)


/-- The hypotheses of ReductionsAccumulateAndFinish are met: a VRED in one phase over one element. -/
theorem witness_ReductionsAccumulateAndFinish : ∃ s : State, ∃ s1 ctx e phase dim s2 f s3 s4 out,
    s.ready 0 1 isVred (fun s ctx e o => vredRest s 0 ctx e o) = some (s1, ctx, e, .vred phase false dim) ∧
    s1.fetchAt (agentOf ctx 0 2) ([e.view 1].flatMap fun v => readAddrs v.d v.xs) = (s2, .ok f) ∧
    phase ≠ 1 ∧
    phase ≠ 2 ∧
    vredSums s2 ctx e f phase dim = s3 ∧
    (∀ i < (vredExt (e.view 1).e false dim).getD 0 0 * (vredExt (e.view 1).e false dim).getD 1 0 *
      (vredExt (e.view 1).e false dim).getD 2 0 * (vredExt (e.view 1).e false dim).getD 3 0,
      laMismatch (laResolve ((s3.coreE ctx 0).acc ctx (accBase e.word + i))) = false) ∧
    ((s3.coreM ctx 0 fun k => k.resolveAccs (accBase e.word) ((vredExt (e.view 1).e false dim).getD 0 0 * (vredExt (e.view 1).e false dim).getD 1 0 *
      (vredExt (e.view 1).e false dim).getD 2 0 * (vredExt (e.view 1).e false dim).getD 3 0)).convertTo (agentOf ctx 0 2) (e.view 0).d
      ((s3.coreM ctx 0 fun k => k.resolveAccs (accBase e.word) ((vredExt (e.view 1).e false dim).getD 0 0 * (vredExt (e.view 1).e false dim).getD 1 0 *
      (vredExt (e.view 1).e false dim).getD 2 0 * (vredExt (e.view 1).e false dim).getD 3 0)).convCtx ctx e false)
          (((e.view 0).present.filter fun p => winIdx (vredExt (e.view 1).e false dim) p.1 < (vredExt (e.view 1).e false dim).getD 0 0 *
      (vredExt (e.view 1).e false dim).getD 1 0 * (vredExt (e.view 1).e false dim).getD 2 0 * (vredExt (e.view 1).e false dim).getD 3 0).map fun p =>
            (p.2, laValue (laResolve ((s3.coreE ctx 0).acc ctx (accBase e.word + winIdx (vredExt (e.view 1).e false dim) p.1))))) = (s4, .ok out)) := by
  have h : chain_ReductionsAccumulateAndFinish (eng 1 1 0x80 1 0 0 [td 0 0 0x100 1, td 0 0 0x200 1]) = true := by decide +kernel
  generalize eng 1 1 0x80 1 0 0 [td 0 0 0x100 1, td 0 0 0x200 1] = s at h
  unfold chain_ReductionsAccumulateAndFinish at h
  split at h
  rotate_left
  · exact absurd h Bool.false_ne_true
  rename_i h0
  split at h
  rotate_left
  · exact absurd h Bool.false_ne_true
  rename_i h1
  split at h
  rotate_left
  · exact absurd h Bool.false_ne_true
  rename_i h2
  split at h
  rotate_left
  · exact absurd h Bool.false_ne_true
  rename_i h3
  dsimp only at h
  split at h
  rotate_left
  · exact absurd h Bool.false_ne_true
  rename_i h5
  split at h
  rotate_left
  · exact absurd h Bool.false_ne_true
  rename_i h6
  exact ⟨s, _, _, _, _, _, _, _, _, _, _, h0, h1, h2, h3, rfl, h5, h6⟩

def chain_OptimizerStepIsWritten_vopt (s : State) : Bool :=
  (match s.ready 0 1 isVopt (fun s ctx e o => voptRest s 0 ctx e o) with
  | some (s1, ctx, e, .vopt alg) => (match s1.clipGamma ctx 0 (optRec (e.desc e.word.opx)) with
    | (s2, .ok gamma) => (match s2.fetchAt (agentOf ctx 0 2) ([e.view 0, e.view 1, e.view 2].flatMap fun v => readAddrs v.d v.xs) with
      | (s3, .ok f) => (match s3.convertTo (agentOf ctx 0 2) (e.view 0).d (s3.convCtx ctx e true) ((e.view 0).present.map fun p =>
      (p.2, resOf (((e.view 0).at f p.1).add ((fun (i : List Nat) => optElem alg (optRec (e.desc e.word.opx)) gamma ((e.view 0).at f i) ((e.view 1).at f i)
        ((e.view 2).at f i) (if optPlanes alg = 2 then (e.view 2).at f (i.set (e.view 0).d.rank 1) else vZero)) p.1).1.negate))) with
        | (s4, .ok ow) => (match (s4.addFlagged ctx ow.count).convertTo (agentOf ctx 0 2) (e.view 2).d ((s4.addFlagged ctx ow.count).convCtx ctx e true)
      ((e.view 2).present.map fun p => (p.2, resOf (if p.1.getD (e.view 0).d.rank 0 = 0
        then ((fun (i : List Nat) => optElem alg (optRec (e.desc e.word.opx)) gamma ((e.view 0).at f i) ((e.view 1).at f i)
          ((e.view 2).at f i) (if optPlanes alg = 2 then (e.view 2).at f (i.set (e.view 0).d.rank 1) else vZero)) (p.1.set (e.view 0).d.rank 0)).2.1
        else ((fun (i : List Nat) => optElem alg (optRec (e.desc e.word.opx)) gamma ((e.view 0).at f i) ((e.view 1).at f i)
          ((e.view 2).at f i) (if optPlanes alg = 2 then (e.view 2).at f (i.set (e.view 0).d.rank 1) else vZero)) (p.1.set (e.view 0).d.rank 0)).2.2))) with
          | (_, .ok _) => true
          | _ => false)
        | _ => false)
      | _ => false)
    | _ => false)
  | _ => false)


/-- The hypotheses of OptimizerStepIsWritten are met: a VOPT with no clipping. -/
theorem witness_OptimizerStepIsWritten_vopt : ∃ s : State, ∃ s1 ctx e alg s2 gamma s3 f s4 ow s5 om,
    s.ready 0 1 isVopt (fun s ctx e o => voptRest s 0 ctx e o) = some (s1, ctx, e, .vopt alg) ∧
    s1.clipGamma ctx 0 (optRec (e.desc e.word.opx)) = (s2, .ok gamma) ∧
    s2.fetchAt (agentOf ctx 0 2) ([e.view 0, e.view 1, e.view 2].flatMap fun v => readAddrs v.d v.xs) = (s3, .ok f) ∧
    (s3.convertTo (agentOf ctx 0 2) (e.view 0).d (s3.convCtx ctx e true) ((e.view 0).present.map fun p =>
      (p.2, resOf (((e.view 0).at f p.1).add ((fun (i : List Nat) => optElem alg (optRec (e.desc e.word.opx)) gamma ((e.view 0).at f i) ((e.view 1).at f i)
        ((e.view 2).at f i) (if optPlanes alg = 2 then (e.view 2).at f (i.set (e.view 0).d.rank 1) else vZero)) p.1).1.negate))) = (s4, .ok ow)) ∧
    ((s4.addFlagged ctx ow.count).convertTo (agentOf ctx 0 2) (e.view 2).d ((s4.addFlagged ctx ow.count).convCtx ctx e true)
      ((e.view 2).present.map fun p => (p.2, resOf (if p.1.getD (e.view 0).d.rank 0 = 0
        then ((fun (i : List Nat) => optElem alg (optRec (e.desc e.word.opx)) gamma ((e.view 0).at f i) ((e.view 1).at f i)
          ((e.view 2).at f i) (if optPlanes alg = 2 then (e.view 2).at f (i.set (e.view 0).d.rank 1) else vZero)) (p.1.set (e.view 0).d.rank 0)).2.1
        else ((fun (i : List Nat) => optElem alg (optRec (e.desc e.word.opx)) gamma ((e.view 0).at f i) ((e.view 1).at f i)
          ((e.view 2).at f i) (if optPlanes alg = 2 then (e.view 2).at f (i.set (e.view 0).d.rank 1) else vZero)) (p.1.set (e.view 0).d.rank 0)).2.2))) = (s5, .ok om)) := by
  have h : chain_OptimizerStepIsWritten_vopt (eng 1 1 0xB0 1 2 0 [td 0 1 0x100 1, td 0 2 0x200 1, td2 (td 0 3 0x300 1) 1 64, default] true) = true := by decide +kernel
  generalize eng 1 1 0xB0 1 2 0 [td 0 1 0x100 1, td 0 2 0x200 1, td2 (td 0 3 0x300 1) 1 64, default] true = s at h
  unfold chain_OptimizerStepIsWritten_vopt at h
  split at h
  rotate_left
  · exact absurd h Bool.false_ne_true
  rename_i h0
  split at h
  rotate_left
  · exact absurd h Bool.false_ne_true
  rename_i h1
  split at h
  rotate_left
  · exact absurd h Bool.false_ne_true
  rename_i h2
  split at h
  rotate_left
  · exact absurd h Bool.false_ne_true
  rename_i h3
  split at h
  rotate_left
  · exact absurd h Bool.false_ne_true
  rename_i h4
  exact ⟨s, _, _, _, _, _, _, _, _, _, _, _, _, h0, h1, h2, h3, h4⟩

def chain_OptimizerStepIsWritten_vhrv (s : State) : Bool :=
  (match s.ready 0 1 (· == .vhrv) (fun s ctx e o => vhrvRest s 0 ctx e o) with
  | some (s1, ctx, e, .vhrv) => (match s1.fetchAt (agentOf ctx 0 2) ([e.view 1, e.view 2].flatMap fun v => readAddrs v.d v.xs) with
    | (s2, .ok f) => (match s2.convertTo (agentOf ctx 0 2) (e.view 0).d (s2.convCtx ctx e true) (vhrvValues e f) with
      | (s3, .ok o1) => (match (s3.addFlagged ctx o1.count).convertTo (agentOf ctx 0 2) (e.view 2).d ((s3.addFlagged ctx o1.count).convCtx ctx e true)
        (vhrvResidual e f o1.written) with
        | (s4, .ok o2) => (match (s4.addFlagged ctx o2.count).writeMasked (agentOf ctx 0 2) (vhrvList e f) with
          | (_, none) => true
          | _ => false)
        | _ => false)
      | _ => false)
    | _ => false)
  | _ => false)


/-- The hypotheses of OptimizerStepIsWritten are met: a VHRV of four elements. -/
theorem witness_OptimizerStepIsWritten_vhrv : ∃ s : State, ∃ s1 ctx e s2 f s3 o1 s4 o2 s5,
    s.ready 0 1 (· == .vhrv) (fun s ctx e o => vhrvRest s 0 ctx e o) = some (s1, ctx, e, .vhrv) ∧
    s1.fetchAt (agentOf ctx 0 2) ([e.view 1, e.view 2].flatMap fun v => readAddrs v.d v.xs) = (s2, .ok f) ∧
    s2.convertTo (agentOf ctx 0 2) (e.view 0).d (s2.convCtx ctx e true) (vhrvValues e f) = (s3, .ok o1) ∧
    ((s3.addFlagged ctx o1.count).convertTo (agentOf ctx 0 2) (e.view 2).d ((s3.addFlagged ctx o1.count).convCtx ctx e true)
        (vhrvResidual e f o1.written) = (s4, .ok o2)) ∧
    (s4.addFlagged ctx o2.count).writeMasked (agentOf ctx 0 2) (vhrvList e f) = (s5, none) := by
  have h : chain_OptimizerStepIsWritten_vhrv (eng 1 1 0xD0 1 2 0 [tdKeep (td 1 2 0x100 4) 1, td 0 2 0x200 4, td 0 2 0x300 4, td 3 0 0x400 4] true) = true := by decide +kernel
  generalize eng 1 1 0xD0 1 2 0 [tdKeep (td 1 2 0x100 4) 1, td 0 2 0x200 4, td 0 2 0x300 4, td 3 0 0x400 4] true = s at h
  unfold chain_OptimizerStepIsWritten_vhrv at h
  split at h
  rotate_left
  · exact absurd h Bool.false_ne_true
  rename_i h0
  split at h
  rotate_left
  · exact absurd h Bool.false_ne_true
  rename_i h1
  split at h
  rotate_left
  · exact absurd h Bool.false_ne_true
  rename_i h2
  split at h
  rotate_left
  · exact absurd h Bool.false_ne_true
  rename_i h3
  split at h
  rotate_left
  · exact absurd h Bool.false_ne_true
  rename_i h4
  exact ⟨s, _, _, _, _, _, _, _, _, _, _, h0, h1, h2, h3, h4⟩

def chain_OptimizerStepIsWritten_vsgn (s : State) : Bool :=
  (match s.ready 0 1 (· == .vsgn) (fun s ctx e o => vsgnRest s 0 ctx e o) with
  | some (s1, ctx, e, .vsgn) => (match s1.fetchAt (agentOf ctx 0 2) ([e.view 1, e.view 2].flatMap fun v => readAddrs v.d v.xs) with
    | (s2, .ok f) => (match s2.fetchAt (agentOf ctx 0 2) (if (e.view 0).d.ledger then
        (vsgnBlocks e (s1.convCtx ctx e true) f).flatMap fun b => [entryAddr (e.view 0).d b.1, entryAddr (e.view 0).d b.1 + 1] else []) with
     | (s2o, .ok old) => (match s2o.writeMasked (agentOf ctx 0 2) (vsgnBytes e (vsgnBlocks e (s1.convCtx ctx e true) f)) with
      | (s3, none) => (match (s3.addFlagged ctx (vsgnCount (e.view 0).d old (vsgnBlocks e (s1.convCtx ctx e true) f))).convertTo (agentOf ctx 0 2) (e.view 2).d
        ((s3.addFlagged ctx (vsgnCount (e.view 0).d old (vsgnBlocks e (s1.convCtx ctx e true) f))).convCtx ctx e true)
        (vsgnResidual e (vsgnBlocks e (s1.convCtx ctx e true) f) f) with
        | (s4, .ok o1) => (match (s4.addFlagged ctx o1.count).convertTo (agentOf ctx 0 2) (e.desc e.word.opx)
        ((s4.addFlagged ctx o1.count).convCtx ctx e true) (vsgnMags e (vsgnBlocks e (s1.convCtx ctx e true) f)) with
          | (_, .ok _) => true
          | _ => false)
        | _ => false)
      | _ => false)
     | _ => false)
    | _ => false)
  | _ => false)


/-- The hypotheses of OptimizerStepIsWritten are met: a VSGN of one element. -/
theorem witness_OptimizerStepIsWritten_vsgn : ∃ s : State, ∃ s1 ctx e s2 f s2o old s3 s4 o1 s5 o2,
    s.ready 0 1 (· == .vsgn) (fun s ctx e o => vsgnRest s 0 ctx e o) = some (s1, ctx, e, .vsgn) ∧
    s1.fetchAt (agentOf ctx 0 2) ([e.view 1, e.view 2].flatMap fun v => readAddrs v.d v.xs) = (s2, .ok f) ∧
    s2.fetchAt (agentOf ctx 0 2) (if (e.view 0).d.ledger then
        (vsgnBlocks e (s1.convCtx ctx e true) f).flatMap fun b => [entryAddr (e.view 0).d b.1, entryAddr (e.view 0).d b.1 + 1] else []) = (s2o, .ok old) ∧
    s2o.writeMasked (agentOf ctx 0 2) (vsgnBytes e (vsgnBlocks e (s1.convCtx ctx e true) f)) = (s3, none) ∧
    ((s3.addFlagged ctx (vsgnCount (e.view 0).d old (vsgnBlocks e (s1.convCtx ctx e true) f))).convertTo (agentOf ctx 0 2) (e.view 2).d
        ((s3.addFlagged ctx (vsgnCount (e.view 0).d old (vsgnBlocks e (s1.convCtx ctx e true) f))).convCtx ctx e true)
        (vsgnResidual e (vsgnBlocks e (s1.convCtx ctx e true) f) f) = (s4, .ok o1)) ∧
    ((s4.addFlagged ctx o1.count).convertTo (agentOf ctx 0 2) (e.desc e.word.opx)
        ((s4.addFlagged ctx o1.count).convCtx ctx e true) (vsgnMags e (vsgnBlocks e (s1.convCtx ctx e true) f)) = (s5, .ok o2)) := by
  have h : chain_OptimizerStepIsWritten_vsgn (eng 1 1 0xD8 1 2 0 [td 8 1 0x100 1, td 0 2 0x200 1, td 0 2 0x300 1, td 0 2 0x400 1] true) = true := by decide +kernel
  generalize eng 1 1 0xD8 1 2 0 [td 8 1 0x100 1, td 0 2 0x200 1, td 0 2 0x300 1, td 0 2 0x400 1] true = s at h
  unfold chain_OptimizerStepIsWritten_vsgn at h
  split at h
  rotate_left
  · exact absurd h Bool.false_ne_true
  rename_i h0
  split at h
  rotate_left
  · exact absurd h Bool.false_ne_true
  rename_i h1
  split at h
  rotate_left
  · exact absurd h Bool.false_ne_true
  rename_i h2
  split at h
  rotate_left
  · exact absurd h Bool.false_ne_true
  rename_i h3
  split at h
  rotate_left
  · exact absurd h Bool.false_ne_true
  rename_i h4
  split at h
  rotate_left
  · exact absurd h Bool.false_ne_true
  rename_i h5
  exact ⟨s, _, _, _, _, _, _, _, _, _, _, _, _, h0, h1, h2, h3, h4, h5⟩

def chain_MovesCopyTheirWindows_dmov (s : State) : Bool :=
  (match s.ready 0 2 (· == .dmov) (fun s ctx e o => dmovRest s 0 ctx e o) with
  | some (s1, ctx, e, .dmov) => if s1.bytesWait (dmaOf ctx 0 2 e.slot) (moveBytes (e.view 0).d ((dmovElems (e.view 0) (e.view 1)).map fun p => (p.2, ({ x := p.1 } : Bits)))) = false then (match s1.fetchAt (dmaOf ctx 0 2 e.slot) (copyAddrs (e.view 1).d ((dmovElems (e.view 0) (e.view 1)).map Prod.fst) ++
        (if e.word.check then streamAddrs (e.view 1) else [])) with
    | (s2, .ok f) => (match s2.writeMasked (dmaOf ctx 0 2 e.slot) (moveBytes (e.view 0).d ((dmovElems (e.view 0) (e.view 1)).map fun p => (p.2, bitsAt (e.view 1).d f p.1))) with
      | (_, none) => true
      | _ => false)
    | _ => false) else false
  | _ => false)


/-- The hypotheses of MovesCopyTheirWindows are met: a DMOV. -/
theorem witness_MovesCopyTheirWindows_dmov : ∃ s : State, ∃ s1 ctx e s2 f s3,
    s.ready 0 2 (· == .dmov) (fun s ctx e o => dmovRest s 0 ctx e o) = some (s1, ctx, e, .dmov) ∧
    s1.bytesWait (dmaOf ctx 0 2 e.slot) (moveBytes (e.view 0).d ((dmovElems (e.view 0) (e.view 1)).map fun p => (p.2, ({ x := p.1 } : Bits)))) = false ∧
    (s1.fetchAt (dmaOf ctx 0 2 e.slot) (copyAddrs (e.view 1).d ((dmovElems (e.view 0) (e.view 1)).map Prod.fst) ++
        (if e.word.check then streamAddrs (e.view 1) else [])) = (s2, .ok f)) ∧
    s2.writeMasked (dmaOf ctx 0 2 e.slot) (moveBytes (e.view 0).d ((dmovElems (e.view 0) (e.view 1)).map fun p => (p.2, bitsAt (e.view 1).d f p.1))) = (s3, none) := by
  have h : chain_MovesCopyTheirWindows_dmov (eng 2 2 1 1 0 0 [td 0 0 0x100 1, td 0 0 0x200 1]) = true := by decide +kernel
  generalize eng 2 2 1 1 0 0 [td 0 0 0x100 1, td 0 0 0x200 1] = s at h
  unfold chain_MovesCopyTheirWindows_dmov at h
  split at h
  rotate_left
  · exact absurd h Bool.false_ne_true
  rename_i h0
  split at h
  rotate_left
  · exact absurd h Bool.false_ne_true
  rename_i h1
  split at h
  rotate_left
  · exact absurd h Bool.false_ne_true
  rename_i h2
  split at h
  rotate_left
  · exact absurd h Bool.false_ne_true
  rename_i h3
  exact ⟨s, _, _, _, _, _, _, h0, h1, h2, h3⟩

def chain_MovesCopyTheirWindows_dgth (s : State) : Bool :=
  (match s.ready 0 2 (· == .dgth) (fun s ctx e o => dgthRest s 0 ctx e o) with
  | some (s1, ctx, e, .dgth) => if s1.bytesWait (dmaOf ctx 0 1 e.slot) (gatherShape e (s1.gatherMembers ctx 0 e.slot (uidFields e.word.imm)).zipIdx) = false then if ∀ m ∈ (s1.gatherMembers ctx 0 e.slot (uidFields e.word.imm)).zipIdx, m.1.1 = none → bit s1.span.withdrawn m.1.2 = false then (match s1.gatherRead (dmaOf ctx 0 1 e.slot) e (s1.gatherMembers ctx 0 e.slot (uidFields e.word.imm)).zipIdx with
    | (s2, .ok fs) => (match s2.writeMasked (dmaOf ctx 0 1 e.slot) (gatherBytes e fs) with
      | (_, none) => true
      | _ => false)
    | _ => false) else false else false
  | _ => false)


/-- The hypotheses of MovesCopyTheirWindows are met: a DGTH over its cluster. -/
theorem witness_MovesCopyTheirWindows_dgth : ∃ s : State, ∃ s1 ctx e s2 fs s3,
    s.ready 0 2 (· == .dgth) (fun s ctx e o => dgthRest s 0 ctx e o) = some (s1, ctx, e, .dgth) ∧
    s1.bytesWait (dmaOf ctx 0 1 e.slot) (gatherShape e (s1.gatherMembers ctx 0 e.slot (uidFields e.word.imm)).zipIdx) = false ∧
    (∀ m ∈ (s1.gatherMembers ctx 0 e.slot (uidFields e.word.imm)).zipIdx, m.1.1 = none → bit s1.span.withdrawn m.1.2 = false) ∧
    s1.gatherRead (dmaOf ctx 0 1 e.slot) e (s1.gatherMembers ctx 0 e.slot (uidFields e.word.imm)).zipIdx = (s2, .ok fs) ∧
    s2.writeMasked (dmaOf ctx 0 1 e.slot) (gatherBytes e fs) = (s3, none) := by
  have h : chain_MovesCopyTheirWindows_dgth (eng 2 2 2 1 0 0x80000 [td 0 0 0x100 32, td 0 0 0x200 8]) = true := by decide +kernel
  generalize eng 2 2 2 1 0 0x80000 [td 0 0 0x100 32, td 0 0 0x200 8] = s at h
  unfold chain_MovesCopyTheirWindows_dgth at h
  split at h
  rotate_left
  · exact absurd h Bool.false_ne_true
  rename_i h0
  split at h
  rotate_left
  · exact absurd h Bool.false_ne_true
  rename_i h1
  split at h
  rotate_left
  · exact absurd h Bool.false_ne_true
  rename_i h2
  split at h
  rotate_left
  · exact absurd h Bool.false_ne_true
  rename_i h3
  split at h
  rotate_left
  · exact absurd h Bool.false_ne_true
  rename_i h4
  exact ⟨s, _, _, _, _, _, _, h0, h1, h2, h3, h4⟩

def chain_MovesCopyTheirWindows_dsct (s : State) : Bool :=
  (match s.ready 0 2 (· == .dsct) (fun s ctx e o => dsctRest s 0 ctx e o) with
  | some (s1, ctx, e, .dsct) => (match s1.fetchAt (dmaOf ctx 0 2 e.slot) (listAddrs (e.view 2) ((e.view 1).e.getD 1 0)) with
    | (s2, .ok fl) => if ∀ q ∈ (List.range ((e.view 1).e.getD 1 0)).map (listIndex (e.view 2) fl), q < (e.view 0).d.dim 1 then if s2.bytesWait (dmaOf ctx 0 2 e.slot) ((dsctPlaces e ((List.range ((e.view 1).e.getD 1 0)).map (listIndex (e.view 2) fl))).flatMap
      fun y => codeBytes (e.view 0).d y.2.2 0) = false then (match s2.fetchAt (dmaOf ctx 0 2 e.slot) (dsctAddrs e ((List.range ((e.view 1).e.getD 1 0)).map (listIndex (e.view 2) fl))) with
      | (s3, .ok f) => if ∀ p ∈ dsctSums ctx e ((List.range ((e.view 1).e.getD 1 0)).map (listIndex (e.view 2) fl)) f, laMismatch p.2 = false then (match s3.convertTo (dmaOf ctx 0 2 e.slot) (e.view 0).d (s3.convCtx ctx e false)
      ((dsctSums ctx e ((List.range ((e.view 1).e.getD 1 0)).map (listIndex (e.view 2) fl)) f).map fun p => (p.1, laValue p.2)) with
        | (_, .ok _) => true
        | _ => false) else false
      | _ => false) else false else false
    | _ => false)
  | _ => false)


/-- The hypotheses of MovesCopyTheirWindows are met: a DSCT of one source row. -/
theorem witness_MovesCopyTheirWindows_dsct : ∃ s : State, ∃ s1 ctx e s2 fl s3 f s4 out,
    s.ready 0 2 (· == .dsct) (fun s ctx e o => dsctRest s 0 ctx e o) = some (s1, ctx, e, .dsct) ∧
    s1.fetchAt (dmaOf ctx 0 2 e.slot) (listAddrs (e.view 2) ((e.view 1).e.getD 1 0)) = (s2, .ok fl) ∧
    (∀ q ∈ (List.range ((e.view 1).e.getD 1 0)).map (listIndex (e.view 2) fl), q < (e.view 0).d.dim 1) ∧
    (s2.bytesWait (dmaOf ctx 0 2 e.slot) ((dsctPlaces e ((List.range ((e.view 1).e.getD 1 0)).map (listIndex (e.view 2) fl))).flatMap
      fun y => codeBytes (e.view 0).d y.2.2 0) = false) ∧
    (s2.fetchAt (dmaOf ctx 0 2 e.slot) (dsctAddrs e ((List.range ((e.view 1).e.getD 1 0)).map (listIndex (e.view 2) fl))) = (s3, .ok f)) ∧
    (∀ p ∈ dsctSums ctx e ((List.range ((e.view 1).e.getD 1 0)).map (listIndex (e.view 2) fl)) f, laMismatch p.2 = false) ∧
    (s3.convertTo (dmaOf ctx 0 2 e.slot) (e.view 0).d (s3.convCtx ctx e false)
      ((dsctSums ctx e ((List.range ((e.view 1).e.getD 1 0)).map (listIndex (e.view 2) fl)) f).map fun p => (p.1, laValue p.2)) = (s4, .ok out)) := by
  have h : chain_MovesCopyTheirWindows_dsct (eng 2 2 3 1 2 0 [td 0 0 0x100 1, td 0 0 0x200 1, td 3 0 0x300 4]) = true := by decide +kernel
  generalize eng 2 2 3 1 2 0 [td 0 0 0x100 1, td 0 0 0x200 1, td 3 0 0x300 4] = s at h
  unfold chain_MovesCopyTheirWindows_dsct at h
  split at h
  rotate_left
  · exact absurd h Bool.false_ne_true
  rename_i h0
  split at h
  rotate_left
  · exact absurd h Bool.false_ne_true
  rename_i h1
  split at h
  rotate_left
  · exact absurd h Bool.false_ne_true
  rename_i h2
  split at h
  rotate_left
  · exact absurd h Bool.false_ne_true
  rename_i h3
  split at h
  rotate_left
  · exact absurd h Bool.false_ne_true
  rename_i h4
  split at h
  rotate_left
  · exact absurd h Bool.false_ne_true
  rename_i h5
  split at h
  rotate_left
  · exact absurd h Bool.false_ne_true
  rename_i h6
  exact ⟨s, _, _, _, _, _, _, _, _, _, h0, h1, h2, h3, h4, h5, h6⟩

def chain_CopyOnWriteCopiesItsPages (s : State) : Bool :=
  (match s.ready 0 2 (· == .dcow) (fun s ctx e o => dcowRest s 0 ctx e o) with
  | some (s1, ctx, e, .dcow) => (match s1.cowResolve (dmaOf ctx 0 3 e.slot) (e.desc (e.word.td 1)).base (4 * (e.desc (e.word.td 1)).dim 0) true with
    | (s2, .ok pages) => (match ({ s2 with protect := pages.foldl (fun l p => tabSet l p (64 * ctx + 0)) s2.protect } : State).outWrite (dmaOf ctx 0 3 e.slot)
        false ((e.desc (e.word.td 0)).base + 65536 * pages.length) (List.replicate 8 0) with
      | (_, none) => true
      | _ => false)
    | _ => false)
  | _ => false)


/-- The hypotheses of CopyOnWriteCopiesItsPages are met: a DCOW of one page to host memory. -/
theorem witness_CopyOnWriteCopiesItsPages : ∃ s : State, ∃ s1 ctx e s2 pages s3,
    s.ready 0 2 (· == .dcow) (fun s ctx e o => dcowRest s 0 ctx e o) = some (s1, ctx, e, .dcow) ∧
    s1.cowResolve (dmaOf ctx 0 3 e.slot) (e.desc (e.word.td 1)).base (4 * (e.desc (e.word.td 1)).dim 0) true = (s2, .ok pages) ∧
    (({ s2 with protect := pages.foldl (fun l p => tabSet l p (64 * ctx + 0)) s2.protect } : State).outWrite (dmaOf ctx 0 3 e.slot)
        false ((e.desc (e.word.td 0)).base + 65536 * pages.length) (List.replicate 8 0) = (s3, none)) := by
  have h : chain_CopyOnWriteCopiesItsPages (eng 2 2 4 1 0 0 [td 10 0 0x400000 32768, td 10 0 0x200000 16384]) = true := by decide +kernel
  generalize eng 2 2 4 1 0 0 [td 10 0 0x400000 32768, td 10 0 0x200000 16384] = s at h
  unfold chain_CopyOnWriteCopiesItsPages at h
  split at h
  rotate_left
  · exact absurd h Bool.false_ne_true
  rename_i h0
  split at h
  rotate_left
  · exact absurd h Bool.false_ne_true
  rename_i h1
  split at h
  rotate_left
  · exact absurd h Bool.false_ne_true
  rename_i h2
  exact ⟨s, _, _, _, _, _, _, h0, h1, h2⟩

def chain_CheckUnitsAreFedSavedAndLoaded_feed (s : State) : Bool :=
  (match s.ready 0 2 (· == .feed) (fun s ctx e o => feedRest s 0 ctx e o) with
  | some (s1, ctx, e, .feed) => (match s1.fetchAt (dmaOf ctx 0 2 e.slot) (streamAddrs (e.view 1)) with
    | (_, .ok _) => if e.word.check = false then true else false
    | _ => false)
  | _ => false)


/-- The hypotheses of CheckUnitsAreFedSavedAndLoaded are met: a DCRC.FEED. -/
theorem witness_CheckUnitsAreFedSavedAndLoaded_feed : ∃ s : State, ∃ s1 ctx e s2 f,
    s.ready 0 2 (· == .feed) (fun s ctx e o => feedRest s 0 ctx e o) = some (s1, ctx, e, .feed) ∧
    s1.fetchAt (dmaOf ctx 0 2 e.slot) (streamAddrs (e.view 1)) = (s2, .ok f) ∧
    e.word.check = false := by
  have h : chain_CheckUnitsAreFedSavedAndLoaded_feed (eng 2 2 8 1 0 0 [td 0 0 0x100 1, td 0 0 0x200 1]) = true := by decide +kernel
  generalize eng 2 2 8 1 0 0 [td 0 0 0x100 1, td 0 0 0x200 1] = s at h
  unfold chain_CheckUnitsAreFedSavedAndLoaded_feed at h
  split at h
  rotate_left
  · exact absurd h Bool.false_ne_true
  rename_i h0
  split at h
  rotate_left
  · exact absurd h Bool.false_ne_true
  rename_i h1
  split at h
  rotate_left
  · exact absurd h Bool.false_ne_true
  rename_i h2
  exact ⟨s, _, _, _, _, _, h0, h1, h2⟩

def chain_CheckUnitsAreFedSavedAndLoaded_save (s : State) : Bool :=
  (match s.ready 0 2 (· == .save) (fun s ctx e o => saveRest s 0 ctx e o) with
  | some (s1, ctx, e, .save) => if s1.bytesWait (dmaOf ctx 0 2 e.slot) ((List.range 16).map fun i => (crcAt e 0 + i, 255, 0)) = false then (match s1.vaWrite (dmaOf ctx 0 2 e.slot) (crcAt e 0) (natBytes 8 (cvMask (s1.coreE ctx 0).cv0.poly (s1.coreE ctx 0).cv0.value.toNat).toNat ++
        natBytes 8 (cvMask (s1.coreE ctx 0).cv1.poly (s1.coreE ctx 0).cv1.value.toNat).toNat) with
    | (_, none) => true
    | _ => false) else false
  | _ => false)


/-- The hypotheses of CheckUnitsAreFedSavedAndLoaded are met: a DCRC.SAVE. -/
theorem witness_CheckUnitsAreFedSavedAndLoaded_save : ∃ s : State, ∃ s1 ctx e s2,
    s.ready 0 2 (· == .save) (fun s ctx e o => saveRest s 0 ctx e o) = some (s1, ctx, e, .save) ∧
    s1.bytesWait (dmaOf ctx 0 2 e.slot) ((List.range 16).map fun i => (crcAt e 0 + i, 255, 0)) = false ∧
    s1.vaWrite (dmaOf ctx 0 2 e.slot) (crcAt e 0) (natBytes 8 (cvMask (s1.coreE ctx 0).cv0.poly (s1.coreE ctx 0).cv0.value.toNat).toNat ++
        natBytes 8 (cvMask (s1.coreE ctx 0).cv1.poly (s1.coreE ctx 0).cv1.value.toNat).toNat) = (s2, none) := by
  have h : chain_CheckUnitsAreFedSavedAndLoaded_save (eng 2 2 9 0 0 0 [td 3 0 0x100 16]) = true := by decide +kernel
  generalize eng 2 2 9 0 0 0 [td 3 0 0x100 16] = s at h
  unfold chain_CheckUnitsAreFedSavedAndLoaded_save at h
  split at h
  rotate_left
  · exact absurd h Bool.false_ne_true
  rename_i h0
  split at h
  rotate_left
  · exact absurd h Bool.false_ne_true
  rename_i h1
  split at h
  rotate_left
  · exact absurd h Bool.false_ne_true
  rename_i h2
  exact ⟨s, _, _, _, _, h0, h1, h2⟩

def chain_CheckUnitsAreFedSavedAndLoaded_load (s : State) : Bool :=
  (match s.ready 0 2 (· == .load) (fun s ctx e o => loadRest s 0 ctx e o) with
  | some (s1, ctx, e, .load) => (match s1.vaRead (dmaOf ctx 0 2 e.slot) (crcAt e 1) 16 with
    | (_, .ok _) => if e.word.check = false then true else false
    | _ => false)
  | _ => false)


/-- The hypotheses of CheckUnitsAreFedSavedAndLoaded are met: a DCRC.LOAD. -/
theorem witness_CheckUnitsAreFedSavedAndLoaded_load : ∃ s : State, ∃ s1 ctx e s2 bs,
    s.ready 0 2 (· == .load) (fun s ctx e o => loadRest s 0 ctx e o) = some (s1, ctx, e, .load) ∧
    s1.vaRead (dmaOf ctx 0 2 e.slot) (crcAt e 1) 16 = (s2, .ok bs) ∧
    e.word.check = false := by
  have h : chain_CheckUnitsAreFedSavedAndLoaded_load (eng 2 2 10 1 0 0 [td 3 0 0x100 16, td 3 0 0x200 16]) = true := by decide +kernel
  generalize eng 2 2 10 1 0 0 [td 3 0 0x100 16, td 3 0 0x200 16] = s at h
  unfold chain_CheckUnitsAreFedSavedAndLoaded_load at h
  split at h
  rotate_left
  · exact absurd h Bool.false_ne_true
  rename_i h0
  split at h
  rotate_left
  · exact absurd h Bool.false_ne_true
  rename_i h1
  split at h
  rotate_left
  · exact absurd h Bool.false_ne_true
  rename_i h2
  exact ⟨s, _, _, _, _, _, h0, h1, h2⟩

def chain_PassAddsIntoTheTiles (s : State) : Bool :=
  (match s.ready 0 0 (· == .mmul) (fun s ctx e o => mxeRest s 0 ctx e o) with
  | some (s1, ctx, e, .mmul) => if e.word.arrays ≠ 0 then if slotFail e.word .mmul 0 (passIssue e (s1.coreE ctx 0) (s1.physE 0)) (s1.coreE ctx 0) = none then (match (s1.coreM ctx 0 fun k => { k with anchor := some (passIssue e (s1.coreE ctx 0) (s1.physE 0)) }).fetchAt (agentOf ctx 0 2)
      (readAddrs (e.desc (e.word.td 0)) (((List.range (64 * (arrayList e.word).length)).map fun m => vectorPlaces (e.desc (e.word.td 0))
        (originOf (e.desc (e.word.td 0)) (e.word.off 0)) (passP e.word .mmul (s1.coreE ctx 0) (e.desc (e.word.td 0))) m).flatten.map Prod.snd)) with
    | (_, .ok _) => true
    | _ => false) else false else false
  | _ => false)


/-- The hypotheses of PassAddsIntoTheTiles are met: an MMUL into array 0, whose active set is loaded. -/
theorem witness_PassAddsIntoTheTiles : ∃ s : State, ∃ s1 ctx e s2 f,
    s.ready 0 0 (· == .mmul) (fun s ctx e o => mxeRest s 0 ctx e o) = some (s1, ctx, e, .mmul) ∧
    e.word.arrays ≠ 0 ∧
    slotFail e.word .mmul 0 (passIssue e (s1.coreE ctx 0) (s1.physE 0)) (s1.coreE ctx 0) = none ∧
    ((s1.coreM ctx 0 fun k => { k with anchor := some (passIssue e (s1.coreE ctx 0) (s1.physE 0)) }).fetchAt (agentOf ctx 0 2)
      (readAddrs (e.desc (e.word.td 0)) (((List.range (64 * (arrayList e.word).length)).map fun m => vectorPlaces (e.desc (e.word.td 0))
        (originOf (e.desc (e.word.td 0)) (e.word.off 0)) (passP e.word .mmul (s1.coreE ctx 0) (e.desc (e.word.td 0))) m).flatten.map Prod.snd)) = (s2, .ok f)) := by
  have h : chain_PassAddsIntoTheTiles (passing) = true := by decide +kernel
  generalize passing = s at h
  unfold chain_PassAddsIntoTheTiles at h
  split at h
  rotate_left
  · exact absurd h Bool.false_ne_true
  rename_i h0
  split at h
  rotate_left
  · exact absurd h Bool.false_ne_true
  rename_i h1
  split at h
  rotate_left
  · exact absurd h Bool.false_ne_true
  rename_i h2
  split at h
  rotate_left
  · exact absurd h Bool.false_ne_true
  rename_i h3
  exact ⟨s, _, _, _, _, _, h0, h1, h2, h3⟩

def chain_CollectivesJoinAndStart_cred (s : State) : Bool :=
  if ∀ x ∈ (s.coreE (s.clusE 0).ctx 0).dxeQ, x.joined = none then (match s.ready 0 2 (· == .cred) (fun s ctx e o => cxeRest s 0 ctx e o) with
  | some (s1, ctx, e, .cred) => (match s1.takeScales (dmaOf ctx 0 2 e.slot) (e.view 0).d (e.view 0).xs with
    | (_, .ok _) => true
    | _ => false)
  | _ => false) else false


/-- The hypotheses of CollectivesJoinAndStart are met: no entry has joined yet. -/
theorem witness_CollectivesJoinAndStart_cred : ∃ s : State, ∃ s1 ctx e s2 f,
    (∀ x ∈ (s.coreE (s.clusE 0).ctx 0).dxeQ, x.joined = none) ∧
    s.ready 0 2 (· == .cred) (fun s ctx e o => cxeRest s 0 ctx e o) = some (s1, ctx, e, .cred) ∧
    s1.takeScales (dmaOf ctx 0 2 e.slot) (e.view 0).d (e.view 0).xs = (s2, .ok f) := by
  have h : chain_CollectivesJoinAndStart_cred (eng 2 3 1 1 0 0x80000 [td 0 0 0x100 1, td 0 0 0x200 1]) = true := by decide +kernel
  generalize eng 2 3 1 1 0 0x80000 [td 0 0 0x100 1, td 0 0 0x200 1] = s at h
  unfold chain_CollectivesJoinAndStart_cred at h
  split at h
  rotate_left
  · exact absurd h Bool.false_ne_true
  rename_i h0
  split at h
  rotate_left
  · exact absurd h Bool.false_ne_true
  rename_i h1
  split at h
  rotate_left
  · exact absurd h Bool.false_ne_true
  rename_i h2
  exact ⟨s, _, _, _, _, _, h0, h1, h2⟩

def chain_CollectivesJoinAndStart_norm (s : State) : Bool :=
  if ∀ x ∈ (s.coreE (s.clusE 0).ctx 0).dxeQ, x.joined = none then (match s.ready 0 2 (· == .credNorm) (fun s ctx e o => cxeRest s 0 ctx e o) with
  | some (_, _, _, .credNorm) => true
  | _ => false) else false


/-- The hypotheses of CollectivesJoinAndStart are met: no entry has joined yet. -/
theorem witness_CollectivesJoinAndStart_norm : ∃ s : State, ∃ s1 ctx e,
    (∀ x ∈ (s.coreE (s.clusE 0).ctx 0).dxeQ, x.joined = none) ∧
    s.ready 0 2 (· == .credNorm) (fun s ctx e o => cxeRest s 0 ctx e o) = some (s1, ctx, e, .credNorm) := by
  have h : chain_CollectivesJoinAndStart_norm (eng 2 3 2 0 0 0x80000 []) = true := by decide +kernel
  generalize eng 2 3 2 0 0 0x80000 [] = s at h
  unfold chain_CollectivesJoinAndStart_norm at h
  split at h
  rotate_left
  · exact absurd h Bool.false_ne_true
  rename_i h0
  split at h
  rotate_left
  · exact absurd h Bool.false_ne_true
  rename_i h1
  exact ⟨s, _, _, _, h0, h1⟩

def chain_CollectivesJoinAndStart_crsc (s : State) : Bool :=
  if ∀ x ∈ (s.coreE (s.clusE 0).ctx 0).dxeQ, x.joined = none then (match s.ready 0 2 (· == .crsc) (fun s ctx e o => cxeRest s 0 ctx e o) with
  | some (s1, ctx, e, .crsc) => (match s1.takeScales (dmaOf ctx 0 2 e.slot) (e.view 0).d (e.view 0).xs with
    | (_, .ok _) => true
    | _ => false)
  | _ => false) else false


/-- The hypotheses of CollectivesJoinAndStart are met: no entry has joined yet. -/
theorem witness_CollectivesJoinAndStart_crsc : ∃ s : State, ∃ s1 ctx e s2 f,
    (∀ x ∈ (s.coreE (s.clusE 0).ctx 0).dxeQ, x.joined = none) ∧
    s.ready 0 2 (· == .crsc) (fun s ctx e o => cxeRest s 0 ctx e o) = some (s1, ctx, e, .crsc) ∧
    s1.takeScales (dmaOf ctx 0 2 e.slot) (e.view 0).d (e.view 0).xs = (s2, .ok f) := by
  have h : chain_CollectivesJoinAndStart_crsc (eng 2 3 3 1 0 0x80000 [td 0 0 0x100 128, td 0 0 0x200 128]) = true := by decide +kernel
  generalize eng 2 3 3 1 0 0x80000 [td 0 0 0x100 128, td 0 0 0x200 128] = s at h
  unfold chain_CollectivesJoinAndStart_crsc at h
  split at h
  rotate_left
  · exact absurd h Bool.false_ne_true
  rename_i h0
  split at h
  rotate_left
  · exact absurd h Bool.false_ne_true
  rename_i h1
  split at h
  rotate_left
  · exact absurd h Bool.false_ne_true
  rename_i h2
  exact ⟨s, _, _, _, _, _, h0, h1, h2⟩

def chain_CollectivesJoinAndStart_cbcs (s : State) : Bool :=
  if ∀ x ∈ (s.coreE (s.clusE 0).ctx 0).dxeQ, x.joined = none then (match s.ready 0 2 (· == .cbcs) (fun s ctx e o => cxeRest s 0 ctx e o) with
  | some (_, _, _, .cbcs) => true
  | _ => false) else false


/-- The hypotheses of CollectivesJoinAndStart are met: no entry has joined yet. -/
theorem witness_CollectivesJoinAndStart_cbcs : ∃ s : State, ∃ s1 ctx e,
    (∀ x ∈ (s.coreE (s.clusE 0).ctx 0).dxeQ, x.joined = none) ∧
    s.ready 0 2 (· == .cbcs) (fun s ctx e o => cxeRest s 0 ctx e o) = some (s1, ctx, e, .cbcs) := by
  have h : chain_CollectivesJoinAndStart_cbcs (eng 2 3 4 1 0 0x80000 [td 0 0 0x100 1, td 0 0 0x200 1]) = true := by decide +kernel
  generalize eng 2 3 4 1 0 0x80000 [td 0 0 0x100 1, td 0 0 0x200 1] = s at h
  unfold chain_CollectivesJoinAndStart_cbcs at h
  split at h
  rotate_left
  · exact absurd h Bool.false_ne_true
  rename_i h0
  split at h
  rotate_left
  · exact absurd h Bool.false_ne_true
  rename_i h1
  exact ⟨s, _, _, _, h0, h1⟩

def chain_CollectivesJoinAndStart_ca2a (s : State) : Bool :=
  if ∀ x ∈ (s.coreE (s.clusE 0).ctx 0).dxeQ, x.joined = none then (match s.ready 0 2 (· == .ca2a) (fun s ctx e o => cxeRest s 0 ctx e o) with
  | some (_, _, _, .ca2a) => true
  | _ => false) else false


/-- The hypotheses of CollectivesJoinAndStart are met: no entry has joined yet. -/
theorem witness_CollectivesJoinAndStart_ca2a : ∃ s : State, ∃ s1 ctx e,
    (∀ x ∈ (s.coreE (s.clusE 0).ctx 0).dxeQ, x.joined = none) ∧
    s.ready 0 2 (· == .ca2a) (fun s ctx e o => cxeRest s 0 ctx e o) = some (s1, ctx, e, .ca2a) := by
  have h : chain_CollectivesJoinAndStart_ca2a (eng 2 3 5 1 0 0x80000 [td 0 0 0x100 128, td 0 0 0x200 128]) = true := by decide +kernel
  generalize eng 2 3 5 1 0 0x80000 [td 0 0 0x100 128, td 0 0 0x200 128] = s at h
  unfold chain_CollectivesJoinAndStart_ca2a at h
  split at h
  rotate_left
  · exact absurd h Bool.false_ne_true
  rename_i h0
  split at h
  rotate_left
  · exact absurd h Bool.false_ne_true
  rename_i h1
  exact ⟨s, _, _, _, h0, h1⟩

def chain_CollectivesJoinAndStart_sums (s : State) : Bool :=
  if (s.clusE 0).ctx = 1 ∧ (s.runE 1).running = true then (match (s.coreE 1 0).dxeQ with
  | e :: _ => (match e.joined with
    | some k => if e.taken = true ∧ e.result = none ∧ e.word.op = some .cred then (match s.collE 1 e.word.imm k with
      | some w => if w.whole = true then if s.bytesWait (s.dmaLate 1 0 e) ((e.view 0).xs.flatMap fun x => codeBytes (e.view 0).d x 0) = false then if ∀ x ∈ (e.view 0).xs, laMismatch (laResolve (tabGet w.elems (linearIdx (e.view 0).d x) (laClear 1))) = false then (match s.convertTo (s.dmaLate 1 0 e) (e.view 0).d (s.convCtx 1 e false) ((e.view 0).xs.map fun x =>
        (x, laValue (laResolve (tabGet w.elems (linearIdx (e.view 0).d x) (laClear 1))))) e.scales with
        | (_, .ok _) => true
        | _ => false) else false else false else false
      | _ => false) else false
    | _ => false)
  | _ => false) else false


/-- The hypotheses of CollectivesJoinAndStart are met: the last participant of a CRED with nothing awaited. -/
theorem witness_CollectivesJoinAndStart_sums : ∃ s : State, ∃ e r k w s1 out,
    ((s.clusE 0).ctx = 1 ∧ (s.runE 1).running = true) ∧
    (s.coreE 1 0).dxeQ = e :: r ∧
    e.joined = some k ∧
    (e.taken = true ∧ e.result = none ∧ e.word.op = some .cred) ∧
    s.collE 1 e.word.imm k = some w ∧
    w.whole = true ∧
    s.bytesWait (s.dmaLate 1 0 e) ((e.view 0).xs.flatMap fun x => codeBytes (e.view 0).d x 0) = false ∧
    (∀ x ∈ (e.view 0).xs, laMismatch (laResolve (tabGet w.elems (linearIdx (e.view 0).d x) (laClear 1))) = false) ∧
    (s.convertTo (s.dmaLate 1 0 e) (e.view 0).d (s.convCtx 1 e false) ((e.view 0).xs.map fun x =>
        (x, laValue (laResolve (tabGet w.elems (linearIdx (e.view 0).d x) (laClear 1))))) e.scales = (s1, .ok out)) := by
  have h : chain_CollectivesJoinAndStart_sums ({ coll 1 [td 0 0 0x100 1, td 0 0 0x200 1] with colls := [{ ctx := 1, unit := 0x80000 }] }) = true := by decide +kernel
  generalize { coll 1 [td 0 0 0x100 1, td 0 0 0x200 1] with colls := [{ ctx := 1, unit := 0x80000 }] } = s at h
  unfold chain_CollectivesJoinAndStart_sums at h
  split at h
  rotate_left
  · exact absurd h Bool.false_ne_true
  rename_i h0
  split at h
  rotate_left
  · exact absurd h Bool.false_ne_true
  rename_i h1
  split at h
  rotate_left
  · exact absurd h Bool.false_ne_true
  rename_i h2
  split at h
  rotate_left
  · exact absurd h Bool.false_ne_true
  rename_i h3
  split at h
  rotate_left
  · exact absurd h Bool.false_ne_true
  rename_i h4
  split at h
  rotate_left
  · exact absurd h Bool.false_ne_true
  rename_i h5
  split at h
  rotate_left
  · exact absurd h Bool.false_ne_true
  rename_i h6
  split at h
  rotate_left
  · exact absurd h Bool.false_ne_true
  rename_i h7
  split at h
  rotate_left
  · exact absurd h Bool.false_ne_true
  rename_i h8
  exact ⟨s, _, _, _, _, _, _, h0, h1, h2, h3, h4, h5, h6, h7, h8⟩

def chain_CollectivesJoinAndStart_slots (s : State) : Bool :=
  (match (s.coreE 1 0).dxeQ with
  | e :: _ => (match e.joined with
    | some k => if e.taken = true ∧ e.result = none ∧ e.word.op = some .credNorm then (match s.collE 1 e.word.imm k with
      | some w => if w.whole = true then if laMismatch (laResolve ((w.slots.map Prod.snd).foldl laAddLA (laClear 1))) = false then (match s.vaWrite (s.dmaLate 1 0 e) (s.normAddr 1 (e.word.mod % 4 * 256 + e.word.tag)) (bytesOfSlot (laResolve ((w.slots.map Prod.snd).foldl laAddLA (laClear 1)))) with
        | (_, none) => true
        | _ => false) else false else false
      | _ => false) else false
    | _ => false)
  | _ => false)


/-- The hypotheses of CollectivesJoinAndStart are met: the last participant of a CRED.NORM. -/
theorem witness_CollectivesJoinAndStart_slots : ∃ s : State, ∃ e r k w s2,
    (s.coreE 1 0).dxeQ = e :: r ∧
    e.joined = some k ∧
    (e.taken = true ∧ e.result = none ∧ e.word.op = some .credNorm) ∧
    s.collE 1 e.word.imm k = some w ∧
    w.whole = true ∧
    laMismatch (laResolve ((w.slots.map Prod.snd).foldl laAddLA (laClear 1))) = false ∧
    s.vaWrite (s.dmaLate 1 0 e) (s.normAddr 1 (e.word.mod % 4 * 256 + e.word.tag)) (bytesOfSlot (laResolve ((w.slots.map Prod.snd).foldl laAddLA (laClear 1)))) = (s2, none) := by
  have h : chain_CollectivesJoinAndStart_slots ({ coll 2 [] with colls := [{ ctx := 1, unit := 0x80000, slots := [(0, laClear 1)] }] }) = true := by decide +kernel
  generalize { coll 2 [] with colls := [{ ctx := 1, unit := 0x80000, slots := [(0, laClear 1)] }] } = s at h
  unfold chain_CollectivesJoinAndStart_slots at h
  split at h
  rotate_left
  · exact absurd h Bool.false_ne_true
  rename_i h0
  split at h
  rotate_left
  · exact absurd h Bool.false_ne_true
  rename_i h1
  split at h
  rotate_left
  · exact absurd h Bool.false_ne_true
  rename_i h2
  split at h
  rotate_left
  · exact absurd h Bool.false_ne_true
  rename_i h3
  split at h
  rotate_left
  · exact absurd h Bool.false_ne_true
  rename_i h4
  split at h
  rotate_left
  · exact absurd h Bool.false_ne_true
  rename_i h5
  split at h
  rotate_left
  · exact absurd h Bool.false_ne_true
  rename_i h6
  exact ⟨s, _, _, _, _, _, h0, h1, h2, h3, h4, h5, h6⟩

def chain_CollectivesJoinAndStart_start_cred (s : State) : Bool :=
  (match s.joinedAll 1 0x80000 0 with
  | (n, e) :: r => if ((n, e) :: r).length = (s.parts 1 (uidFields 0x80000)).length ∧ s.partPeers 1 (uidFields 0x80000) = [] then if s.collE 1 0x80000 0 = none then if ∀ p ∈ (n, e) :: r, joinKey p.2 = joinKey e then if e.word.op = some .cred then (match s.sumDies 1 ((n, e) :: r) with
    | (_, .ok _) => true
    | _ => false) else false else false else false else false
  | _ => false)


/-- The hypotheses of CollectivesJoinAndStart are met: every core of cluster 0 has joined. -/
theorem witness_CollectivesJoinAndStart_start_cred : ∃ s : State, ∃ n e r s1 dies,
    s.joinedAll 1 0x80000 0 = (n, e) :: r ∧
    (((n, e) :: r).length = (s.parts 1 (uidFields 0x80000)).length ∧ s.partPeers 1 (uidFields 0x80000) = []) ∧
    s.collE 1 0x80000 0 = none ∧
    (∀ p ∈ (n, e) :: r, joinKey p.2 = joinKey e) ∧
    e.word.op = some .cred ∧
    s.sumDies 1 ((n, e) :: r) = (s1, .ok dies) := by
  have h : chain_CollectivesJoinAndStart_start_cred (coll 1 [td 0 0 0x100 1, td 0 0 0x200 1]) = true := by decide +kernel
  generalize coll 1 [td 0 0 0x100 1, td 0 0 0x200 1] = s at h
  unfold chain_CollectivesJoinAndStart_start_cred at h
  split at h
  rotate_left
  · exact absurd h Bool.false_ne_true
  rename_i h0
  split at h
  rotate_left
  · exact absurd h Bool.false_ne_true
  rename_i h1
  split at h
  rotate_left
  · exact absurd h Bool.false_ne_true
  rename_i h2
  split at h
  rotate_left
  · exact absurd h Bool.false_ne_true
  rename_i h3
  split at h
  rotate_left
  · exact absurd h Bool.false_ne_true
  rename_i h4
  split at h
  rotate_left
  · exact absurd h Bool.false_ne_true
  rename_i h5
  exact ⟨s, _, _, _, _, _, h0, h1, h2, h3, h4, h5⟩

def chain_CollectivesJoinAndStart_start_norm (s : State) : Bool :=
  (match s.joinedAll 1 0x80000 0 with
  | (n, e) :: r => if ((n, e) :: r).length = (s.parts 1 (uidFields 0x80000)).length ∧ s.partPeers 1 (uidFields 0x80000) = [] then if s.collE 1 0x80000 0 = none then if ∀ p ∈ (n, e) :: r, joinKey p.2 = joinKey e then if e.word.op = some .credNorm then (match s.readSlots 1 ((n, e) :: r) with
    | (_, .ok _) => true
    | _ => false) else false else false else false else false
  | _ => false)


/-- The hypotheses of CollectivesJoinAndStart are met: every core of cluster 0 has joined. -/
theorem witness_CollectivesJoinAndStart_start_norm : ∃ s : State, ∃ n e r s1 l,
    s.joinedAll 1 0x80000 0 = (n, e) :: r ∧
    (((n, e) :: r).length = (s.parts 1 (uidFields 0x80000)).length ∧ s.partPeers 1 (uidFields 0x80000) = []) ∧
    s.collE 1 0x80000 0 = none ∧
    (∀ p ∈ (n, e) :: r, joinKey p.2 = joinKey e) ∧
    e.word.op = some .credNorm ∧
    s.readSlots 1 ((n, e) :: r) = (s1, .ok l) := by
  have h : chain_CollectivesJoinAndStart_start_norm (coll 2 []) = true := by decide +kernel
  generalize coll 2 [] = s at h
  unfold chain_CollectivesJoinAndStart_start_norm at h
  split at h
  rotate_left
  · exact absurd h Bool.false_ne_true
  rename_i h0
  split at h
  rotate_left
  · exact absurd h Bool.false_ne_true
  rename_i h1
  split at h
  rotate_left
  · exact absurd h Bool.false_ne_true
  rename_i h2
  split at h
  rotate_left
  · exact absurd h Bool.false_ne_true
  rename_i h3
  split at h
  rotate_left
  · exact absurd h Bool.false_ne_true
  rename_i h4
  split at h
  rotate_left
  · exact absurd h Bool.false_ne_true
  rename_i h5
  exact ⟨s, _, _, _, _, _, h0, h1, h2, h3, h4, h5⟩

def chain_CollectivesJoinAndStart_start_moves (s : State) : Bool :=
  (match s.joinedAll 1 0x80000 0 with
  | (n, e) :: r => if ((n, e) :: r).length = (s.parts 1 (uidFields 0x80000)).length ∧ s.partPeers 1 (uidFields 0x80000) = [] then if s.collE 1 0x80000 0 = none then if ∀ p ∈ (n, e) :: r, joinKey p.2 = joinKey e then if e.word.op = some .cbcs then true else false else false else false else false
  | _ => false)


/-- The hypotheses of CollectivesJoinAndStart are met: every core of cluster 0 has joined. -/
theorem witness_CollectivesJoinAndStart_start_moves : ∃ s : State, ∃ n e r,
    s.joinedAll 1 0x80000 0 = (n, e) :: r ∧
    (((n, e) :: r).length = (s.parts 1 (uidFields 0x80000)).length ∧ s.partPeers 1 (uidFields 0x80000) = []) ∧
    s.collE 1 0x80000 0 = none ∧
    (∀ p ∈ (n, e) :: r, joinKey p.2 = joinKey e) ∧
    e.word.op = some .cbcs := by
  have h : chain_CollectivesJoinAndStart_start_moves (coll 4 [td 0 0 0x100 1, td 0 0 0x200 1]) = true := by decide +kernel
  generalize coll 4 [td 0 0 0x100 1, td 0 0 0x200 1] = s at h
  unfold chain_CollectivesJoinAndStart_start_moves at h
  split at h
  rotate_left
  · exact absurd h Bool.false_ne_true
  rename_i h0
  split at h
  rotate_left
  · exact absurd h Bool.false_ne_true
  rename_i h1
  split at h
  rotate_left
  · exact absurd h Bool.false_ne_true
  rename_i h2
  split at h
  rotate_left
  · exact absurd h Bool.false_ne_true
  rename_i h3
  split at h
  rotate_left
  · exact absurd h Bool.false_ne_true
  rename_i h4
  exact ⟨s, _, _, _, h0, h1, h2, h3, h4⟩

/-- The hypotheses of the second clause of CopyOnWriteCopiesItsPages are met: the one page of a DCOW of a superseded epoch. -/
theorem witness_CopyOnWriteCopiesItsPages_copy : ∃ (s : State) (r : DcowRun) (e : QEntry) (s1 s2 : State) (bs : List (BitVec 8)),
    (s.clusE 0).ctx = 1 ∧ (s.runE 1).running = true ∧ (s.coreE 1 0).dcows.find? (fun r => r.slot == 0) = some r ∧
    (s.coreE 1 0).dxeQ.find? (fun e => e.slot == 0) = some e ∧ r.failed = none ∧ e.result = none ∧ r.todo = [0] ∧ s.mem.hostHeld = [] ∧
    s.stackRead (r.pages.getD 0 0 * 65536) 65536 (s.reqOf (dmaOf 1 0 3 0) 3) = (s1, .ok bs) ∧
    s1.outWrite (dmaOf 1 0 3 0) (e.epoch != (s.ctxE 1).epoch) (r.dstVa + 65536 * 0) bs = (s2, none) := by
  have sound : cowing.MemSound := ⟨by decide +kernel, by decide +kernel, by decide +kernel, by decide +kernel, by decide +kernel,
    by decide +kernel, by decide +kernel⟩
  obtain ⟨t, h, -, ht⟩ := State.stackRead_sound sound (32 * 65536) 65536 (cowing.reqOf (dmaOf 1 0 3 0) 3)
    (by intros; simp [State.keyFits, State.lineKey, show cowing.mem.dom = [] from rfl, show cowing.mem.fills = [] from rfl, tabFind])
  have hq : (cowing.coreE 1 0).dxeQ.find? (fun e => e.slot == 0) = some ((cowing.coreE 1 0).dxeQ.headD default) := by decide +kernel
  have he : (((cowing.coreE 1 0).dxeQ.headD default).epoch != (cowing.ctxE 1).epoch) = true := by decide +kernel
  exact ⟨cowing, { slot := 0, core := 0, ctx := 1, srcVa := 0x200000, dstVa := 0x400000, pages := [32], todo := [0] },
    (cowing.coreE 1 0).dxeQ.headD default, t, (t.outWrite (dmaOf 1 0 3 0) true 0 []).1, _, by decide +kernel, by decide +kernel,
    by decide +kernel, hq, rfl, by decide +kernel, rfl, by decide +kernel, h, by rw [he]; rfl⟩
/-- The hypotheses of StepKeepsMemoryAndLedger are met: a governor evaluation at the front of the queue of a module in service. -/
theorem witness_StepKeepsMemoryAndLedger :
    Memory.wf up.mem.cells = true ∧
    up.led.recs = [] ∧
    (match step { up with pending := [.governorEval 1] } with | .next _ => true | _ => false) = true := by decide +kernel

/-- An LA with all limbs at a value, and carries. -/
def laOf (top : BitVec 64) (c9 : Int) : LA :=
  { laClear 1 with limb := List.replicate 9 0 ++ [top], carry := List.replicate 9 0 ++ [c9] }

/-- The hypotheses of OverflowIsFoundAndSticks are met: values at both ends of the range and just beyond them, with and without OVF. -/
theorem witness_OverflowIsFoundAndSticks :
    laPhys (laOf 0 (-1)) < -(2 ^ 639 : Int) ∧
    (2 ^ 639 : Int) ≤ laPhys (laOf 0 1) ∧
    (-(2 ^ 639 : Int) ≤ laPhys (laOf ((1 <<< 63) - 1) 0) ∧ laPhys (laOf ((1 <<< 63) - 1) 0) < (2 ^ 639 : Int)) ∧
    ((laOf 0 0).limb.length = 10 ∧ (laOf 0 0).carry.length = 10) ∧
    ({ laOf 0 0 with ovf := true } : LA).ovf = true := by decide +kernel

/-- The hypotheses of StochasticRoundingIsUnbiased are met: the value 1 in a scale of 127. -/
theorem witness_StochasticRoundingIsUnbiased :
    fmtIsLevel 0 = false ∧
    (0 : Int) = 0 + (127 - (127 : Nat)) + (0 : Nat) ∧
    floorMag 1 (0 - ulpExp 0 (0 + (Nat.log2 1 : Nat)) + 16) % 2 ^ 16 = 0 := by decide +kernel

/-- The hypotheses of EncodingsReadBack are met: values at the ends of their ranges. -/
theorem witness_EncodingsReadBack :
    uidForm 0xFFF80000 = true ∨ uidForm 0x80000 = true ∧
    (fitsInt 120 (2 ^ 119 - 1) = true ∧ fitsInt 120 (-(2 ^ 119)) = true) ∧
    fitsInt (64 * 10) (-(2 ^ 639)) = true ∧
    (laClear 1).limb.length = 10 := by decide +kernel

/-- The hypotheses of RecordsTakeTheNextEsn are met: a buffer with room and one without, a CFC that serves, one that is down with room in its latch and with none. -/
theorem witness_RecordsTakeTheNextEsn :
    up.led.recs.length < ldgLimit 4 ∧
    ldgLimit 4 ≤ (List.replicate 16384 ({} : Rec)).length ∧
    up.cfcUp 0 = true ∧
    (up.procM 3 fun e => { e with served := false }).cfcUp 0 = false ∧
    ((up.procM 3 fun e => { e with served := false }).procE 3).latch.length < 64 ∧
    64 ≤ ((up.procM 3 fun e => { e with served := false, latch := List.replicate 64 {} }).procE 3).latch.length := by decide +kernel

/-- The hypotheses of IssueClassWritesTakeEffect are met: context 1 on cluster 0, at the first and the last word of a replay entry and of the counter window. -/
theorem witness_IssueClassWritesTakeEffect :
    ctx1.seqReady 0 = true ∧
    ctx1.pathClear (ctx1.ctxOn 0) 0 = true ∧
    (0x40000 ≤ (0x40000 : BitVec 32).toNat ∧ (0x47FFC : BitVec 32).toNat < 0x48000) ∧
    ((0x407FC : BitVec 32).toNat - 0x40000) / 32 < (ctx1.seqE (ctx1.ctxOn 0) 0).replayExt ∧
    ctx1.unchecked (ctx1.ctxOn 0) = false ∧
    ctx1.corePresent (4 * 0 + bits (0x503FC : BitVec 32) 9 8) = true ∧
    (ctx1.seqE (ctx1.ctxOn 0) 0).ctrWrites = [] ∧
    (∀ e ∈ (ctx1.coreE (ctx1.ctxOn 0) 0).queue 0, e.taken = true) := by decide +kernel

/-- Context 1 with its sequencer on cluster 0 changed. -/
def seq1 (g : SeqCtx → SeqCtx) : State := ctx1.seqM 1 0 g
/-- A SYNC instruction held by the issue stage of cluster 0: its counter has reached 0. -/
def syncing (opcode : Nat) (waitv sigv : Bool) : State := seq1 fun q => { q with sync := some {
  word := { w0 := BitVec.ofNat 32 (1024 + opcode) ||| (if waitv then 1 <<< 12 else 0) ||| (if sigv then 1 <<< 13 else 0) }, bset := 1 } }

/-- The hypotheses of SequencerInstructionsRetire are met: a running sequencer with nothing outstanding; a counter at 0, a value in slot 0, the unit ID of core 0. -/
theorem witness_SequencerInstructionsRetire :
    ctx1.seqReady 0 = true ∧
    ctx1.pathClear (ctx1.ctxOn 0) 0 = true ∧
    ctx1.drained (ctx1.ctxOn 0) 0 0xF = true ∧
    reached (tabGet (ctx1.seqE (ctx1.ctxOn 0) 0).qc 0 {}).value.toNat 0 = true ∧
    (ctx1.unitAt 0 0 1 = true ∧ (uidFields 0).module = ctx1.modIdx) ∧
    tabGet ((seq1 fun q => { q with slots := [(0, [{ bits := 7, issueNo := 0 }])] }).seqE 1 0).slots 0 [] = [({ bits := 7, issueNo := 0 } : RetVal)] ∧
    ((ctx1.runM 1 fun r => { r with debug := true }).runE 1).debug = true ∧
    (ctx1.runE 1).debug = false ∧
    ctx1.unchecked 1 = false ∧
    (∀ n ∈ ctx1.clusCores 0, (ctx1.coreE 1 n).norms = []) := by decide +kernel

/-- The word of a VNRM.FLUSH at byte 32 of the data extent. -/
def issuing : State := seq1 fun q => { q with dmem := [(32, 0xC1), (33, 0x01)] }

/-- The hypotheses of InstructionsAreIssued are met: a VNRM.FLUSH at byte 32 of the data extent; a replay of one entry, and the last entry of a replay. -/
theorem witness_InstructionsAreIssued :
    (ctx1.seqReady 0 = true ∧ ctx1.pathClear 1 0 = true) ∧
    ((32 : BitVec 32).toNat % 32 = 0 ∧ 64 ≤ (issuing.seqE 1 0).dataExt) ∧
    (twordOfBytes ((issuing.seqE 1 0).dataBytes 32 32)).op = some .vnrmFlush ∧
    (pmPatch (issuing.seqE 1 0) (twordOfBytes ((issuing.seqE 1 0).dataBytes 32 32))).engine = 1 ∧
    copiedTds (twordOfBytes ((issuing.seqE 1 0).dataBytes 32 32)) .vnrmFlush = [] ∧
    (issuing.seqE 1 0).bmask &&& issuing.presentMask 0 ≠ 0 ∧
    issuing.fullMask 1 0 1 1 = 0 ∧
    issuing.seqReady 0 = true ∧
    0 + 1 ≤ (ctx1.seqE 1 0).replayExt ∧
    ((seq1 fun q => { q with replayPos := some (63, 1) }).seqE 1 0).replayPos = some (63, 1) := by decide +kernel

/-- The hypotheses of SignalsAreSentAndArrive are met: a signal of the epoch of its counter and one of another; each SYNC instruction at the issue stage; a write by the owner of context 1 and by others. -/
theorem witness_SignalsAreSentAndArrive :
    ({ ctx1 with sigs := [{ ctx := 1, unit := 0, ctr := 3, inc := 5 }] } : State).sigs[0]? = some { ctx := 1, unit := 0, ctr := 3, inc := 5 } ∧
    ctx1.holdsCtrs 1 (uidFields 0) = true ∧
    ((ctx1.ctxE 1).state ≠ .free ∧ (ctx1.ctxE 1).state ≠ .scrubbing) ∧
    (0 : BitVec 4) = (ctx1.ctrE 1 (uidFields 0) 3).epoch ∧
    3 < ctrCount (uidFields 0) ∧
    (1 : BitVec 4) ≠ (ctx1.ctrE 1 (uidFields 0) 3).epoch ∧
    (syncing 1 false true).seqLive 0 = true ∧
    (∀ e ∈ ((syncing 1 false true).seqE 1 0).sync, e.word.op = some .sig ∧ (syncing 1 false true).syncBad 1 e.word = none) ∧
    (∀ e ∈ ((syncing 2 true false).seqE 1 0).sync, e.word.op = some .wait ∧ (syncing 2 true false).syncBad 1 e.word = none) ∧
    (∀ e ∈ ((syncing 3 false true).seqE 1 0).sync, e.word.op = some .scset) ∧
    ((syncing 3 false true).runM 1 fun r => { r with debug := true }).syncBad 1 (((syncing 3 false true).seqE 1 0).sync.getD {}).word = none ∧
    (ctx1.unitValid 0 = true ∧ (uidFields 0).module = ctx1.modIdx) ∧
    ctx1.ownsCtx (.func 0) (bits (reg [(1, 52, 12), (3, 32, 6)]) 63 52) = true ∧
    ctx1.ownsCtx (.func 1) (bits (reg [(1, 52, 12), (3, 32, 6)]) 63 52) = false ∧
    (isMgmt (.mgmt 0) = true ∧ isFirm (.firmware 2) = true) := by decide +kernel

/-- Context 1 with a text whose first instruction is the four bytes given, on a page with EXEC. -/
def coded (w : Nat) : State :=
  ((seq1 fun q => { q with text := 0x200000, textSize := 64, pc := 0x10000000 }).putBytes 0x3008 [0x0F]).putBytes 0x200000 (natBytes 4 w)
/-- What the fetch of its 16-bit and of its 32-bit instruction gives, and the action of an instruction word there. -/
def codedHalf (w : Nat) : Option (BitVec 32) := ((coded w).seqFetch 1 0 0x10000000 2 0x10000000).2
def codedWord (w : Nat) : Option (BitVec 32) :=
  (((coded w).seqFetch 1 0 0x10000000 2 0x10000000).1.seqFetch 1 0 0x10000000 4 0x10000000).2
def codedAct (w : Nat) (len : Nat) (word : BitVec 32) : RvAct := rvAct word 0x10000000 len ((coded w).seqE 1 0).getX

/-- The hypotheses of DataMemoryAccessesComplete are met: the first and the last word of the data extent, and an odd address; ADDI x1, x0, 5 and
C.ADDI x1, 1 at the program counter, and an instruction that there is not. -/
theorem witness_DataMemoryAccessesComplete :
    ((coded 0).ctxOn 0 = 1 ∧ (coded 0).seqReady 0 = true ∧ ((coded 0).seqE 1 0).pc = 0x10000000) ∧
    (codedHalf 0x00500093 = some 0x0093 ∧ bits (0x0093 : BitVec 32) 1 0 = 3 ∧ codedWord 0x00500093 = some 0x00500093) ∧
    codedAct 0x00500093 4 0x00500093 = .put 1 5 0x10000004 ∧
    (codedHalf 0x00000085 = some 0x0085 ∧ bits (0x0085 : BitVec 32) 1 0 ≠ 3 ∧ rvExpand 0x0085 = some 0x00108093) ∧
    codedAct 0x00000085 2 0x00108093 = .put 1 1 0x10000002 ∧
    (codedHalf 0xFFFFFFFF = some 0xFFFF ∧ codedWord 0xFFFFFFFF = some 0xFFFFFFFF ∧ codedAct 0xFFFFFFFF 4 0xFFFFFFFF = .illegal) ∧
    ctx1.seqReady 0 = true ∧
    ((0xFFC : BitVec 32).toNat % 4 = 0 ∧ (0xFFC : BitVec 32).toNat + 4 ≤ (ctx1.seqE (ctx1.ctxOn 0) 0).dataExt) ∧
    (1 : BitVec 32).toNat % 2 ≠ 0 := by decide +kernel

/-- A chunk of one dense word: W = 1 at POS 5, with its residue. -/
def chunk1 : List (BitVec 8) := natBytes 8 (1 * 2 ^ 9 + 1) ++ List.replicate 8 0 ++ blwBytes { w := 1, pos := 5 }
/-- A collective of one CRED under way, which awaits module 1. -/
def summing : State := { coll 1 [td 0 0 0x100 1, td 0 0 0x200 1] with colls := [{ ctx := 1, unit := 0x80000, peers := [1] }] }

/-- Context 1 of a module whose span is modules 0 and 1, both admitted, with a span job under way. -/
def spanned : State :=
  { ctx1 with
    boot := { ctx1.boot with image := { valid := true, members := 3 } }
    span := { admitted := 3, links := [(1, { state := 2, keyed := true })] } }
/-- A span job of context 1 in a phase. -/
def spanJob (phase : JobPhase) : Job := { id := 1, func := 0, unit := spanUid, ctx := 1, op := 1, phase := phase, accepted := true, peers := [1] }

/-- The hypotheses of ArrivalsJoinTheSums are met: a word for a span collective that has not started, a dense chunk of one word, a trimmed word for a norm slot, one for an escaped element, and one of no limbs. -/
theorem witness_ArrivalsJoinTheSums :
    (({ spanned with jobs := [spanJob .running] } : State).collE 1 spanUid 0 = none ∧
      (({ spanned with jobs := [spanJob .running] } : State).partPeers 1 (uidFields spanUid)).contains 1 = true) ∧
    (summing.collE 1 0x80000 0).any (fun w => w.peers.contains 1) = true ∧
    (∀ p ∈ chunkWords (chunkHdrOf chunk1) chunk1, blwPosOk p.2.pos = true ∧ p.2.pos ≠ 0xFF) ∧
    (chunkWords (chunkHdrOf chunk1) chunk1).length = 1 ∧
    ((chunkWords (chunkHdrOf chunk1) chunk1).map fun p => wordResidue p.2.w).sum % 255 = (chunkHdrOf chunk1).resSum % 255 ∧
    (tlwOfBytes (tlwBytes { first := 5, count := 1, z := -3 })).isSome = true ∧
    (({ ctx := 1, slots := [(0, laClear 1)], peers := [1] } : Coll).slots ≠ []) ∧
    ({ escapes := [(1, 7)], resWant := [(1, 0, 0, 0, 2)] } : Coll).escapes.find? (fun p => p.1 == 1) = some (1, 7) ∧
    ({ escapes := [(1, 7)], resWant := [(1, 0, 0, 0, 2)] } : Coll).resWant.find? (fun p => p.1 == 1) = some (1, 0, 0, 0, 2) ∧
    tlwOfBytes (natBytes 8 0) = none := by decide +kernel

/-- A VNRM.FLUSH with an outcome at the head of core 0's VXE queue, of an epoch. -/
def ended (status : BitVec 8) (epoch : BitVec 4) : State :=
  ctx1.coreM 1 0 fun k => k.setQueue 1 [{
    word := { w0 := 0x1C1 }, bset := 1, taken := true, epoch := epoch, result := some { status := status } }]
/-- Context 1 with a fault in force. -/
def faulted (flushed : Bool) : State := ctx1.runM 1 fun r => { r with fault := some { status := 0x10, flushed := flushed } }

/-- The hypotheses of InstructionsComplete are met: outcomes DONE and DONE_FLAGGED, an outcome of a superseded epoch, and faults before and after they took effect. -/
theorem witness_InstructionsComplete :
    ((ended 0 0).entryE (((ended 0 0).entryCtx 0 1 0)) 0 1 0).any (fun e => e.result.isSome && e.epoch == 0) = true ∧
    ((ended 1 0).entryE (((ended 1 0).entryCtx 0 1 0)) 0 1 0).any (fun e => e.result.any fun o => o.status == 1) = true ∧
    ((ended 0 1).entryE (((ended 0 1).entryCtx 0 1 0)) 0 1 0).any (fun e => e.epoch != ((ended 0 1).ctxE 1).epoch) = true ∧
    (ended 0 0).frozen = false ∧
    ((ended 0 0).entryE (((ended 0 0).entryCtx 0 1 0)) 0 1 0).any (fun e => e.word.op != some .dcow) = true ∧
    ((faulted true).runE 1).fault.any (fun f => f.flushed) = true ∧
    ((faulted false).runE 1).fault.any (fun f => !f.flushed) = true ∧
    ((faulted false).jobs.any fun j => j.ctx == 1 && j.phase == .running && (uidFields j.unit).level == 4 && !j.told) = false := by decide +kernel

/-- A VNRM.FLUSH at the head of core 0's VXE queue that waits for counter 0 to reach a threshold. -/
def waiting (thresh : Nat) : State :=
  ctx1.coreM 1 0 fun k => k.setQueue 1 [{ word := { w0 := 0x11C1, w1 := BitVec.ofNat 32 (thresh * 256) }, bset := 1, waiting := true }]
/-- A cluster wait of a SYNC instruction at the issue stage that not every position has satisfied. -/
def issueWait : State := seq1 fun q => { q with syncWait := true, sync := some { word := { w0 := 0x1402, w1 := 0xFFFF40 }, bset := 1 } }

/-- The hypotheses of WaitsTimeOut are met: a pending wait at a queue head that its counter satisfies and one that it does not; waits at the issue stage, of QCWAIT and of TAWAIT. -/
theorem witness_WaitsTimeOut :
    (waiting 0).seqLive 0 = true ∧
    (waiting 0).takes 1 0 = true ∧
    ((waiting 0).coreE 1 0).head 1 ≠ none ∧
    (∀ e ∈ ((waiting 0).coreE 1 0).head 1, e.waiting = true ∧ e.waitDone = false ∧ reached ((waiting 0).waitCtr 1 0 e).value.toNat e.word.wthresh = true) ∧
    (∀ e ∈ ((waiting 1).coreE 1 0).head 1, e.waiting = true ∧ e.waitDone = false ∧ reached ((waiting 1).waitCtr 1 0 e).value.toNat e.word.wthresh = false) ∧
    ((issueWait.seqE 1 0).sync.any fun e => e.word.wscope && ((issueWait.seqE 1 0).syncDone &&& e.bset) != e.bset) = true ∧
    (issueWait.seqE 1 0).syncWait = true ∧
    ((seq1 fun q => { q with run := .waitQc 3 1 0 }).seqE 1 0).run = .waitQc 3 1 0 ∧
    ((seq1 fun q => { q with run := .waitScalar 7 1 0 }).seqE 1 0).run = .waitScalar 7 1 0 ∧
    (seq1 fun q => { q with run := .waitQc 3 1 0 }).seqLive 0 = true := by decide +kernel

/-- The hypotheses of DebugBlockNeedsPrivilege are met: function 0 without a debug grant at core 0, at both ends of the debug block. -/
theorem witness_DebugBlockNeedsPrivilege :
    (up.hasRole (.func 0) 0 = true ∧ up.hasRole (.func 0) 1 = true) ∧
    up.unitValid 0 = true ∧
    up.farOf 0 = none ∧
    up.hasDebug (.func 0) = false ∧
    up.writerFunc (.func 0) ≠ none ∧
    (0x8000 ≤ (0x8000 : BitVec 24).toNat ∧ (0xFFFF : BitVec 24).toNat < 0x10000) := by decide +kernel

/-- A peek of core 0 that has taken its LA. -/
def peeking (la : LA) : State := ctx1.physM 0 fun p => { p with peekBusy := true, peekLa := la }

/-- The hypotheses of DebugAccessTakesEffect are met: the management port with DEBUG and function 0 without; a peek of tile 0 and one of no LA; an LA whose residue agrees and one whose does not. -/
theorem witness_DebugAccessTakesEffect :
    ctx1.hasDebug (.func 0) = false ∧
    (ctx1.hasDebug (.mgmt 0) = true ∧ isMgmt (.mgmt 0) = true) ∧
    (ctx1.unitValid 0 = true ∧ (uidFields 0).module = ctx1.modIdx ∧ (uidFields 0).level ≤ 1) ∧
    bits (reg [(1, 52, 12), (23, 32, 6)]) 63 52 ≠ 0 ∧
    ((ctx1.ctxE 1).state ≠ .free ∧ (ctx1.ctxE 1).state ≠ .scrubbing) ∧
    bits (reg [(1, 52, 12), (23, 32, 6)]) 37 32 < ctrCount (uidFields 0) ∧
    (ctx1.corePresent 0 = true ∧ (ctx1.physE 0).peekBusy = false ∧ bit (1 : BitVec 64) 0 = true) ∧
    (match ctx1.peekSel 0 with | .ok _ => true | _ => false) = true ∧
    (match (ctx1.physM 0 fun p => { p with lasel := 3 <<< 16 }).peekSel 0 with | .error false => true | _ => false) = true ∧
    ((peeking (laClear 1)).physE 0).peekBusy = true ∧
    laMismatch (laResolve (laClear 1)) = false ∧
    laMismatch (laResolve { laClear 1 with resAcc := 1 }) = true := by decide +kernel

/-- The hypotheses of RegisterAccessesTakeEffect are met: accesses to core 0 of a good and a bad width, by function 0, by the management port, by module 1, and to module 1. -/
theorem witness_RegisterAccessesTakeEffect :
    (up.unitValid 0 = true ∧ goodAccess 0 8 = true ∧ up.farOf 0 = none) ∧
    (match up.readReg (.func 0) 0 0 with | .val _ => true | _ => false) = true ∧
    (goodAccess 1 4 = false ∧ isMgmt (.func 0) = false ∧ isBar (.func 0) = true ∧ up.writerFunc (.func 0) ≠ none) ∧
    (up.slotUnit (slotOf (uidFields 0)) = 0 ∧ up.slotUnit (slotOf (uidFields 0x3000)) ≠ 0x3000) ∧
    (up.unitValid 0x3000 = false ∧ isBar (.firmware 2) = false) ∧
    (up.sessionHas 0 0 = true ∧ up.sessionHas 0 1 = true) ∧
    windowOfAddr 0 = none ∧
    windowOfAddr 0x030000000000 = some (0, 0) ∧
    windowOfAddr 0x030000008000 = some (0, 0x8000) ∧
    ({ up with nvm := { up.nvm with accounts := [{ name := "a", roles := 3 }] } } : State).hasRole (mgmtOf 0) 4 = false ∧
    (match up.readReg (mgmtOf 0) 0 0 with | .val _ => true | _ => false) = true ∧
    bit spanned.span.admitted 1 = true ∧
    spanned.farOf 0 = none ∧
    (match spanned.readReg (.peer 1) 0 0 with | .val _ => true | _ => false) = true ∧
    spanned.farOf 0x10000000 = some 1 ∧
    spanned.unitValid 0x10000000 = true ∧
    ({ spanned.span with forwards := [(1, 5, .func 0, true)] } : Span).forwards.find? (fun f => f.1 == 1 && f.2.1 == 5 && f.2.2.2 == true) =
      some (1, 5, .func 0, true) ∧
    ({ spanned.span with forwards := [(1, 5, .func 0, false)] } : Span).forwards.find? (fun f => f.1 == 1 && f.2.1 == 5 && f.2.2.2 == false) =
      some (1, 5, .func 0, false) := by decide +kernel

/-- Contexts 1 and 2 are resident on cluster 0; context 1 runs, its slice over, and context 2 has work and a higher priority. -/
def two : State :=
  { ctx1 with
    ctxs := ctx1.ctxs ++ [(2, { valid := true, state := .running, keydom := 1, ptroot := 0x1000, place := 1, prio := 3 })]
    runs := [(1, { jobCores := 0xF, storeBytes := 2 ^ 21, resident := true, running := true, expired := true }),
             (2, { jobCores := 0xF, storeBytes := 2 ^ 20, storeOff := 2 ^ 21, resident := true, waited := 1 })]
    seqs := ctx1.seqs ++ [(32, { run := .run })] }
/-- Context 1 idle, with nothing resident. -/
def idle1 : State := { up with ctxs := [(1, { valid := true, state := .idle, keydom := 1, ptroot := 0x1000 })] }
/-- A job of context 1 for cluster 0, in a phase. -/
def job1 (phase : JobPhase) : Job := { id := 1, func := 0, unit := 0x80000, ctx := 1, op := 1, phase := phase, accepted := true }

/-- The hypotheses of ContextsSwitch are met: contexts 1 and 2 on cluster 0. -/
theorem witness_ContextsSwitch :
    two.schUp = true ∧
    (two.jobClusters 1 ++ two.jobClusters 2).all two.cfcUp = true ∧
    (two.runE 1).running = true ∧
    (two.mayLeave 1 = true ∧ two.mayRun 2 1 = true) ∧
    (two.readCtxLines 2).2 = true ∧
    two.cfcUp 0 = true := by decide +kernel

/-- The 64 bytes of an image's header: one core, 4 bytes of text at offset 0, no data, and a store need. -/
def header (store : Nat) : List (BitVec 8) :=
  let h : List (BitVec 8) := natBytes 4 0x5051534F ++ [1, 0, 1, 0] ++ natBytes 4 0 ++ natBytes 4 0 ++ natBytes 4 4 ++ List.replicate 28 0 ++ natBytes 4 store ++ natBytes 4 0 ++ natBytes 4 64
  h ++ natBytes 4 (crcOf 1 h)
/-- Context 1 with a queued job for cluster 0. -/
def queued : State := { (idle1.ctxM 1 fun e => { e with state := .queued }) with jobs := [job1 .queued] }
/-- Context 1 evicted from cluster 0. -/
def evicted : State := idle1.runM 1 fun _ => { jobCores := 0xF, storeBytes := 65536, evicted := true }

/-- Context 2, which does not run, holds all of the stores of cluster 0, which context 1 is queued for with an image of 2 MiB a core. -/
def crowded : State :=
  { ((idle1.ctxM 1 fun e => { e with state := .queued }).putBytes 0x200000 (header 0x200000)) with
    jobs := [{ job1 .queued with image := 0x200000 }]
    runs := [(2, { jobCores := 0xF, storeBytes := 8 * 2 ^ 20, storeLen := 8 * 2 ^ 20, resident := true })] }

/-- The hypotheses of ContextsBecomeResident are met: a queued job on an empty cluster; an evicted context; a resident context that does not run and is the least recently run. -/
theorem witness_ContextsBecomeResident :
    queued.schUp = true ∧
    ((queued.runE 1).evicted = false ∧ (queued.runE 1).running = false) ∧
    queued.queuedJob 1 = some (job1 .queued) ∧
    queued.jobCoresOf 0x80000 = [0, 1, 2, 3] ∧
    queued.jobNeeds (job1 .queued) = (0, 0, 0, 0) ∧
    (∀ k ∈ clustersOf [0, 1, 2, 3], ((queued.residents k).filter (· != 1)).length < 8) ∧
    queued.allocFits 1 [0, 1, 2, 3] 0 0 0 0 = true ∧
    (∀ n ∈ ([0, 1, 2, 3] : List Nat), (queued.physE n).inReset = false) ∧
    (∀ k ∈ clustersOf [0, 1, 2, 3], (queued.clusE k).removed = false ∧ (queued.clusE k).inReset = false ∧ (queued.dieE (k / 4)).inReset = false) ∧
    ((evicted.runE 1).evicted = true ∧ (evicted.runE 1).resident = false ∧ (evicted.runE 1).fence = none) ∧
    (∀ k ∈ evicted.jobClusters 1, (evicted.residents k).length < 8) ∧
    evicted.allocFits 1 (evicted.jobCoreList 1) 0 (evicted.storeLen 1) 0 (evicted.poolLen 1) = true ∧
    ((crowded.runE 2).resident = true ∧ (crowded.runE 2).running = false ∧ (crowded.runE 2).evicted = false) ∧
    (∀ p ∈ crowded.runs, p.1 ≠ 2 → p.2.resident = true → p.2.running = false → (crowded.runE 2).lastRun ≤ p.2.lastRun) ∧
    crowded.wanted273 2 = true := by decide +kernel

/-- Context 1 switched out of cluster 0. -/
def moving : State := (ctx1.runM 1 fun r => { r with running := false }).clusM 0 fun k => { k with ctx := 0 }
/-- Context 1 with a fence over its old place. -/
def fenced : State := moving.runM 1 fun r => { r with fence := some { place := 1, cores := 0xF, epoch := 3, forced := true } }

/-- The hypotheses of MovesAdvanceTheEpoch are met: a move from cluster 0 to cluster 1, a context that fails to switch out, and a forced fence. -/
theorem witness_MovesAdvanceTheEpoch :
    (moving.runsSpan 1 = false ∧ ({ moving with jobs := [spanJob .running] } : State).runsSpan 1 = true) ∧
    (moving.leads = true ∧ ({ spanned with boot := { spanned.boot with image := { valid := true, members := 3, index := 1 } } } : State).leads = false) ∧
    ((moving.runE 1).epochDue = false ∧ ((moving.runM 1 fun r => { r with epochDue := true }).runE 1).epochDue = true) ∧
    moving.schUp = true ∧
    ((moving.runE 1).resident = true ∧ (moving.runE 1).running = false ∧ (moving.ctxE 1).state = .running ∧ (moving.runE 1).fence = none ∧ (moving.runE 1).fault = none) ∧
    (moving.jobClusters 1 = [0] ∧ maskList 16 2 = [1]) ∧
    (moving.presentMask 0 = moving.presentMask 1 ∧ (moving.clusE 1).inReset = false ∧ (moving.clusE 1).removed = false ∧ (moving.dieE 0).inReset = false) ∧
    moving.sigs = [] ∧
    ((moving.residents 1).filter (· != 1)).length < 8 ∧
    moving.allocFits 1 ((moving.jobCoreList 1).map fun n => 4 * 1 + n % 4) 0 (moving.storeLen 1) 0 (moving.poolLen 1) = true ∧
    ((ctx1.runE 1).running = true ∧ (ctx1.runE 1).resident = true ∧ (ctx1.runE 1).fence = none ∧ (ctx1.runE 1).fault = none) ∧
    (fenced.runE 1).fence = some { place := 1, cores := 0xF, epoch := 3, forced := true } ∧
    (∀ n ∈ maskList 64 0xF, ∀ e ∈ (fenced.coreE 1 n).mxeQ ++ (fenced.coreE 1 n).vxeQ ++ (fenced.coreE 1 n).dxeQ, e.epoch ≠ 3) ∧
    ((fenced.funcs.any fun p => p.2.ctxBusy && p.2.ctxCmd == 1) = false ∧ (fenced.mgmt.ctxCmd.ctxBusy && fenced.mgmt.ctxCmd.ctxCmd == 1) = false) ∧
    (fenced.funcE (fenced.ctxE 1).func.toNat).scrubAll = false := by decide +kernel

/-- A context image at 0x10000 whose fields are good, and one at 0x20000 whose timeouts are not. -/
def images : State := idle1.putBytes 0x10000 (List.replicate 32 0 ++ (List.replicate 16 [1, 0, 0, 0]).flatten)
/-- An instance of the context commands that has taken a command for context 2. -/
def begun : State := images.instM (some 0) fun e => { e with ctxBusy := true, ctxCmd := 2 }
/-- The state after the image at an address is read, and its bytes. -/
def imageAt (a : Nat) : State × List (BitVec 8) := ((begun.readImg 0 a).1, (begun.readImg 0 a).2.getD [])

/-- The hypotheses of ContextCommandsTakeEffect are met: CREATE of context 2 from a good and a bad image, SET of context 1, a command for a context of function 1, DESTROY, INVAL, READ before the firmware range opens, and a scrub. -/
theorem witness_ContextCommandsTakeEffect :
    (images.instOf (.func 0) = some (some 0) ∧ images.hasRole (.func 0) 1 = true ∧ (images.inst (some 0)).ctxBusy = false) ∧
    begun.imgFunc (some 0) 0x10000 = some 0 ∧
    ((begun.readImg 0 0x10000).2.isSome = true ∧ (begun.readImg 0 0x20000).2.isSome = true) ∧
    (((imageAt 0x10000).1.ctxE 2).state = .free ∧ begun.owner 2 = none) ∧
    (imageAt 0x10000).1.ctxCount 0 < ((imageAt 0x10000).1.funcE 0).quota ∧
    (((imageAt 0x10000).1.funcE 0).dom = some 1 ∧ ((imageAt 0x10000).1.domE 1).state = 1) ∧
    (imageAt 0x10000).1.badField 0 (imageAt 0x10000).2 false (!(imageAt 0x10000).1.firmOpen) = none ∧
    (imageAt 0x20000).1.badField 0 (imageAt 0x20000).2 false (!(imageAt 0x20000).1.firmOpen) = some 8 ∧
    (((imageAt 0x10000).1.ctxE 1).state = .idle ∧ ((imageAt 0x10000).1.runE 1).restore = none ∧ begun.owner 1 = some 0) ∧
    (imageAt 0x10000).1.badField ((imageAt 0x10000).1.ctxE 1).func.toNat (imageAt 0x10000).2 false ((imageAt 0x10000).1.ctxE 1).early = none ∧
    (begun.ctxM 1 fun e => { e with func := 1 }).owner 1 ≠ some 0 ∧
    (begun.runE 1).fence = none ∧
    ({ begun with boot := { begun.boot with open_ := 0 } } : State).firmOpen = false ∧
    ({ begun with boot := { begun.boot with open_ := 0 } } : State).imgFunc (some 0) 0x400000 = some 0 ∧
    (((idle1.ctxM 1 fun e => { e with state := .scrubbing }).ctxE 1).state = .scrubbing ∧ (idle1.runE 1).resident = false ∧ (idle1.runE 1).evicted = false) := by decide +kernel

/-- One VRED of core 0 whose accumulator the return combiner of cluster 0 holds. -/
def combining : State := (seq1 fun q => { q with combine := [(3, 7, 0, laClear 1)] }).coreM 1 0 fun k =>
  k.setQueue 1 [{ word := { w0 := 0x180 }, bset := 1, issueNo := 7, taken := true }]

/-- The hypotheses of ReductionsAccumulateAndFinish are met: the sum of a broadcast set of one core for slot 3. -/
theorem witness_ReductionsAccumulateAndFinish_return :
    (combining.combined (combining.ctxOn 0) 0 3).any (fun p => p.1 == 7 && p.2.2 == [0] && !(laMismatch (combineSum (combining.ctxOn 0) p.2.1))) = true := by decide +kernel

/-- Function 0 with its ring 0 of slot 0 (the module) enabled in host memory, one record waiting. -/
def ringed : State := idle1.funcM 0 fun e => { e with
  jrBase := [(0, 0x400000)], jrTailAddr := [(0, 0x401000)], jrEnable := [0], jrTail := [(0, 1)], crBase := [(0, 0x402000)]
  crCfg := [(0, 1 <<< 63)], crTail := [(0, 2)], irqCount := [(0, 1)] }

/-- The hypotheses of RingsAreSetUp are met: ring 0 before and after it is enabled, tails up to N and one beyond, completion ring 0, a tail line outside the host windows. -/
theorem witness_RingsAreSetUp :
    (bit (1 <<< 63 : BitVec 64) 63 = true ∧ bit (1 <<< 63 : BitVec 64) 62 = false ∧ bits (1 <<< 63 : BitVec 64) 47 44 < 11 ∧ bit (1 <<< 63 : BitVec 64) 61 = false) ∧
    ringed.unitValid (ringed.slotUnit 0) = true ∧
    (idle1.funcE 0).jrEnable.contains (ringKey 0 0) = false ∧
    ringed.inHostWin 0 (bits (tabGet (ringed.funcE 0).jrTailAddr 0 0) 63 6 * 64) 64 = true ∧
    ringed.atsFails 0 (bits (tabGet (ringed.funcE 0).jrTailAddr 0 0) 63 6 * 64) 64 = false ∧ ringed.mem.atsRefused = [] ∧
    ({ ringed with mem := { ringed.mem with atsRefused := [(0, 0x401)] } } : State).atsFails 0 0x401000 64 = true ∧
    (bit ((idle1.funcE 0).crc 0) 63 = false ∧ idle1.jobs = [] ∧ (idle1.funcE 0).cancelling = false) ∧
    ((2 : BitVec 32) - tabGet (ringed.funcE 0).crHead 0 0).toNat ≤ (tabGet (ringed.funcE 0).crTail 0 0 - tabGet (ringed.funcE 0).crHead 0 0).toNat ∧
    (tabGet (ringed.funcE 0).crTail 0 0 - tabGet (ringed.funcE 0).crHead 0 0).toNat < ((3 : BitVec 32) - tabGet (ringed.funcE 0).crHead 0 0).toNat ∧
    tabGet (ringed.funcE 0).irqCount 0 0 ≠ 0 ∧
    bits (((ringed.funcM 0 fun e => { e with crCfg := [(0, 1 <<< 63 ||| 1 <<< 32)] }).funcE 0).crc 0) 47 32 ≠ 0 ∧
    (ringed.funcE 0).jrEnable.contains 0 = true ∧
    ((64 : BitVec 32) - tabGet (ringed.funcE 0).jrHead 0 0).toNat ≤ ringN (tabGet (ringed.funcE 0).jrCfg 0 0) ∧
    ringN (tabGet (ringed.funcE 0).jrCfg 0 0) < ((65 : BitVec 32) - tabGet (ringed.funcE 0).jrHead 0 0).toNat ∧
    ringed.sch.hostLink = true ∧
    ((List.range 32).all fun g => g == 0 || (ringed.funcE g).jrEnable == []) = true ∧
    (ringed.funcM 0 fun e => { e with jrTailAddr := [(0, 0x100000)] }).inHostWin 0 (bits (tabGet ((ringed.funcM 0 fun e => { e with jrTailAddr := [(0, 0x100000)] }).funcE 0).jrTailAddr 0 0) 63 6 * 64) 64 = false := by decide +kernel

/-- The share of context 1 on cluster 0 has ended with DONE. -/
def jobEnded : State :=
  { (seq1 fun q => { q with run := .idle, ended := some (0, 42, {}) }) with jobs := [{ job1 .running with shares := [0] }] }

/-- The hypotheses of JobsAreFetchedAndComplete are met: a record of context 1 at HEAD, of a context of function 1, and with a reserved field; a job whose share has ended, and one that never started. -/
theorem witness_JobsAreFetchedAndComplete :
    tabGet (ringed.funcE 0).jrHead 0 0 ≠ tabGet (ringed.funcE 0).jrTail 0 0 ∧
    ((ringed.funcE 0).disable = false ∧ (ringed.funcE 0).cancelling = false ∧ (ringed.funcE 0).busMaster = true) ∧
    (ringed.serving = true ∧ (ringed.jobs.filter fun j => j.master.isNone).length < 16384 ∧ ringed.sch.hostLink = true) ∧
    ringed.inHostWin 0 (bits (tabGet (ringed.funcE 0).jrBase 0 0) 63 6 * 64 + 64 * ((tabGet (ringed.funcE 0).jrHead 0 0).toNat % ringN 0)) 64 = true ∧
    ringed.atsFails 0 (bits (tabGet (ringed.funcE 0).jrBase 0 0) 63 6 * 64 + 64 * ((tabGet (ringed.funcE 0).jrHead 0 0).toNat % ringN 0)) 64 = false ∧
    (bits (0x10001 : BitVec 64) 15 12 = 0 ∧ bits (0x10001 : BitVec 64) 31 26 = 0 ∧ bits (0x10001 : BitVec 64) 11 0 = 1 ∧ bits (0x10001 : BitVec 64) 23 16 = 1) ∧
    bits (0x11001 : BitVec 64) 15 12 ≠ 0 ∧
    (ringed.owner 1 = some 0 ∧ (ringed.ctxE 1).state = .idle ∧ (uidFields (ringed.slotUnit 0)).level ≠ 4) ∧
    (ringed.ctxM 1 fun e => { e with func := 1 }).owner 1 = some 1 ∧
    jobEnded.jobs.find? (fun j => j.id == 1) = some { job1 .running with shares := [0] } ∧
    (({ job1 .running with shares := [0] } : Job).master = none ∧ ({ job1 .running with shares := [0] } : Job).spans = false) ∧
    jobEnded.sharesEnded { job1 .running with shares := [0] } = true ∧
    ({ job1 .ended with accepted := false } : Job).held = none ∧
    (ringed.crWrite 0 0 false [0, 0, 0, 0]).2 = true ∧
    ((ringed.crWrite 0 0 false [0, 0, 0, 0]).1.funcE 0).cancelling = false := by decide +kernel

/-- A queued job of context 1 on cluster 0 whose image lies in stack memory at virtual address 0x200000. -/
def starting : State :=
  { ((idle1.ctxM 1 fun e => { e with state := .queued, place := 1 }).runM 1 fun r =>
      { r with jobCores := 0xF, resident := true, poolLen := 65536 }).putBytes
      0x200000 (header 0) with jobs := [{ job1 .queued with image := 0x200000 }] }
/-- The state after its entry is read and its header checked, and the header. -/
def checked : State × Header :=
  match (starting.readCtxLines 1).1.checkImage { ctx := 1, core := none, cluster := 0, cls := 0 } 0x200000 with | (s, .ok h) => (s, h) | (s, _) => (s, {})

/-- The hypotheses of SharesStart are met: an image with no data and no replay entries; at a member, no job for the master's yet. -/
theorem witness_SharesStart :
    starting.jobs.find? (fun j => j.id == 1) = some { job1 .queued with image := 0x200000 } ∧
    (starting.jobCoresOf 0x80000 = [0, 1, 2, 3] ∧ clustersOf [0, 1, 2, 3] = [0]) ∧
    starting.jobs.find? (fun k => k.id == 1 && k.phase == .held && k.spans) = none ∧
    (starting.readCtxLines 1).2 = true ∧
    (starting.orderMet { job1 .queued with image := 0x200000 } = true ∧ starting.serving = true ∧ starting.schUp = true ∧ [0].all starting.cfcUp = true) ∧
    (match (starting.readCtxLines 1).1.checkImage { ctx := 1, core := none, cluster := 0, cls := 0 } 0x200000 with | (_, .ok _) => true | _ => false) = true ∧
    (∀ k ∈ ([0] : List Nat), checked.2.minCores ≤ (checked.1.clusCores k).length) ∧
    (starting.ctxE 1).early = false ∧
    (starting.ctxE 1).saveBase.toNat + saveSize checked.2.storeBytes checked.2.poolBytes 4 1 ≤ (checked.1.funcE 0).base + (checked.1.funcE 0).size ∧
    (storeNeed checked.2.storeBytes (starting.ctxE 1).checkf ≤ 8 * 2 ^ 20 ∧ poolNeed checked.2 ≤ 16 * 2 ^ 20) ∧
    ((checked.1.runE 1).storeBytes = checked.2.storeBytes ∧ (checked.1.runE 1).poolBytes = checked.2.poolBytes ∧
      (checked.1.runE 1).storeLen = storeNeed checked.2.storeBytes (starting.ctxE 1).checkf ∧ (checked.1.runE 1).poolLen = poolNeed checked.2) ∧
    checked.1.asleep (checked.1.ctxDomains 1) = false ∧
    ((checked.1.runE 1).resident = true ∧ (checked.1.runE 1).evicted = false ∧ checked.1.jobCoreList 1 = [0, 1, 2, 3] ∧ (checked.1.runE 1).fence = none) ∧
    (match (checked.1.vaRead { ctx := 1, core := none, cluster := 0, cls := 0 } (0x200000 + checked.2.dataOff) checked.2.dataSize).2 with | .ok _ => true | _ => false) = true ∧
    ({ idle1 with boot := { idle1.boot with image := { members := 3, index := 1 } } } : State).isMaster = false ∧
    (idle1.span.selfOut = false ∧ idle1.jobs = [] ∧ (idle1.ctxE 1).state = .idle) := by decide +kernel

/-- The hypotheses of FunctionsStop are met: function 0 in service and disabled, VF 1 the only enabled function, a job of no function, a snoop line asked back. -/
theorem witness_FunctionsStop :
    ((up.funcE 0).cancelling = false ∧ (up.funcE 0).disable = false ∧ (up.funcE 0).busMaster = true) ∧
    ((up.funcM 0 fun e => { e with disable := true, disabled := true }).funcE 0).disabled = true ∧
    (({ up with funcs := [(1, { enabled := true })] } : State).funcE 1).enabled = true ∧
    ((List.range 32).all fun g => g == 1 || !(({ up with funcs := [(1, { enabled := true })] } : State).funcE g).enabled) = true ∧
    (∀ j ∈ up.jobs, j.func = 0 → j.held = none) ∧
    up.sch.hostLink = true ∧
    ({ up with out := [.backInvalidate 5] } : State).out.contains (.backInvalidate 5) = true ∧
    (up.boot.configUp = true ∧ up.boot.request = .other ∧ State.reset.boot.configUp = false) := by decide +kernel

/-- Function 0 with the window of its decoder at 2^40. -/
def mapped : State := up.funcM 0 fun e => { e with hdmWin := some (2 ^ 40) }

/-- The hypotheses of HostAccessesReachTheirRange are met: a decoder's window, an address in it and one beyond the range, a decoder with none; the first and the last bytes of function 0's range, a byte beyond it, a protected page, a poisoned line and a domain being filled. -/
theorem witness_HostAccessesReachTheirRange :
    (mapped.sch.hostLink = true ∧ (mapped.funcE 0).hdmWin = some (2 ^ 40) ∧ (mapped.funcE 0).base + (2 ^ 40 - 2 ^ 40) = 0 ∧ (up.funcE 0).hdmWin = none) ∧
    mapped.hdmBar 0 ((mapped.funcE 0).base + (2 ^ 41 - 2 ^ 40)) 64 = some true ∧
    (up.hdmBar 0 0 64 = none ∧ up.hdmBar 0 (2 ^ 30 - 64) 64 = none) ∧
    ((linesOf (2 ^ 30 - 64) 64).all fun l => up.rangeOpen (64 * l) && !(up.retired (64 * l))) = true ∧
    (match up.stackRead (2 ^ 30 - 64) 64 (up.hdmReq 0) with | (_, .ok _) => true | _ => false) = true ∧
    (match ({ up with mem := { up.mem with poison := [0] } } : State).stackRead 0 64 (up.hdmReq 0) with | (_, .error _) => true | _ => false) = true ∧
    (∀ l ∈ linesOf 0 64, up.protector (l / 1024) = none) ∧
    ({ cowing with protect := [(32, 64)] } : State).protector (32 * 1024 / 1024) ≠ none ∧
    up.hdmBar 0 (2 ^ 30 - 63) 64 = some true ∧
    (({ up with doms := [(1, { state := 2 })] } : State).hdmBar 0 0 64 = some false ∧ (({ up with doms := [(1, { state := 2 })] } : State).domE 1).state = 2 ∧ (up.funcE 0).dom = some 1) := by decide +kernel

/-- The hypotheses of CompanionCoresFollowTheirFunction are met: hart 0 stopped and running for function 0, with COMP_BOOT in its range; an address outside its range, windows and view. -/
theorem witness_CompanionCoresFollowTheirFunction :
    (up.hartE 0).running = false ∧
    ((up.hartM 0 fun e => { e with func := some 0 }).hartE 0).func = some 0 ∧
    ((up.funcE 0).base ≤ up.sch.compBoot.toNat ∧ up.sch.compBoot.toNat < (up.funcE 0).base + (up.funcE 0).size) ∧
    ((up.dieE 0).inReset = false ∧ (up.funcE 0).disable = false) ∧
    ((up.hartM 0 fun e => { e with func := some 0, running := true }).hartE 0).running = true ∧
    ((up.funcE 0).base ≤ (0x40 : BitVec 64).toNat ∧ (0x40 : BitVec 64).toNat + 64 ≤ (up.funcE 0).base + (up.funcE 0).size ∧ up.hdmBar 0 0x40 64 = none) ∧
    ((linesOf 0x40 64).all fun l => up.rangeOpen (64 * l) && !(up.retired (64 * l)) && (up.protector (l / 1024)).isNone) = true ∧
    (match up.stackRead 0x40 64 { up.hdmReq 0 with unit := up.dieUid 0 } with | (_, .ok _) => true | _ => false) = true ∧
    (up.stackWrite 0x40 (List.replicate 64 7) { up.hdmReq 0 with unit := up.dieUid 0 }).2 = none ∧
    ((up.funcE 0).base + (up.funcE 0).size ≤ (0x03FFFFFFFFFF : BitVec 64).toNat ∧ up.inHostWin 0 (0x03FFFFFFFFFF : BitVec 64).toNat 1 = false ∧ (0x03FFFFFFFFFF : BitVec 64).toNat < 0x040000000000) := by decide +kernel

/-- The hypotheses of MemoryIsMaintained are met: the page 16383 of function 0's range in and out of the list, the list full, a page beyond the capacity; a PERSIST under way; lines with each error. -/
theorem witness_MemoryIsMaintained :
    (up.pf0OrMgmt (.func 0) = true ∧ up.pf0OrMgmt (.func 1) = false) ∧
    (bits (16383 : BitVec 64) 24 0 * 65536 < up.stackCap ∧ up.stackCap ≤ bits (0x1FFFFFF : BitVec 64) 24 0 * 65536) ∧
    (up.mem.cullet.contains 16383 = false ∧ up.mem.cullet.length < 4096) ∧
    (4096 ≤ (List.range 4096).length ∧ (List.range 4096).contains 16383 = false) ∧
    (up.mem.persistBusy = false ∧ up.pwr.emerg = false ∧ up.pwr.deferred.contains .persist = false) ∧
    (up.joinedLine 64 = true ∧ up.chanUp (up.lineAt 64) = true) ∧
    (bit up.part.stackMap 0 = true ∧ up.chanUp { stack := 0, chan := 127 } = true) ∧
    ((up.lineAt 0).stack = 0 ∧ (up.lineAt 0).chan = 0) ∧
    (up.mem.poison.contains 1 = false ∧ tabFind up.mem.flaws 1 = none ∧ up.keyFits 1 1 = true) ∧
    (up.chanM 0 0 fun c => c.served 2).lineLost 64 (up.lineAt 64) = false ∧
    (tabFind ([(1, Flaw.uncorrectable)] : List (Nat × Flaw)) 1 = some .uncorrectable ∧ tabFind ([(1, Flaw.tag)] : List (Nat × Flaw)) 1 = some .tag) ∧
    (({ up with mem := { up.mem with dom := [(1, 5)] } } : State).keyFits 1 1 = false ∧ tabFind ([(1, Flaw.correctable 3)] : List (Nat × Flaw)) 1 = some (.correctable 3)) ∧
    ([1] : List Nat).contains 1 = true := by decide +kernel

/-- The hypotheses of GovernorMovesOneCode are met: main power on; a domain asleep, and a channel group of a stack that no range maps. -/
theorem witness_GovernorMovesOneCode :
    (up.pwr.mainOn = true ∧ up.dieEarly 0 = false) ∧
    (up.pmcUp = true ∧ ({ up.pwr with off := [384] } : Pwr).off.contains 384 = true) ∧
    up.hasRole (mgmtOf 0) 1 = true ∧
    (up.groupMapped 19 = false ∧ bit up.part.stackMap 19 = true ∧ up.mem.groupOff.contains 79 = false) := by decide +kernel

/-- The hypotheses of PowerEventsTakeEffect are met: a current just above the limit, caps at both ends and just beyond, point codes of 23; an interval with and without duty cycling. -/
theorem witness_PowerEventsTakeEffect :
    (56000 < 56001 ∧ up.pwr.mainOn = true) ∧
    (isMgmt (.mgmt 0) = true ∧ up.hasRole (.mgmt 0) 1 = true) ∧
    (900 ≤ bits (900 : BitVec 64) 11 0 ∧ bits (2600 : BitVec 64) 11 0 ≤ 2600) ∧
    (bits (899 : BitVec 64) 11 0 < 900 ∧ 2600 < bits (2601 : BitVec 64) 11 0) ∧
    (bits (reg [(23, 8, 5), (23, 2, 5)]) 12 8 ≤ 23 ∧ bits (reg [(23, 8, 5), (23, 2, 5)]) 6 2 ≤ 23) ∧
    up.pmcUp = true ∧
    (up.pwr.duty 500 100 0).2 = false := by decide +kernel

/-- The hypotheses of LedgerReadersSeeTheirOwn are met: function 0 at the module's window, a hart of no function, session 0 with OBSERVE. -/
theorem witness_LedgerReadersSeeTheirOwn :
    up.unitValid up.modUid = true ∧
    (up.readerOf (.func 0) = some 0 ∧ up.readerOf (.hart 0) = none) ∧
    selKey 1 up.modUid ≠ selKey 0 up.modUid ∧
    up.sessionHas 0 0 = true := by decide +kernel

/-- Context 1 with one captured tile of core 0, for which its step advance waits. -/
def captured1 : State := (seq1 fun q => { q with run := .stepWait }).coreM 1 0 fun k => { k with shadows := [{ closed := true, passes := 2 }] }
/-- The digest of a key that module 0 sent. -/
def dig1 : Digest := { ctx := 1, step := 4, tag := 2, origin := 64, count := 8, first := 9, seen := [(0, 9)] }

/-- The hypotheses of CheckIntervalsCompareTiles are met: one captured tile; a digest whose key is new, agrees and disagrees. -/
theorem witness_CheckIntervalsCompareTiles :
    ((captured1.runE 1).running = true ∧ (captured1.runE 1).fault = none ∧ captured1.frozen = false) ∧
    (captured1.checkDue 1 = true ∧ captured1.mxeIdle 1 = true) ∧
    (captured1.captured 1).length = [((0 : BitVec 64), (0 : BitVec 64))].length ∧
    (captured1.jobClusters 1).all captured1.cfcUp = true ∧
    (ctx1.isMaster = true ∧ bit ctx1.span.withdrawn 0 = false) ∧
    ([] : List Digest).find? (fun d => d.isKey 1 4 2 64 8) = none ∧
    ([dig1].filter (fun d => !(d.ctx == 1 && d.step.toNat + 2 ≤ 4))).find? (fun d => d.isKey 1 4 2 64 8) = some dig1 ∧
    (dig1.first = 9 ∧ dig1.first ≠ 8 ∧ dig1.differ = false) ∧
    (ctx1.inSpan = false ∧ (ctx1.runE 1).fault = none) ∧
    (mostCommon [(1, (9 : BitVec 64)), (2, 9), (0, 8)] = some 9 ∧ ctx1.modIdx = 0) := by decide +kernel

/-- Module `up` with another health. -/
def upH (h : Health) : State := { up with health := h }

/-- The hypotheses of DrainsRunTheirCourse are met: modules in SERVICE, DRAINING, DRAINED and REPLACE. -/
theorem witness_DrainsRunTheirCourse :
    (isMgmt (.mgmt 0) = true ∧ up.hasRole (.mgmt 0) 1 = true ∧ isMgmt (.func 0) = false) ∧
    up.drainable = true ∧
    ((upH { state := 5 }).health.state = 5 ∧ up.health.state ≠ 5) ∧
    ((upH { state := 6, replace := true }).health.replace = true ∧ (upH { state := 6, replace := true }).health.state = 6) ∧
    ((upH { state := 3, replace := true }).health.replace = true ∧ (upH { state := 3, replace := true }).health.state ≠ 6) ∧
    ((upH { state := 4 }).health.state = 4 ∧ (upH { state := 4 }).jobs = []) ∧
    ((upH { state := 4 }).drainable = false ∧ (upH { state := 4 }).health.state ≠ 5 ∧ up.health.state ≠ 4) ∧
    ({ upH { state := 4 } with jobs := [job1 .running] } : State).jobs.any (fun j => j.held.isNone) = true ∧
    ((upH { replace := true, replaceNvm := false }).health.replaceNvm = false ∧ (upH { replace := true, replaceNvm := true }).health.replaceNvm = true ∧
      up.health.replace = false) := by decide +kernel

/-- Context 1 idle with a restore open. -/
def restoring (x : Restore) : State := idle1.runM 1 fun r => { r with restore := some x }
/-- The header of a manifest of one page of context 1 from virtual address 0x200000, with the digest 5. -/
def manifest : List (BitVec 8) :=
  let h := natBytes 4 0x4B434E47 ++ natBytes 2 1 ++ natBytes 2 1 ++ natBytes 8 3 ++ natBytes 4 4 ++ natBytes 4 1 ++ natBytes 8 0x200000 ++
    List.replicate 28 0
  h ++ natBytes 4 (crcOf 1 (h ++ natBytes 8 5)) ++ natBytes 8 5
/-- A LOAD from the function's range of that manifest at 0x210000, and one from 0x220000, where there is none. -/
def loading (a : Nat) : State :=
  ((restoring {}).putBytes 0x210000 manifest).funcM 0 fun e => { e with ckpBusy := true, ckpLoad := [ckpWord 2 1 1 0, BitVec.ofNat 64 a] }

/-- The hypotheses of RestoresOpenAndClose are met: context 1 idle, with a restore open, with its manifests in disagreement; loads of a good manifest's header, of no header and of unreadable memory. -/
theorem witness_RestoresOpenAndClose :
    (idle1.instOf (.func 0) = some (some 0) ∧ idle1.hasRole (.func 0) 1 = true ∧ (idle1.inst (some 0)).ckpBusy = false) ∧
    (idle1.owner 1 = some 0 ∧ (idle1.ctxE 1).state = .idle) ∧
    (((restoring {}).runE 1).restore = some {} ∧ ({} : Restore).failed = [] ∧ ({} : Restore).agree = true) ∧
    (((restoring {}).ctxE 1).roots.all fun r => covers ({} : Restore).regions r.1.toNat r.2.toNat) = true ∧
    (({ agree := false } : Restore).agree = false ∧ ({ agree := false } : Restore).failed = []) ∧
    (idle1.runE 1).restore = none ∧
    (idle1.ctxM 1 fun e => { e with func := 1 }).owner 1 ≠ some 0 ∧
    (((loading 0x210000).inst (some 0)).ckpLoad = [ckpWord 2 1 1 0, 0x210000] ∧ bits (ckpWord 2 1 1 0) 59 48 = 1 ∧ bits (ckpWord 2 1 1 0) 47 46 = 1) ∧
    ((loading (2 ^ 30)).ckpRead 0 1 1 0 (2 ^ 30) 64).2 = none ∧
    ((loading 0x220000).ckpRead 0 1 1 0 0x220000 64).2.any (fun h => imgAt h 0 4 != 0x4B434E47) = true ∧
    ((loading 0x210000).ckpRead 0 1 1 0 0x210000 64).2 = some (manifest.take 64) ∧
    (imgAt manifest 0 4 = 0x4B434E47 ∧ imgAt manifest 4 2 = 1 ∧ imgAt manifest 6 2 = 1 ∧ imgAt manifest 20 4 = 1) ∧
    ((loading 0x210000).ckpRead 0 1 1 0 (0x210000 + 64) 8).2 = some (manifest.drop 64) ∧
    (crcOf 1 (manifest.take 60 ++ manifest.drop 64) = imgAt manifest 60 4 ∧ 65536 ≤ 0x210000) := by decide +kernel

/-- The hypotheses of ProcessorsBeatAndRestart are met: a processor that serves, one that is down, one that is held; restarts in the last 60 s: one and two. -/
theorem witness_ProcessorsBeatAndRestart :
    ((up.procE 1).served = true ∧ (up.procE 1).state ≠ 2 ∧ (up.procE 1).state ≠ 1 ∧ (up.procE 1).state ≠ 3) ∧
    ((up.procM 1 fun e => { e with state := 2 }).procE 1).state = 2 ∧
    ((up.procM 1 fun e => { e with recent := [59999] }).procE 1).recent.length < 2 ∧
    (((up.procM 1 fun e => { e with recent := [1, 2] }).procE 1).recent.length = 2 ∧ (up.procE 1).fresh = none) ∧
    (((up.procM 1 fun e => { e with state := 1, served := false }).procE 1).served = false ∧ ((up.procM 1 fun e => { e with state := 1, served := false }).procE 1).state = 1) := by decide +kernel

/-- A VNRM.FLUSH that the VXE of core 0 has taken. -/
def taken1 : State := ctx1.coreM 1 0 fun k => k.setQueue 1 [{ word := { w0 := 0x1C1 }, bset := 1, taken := true }]
/-- A dump of core 0 that is being made, and a completed one. -/
def dumping : State :=
  { up with crust := { dumps := [{ index := 0, unit := 0, open_ := true, consec := 63, badWords := [8] }, { index := 1, unit := 0, words := 4 }] }
            rst := { active := [(0, 0)] } }

/-- The hypotheses of HungEnginesAreReset are met: an instruction that a VXE has taken; a dump of core 0 with 63 bad words in a row; a completed dump. -/
theorem witness_HungEnginesAreReset :
    (taken1.ctxOn 0 = 1 ∧ taken1.cfcUp 0 = true ∧ taken1.takes 1 0 = true) ∧
    (taken1.entryE 1 0 1 0).any (fun x => x.taken && x.result.isNone) = true ∧
    (∃ e ∈ dumping.crust.dumps, e.open_ = true ∧ e.index = 0 ∧ e.consec = 63 ∧ e.badWords.contains (9 - 1) = true) ∧
    (∀ f ∈ dumping.crust.dumps, f.open_ = true → f.index = 0 → f.unit = 0 ∧ f.consec = 63) ∧
    (dumping.dumpAt 0 0 0).isSome = true ∧
    (∀ p ∈ dumping.rst.active, takesIn [((0 : BitVec 4), (uidFields 0).coreN)] p.1.toNat p.2 = true → p = (0, (uidFields 0).coreN)) ∧
    (dumping.crust.dumps.find? (fun d => d.index == 1 && !d.open_ && !d.committed)).isSome = true := by decide +kernel

/-- The hypotheses of ResetsAreRequested are met: units of every level, the last channel group, link and function; RST_CTL busy; a reset of core 0 whose dump is made; a reset grant. -/
theorem witness_ResetsAreRequested :
    (isMgmt (.mgmt 0) = true ∧ up.hasRole (.mgmt 0) 1 = true ∧ up.rst.busy = false) ∧
    (up.unitValid 0 = true ∧ up.unitValid (up.clusUid 15) = true ∧ (uidFields (up.clusUid 15)).module = up.modIdx) ∧
    ((uidFields 0).level = 0 ∧ (uidFields (up.clusUid 0)).level = 1 ∧ (uidFields (up.dieUid 3)).level = 2 ∧ up.unitValid (up.dieUid 3) = true) ∧
    (takesIn up.rst.active 0 0 = false ∧ takesIn [((0 : BitVec 4), 0)] 0 0 = true) ∧
    (bit up.part.stackMap (79 / 4) = true ∧ takesIn up.rst.active 3 79 = false ∧ takesIn up.rst.active 4 15 = false ∧ takesIn up.rst.active 5 31 = false) ∧
    ({ up with rst := { busy := true } } : State).rst.busy = true ∧
    (({ up with rst := { active := [(0, 0)] } } : State).rst.active.contains ((0 : BitVec 4), 0) = true ∧ ({ up with rst := { active := [(0, 0)] } } : State).dumpOf 0 (up.coreUid 0) = none) ∧
    (bit (1 : BitVec 64) 0 = true ∧ up.mgmt.resetGrant = false ∧ ({ up with mgmt := { up.mgmt with resetGrant := true } } : State).mgmt.resetGrant = true) := by decide +kernel

/-- The hypotheses of PowerLossClears are met: main power on, off the latch path; a junction below and at the limit. -/
theorem witness_PowerLossClears :
    (up.pwr.mainOn = true ∧ up.panel.latchPath = false ∧ up.pwr.tripped = false) ∧
    (criticalTrip (.junction 0) 111 = false ∧ criticalTrip (.junction 0) 112 = true) ∧
    (criticalTrip (.stack 19) 99 = false ∧ criticalTrip (.stack 19) 100 = true) := by decide +kernel

/-- The hypotheses of SessionsOpenWithProof are met: a free session, an account of the list and one that is not, a barred source; an account with no role. -/
theorem witness_SessionsOpenWithProof :
    (up.panel.aux = true ∧ (up.procE 0).served = true) ∧
    (List.range 8).find? (fun i => !(up.mgmt.sessions.any fun e => e.id == i)) = some 1 ∧
    up.mgmt.barred.contains 7 = false ∧
    ((up.nvm.accounts.findIdx? fun a => a.name == "a") = some 0 ∧ (up.nvm.accounts.findIdx? fun a => a.name == "b") = none) ∧
    ({ up.mgmt with barred := [7] } : Mgmt).barred.contains 7 = true ∧
    (up.sessionOpen 0 = true ∧ ({ up with mgmt := { up.mgmt with sessions := [{ id := 0, account := "a", sent := 2 ^ 32 }] } } : State).sessionOpen 0 = false) ∧
    (∀ r < 6, ({ up with nvm := { up.nvm with accounts := [{ name := "a" }] } } : State).hasRole (mgmtOf 0) r = false) ∧
    (∃ e ∈ [({ id := 0, account := "a", sent := 2 ^ 32 } : Sess)], e.id = (0 : Fin 8).val ∧ 2 ^ 32 ≤ e.sent) := by decide +kernel

/-- The hypotheses of FunctionsAndDomainsAreAssigned are met: function 1 without a domain, a range at the end of the stacks, CHECKF at and beyond its limit; domains FREE, BOUND and RETIRING. -/
theorem witness_FunctionsAndDomainsAreAssigned :
    up.sessionHas 0 2 = true ∧
    (up.rangeFits 1 (2 ^ 30) (2 ^ 30) = true ∧ (5 : BitVec 3).toNat ≤ 5 ∧ 5 < (6 : BitVec 3).toNat) ∧
    ((up.funcE 1).dom = none ∧ up.ctxCount 1 = 0) ∧
    ((up.domE 255).state = 0 ∧ (up.domE 1).state ≠ 0) ∧
    (up.domFunc 1 = some 0 ∧ up.ctxCount 0 = 0 ∧ ctx1.ctxCount 0 ≠ 0) ∧
    ({ up with doms := [(1, { state := 2 })] } : State).domE 1 = { state := 2 } := by decide +kernel

/-- A module with images of component 0 in both banks: a staged one in the inactive bank. -/
def staged : State := { up with nvm := { up.nvm with imgA := [(0, { valid := true, svn := 3 })], imgB := [(0, { valid := true, svn := 4, staged := true })] } }

/-- The hypotheses of ImagesAreLoadedAndActivated are met: caps at both ends and beyond, an emergency, an image of too low an SVN, a staged and an unstaged component, SVNs above and at F. -/
theorem witness_ImagesAreLoadedAndActivated :
    (up.sessionHas 0 2 = true ∧ up.sessionHas 0 3 = true) ∧
    (cfgFits { cap := 900 } = true ∧ cfgFits { cap := 2601 } = false ∧ up.pwr.emerg = false) ∧
    ({ up.pwr with emerg := true } : Pwr).emerg = true ∧
    (up.mgmt.loading.any (· != (0 : Fin 8).val) = false ∧ ({ up.mgmt with loading := some 1 } : Mgmt).loading.any (· != (0 : Fin 8).val) = true) ∧
    (up.mgmt.fuseF.toNat ≤ (0 : BitVec 8).toNat) ∧
    (0 : BitVec 8).toNat < ({ up.mgmt with fuseF := 1 } : Mgmt).fuseF.toNat ∧
    ((staged.imgOf (!(staged.bankOf 0)) 0).staged = true ∧ 4 ≤ staged.boot.phase) ∧
    (staged.imgOf (!(staged.bankOf 1)) 1).staged = false ∧
    (staged.mgmt.fuseF.toNat < (staged.imgOf (staged.bankOf 0) 0).svn.toNat ∧ (staged.imgOf (staged.bankOf 0) 0).svn.toNat ≤ 64) ∧
    (staged.imgOf (staged.bankOf 1) 1).svn.toNat ≤ staged.mgmt.fuseF.toNat ∧
    ({ up.pwr with emerg := true } : Pwr).hotNow = false := by decide +kernel

/-- The hypotheses of OperatorsGrantAndReadDumps are met: a held processor, a module off after a trip, an image with and without NODEBUG, a dump that is there and one that is not. -/
theorem witness_OperatorsGrantAndReadDumps :
    (up.sessionHas 0 1 = true ∧ up.sessionHas 0 4 = true) ∧
    (((up.procM 1 fun e => { e with state := 2 }).procE 1).state = 2 ∧ (up.procE 1).state ≠ 2) ∧
    (({ up with pwr := { tripped := true } } : State).pwr.mainOn = false ∧ up.panel.latchPath = false ∧ up.panel.pres0 = true ∧ up.panel.pres1 = true ∧ up.panel.latch = true) ∧
    (up.pwr.tripped = false ∧ up.panel.latchDone = false) ∧
    (up.boot.image.nodebug = false ∧ ({ nodebug := true } : CfgImage).nodebug = true) ∧
    ((dumping.dumps.find? fun d => d.index == 1).isSome = true ∧ (dumping.dumps.find? fun d => d.index == 2) = none) := by decide +kernel

/-- The hypotheses of AccountsAndAttestation are met: lists with room, full, with one and with two accounts that have SECURITY, and empty; names of 1 and 32 bytes; SEC serving and activating. -/
theorem witness_AccountsAndAttestation :
    (up.sessionHas 0 5 = true ∧ up.sessionHas 0 0 = true) ∧
    ("a".utf8ByteSize ≤ 32 ∧ "abcdefghijklmnopqrstuvwxyz012345".utf8ByteSize ≤ 32) ∧
    (up.nvm.accounts.any (fun e => e.name == "b") = false ∧ up.nvm.accounts.length < 16) ∧
    16 ≤ (List.replicate 16 ({ name := "a", roles := 0x3F } : Account)).length ∧
    up.nvm.accounts.any (fun e => e.name == "a" && bit e.roles 5) = true ∧
    (∀ e ∈ up.nvm.accounts, e.name ≠ "a" → bit e.roles 5 = false) ∧
    (∃ e ∈ [({ name := "a", roles := 0x3F } : Account), { name := "b", roles := 0x20 }], e.name ≠ "a" ∧ bit e.roles 5 = true) ∧
    (State.reset.nvm.accounts = [] ∧ ({ up with nvm := {} } : State).panel.aux = true) ∧
    (up.sch.hostLink = true ∧ (up.procE 0).served = true) ∧
    (((up.procM 0 fun e => { e with served := false, state := 2 }).procE 0).state = 2 ∧ ((up.procM 0 fun e => { e with served := false, state := 1 }).procE 0).state ≠ 2) ∧
    (up.mgmt.spdmBusy = false ∧ ({ up.mgmt with spdmBusy := true } : Mgmt).spdmBusy = true) ∧
    (({ locked := true } : Ident).locked = true ∧ ({} : Ident).locked = false) ∧
    (up.boot.halted = false ∧ (up.pldmSensor 10).isSome = true) := by decide +kernel

/-- The hypotheses of LinksTrainAndCarry are met: link 1 of a span of two, TRAINING, UP and WITHDRAWN, its peer admitted or not. -/
theorem witness_LinksTrainAndCarry :
    spanned.linkPeer 1 = some 1 ∧
    (({ spanned with span := { spanned.span with links := [(1, { state := 1 })] } } : State).linkE 1 = { state := 1 } ∧ spanned.spanMask.testBit 1 = true) ∧
    (spanned.asleep [linkDomain 1] = false ∧ spanned.health.replace = false ∧ ({ replace := true } : Health).replace = true) ∧
    ((1 : BitVec 4).toNat = 1 ∧ spanned.boot.image.spanId = 0 ∧ spanned.boot.image.master = 0 ∧ spanned.boot.image.members = 3) ∧
    (2 : BitVec 4).toNat ≠ 1 ∧
    ({ state := 1 } : Link).keyed = false ∧
    ((spanned.linkE 1).state = 2 ∧ (spanned.linkE 1).seqNo = 0 ∧ (spanned.linkE 1).retried ≠ some (spanned.linkE 1).seqNo) ∧
    ({ state := 2, retried := some 0 } : Link).retried = some ({ state := 2, retried := some 0 } : Link).seqNo ∧
    bit ({ spanned.span with admitted := 1 } : Span).admitted 1 = false ∧
    ({ state := 3 } : Link).state = 3 := by decide +kernel

/-- Module 1 of a span of modules 0, 1 and 2, its links to both UP. -/
def member : State :=
  { spanned with
    boot := { spanned.boot with image := { valid := true, members := 7, index := 1 } }
    span := { admitted := 3, links := [(15, { state := 2, keyed := true }), (1, { state := 2, keyed := true })] } }

/-- The hypotheses of MembersComeAndGo are met: the master of a span of two whose link to module 1 is UP, before and after module 1 is admitted, withdrawn and expelled; a running span job. -/
theorem witness_MembersComeAndGo :
    (spanned.linkPeer 1 = some 1 ∧ (spanned.linkE 1).state = 2 ∧ (1 : Nat) ≠ spanned.modIdx) ∧
    bit ({ spanned.span with withdrawn := 2 } : Span).withdrawn 1 = true ∧
    (bit spanned.span.withdrawn 1 = false ∧ bit spanned.span.admitted 1 = true ∧ spanned.jobs = []) ∧
    (spanned.inSpan = true ∧ spanned.isMaster = true ∧ spanned.spanMask.testBit 1 = true ∧ spanned.schUp = true ∧ bit spanned.span.expelled 1 = false ∧ bit spanned.span.admitted spanned.modIdx = true) ∧
    bit ({ spanned.span with admitted := 1 } : Span).admitted 1 = false ∧
    ({ spanned with jobs := [{ job1 .running with unit := spanUid }] } : State).spanBusy = true ∧
    (isMgmt (.mgmt 0) = true ∧ spanned.hasRole (.mgmt 0) 1 = true ∧ (1 : Nat) ≠ spanned.masterIdx) ∧
    bit ({ spanned.span with expelled := 2 } : Span).expelled 1 = true ∧
    (spanned.linkTo 1 = 1 ∧ spanned.leads = true) ∧
    (member.leads = false ∧ member.isMaster = false ∧ member.inSpan = true ∧ member.linkPeer 15 = some 0 ∧ member.leader = 0 ∧ (member.linkE 15).state = 2 ∧
      member.modIdx = 1 ∧ member.linkPeer 1 = some 2 ∧ (member.linkE 1).state = 2) ∧
    (bit member.span.admitted 2 = false ∧ member.spanMask.testBit 2 = true) ∧
    ((spanJob .running).spans = true ∧ (0 : BitVec 8).toNat < 0x10 ∧ statusFaults (0x10 : BitVec 8).toNat = true ∧ (1 : Nat) ≠ spanned.modIdx) ∧
    (({ spanned with jobs := [spanJob .running] } : State).jobs.find? (fun j => j.master.isNone && j.id == 1) = some (spanJob .running) ∧
      (spanned.runE 1).fault = none) := by decide +kernel

/-- A module in a phase of bring-up. -/
def phase (n : Nat) (ended : List Nat) : State :=
  { State.reset with boot := { phase := n, ended := ended }, pwr := { mainOn := true }, panel := { pres0 := true, pres1 := true, latch := true, holdup := true } }
/-- A module whose first channel trains, and one whose stacks have all joined. -/
def trainingMod (joined : BitVec 20) : State :=
  { phase 3 [0, 1, 2] with boot := { phase := 3, ended := [0, 1, 2], joined := joined }, mem := { chan := [(0, { state := 1 })] } }

/-- The hypotheses of BringUpRunsItsPhases are met: a module before each phase, one with REPLACE, and one in phase 3 before and after its stacks have joined. -/
theorem witness_BringUpRunsItsPhases :
    (State.reset.boot.ended.contains 0 = false ∧ State.reset.boot.halted = false ∧ State.reset.pwr.mainOn = false) ∧
    ((phase 1 [0]).boot.ended.contains 0 = true ∧ (phase 1 [0]).inPhase 1 = true ∧ (phase 1 [0]).health.replace = false) ∧
    ((phase 2 [0, 1]).inPhase 2 = true ∧ (phase 2 [0, 1]).health.state.toNat ≤ 2) ∧
    ((phase 3 [0, 1, 2]).inPhase 3 = true ∧ (phase 3 [0, 1, 2]).mem.chan = []) ∧
    (trainingMod 0xFFFFF).stackList.all (fun st => bit (trainingMod 0xFFFFF).boot.joined st || bit (trainingMod 0xFFFFF).boot.failed st) = true ∧
    (trainingMod 0).stackList.all (fun st => bit (trainingMod 0).boot.joined st || bit (trainingMod 0).boot.failed st) = false ∧
    (0 < (phase 1 [0]).boot.phase ∧ (phase 1 [0]).boot.phase < 4 ∧ 4 ≤ up.boot.phase) ∧
    ((trainingMod 0).training 0 = true ∧ (trainingMod 0).training 19 = true ∧ (trainingMod 1).training 0 = false) := by decide +kernel

/-- The hypotheses of ThePanelActs are met: a latch closed on a drained module and on one in service, open, a latch path with its dump, presence made and not, touches of 99 and 100 ms. -/
theorem witness_ThePanelActs :
    (up.panel.latch = true ∧ up.panel.latchPath = false ∧ up.panel.aux = true) ∧
    ((upH { state := 5 }).pullable = true ∧ up.pullable = false) ∧
    ({ up with panel := { latchPath := true }, crust := { dumps := [{ domain := 6, unit := up.modUid, open_ := true }] } } : State).dumpOf 6 up.modUid ≠ none ∧
    (({ up.panel with latchPath := true } : Panel).latchPath = true ∧ ({ aux := false } : Panel).aux = false) ∧
    (up.pullable = false ∧ up.dumpOf 6 up.modUid = none ∧ (upH { state := 4 }).health.state = 4) ∧
    ({ pres0 := true, pres1 := true } : Panel).latch = false ∧
    (({ up with pwr := {} } : State).mayPower = true ∧ ({ up with pwr := {}, panel := { latch := true } } : State).mayPower = false) ∧
    (up.pwr.mainOn = true ∧ up.drainable = true ∧ up.panel.button = false ∧ ({ up.panel with button := true } : Panel).button = true) ∧
    (100 ≤ 100 ∧ 99 < 100) ∧
    (({ up.mgmt with clearPending := true } : Mgmt).clearPending = true ∧ up.mgmt.clearPending = false) := by decide +kernel

/- A term that WellFormed refuses, for each of its checks. -/

theorem test_wf_unit : (Instr.resetCore (.mgmt 0) 0x00000001).wf = false ∧ (Instr.resetCore (.mgmt 0) 0x39000000).wf = true := by decide
theorem test_wf_pc : (Instr.tissue 0 0x10001 0).wf = false ∧ (Instr.tissue 0 0x10002 0).wf = true := by decide
theorem test_wf_width : (Instr.regRead 0 0 3).wf = false ∧ (Instr.regRead 0 0 4).wf = true := by decide
theorem test_wf_offset : (Instr.registerWrite (.mgmt 0) 0 0x900000 8 0).wf = false ∧ (Instr.registerWrite (.mgmt 0) 0 0x400000 8 0).wf = true := by
  decide
theorem test_wf_account : (Instr.enrolment { name := "" }).wf = false ∧ (Instr.enrolment { name := "operator" }).wf = true := by decide +kernel
theorem test_wf_sequencer_access : (Instr.sequencerLoadStore 0 0x10000 4 (.load 0x20000 3 false 1)).wf = false ∧
    (Instr.sequencerLoadStore 0 0x10000 3 (.fetch 0x10000)).wf = false ∧
    (Instr.sequencerLoadStore 0 0x10000 4 (.load 0x20000 2 false 1)).wf = true := by decide
theorem test_wf_idle : (Instr.arrayRampDown 0 0 0).wf = false := by decide
theorem test_wf_slots : (Instr.dcowPageCopy 0 128).wf = false ∧ (Instr.instructionComplete 0 0 64).wf = false ∧
    (Instr.instructionComplete 0 2 127).wf = true ∧ (Instr.engineHang 0 0 64).wf = false := by decide
theorem test_wf_contexts : (Instr.contextSwitch 3 3).wf = false ∧ (Instr.contextResident 0 0 0).wf = false ∧
    (Instr.contextEvict 0).wf = false ∧ (Instr.cleanMove 1 0 0 0).wf = false := by decide
theorem test_wf_line : (Instr.jobFetch 0 0 0 (some [0]) true false).wf = false := by decide
theorem test_wf_bytes : (Instr.hdmRead 0 0 0 []).wf = false ∧ (Instr.hdmWrite 0 0 []).wf = false := by decide
theorem test_wf_class : (Instr.ledgerRecordArrival 0 5 0 0 0 0 0 0 0 0 0 none).wf = false := by decide
theorem test_wf_domain : (Instr.crustDump 8 0 0).wf = false ∧ (Instr.resetComplete 8 0).wf = false ∧
    (Instr.dumpWordTimeout 0 4 4).wf = false := by decide

/- The worked examples of the spec. -/

/-- Unit IDs and their windows (R12, Table 1-4, Table 1-11): U:3.2.1.0/0 and the target U:5.0.2.1/0. -/
theorem test_unit_ids : coreUidOf 3 36 = 0x39000000 ∧ windowBase 0x39000000 = 0x030007200000 ∧ coreUidOf 5 9 = 0x52400000 := by decide +kernel

/-- Core 36's store and LA SRAM (Table 1-11, R24). -/
theorem test_local_bases : storeBase 36 = 0x020012000000 ∧ laBase 36 = 0x020089000000 ∧ laBase 36 + 20931 * 80 + 40 = 0x020089198D18 := by
  decide +kernel

/-- Elements with their scales (R38, R39): Q8A 0x5B at 0x7A and Q4 0xD at 0x81 with sub-scale 2. -/
theorem test_element_values : (scaledVal 1 0x5B 0x7A 0).eqv (.fin false 22 (-5)) = true ∧ (scaledVal 4 0xD 0x81 2).eqv (.fin true 3 0) = true := by
  decide +kernel

/-- R45, R46: Q8A meets Q4 at Q8A's rate; a Q4 activation does not meet a Q8A weight. -/
theorem test_pairs : pairOk 1 4 = true ∧ pairOk 4 1 = false ∧ fmtRate 1 = 8 := by decide

/-- The band of the spec's example: three products and an exact zero. -/
def exampleBand : BandSum := bandSum 8 [.fin false 33 0, .fin true 5 (-3), .fin false 9 (-18), .fin false 0 0]

/-- The LA of the example: −1.5, then the band at scale sum 0. -/
def exampleLA : LA := laAddBand (laAddTerm (laClear 1) (.fin true 3 (-1))) { exampleBand with t := -35 } (-1) 97

/-- R58, R60: the band's position is 284 and its integer 0x0103_0012_0000 with the scales' sum −1. -/
theorem test_band_sum : exampleBand.t = -35 ∧ exampleBand.s = 0x010300120000 ∧ exampleBand.t - 1 + 320 = 284 := by decide +kernel

/-- R54, R60: −1.5 as limbs. -/
theorem test_la_minus_one_and_a_half : ((laResolve (laAddTerm (laClear 1) (.fin true 3 (-1)))).limb.map BitVec.toNat) =
    [0, 0, 0, 0, 0x8000000000000000, 0xFFFFFFFFFFFFFFFE, 0xFFFFFFFFFFFFFFFF, 0xFFFFFFFFFFFFFFFF, 0xFFFFFFFFFFFFFFFF, 0xFFFFFFFFFFFFFFFF] := by
  decide +kernel

/-- R63, R64, R65: the resolved sum, its limbs and the two residues, which agree. -/
theorem test_la_sum : ((laResolve exampleLA).limb.map BitVec.toNat) = [0, 0, 0, 0, 0xB001200000000000, 0xE, 0, 0, 0, 0] ∧
    laMismatch (laResolve exampleLA) = false := by decide +kernel

/-- R64: the contributions of the three products, of −1.5, and RES_ACC after the addition. -/
theorem test_residues : residueTerm false 132 (1 - 3 - 1) = 144 ∧ residueTerm true 80 (-2 - 5 - 1) = 175 ∧ residueTerm false 9 (-9 - 9 - 1) = 33 ∧
    residueTerm true 3 (-1) = 126 ∧ exampleLA.resAcc = 223 := by decide +kernel

/-- v = 14.6875 + 18 · 2^-20 of the two conversions worked through. -/
def exampleV : Res := .val (.fin false (14 * 2 ^ 20 + 11 * 2 ^ 16 + 18) (-20))

/-- R94, R99: SR of the example at scale byte 0x7F in Q8B, below and at the threshold of the grain; RNE gives 14. -/
theorem test_sr : (lehrRound 2 false 1 exampleV 0x7F 0 0xA7FF).code = 0x4B ∧ (lehrRound 2 false 1 exampleV 0x7F 0 0xA800).code = 0x4C ∧
    (lehrRound 2 false 0 exampleV 0x7F 0 0).code = 0x4B := by decide +kernel

/-- R105: the linear index of the example's element. -/
theorem test_linear_index : linearIdx { d0 := 1 <<< 52, d3 := reg [(1024, 32, 32)], d4 := 8 } [45, 3, 0, 0] = 3117 := by decide +kernel

/-- Table 5-7: the rounding of both steps in Q8A. -/
theorem test_ledger_rounding : (lehrRound 1 false 0 (.val (.fin false 59 (-2))) 0x7A 0 0).code = 0x7E ∧
    (lehrRound 1 false 0 (.val (.fin false 59 (-2))) 0x7A 0 0).flag = true ∧ (lehrRound 1 false 0 (.val (.fin true 3 (-3))) 0x7A 0 0).code = 0xD4 ∧
    (lehrRound 1 false 0 (.val (.fin false 59 (-2))) 0x7B 0 0).code = 0x77 ∧ (lehrRound 1 false 0 (.val (.fin true 3 (-3))) 0x7B 0 0).code = 0xCC := by
  decide +kernel

/-- A value of 14.5 at scale byte 0x7A ties to 448 without an overflow (R98). -/
theorem test_ledger_tie : (lehrRound 1 false 0 (.val (.fin false 29 (-1))) 0x7A 0 0).ovf = false := by decide +kernel

/-- Table 5-7: both commits, and the sixteenth run of R113. -/
theorem test_commits : commitEntry 0x7A 0x73 = (0x7B, 0x80) ∧ commitEntry 0x7B 0xB0 = (0x7B, 0x00) ∧ commitEntry 0x7B 0x1F = (0x7A, 0x00) := by
  decide

/-- Table 6-10: the check values of the three CRCs over "123456789". -/
theorem test_crcs : crcOf 0 [0x31, 0x32, 0x33, 0x34, 0x35, 0x36, 0x37, 0x38, 0x39] = 0x29B1 ∧
    crcOf 1 [0x31, 0x32, 0x33, 0x34, 0x35, 0x36, 0x37, 0x38, 0x39] = 0xE3069283 ∧
    crcOf 2 [0x31, 0x32, 0x33, 0x34, 0x35, 0x36, 0x37, 0x38, 0x39] = 0x995DC9BBDF1939FA := by decide +kernel

/-- Half-even of the scatter example: 2,049.25 becomes 2,050, the H16 code 0x6801. -/
theorem test_scatter_sum : (lehrRound 0 false 0 (.val (.fin false 8197 (-2))) 127 0 0).code = 0x6801 := by decide +kernel

/-- The fields of the MMUL word worked through in the tensor-instruction chapter. -/
theorem test_mmul_word :
    let t : TWord := { w0 := 0x6010, w2 := 0x10045, w4 := 0x4003, w5 := 0xEF001, w7 := 0x01000005 }
    t.patch = true ∧ t.sigv = true ∧ t.waitv = false ∧ t.engine = 0 ∧ t.opcode = 0x10 ∧ t.sinc = 1 ∧ t.sctr = 5 ∧ t.sscope = 1 ∧
      t.off 0 = 0x100 ∧ t.td 0 = 3 := by decide +kernel

/-- TD3 of Table 8-12. -/
def td3 : Desc :=
  { d0 := 0x8811000040000000, d1 := 0x40800000, d3 := 0x0000020000000312, d4 := 0x2000, d5 := 0x0000020000000000 }

/-- R186: offset 0x4100 of TD3 is element (256, 32); its vector of row 165 and that vector's scale entry. -/
theorem test_origin : originOf td3 0x4100 = [256, 32, 0, 0] ∧ elemAddr td3 [256, 165, 0, 0] = 0x40014B00 ∧
    entryAddr td3 (blockNo td3 [256, 165, 0, 0]) = 0x40800A58 := by decide +kernel

/-- R202: (v − T) modulo 2^16 below 2^15 satisfies a wait across the wrap. -/
theorem test_threshold_wraps : reached 0xFFFE 1 = false ∧ reached 0xFFFF 1 = false ∧ reached 0 1 = false ∧ reached 1 1 = true := by decide

/-- R245: the example address of the die-local layout lies in stack 10, channel 36, line 489. -/
theorem test_line_location :
    (State.reset.lineAt 0xB401234A40) = { stack := 10, chan := 36, line := 489 } := by
  decide +kernel

/-- R325: an inlet at 47 °C leaves 850 W. -/
theorem test_coolant : coolantLimit 47 25 500 false = 850 := by decide

/-- R232: of a block, the two of largest magnitude are kept, a tie to the lower index. -/
theorem test_harvest : (harvest { d0 := 0, d3 := reg [(4, 32, 32)] } 2
    [([0, 0, 0, 0], .fin false 1 0), ([1, 0, 0, 0], .fin true 3 0), ([2, 0, 0, 0], .fin false 3 0), ([3, 0, 0, 0], .fin true 3 0)]).map (·.1) =
    [[1, 0, 0, 0], [2, 0, 0, 0]] := by decide +kernel

/- The two statements about whole steps and sums. -/

theorem witness_StepRunsTheFrontCommand :
    ({ up with pending := [.identOn (.mgmt 0), .governorEval 100] } : State).pending = [.identOn (.mgmt 0), .governorEval 100] ∧
      State.reset.pending = [] := by decide +kernel

def sumXs : List Val := [.fin false 3 (-1), .fin true 5 (-20)]
def sumYs : List Val := [.fin true 5 (-20), .fin false 3 (-1)]

theorem witness_SumsDoNotDependOnOrder :
    List.Perm sumXs sumYs ∧
      ((sumXs ++ sumYs).map fun v => match v with | .fin _ m e => floorMag m (e + 320) | _ => 0).sum < 2 ^ 639 ∧
      (sumXs.all fun v => match v with | .fin _ _ e => -320 ≤ e | _ => true) = true :=
  ⟨List.Perm.swap _ _ _, by decide +kernel, by decide +kernel⟩

/- Single commands, each with a result that the spec's text gives. -/

/-- R9: a misaligned access is refused with an INFO-class record of code 0xC0. -/
theorem test_register_refused : after (.invalidRegisterAccess (.mgmt 0) 0 2 4 none) up
    (fun t => (codes t).contains (4, 0xC0)) = true := by decide +kernel

/-- R177: PMSET_A adds modulo 2^32. -/
theorem test_pmset_wraps : after (.pmsetA 0 0x10000 3 2)
    { ctx1 with seqs := [(16, { dataExt := 0x1000, bmask := 1, job := 0xF, run := .run, tilesDecl := 0xFF, pm := [(3, 0xFFFFFFFF)] })] }
    (fun t => (t.seqE 1 0).pm = [(3, 1)]) = true := by decide +kernel

/-- R423: identify goes on. -/
theorem test_identify : after (.identOn (.mgmt 0)) up (fun t => t.panel.identify) = true ∧
    after (.identToggle (.mgmt 0)) up (fun t => t.panel.identify) = true := by decide +kernel

/-- R382: the first session opened on a module with an account takes the lowest free ID. -/
theorem test_session : after (.fmpSessionOpen 1 "a" true) up (fun t => t.mgmt.sessions.length = 2) = true ∧
    after (.fmpSessionOpen 1 "a" false) up (fun t => t.mgmt.sessions.length = 1) = true := by decide +kernel

/-- R325: an inlet report of 47 °C. -/
theorem test_inlet_sets_the_limit : after (.temperatureReport .inlet 47) up (fun t => t.pwr.effective ≤ 2600) = true := by decide +kernel

/-- A latch that opens is seen at once. -/
theorem test_latch_opens : after .latchOpen up (fun t => !t.panel.latch) = true := by decide +kernel

/-- R374: a restart needs a missed heartbeat; the watchdog of a served processor restarts it. -/
theorem test_watchdog : after (.watchdogExpiry 2) { up with procs := [(2, { served := true })] } (fun t => !(t.procE 2).served) = true := by
  decide +kernel

/-- R23: stack memory of a GNX-20 ends at 20 x 72 GiB. -/
theorem test_stack_capacity : up.stackCap = 20 * 72 * 2 ^ 30 ∧ up.place (20 * 72 * 2 ^ 30) = .hole := by decide +kernel

end Sys2Proof.Tests
end

section
/-! SUPPORT. What a register access does, case by case: at a unit window, by the agent that makes it, and by the command that brings
it. -/

namespace Sys2Proof.Machine

/- An access to a unit window (R9, R13, R25). -/

/-- The state in which a window read finds the register: KD_STAT's fill is brought up to date first (R277). -/
def State.readFrom (s : State) (unit : BitVec 32) (off : Nat) : State :=
  if off / 8 * 8 = 0x260 ∧ (uidFields unit).level = 3 then s.kdProgress else s

/-- An access within a window that the agent sees: a BAR0 agent has a function, and the unit has its slot there (R13, R281). -/
def State.seesUnit (s : State) (w : Writer) (unit : BitVec 32) : Prop :=
  isBar w = true → s.writerFunc w ≠ none ∧ s.slotUnit (slotOf (uidFields unit)) = unit

theorem State.seesUnit_of_not_isBar {s : State} {w : Writer} {unit : BitVec 32} (h : isBar w = false) : s.seesUnit w unit :=
  fun h' => absurd h' (by simp [h])

section Window
variable {s absent refused : State} {w : Writer} {unit : BitVec 32} {off width : Nat} {v : Option (BitVec 64)}

theorem State.windowAccess_absent (hu : s.unitValid unit = false) :
    s.windowAccess w unit off width v absent refused = (absent, some ones) := by
  simp [State.windowAccess, hu]

theorem State.windowAccess_badAccess (hu : s.unitValid unit = true) (hg : goodAccess off width = false) :
    s.windowAccess w unit off width v absent refused = (refused, some ones) := by
  simp [State.windowAccess, hu, hg]

theorem State.windowAccess_read {r : BitVec 64} (hu : s.unitValid unit = true) (hg : goodAccess off width = true)
    (hf : s.farOf unit = none) (hr : (s.readFrom unit off).readReg w unit (off / 8 * 8) = .val r) :
    s.windowAccess w unit off width none absent refused = (s.readFrom unit off, some (readPart off width r)) := by
  unfold State.readFrom at hr ⊢
  simp [State.windowAccess, hu, hg, hf, hr]

theorem State.windowAccess_write {r x : BitVec 64} (hu : s.unitValid unit = true) (hg : goodAccess off width = true)
    (hf : s.farOf unit = none) (hr : s.readReg w unit (off / 8 * 8) = .val r) :
    s.windowAccess w unit off width (some x) absent refused =
      (s.writeReg w unit (off / 8 * 8) (regW off width x) refused, none) := by
  simp [State.windowAccess, hu, hg, hf, hr]

theorem State.windowAccess_forward {m : Nat} (hu : s.unitValid unit = true) (hg : goodAccess off width = true)
    (hf : s.farOf unit = some m) (ha : bit s.span.admitted m = true) :
    s.windowAccess w unit off width v absent refused =
      (({ s with span := { s.span with forwards := s.span.forwards ++ [(m, windowBase unit + off, w, v.isSome)] } } : State).emit
        (.spanC m 12 (BitVec.ofNat 64 (windowBase unit + off))), none) := by
  simp [State.windowAccess, hu, hg, hf, ha]

end Window

/- An access by an agent below 0x10000: through BAR0 or at the window's own address (R13, R22, R24). -/

section Access
variable {s : State} {w : Writer} {unit : BitVec 32} {off width : Nat} {v : Option (BitVec 64)}

theorem State.regAccess_notBar (hb : isBar w = false) (ho : off < 0x10000) :
    s.regAccess w unit off width v = s.windowAccess w unit off width v
      (s.uncAccess w unit (windowBase unit + off) (v.getD 0)) (s.infoAccess w unit off (v.getD 0)) := by
  simp [State.regAccess, hb, ho]

theorem State.regAccess_slot (hb : isBar w = true) (hw : s.writerFunc w ≠ none) (ho : off < 0x10000)
    (hs : s.slotUnit (slotOf (uidFields unit)) = unit) :
    s.regAccess w unit off width v = s.windowAccess w unit off width v
      (s.infoAccess w unit off (v.getD 0)) (s.infoAccess w unit off (v.getD 0)) := by
  obtain ⟨f, hf⟩ := Option.ne_none_iff_exists'.1 hw
  simp [State.regAccess, hb, hf, hs, Nat.not_le.2 ho]

theorem State.regAccess_noSlot (hb : isBar w = true) (hw : s.writerFunc w ≠ none) (ho : off < 0x10000)
    (hs : s.slotUnit (slotOf (uidFields unit)) ≠ unit) :
    s.regAccess w unit off width v = (s.infoAccess w unit off (v.getD 0), some ones) := by
  obtain ⟨f, hf⟩ := Option.ne_none_iff_exists'.1 hw
  simp [State.regAccess, hb, hf, hs, Nat.not_le.2 ho]

/-- Every agent that sees the unit reaches its window, where what R9 refuses leaves an access record; only what an absent unit leaves
differs between the agents. -/
theorem State.regAccess_eq_windowAccess (hw : s.seesUnit w unit) (ho : off < 0x10000) :
    ∃ absent, s.regAccess w unit off width v =
      s.windowAccess w unit off width v absent (s.infoAccess w unit off (v.getD 0)) := by
  cases hb : isBar w with
  | false => exact ⟨_, State.regAccess_notBar hb ho⟩
  | true =>
    obtain ⟨hfunc, hslot⟩ := hw hb
    exact ⟨_, State.regAccess_slot hb hfunc ho hslot⟩

theorem State.regAccess_absent (hb : isBar w = false) (ho : off < 0x10000) (hu : s.unitValid unit = false) :
    s.regAccess w unit off width v = (s.uncAccess w unit (windowBase unit + off) (v.getD 0), some ones) := by
  rw [State.regAccess_notBar hb ho, State.windowAccess_absent hu]

/-- What R9 and R13 refuse leaves an access record alone and reads all ones: a bad width or alignment, and through BAR0 also an absent
unit or one without a slot. -/
theorem State.regAccess_refused (ho : off < 0x10000) (hw : isBar w = true → s.writerFunc w ≠ none)
    (h : (isBar w = true ∧ (s.unitValid unit = false ∨ s.slotUnit (slotOf (uidFields unit)) ≠ unit ∨ goodAccess off width = false)) ∨
      (s.unitValid unit = true ∧ goodAccess off width = false)) :
    s.regAccess w unit off width v = (s.infoAccess w unit off (v.getD 0), some ones) := by
  cases hb : isBar w with
  | false =>
    obtain ⟨hu, hg⟩ : s.unitValid unit = true ∧ goodAccess off width = false := by simpa [hb] using h
    rw [State.regAccess_notBar hb ho, State.windowAccess_badAccess hu hg]
  | true =>
    by_cases hs : s.slotUnit (slotOf (uidFields unit)) = unit
    · rw [State.regAccess_slot hb (hw hb) ho hs]
      cases hu : s.unitValid unit with
      | false => exact State.windowAccess_absent hu
      | true => exact State.windowAccess_badAccess hu (by simpa [hb, hs, hu] using h)
    · exact State.regAccess_noSlot hb (hw hb) ho hs

theorem State.regAccess_read {r : BitVec 64} (hw : s.seesUnit w unit) (ho : off < 0x10000) (hu : s.unitValid unit = true)
    (hg : goodAccess off width = true) (hf : s.farOf unit = none)
    (hr : (s.readFrom unit off).readReg w unit (off / 8 * 8) = .val r) :
    s.regAccess w unit off width none = (s.readFrom unit off, some (readPart off width r)) := by
  obtain ⟨absent, h⟩ := State.regAccess_eq_windowAccess hw ho
  rw [h, State.windowAccess_read hu hg hf hr]

theorem State.regAccess_write {r x : BitVec 64} (hw : s.seesUnit w unit) (ho : off < 0x10000) (hu : s.unitValid unit = true)
    (hg : goodAccess off width = true) (hf : s.farOf unit = none) (hr : s.readReg w unit (off / 8 * 8) = .val r) :
    s.regAccess w unit off width (some x) =
      (s.writeReg w unit (off / 8 * 8) (regW off width x) (s.infoAccess w unit off x), none) := by
  obtain ⟨absent, h⟩ := State.regAccess_eq_windowAccess hw ho
  rw [h, State.windowAccess_write hu hg hf hr, Option.getD_some]

theorem State.regAccess_forward {m : Nat} (hw : s.seesUnit w unit) (ho : off < 0x10000) (hu : s.unitValid unit = true)
    (hg : goodAccess off width = true) (hf : s.farOf unit = some m) (ha : bit s.span.admitted m = true) :
    s.regAccess w unit off width v =
      (({ s with span := { s.span with forwards := s.span.forwards ++ [(m, windowBase unit + off, w, v.isSome)] } } : State).emit
        (.spanC m 12 (BitVec.ofNat 64 (windowBase unit + off))), none) := by
  obtain ⟨absent, h⟩ := State.regAccess_eq_windowAccess hw ho
  rw [h, State.windowAccess_forward hu hg hf ha]

/- The answer goes to the agent that made the access. -/

theorem State.regDo_read {t : State} {r : BitVec 64} (h : s.regAccess w unit off width none = (t, some r)) :
    s.regDo w unit off width none = t.emit (.readData r) := by
  simp [State.regDo, h]

theorem State.regDo_write {t : State} {r : Option (BitVec 64)} {x : BitVec 64}
    (h : s.regAccess w unit off width (some x) = (t, r)) : s.regDo w unit off width (some x) = t := by
  simp [State.regDo, h]

end Access

/- The commands of an agent other than the management port. -/

theorem State.hasRole_of_not_isMgmt {s : State} {w : Writer} {role : Nat} (h : isMgmt w = false) : s.hasRole w role = true := by
  cases w with
  | mgmt i => cases h
  | _ => rfl

section Commands
variable {s : State} {w : Writer} {unit : BitVec 32} {off : BitVec 24} {width : Nat} {x : BitVec 64}

theorem exec_invalidRegisterAccess_of_not_isMgmt {v : Option (BitVec 64)} (h : isMgmt w = false) :
    exec (.invalidRegisterAccess w unit off width v) s = .next (s.regDo w unit off.toNat width v) := by
  cases w with
  | mgmt i => cases h
  | _ => rfl

theorem exec_registerWrite_of_not_isMgmt (h : isMgmt w = false) :
    exec (.registerWrite w unit off width x) s = .next (s.regDo w unit off.toNat width (some x)) := by
  change execRegisterWrite w unit off width x s = _
  rw [execRegisterWrite, if_pos (State.hasRole_of_not_isMgmt h)]

/-- An access that reads as `y` and leaves the state `f` of its data does so as a command: the read's data is 0. -/
theorem exec_invalidRegisterAccess_both {f : BitVec 64 → State} {y : BitVec 64} (hm : isMgmt w = false)
    (h : ∀ v, s.regAccess w unit off.toNat width v = (f (v.getD 0), some y)) :
    exec (.invalidRegisterAccess w unit off width none) s = .next ((f 0).emit (.readData y)) ∧
      exec (.invalidRegisterAccess w unit off width (some x)) s = .next (f x) := by
  constructor
  · rw [exec_invalidRegisterAccess_of_not_isMgmt hm, State.regDo_read (h none), Option.getD_none]
  · rw [exec_invalidRegisterAccess_of_not_isMgmt hm, State.regDo_write (h (some x)), Option.getD_some]

end Commands

/- FMP register accesses (R386, R387). -/

section Fmp
variable {s t : State} {id : Fin 8} {role width off : Nat} {addr : BitVec 52} {unit : BitVec 32} {v : Option (BitVec 64)}

theorem State.fmpOp_of_sessionHas {run : State → State} (h : s.sessionHas id role = true) : s.fmpOp id role run = run s := by
  simp only [State.sessionHas, State.sessionOpen, Bool.and_eq_true, Bool.not_eq_true', mgmtOf] at h
  obtain ⟨⟨hopen, hsent⟩, hrole⟩ := h
  rw [State.fmpOp, hopen, hsent, hrole]
  rfl

theorem State.fmpReg_noWindow (h : s.sessionHas id role = true) (ha : windowOfAddr addr.toNat = none) :
    s.fmpReg id role addr width v = s.fmpAns id 2 := by
  rw [State.fmpReg, State.fmpOp_of_sessionHas h]
  simp [ha]

theorem State.fmpReg_debugDenied (h : s.sessionHas id role = true) (ha : windowOfAddr addr.toNat = some (unit, off))
    (ho : 0x8000 ≤ off) (hd : s.hasRole (mgmtOf id) 4 = false) : s.fmpReg id role addr width v = s.fmpAns id 1 := by
  rw [State.fmpReg, State.fmpOp_of_sessionHas h]
  unfold mgmtOf at hd
  simp [ha, ho, hd]

theorem State.fmpReg_read {r : BitVec 64} (h : s.sessionHas id role = true) (ha : windowOfAddr addr.toNat = some (unit, off))
    (ho : off < 0x8000) (hr : s.regAccess (mgmtOf id) unit off width none = (t, some r)) :
    s.fmpReg id role addr width none = (t.fmpAns id 0).emit (.fmpBody id.val [r]) := by
  rw [State.fmpReg, State.fmpOp_of_sessionHas h]
  unfold mgmtOf at hr
  simp [ha, Nat.not_le.2 ho, hr]

theorem State.fmpReg_write {r : Option (BitVec 64)} {x : BitVec 64} (h : s.sessionHas id role = true)
    (ha : windowOfAddr addr.toNat = some (unit, off)) (ho : off < 0x8000)
    (hr : s.regAccess (mgmtOf id) unit off width (some x) = (t, r)) :
    s.fmpReg id role addr width (some x) = t.fmpAns id 0 := by
  rw [State.fmpReg, State.fmpOp_of_sessionHas h]
  unfold mgmtOf at hr
  simp [ha, Nat.not_le.2 ho, hr]

theorem exec_regRead : exec (.regRead id addr width) s = .next (s.fmpReg id 0 addr width none) := rfl

theorem exec_regWrite {x : BitVec 64} : exec (.regWrite id addr width x) s = .next (s.fmpReg id 1 addr width (some x)) := rfl

end Fmp

/- Accesses and answers of another module (R14, R25, R308). -/

section Span
variable {s : State} {m : ModN} {addr : BitVec 52} {width off : Nat} {unit : BitVec 32} {v : Option (BitVec 64)}

theorem exec_forwardedAccess_here (ha : windowOfAddr addr.toNat = some (unit, off)) (hf : s.farOf unit = none)
    (hm : bit s.span.admitted m.val = true) :
    exec (.forwardedAccess m addr width v) s = .next (s.regDo (.peer m) unit off width v) := by
  change execForwardedAccess m addr width v s = _
  simp [execForwardedAccess, ha, hf, hm]

/-- The answer of module m to an access that waits for it takes that access out of those that wait. -/
theorem exec_forwardedAccess_answer {f : Nat × Nat × Writer × Bool} (ha : windowOfAddr addr.toNat = some (unit, off))
    (hf : s.farOf unit = some m.val)
    (hm : s.span.forwards.find? (fun f => f.1 == m.val && f.2.1 == addr.toNat && f.2.2.2 == v.isSome) = some f) :
    exec (.forwardedAccess m addr width v) s =
      .next (({ s with span := { s.span with forwards := s.span.forwards.erase f } } : State).forwardAnswer f.2.2.1 v.isSome) := by
  change execForwardedAccess m addr width v s = _
  simp [execForwardedAccess, ha, hf, hm]

end Span

end Sys2Proof.Machine
end

section
/-! PROOF. Register accesses by function, management port and peer take effect. -/

namespace Sys2Proof.Machine

/-- Settles O30: each command is a register access by its agent, and each access one of the cases of a unit window. -/
theorem registerAccessesTakeEffect : Obligations.RegisterAccessesTakeEffect := by
  unfold Obligations.RegisterAccessesTakeEffect
  refine ⟨fun w unit off width x s ho hm hw => ⟨fun hbad => ?refused, fun hb hu => ?absent, fun hu hg hf hs => ?agent⟩,
    fun id addr width x s hread hwrite => ⟨fun ha => ?noWindow, fun unit off ha =>
      ⟨fun hd hrole => ?debugDenied, fun hlo hu hg hf => ?fmp⟩⟩,
    fun m addr width x s unit off ha => ⟨fun ho hf hm hu hg => ?peer, fun f hf => ?answer, fun w o hm ho hu hg hs hf hadm => ?forward⟩⟩
  case refused => exact exec_invalidRegisterAccess_both hm fun v => State.regAccess_refused ho hw hbad
  case absent => exact exec_invalidRegisterAccess_both hm fun v => State.regAccess_absent hb ho hu
  case agent =>
    have sees : s.seesUnit w unit := fun hb => ⟨hw hb, hs hb⟩
    constructor
    · rintro t r rfl hr
      rw [exec_invalidRegisterAccess_of_not_isMgmt hm]
      exact congrArg _ (State.regDo_read (State.regAccess_read sees ho hu hg hf hr))
    · intro r hr
      rw [exec_registerWrite_of_not_isMgmt hm, State.regDo_write (State.regAccess_write sees ho hu hg hf hr)]
  case noWindow =>
    rw [exec_regRead, exec_regWrite, State.fmpReg_noWindow hread ha, State.fmpReg_noWindow hwrite ha]
    exact ⟨rfl, rfl⟩
  case debugDenied =>
    rw [exec_regRead, exec_regWrite, State.fmpReg_debugDenied hread ha hd hrole, State.fmpReg_debugDenied hwrite ha hd hrole]
    exact ⟨rfl, rfl⟩
  case fmp =>
    have sees : s.seesUnit (mgmtOf id) unit := State.seesUnit_of_not_isBar rfl
    have ho : off < 0x10000 := by omega
    constructor
    · rintro t r rfl hr
      rw [exec_regRead]
      exact congrArg _ (State.fmpReg_read hread ha hlo (State.regAccess_read sees ho hu hg hf hr))
    · intro r hr
      rw [exec_regWrite, State.fmpReg_write hwrite ha hlo (State.regAccess_write sees ho hu hg hf hr)]
  case peer =>
    have sees : s.seesUnit (.peer m) unit := State.seesUnit_of_not_isBar rfl
    constructor
    · rintro t r rfl hr
      rw [exec_forwardedAccess_here ha hf hm]
      exact congrArg _ (State.regDo_read (State.regAccess_read sees ho hu hg hf hr))
    · intro r hr
      rw [exec_forwardedAccess_here ha hf hm, State.regDo_write (State.regAccess_write sees ho hu hg hf hr)]
  case answer =>
    exact ⟨fun hfind => exec_forwardedAccess_answer ha hf hfind, fun hfind => exec_forwardedAccess_answer ha hf hfind⟩
  case forward =>
    rw [exec_registerWrite_of_not_isMgmt hm, State.regDo_write (State.regAccess_forward hs ho hu hg hf hadm)]
    rfl

end Sys2Proof.Machine
end

section
/-! SUPPORT. What every step keeps: the order of a ledger's records under the operations that change them, and the queue, the order of the
ledger and the canonical form of the memory as one relation between an earlier state and a later one. -/

namespace Sys2Proof.Machine

theorem Ledger.inOrder_sublist {l l' : Ledger} (h : l.inOrder) (hr : l'.recs.Sublist l.recs) (he : l.esn ≤ l'.esn) : l'.inOrder :=
  ⟨fun r hm => Nat.lt_of_lt_of_le (h.1 r (hr.subset hm)) he, h.2.sublist hr⟩

theorem Ledger.inOrder_map {l l' : Ledger} {f : Rec → Rec} (h : l.inOrder) (hf : ∀ r, (f r).esn = r.esn)
    (hr : l'.recs = l.recs.map f) (he : l'.esn = l.esn) : l'.inOrder := by
  obtain ⟨hlt, hpw⟩ := h
  refine ⟨?_, ?_⟩
  · rw [hr, he]
    intro r hm
    obtain ⟨q, hq, rfl⟩ := List.mem_map.1 hm
    exact (hf q).symm ▸ hlt q hq
  · rw [hr, List.pairwise_map]
    simpa only [hf] using hpw

theorem Ledger.inOrder_append {l l' : Ledger} {r : Rec} (h : l.inOrder) (hn : r.esn = l.esn)
    (hr : l'.recs = l.recs ++ [r]) (he : l'.esn = l.esn + 1) : l'.inOrder := by
  obtain ⟨hlt, hpw⟩ := h
  refine ⟨?_, ?_⟩
  · rw [hr, he]
    intro q hm
    rcases List.mem_append.1 hm with hq | hq
    · exact Nat.lt_succ_of_lt (hlt q hq)
    · rw [List.mem_singleton.1 hq, hn]
      exact Nat.lt_succ_self _
  · rw [hr]
    refine List.pairwise_append.2 ⟨hpw, List.pairwise_singleton _ _, fun a ha b hb => ?_⟩
    rw [List.mem_singleton.1 hb, hn]
    exact hlt a ha

theorem Ledger.inOrder_nil {l : Ledger} (h : l.recs = []) : l.inOrder := by simp [Ledger.inOrder, h]

theorem cellsFoldl_wf {α : Type} {f : List Host.Cell → α → List Host.Cell} (hf : ∀ cs c, Memory.wf cs = true → Memory.wf (f cs c) = true)
    (l : List α) : ∀ {cs : List Host.Cell}, Memory.wf cs = true → Memory.wf (l.foldl f cs) = true := by
  induction l with
  | nil => exact fun h => h
  | cons c r ih => exact fun h => ih (hf _ c h)

/-- The state s has the queue of s₀, and its ledger in order and its memory canonical where s₀ has. -/
structure Keeps (s₀ s : State) : Prop where
  queue : s.pending = s₀.pending
  order : s₀.led.inOrder → s.led.inOrder
  cells : Memory.wf s₀.mem.cells = true → Memory.wf s.mem.cells = true

/-- The same of the state that an outcome carries, where it carries one. -/
def OutKeeps (s₀ : State) : Out → Prop
  | .next t => Keeps s₀ t
  | _ => True

/-- The same of a state that need not be there. -/
def OptKeeps (s₀ : State) : Option State → Prop
  | some t => Keeps s₀ t
  | none => True

variable {s₀ s : State}

theorem Keeps.refl (s : State) : Keeps s s := ⟨rfl, id, id⟩

/-- A record update that leaves the queue, the ledger and the cells alone. -/
theorem Keeps.update {part ident boot health nvm mem ctxs runs seqs cores clus phys dies funcs doms kdStat jobs sigs tlb colls
    collHeld joins protect dig hcv ldgSel pwr procs mgmt crust rst span panel harts sch out free}
    (h : Keeps s₀ s) (hm : mem.cells = s.mem.cells) :
    Keeps s₀ ⟨s.pending, part, ident, boot, health, nvm, s.led, mem, ctxs, runs, seqs, cores, clus, phys, dies, funcs, doms, kdStat,
      jobs, sigs, tlb, colls, collHeld, joins, protect, dig, hcv, ldgSel, pwr, procs, mgmt, crust, rst, span, panel, harts, sch, out,
      free⟩ :=
  ⟨h.queue, h.order, hm ▸ h.cells⟩

theorem Keeps.withLed {l : Ledger} (h : Keeps s₀ s) (hl : s.led.inOrder → l.inOrder) : Keeps s₀ { s with led := l } :=
  ⟨h.queue, fun h0 => hl (h.order h0), h.cells⟩

theorem Keeps.withCells {mem : Mem} (h : Keeps s₀ s) (hm : Memory.wf s.mem.cells = true → Memory.wf mem.cells = true) :
    Keeps s₀ { s with mem := mem } :=
  ⟨h.queue, h.order, fun h0 => hm (h.cells h0)⟩

theorem Keeps.pair {α : Type} {a : α} (h : Keeps s₀ s) : Keeps s₀ (s, a).1 := h

theorem Keeps.ite {c : Prop} [Decidable c] {t : State} (hs : Keeps s₀ s) (ht : Keeps s₀ t) : Keeps s₀ (if c then s else t) := by
  split
  · exact hs
  · exact ht

theorem Keeps.iteStep {c : Prop} [Decidable c] {t : State} (h : Keeps s₀ s) (ht : Keeps s₀ s → Keeps s₀ t) :
    Keeps s₀ (if c then t else s) :=
  .ite (ht h) h

theorem Keeps.iteElse {c : Prop} [Decidable c] {t : State} (h : Keeps s₀ s) (ht : Keeps s₀ s → Keeps s₀ t) :
    Keeps s₀ (if c then s else t) :=
  .ite h (ht h)

theorem Keeps.ite_fst {α : Type} {c : Prop} [Decidable c] {p q : State × α} (hp : Keeps s₀ p.1) (hq : Keeps s₀ q.1) :
    Keeps s₀ (if c then p else q).1 := by
  split
  · exact hp
  · exact hq

theorem Keeps.foldl {β : Type} {f : State → β → State} (h : Keeps s₀ s) (hf : ∀ t b, Keeps s₀ t → Keeps s₀ (f t b)) (l : List β) :
    Keeps s₀ (l.foldl f s) := by
  induction l generalizing s with
  | nil => exact h
  | cons b r ih => exact ih (hf s b h)

theorem Keeps.foldl_fst {α β : Type} {f : State × α → β → State × α} {p : State × α} {l : List β} (h : Keeps s₀ p.1)
    (hf : ∀ p b, Keeps s₀ p.1 → Keeps s₀ (f p b).1) : Keeps s₀ (l.foldl f p).1 := by
  induction l generalizing p with
  | nil => exact h
  | cons b r ih => exact ih (hf p b h)

theorem OutKeeps.next (h : Keeps s₀ s) : OutKeeps s₀ (.next s) := h

theorem OptKeeps.some (h : Keeps s₀ s) : OptKeeps s₀ (some s) := h

theorem OptKeeps.none : OptKeeps s₀ none := trivial

theorem OptKeeps.ite {c : Prop} [Decidable c] {o p : Option State} (ho : OptKeeps s₀ o) (hp : OptKeeps s₀ p) :
    OptKeeps s₀ (if c then o else p) := by
  split
  · exact ho
  · exact hp

end Sys2Proof.Machine
end
section
/-! SUPPORT. What every step keeps: the shared operations of the state. -/

namespace Sys2Proof.Machine

variable {s₀ s : State}

theorem Keeps.ctxM (h : Keeps s₀ s) (c g) : Keeps s₀ (s.ctxM c g) := .update h rfl

theorem Keeps.runM (h : Keeps s₀ s) (c g) : Keeps s₀ (s.runM c g) := .update h rfl

theorem Keeps.clusM (h : Keeps s₀ s) (c g) : Keeps s₀ (s.clusM c g) := .update h rfl

theorem Keeps.physM (h : Keeps s₀ s) (c g) : Keeps s₀ (s.physM c g) := .update h rfl

theorem Keeps.dieM (h : Keeps s₀ s) (c g) : Keeps s₀ (s.dieM c g) := .update h rfl

theorem Keeps.funcM (h : Keeps s₀ s) (c g) : Keeps s₀ (s.funcM c g) := .update h rfl

theorem Keeps.domM (h : Keeps s₀ s) (c g) : Keeps s₀ (s.domM c g) := .update h rfl

theorem Keeps.procM (h : Keeps s₀ s) (c g) : Keeps s₀ (s.procM c g) := .update h rfl

theorem Keeps.hcvM (h : Keeps s₀ s) (c g) : Keeps s₀ (s.hcvM c g) := .update h rfl

theorem Keeps.hartM (h : Keeps s₀ s) (c g) : Keeps s₀ (s.hartM c g) := .update h rfl

theorem Keeps.seqM (h : Keeps s₀ s) (c cl g) : Keeps s₀ (s.seqM c cl g) := .update h rfl

theorem Keeps.coreM (h : Keeps s₀ s) (c n g) : Keeps s₀ (s.coreM c n g) := .update h rfl

theorem Keeps.chanM (h : Keeps s₀ s) (st ch g) : Keeps s₀ (s.chanM st ch g) := .update h rfl

theorem Keeps.linkM (h : Keeps s₀ s) (l g) : Keeps s₀ (s.linkM l g) := .update h rfl

theorem Keeps.emit (h : Keeps s₀ s) (e) : Keeps s₀ (s.emit e) := .update h rfl

theorem Keeps.noted (h : Keeps s₀ s) (s_) : Keeps s₀ (s.noted s_) :=
  .ite (.ite h (.ite (.emit h _) (.emit (.emit h _) _))) (.emit (.ite h (.ite (.emit h _) (.emit (.emit h _) _))) _)

theorem Keeps.freeBytes (h : Keeps s₀ s) (n) : Keeps s₀ (s.freeBytes n).1 := .update h rfl

theorem Keeps.freeWord64 (h : Keeps s₀ s) : Keeps s₀ (s.freeWord64).1 := .update h rfl


theorem Keeps.putBytes (h : Keeps s₀ s) (a bs) : Keeps s₀ (s.putBytes a bs) := .withCells h (cellsPut_wf bs _ a)

theorem Keeps.zeroBytes (h : Keeps s₀ s) (a n) : Keeps s₀ (s.zeroBytes a n) := .withCells h (cellsZero_wf _ a n)

theorem Keeps.atsCache (h : Keeps s₀ s) (f a n) : Keeps s₀ (s.atsCache f a n) := .update h rfl

theorem Keeps.hostRead (h : Keeps s₀ s) (f a n) : Keeps s₀ (s.hostRead f a n).1 := .atsCache (.update h rfl) _ _ _

theorem Keeps.hostWrite (h : Keeps s₀ s) (f a bs) : Keeps s₀ (s.hostWrite f a bs) := by
  unfold State.hostWrite
  dsimp only
  refine .emit (.atsCache ?_ _ _ _) _
  exact .update h rfl

theorem Keeps.msix (h : Keeps s₀ s) (f v) : Keeps s₀ (s.msix f v) := .ite h (.ite (.funcM h _ _) (.emit h _))

theorem Keeps.copyRec (h : Keeps s₀ s) (r stored f) : Keeps s₀ (s.copyRec r stored f) := by
  refine .ite h ?_
  split
  refine .ite (.ite (.msix (.funcM (.hostWrite h _ _ _) _ _) _ _) (.ite (.msix h _ _) h)) ?_
  have hc : Keeps s₀ { s with led := { s.led with copies := tabSet s.led.copies f (satAdd 0xFFFF (tabGet s.led.copies f 0) 1) } } :=
    Keeps.withLed h id
  exact .ite (.msix hc _ _) hc

theorem Keeps.fmpSent (h : Keeps s₀ s) (id) : Keeps s₀ (s.fmpSent id) := .update h rfl

theorem Keeps.fmpEvent (h : Keeps s₀ s) (id what) : Keeps s₀ (s.fmpEvent id what) := .fmpSent (.emit h _) _

theorem Keeps.fmpEventAll (h : Keeps s₀ s) (what) : Keeps s₀ (s.fmpEventAll what) := .foldl h (fun _ _ h => .fmpEvent h _ _) _

theorem Keeps.raiseRec (h : Keeps s₀ s) (r) : Keeps s₀ (s.raiseRec r) := by
  unfold State.raiseRec
  extract_lets r cls stored _ led₁ led₂ s₁ s₂
  have hled : s.led.inOrder → led₂.inOrder := by
    intro ho
    have ho₁ : led₁.inOrder := Ledger.inOrder_sublist ho (List.Sublist.refl _) (Nat.le_succ _)
    simp only [led₂]
    split
    · exact Ledger.inOrder_append ho rfl rfl rfl
    · clear_value cls
      split <;> exact ho₁
  have h₂ : Keeps s₀ s₂ := .foldl (Keeps.withLed h hled) (fun _ _ h => .copyRec h _ _ _) _
  split
  · exact .ite (.fmpSent (.emit h₂ _) _) h₂
  · exact h₂

theorem Keeps.dropFor (h : Keeps s₀ s) (m) : Keeps s₀ (s.dropFor m) :=
  .ite (.linkM h _ _) (Keeps.withLed (.linkM h _ _) fun ho => Ledger.inOrder_map ho (fun r => by split <;> rfl) rfl rfl)

theorem Keeps.nvmCommit (h : Keeps s₀ s) : Keeps s₀ (s.nvmCommit) := .update h rfl

theorem Keeps.infoAccess (h : Keeps s₀ s) (w unit addr data) : Keeps s₀ (s.infoAccess w unit addr data) := .raiseRec h _

theorem Keeps.infoOther (h : Keeps s₀ s) (unit ctx addr data) : Keeps s₀ (s.infoOther unit ctx addr data) := .raiseRec h _

theorem Keeps.info (h : Keeps s₀ s) (unit code ctx d0 d1) : Keeps s₀ (s.info unit code ctx d0 d1) := .raiseRec h _

theorem Keeps.memRec (h : Keeps s₀ s) (code cls a rq pins) : Keeps s₀ (s.memRec code cls a rq pins) := .raiseRec h _

theorem Keeps.poisonLine (h : Keeps s₀ s) (line) : Keeps s₀ (s.poisonLine line) := .update h rfl

theorem Keeps.readLine (h : Keeps s₀ s) (a rq scrub) : Keeps s₀ (s.readLine a rq scrub).1 := by
  unfold State.readLine
  extract_lets line l s₁ s₂ n _ t
  have h₁ : Keeps s₀ s₁ := .chanM h _ _ _
  have h₂ : Keeps s₀ s₂ := .chanM (.poisonLine h₁ _) _ _ _
  have ht : Keeps s₀ t := .update h₁ rfl
  clear_value s₁ s₂ t
  refine .ite_fst h (.ite_fst (.pair (.memRec h₁ _ _ _ _ _)) ?_)
  split
  · exact .pair (.memRec h₂ _ _ _ _ _)
  · extract_lets s₃ bad s₄
    have h₃ : Keeps s₀ s₃ := by
      simp only [s₃]
      split
      · exact .ite (.memRec (.chanM ht _ _ _) _ _ _ _ _) (.chanM ht _ _ _)
      · exact h₁
    clear_value s₃
    exact .ite_fst (.pair (.memRec (.chanM (.poisonLine h₃ _) _ _ _) _ _ _ _ _)) h₃

theorem Keeps.stackRead (h : Keeps s₀ s) (a n rq) : Keeps s₀ (s.stackRead a n rq).1 := by
  unfold State.stackRead
  dsimp only
  split
  · exact .pair (.foldl_fst h fun _ _ h => .readLine h _ _ _)
  · exact .pair (.foldl_fst h fun _ _ h => .readLine h _ _ _)

theorem Keeps.backInv (h : Keeps s₀ s) (line) : Keeps s₀ (s.backInv line) := by
  unfold State.backInv
  dsimp only
  refine .ite (.emit ?_ _) h
  exact .update h rfl

theorem Keeps.writeLine (h : Keeps s₀ s) (a bs rq) : Keeps s₀ (s.writeLine a bs rq).1 :=
  Keeps.ite_fst h (.ite_fst (.ite_fst h (.readLine h _ _ _)) (.update (.putBytes (.chanM (.ite_fst h
    (.readLine h _ _ _)) _ _ _) _ _) rfl))

theorem Keeps.stackWrite (h : Keeps s₀ s) (a bs rq dev) : Keeps s₀ (s.stackWrite a bs rq dev).1 := by
  unfold State.stackWrite
  dsimp only
  exact .foldl_fst h fun _ _ h => .writeLine (.iteStep h fun h => .backInv h _) _ _ _

theorem Keeps.writePoison (h : Keeps s₀ s) (a rq) : Keeps s₀ (s.writePoison a rq) := .update (.poisonLine (.backInv h _) _) rfl

theorem Keeps.setFault (h : Keeps s₀ s) (ctx o peer) : Keeps s₀ (s.setFault ctx o peer) := by
  unfold State.setFault
  dsimp only
  exact .runM h _ _

theorem Keeps.failRec (h : Keeps s₀ s) (unit ctx opcode status cause d) : Keeps s₀ (s.failRec unit ctx opcode status cause d) :=
  .raiseRec h _

end Sys2Proof.Machine
end

section
/-! SUPPORT. What every step keeps: translation and the accesses that go through it. -/

namespace Sys2Proof.Machine

variable {s₀ s : State}

theorem Keeps.readEntry (h : Keeps s₀ s) (g va level a) : Keeps s₀ (s.readEntry g va level a).1 := by
  unfold State.readEntry
  dsimp only
  split
  · exact .ite_fst (.hostRead h _ _ _) h
  · split
    · exact h
    · split
      · exact h
      · split
        · exact .stackRead h _ _ _
        · exact .stackRead h _ _ _

theorem Keeps.walkFrom (g va level) : ∀ {s : State} (t), Keeps s₀ s → Keeps s₀ (walkFrom g va level s t).1 := by
  induction level with
  | zero =>
    intro s t h
    unfold Machine.walkFrom
    dsimp only
    split
    · exact .readEntry h _ _ _ _
    · exact .ite_fst (.readEntry h _ _ _ _) (.ite_fst (.readEntry h _ _ _ _) (.readEntry h _ _ _ _))
  | succ level ih =>
    intro s t h
    unfold Machine.walkFrom
    extract_lets lv lo
    have hr : Keeps s₀ (s.readEntry g va lv (t + 8 * fld va (lo + 8) lo)).1 := .readEntry h _ _ _ _
    generalize s.readEntry g va lv (t + 8 * fld va (lo + 8) lo) = p at hr ⊢
    dsimp only
    split
    · exact hr
    · exact .ite_fst hr (.ite_fst (.ite_fst hr hr) (.ite_fst hr (ih _ hr)))

theorem Keeps.cacheLeaf (h : Keeps s₀ s) (g va w level) : Keeps s₀ (s.cacheLeaf g va w level) := by
  unfold State.cacheLeaf
  dsimp only
  split
  · exact h
  · exact .ite h (.update h rfl)

theorem Keeps.dropLeaves (h : Keeps s₀ s) (ctx) : Keeps s₀ (s.dropLeaves ctx) := .update h rfl

theorem Keeps.leafOf (h : Keeps s₀ s) (g va) : Keeps s₀ (s.leafOf g va).1 := by
  have fresh (u : State) (r : Except AccErr (BitVec 64 × Nat)) (h : Keeps s₀ u) :
      Keeps s₀ (match r with | .ok (w, level) => (u.cacheLeaf g va w level, r) | .error _ => (u, r)).1 := by
    split
    · exact .cacheLeaf h _ _ _ _
    · exact h
  have hw (t : Nat) : Keeps s₀ (Machine.walkFrom g va 3 s t).1 := .walkFrom _ _ _ _ h
  unfold State.leafOf
  dsimp only
  split
  · exact fresh _ _ (hw _)
  · exact .ite_fst (hw _) (.ite_fst (.freeWord64 (hw _)) (fresh _ _ (.freeWord64 (hw _))))

theorem Keeps.translate (h : Keeps s₀ s) (g va u n) : Keeps s₀ (s.translate g va u n).1 := by
  unfold State.translate
  dsimp only
  split
  · exact .leafOf h _ _
  · split
    · exact .leafOf h _ _
    · split
      · exact .leafOf h _ _
      · split
        · exact .leafOf h _ _
        · split
          · exact .leafOf h _ _
          · split
            · exact .leafOf h _ _
            · exact .leafOf h _ _

theorem Keeps.physRead (h : Keeps s₀ s) (a n rq) : Keeps s₀ (s.physRead a n rq).1 := by
  obtain ⟨f, hf⟩ : ∃ f, f = State.physRead := ⟨_, rfl⟩
  rw [← hf]
  delta State.physRead at hf
  have hq : f s a n rq = _ := congrFun (congrFun (congrFun (congrFun hf s) a) n) rq
  generalize f s a n rq = q, s.place a = p at hq
  subst hq
  cases p with
  | stack =>
    dsimp only
    split
    · exact .pair (.stackRead h _ _ _)
    · exact .pair (.stackRead h _ _ _)
  | _ => exact h

theorem Keeps.physWrite (h : Keeps s₀ s) (a bs rq) : Keeps s₀ (s.physWrite a bs rq).1 := by
  obtain ⟨f, hf⟩ : ∃ f, f = State.physWrite := ⟨_, rfl⟩
  rw [← hf]
  delta State.physWrite at hf
  have hq : f s a bs rq = _ := congrFun (congrFun (congrFun (congrFun hf s) a) bs) rq
  generalize f s a bs rq = q, s.place a = p at hq
  subst hq
  cases p with
  | stack => exact .pair (.stackWrite h _ _ _ _)
  | store => exact .pair (.putBytes h _ _)
  | pool => exact .pair (.putBytes h _ _)
  | _ => exact h

theorem Keeps.locRead (h : Keeps s₀ s) (g l n) : Keeps s₀ (s.locRead g l n).1 := by
  unfold State.locRead
  dsimp only
  split
  · exact .physRead h _ _ _
  · exact .hostRead h _ _ _
  · exact .ite_fst h (.freeBytes (.emit h _) _)
  · exact h

theorem Keeps.sendPeer (h : Keeps s₀ s) (g m va bs) : Keeps s₀ (s.sendPeer g m va bs) := .emit h _

theorem Keeps.outWrite (h : Keeps s₀ s) (g stale va bs) : Keeps s₀ (s.outWrite g stale va bs).1 := by
  unfold State.outWrite
  dsimp only
  split
  · exact .update h rfl
  · refine .foldl_fst h (fun _ _ h => ?_)
    split
    · exact h
    · split
      · exact .translate h _ _ _ _
      · exact .hostWrite (.translate h _ _ _ _) _ _ _
      · exact .ite_fst (.dropFor (.translate h _ _ _ _) _) (.sendPeer (.translate h _ _ _ _) _ _ _ _)
      · exact .translate h _ _ _ _

theorem Keeps.dcowM (h : Keeps s₀ s) (ctx core slot f) : Keeps s₀ (s.dcowM ctx core slot f) := .coreM h _ _ _

theorem Keeps.releaseHeld (h : Keeps s₀ s) (page) : Keeps s₀ (s.releaseHeld page) := by
  unfold State.releaseHeld
  dsimp only
  refine .foldl ?_ (fun t p h => .ite (.infoAccess h _ _ _ _) (.stackWrite h _ _ _ _)) _
  exact .update h rfl

theorem Keeps.dcowEnds (h : Keeps s₀ s) (ctx core slot o) : Keeps s₀ (s.dcowEnds ctx core slot o) := .coreM h _ _ _

theorem Keeps.dcowCopied (h : Keeps s₀ s) (ctx core slot i page bs) : Keeps s₀ (s.dcowCopied ctx core slot i page bs) :=
  .releaseHeld (.update (.coreM (.dcowM h _ _ _ _) _ _ _) rfl) _

theorem Keeps.dcowCopy (h : Keeps s₀ s) (ctx core slot i cls) : Keeps s₀ (s.dcowCopy ctx core slot i cls) := by
  unfold State.dcowCopy
  dsimp only
  split
  · split
    · exact h
    · split
      · exact .setFault (.dcowEnds (.dcowM (.failRec (.stackRead h _ _ _) _ _ _ _ _ _) _ _ _ _) _ _ _ _) _ _ _
      · split
        · exact .setFault (.dcowEnds (.dcowM (.failRec (.outWrite (.stackRead h _ _ _) _ _ _ _) _ _ _ _ _ _) _ _ _ _) _ _ _ _) _ _ _
        · split
          · exact .dcowCopied (.outWrite (.stackRead h _ _ _) _ _ _ _) _ _ _ _ _ _
          · split
            · exact .dcowCopied (.outWrite (.stackRead h _ _ _) _ _ _ _) _ _ _ _ _ _
            · split
              · exact .setFault (.dcowEnds (.dcowM (.failRec (.outWrite (.dcowCopied (.outWrite
                  (.stackRead h _ _ _) _ _ _ _) _ _ _ _ _ _) _ _ _ _) _ _ _ _ _ _) _ _ _ _) _ _ _ _) _ _ _
              · split
                · exact .setFault (.dcowEnds (.dcowM (.failRec (.outWrite (.outWrite (.dcowCopied (.outWrite
                    (.stackRead h _ _ _) _ _ _ _) _ _ _ _ _ _) _ _ _ _) _ _ _ _) _ _ _ _ _ _) _ _ _ _) _ _ _ _) _ _ _
                · exact .dcowEnds (.outWrite (.outWrite (.dcowCopied (.outWrite
                    (.stackRead h _ _ _) _ _ _ _) _ _ _ _ _ _) _ _ _ _) _ _ _ _) _ _ _ _
  · exact h

theorem Keeps.copyFirst (h : Keeps s₀ s) (page) : Keeps s₀ (s.copyFirst page) := by
  unfold State.copyFirst
  split
  · exact .dcowCopy h _ _ _ _ _
  · exact h

theorem Keeps.dcowRelease (h : Keeps s₀ s) (ctx core slot) : Keeps s₀ (s.dcowRelease ctx core slot) := by
  unfold State.dcowRelease
  dsimp only
  split
  · exact h
  · exact .coreM (.foldl h (fun _ _ h => .releaseHeld (.update h rfl) _) _) _ _ _

theorem Keeps.dropStale (h : Keeps s₀ s) (die) : Keeps s₀ (s.dropStale die) := by
  unfold State.dropStale
  dsimp only
  split
  · exact .dieM h _ _
  · exact .update h rfl

theorem Keeps.locWrite (h : Keeps s₀ s) (g l bs) : Keeps s₀ (s.locWrite g l bs).1 := by
  unfold State.locWrite
  split
  · exact .dropStale h _
  · split
    · exact .physWrite (.copyFirst h _) _ _ _
    · exact .hostWrite h _ _ _
    · exact .ite_fst (.dropFor h _) (.sendPeer h _ _ _ _)
    · exact h

theorem Keeps.vaRead (h : Keeps s₀ s) (g va n u) : Keeps s₀ (s.vaRead g va n u).1 := by
  unfold State.vaRead
  dsimp only
  refine .foldl_fst h (fun _ _ h => ?_)
  split
  · exact h
  · split
    · exact .translate h _ _ _ _
    · split
      · exact .locRead (.translate h _ _ _ _) _ _ _
      · exact .locRead (.translate h _ _ _ _) _ _ _

theorem Keeps.vaWrite (h : Keeps s₀ s) (g va bs) : Keeps s₀ (s.vaWrite g va bs).1 := by
  unfold State.vaWrite
  dsimp only
  refine .foldl_fst h (fun _ _ h => ?_)
  split
  · exact h
  · split
    · exact .translate h _ _ _ _
    · exact .locWrite (.translate h _ _ _ _) _ _ _

theorem Keeps.vaCheck (h : Keeps s₀ s) (g va n u own) : Keeps s₀ (s.vaCheck g va n u own).1 := by
  unfold State.vaCheck
  dsimp only
  refine .foldl_fst h (fun _ _ h => ?_)
  split
  · exact h
  · split
    · exact .translate h _ _ _ _
    · split
      · exact .translate h _ _ _ _
      · exact .translate h _ _ _ _

end Sys2Proof.Machine
end

section
/-! SUPPORT. What every step keeps: the operands of tensor instructions. -/

namespace Sys2Proof.Machine

variable {s₀ s : State}

theorem Keeps.fetchAt (h : Keeps s₀ s) (g as) : Keeps s₀ (s.fetchAt g as).1 := by
  unfold State.fetchAt
  dsimp only
  refine .foldl_fst h (fun _ _ h => ?_)
  split
  · exact h
  · split
    · exact .vaRead h _ _ _ _
    · exact .vaRead h _ _ _ _

theorem Keeps.writeMasked (h : Keeps s₀ s) (g l) : Keeps s₀ (s.writeMasked g l).1 := by
  have hf := fun as => Keeps.fetchAt h g as
  unfold State.writeMasked
  dsimp only
  split
  · exact .pair (hf _)
  · refine .foldl_fst (.pair (hf _)) fun p run h => ?_
    split
    · exact h
    · exact .vaWrite h _ _ _

theorem Keeps.takeScales (h : Keeps s₀ s) (g d xs) : Keeps s₀ (s.takeScales g d xs).1 := by
  unfold State.takeScales
  dsimp only
  split
  · exact .fetchAt h _ _
  · exact .fetchAt h _ _

theorem Keeps.convertTo (h : Keeps s₀ s) (g d c vals took) : Keeps s₀ (s.convertTo g d c vals took).1 := by
  unfold State.convertTo
  dsimp only
  split
  · exact .fetchAt h _ _
  · split
    · exact .writeMasked (.fetchAt h _ _) _ _
    · exact .writeMasked (.fetchAt h _ _) _ _

theorem Keeps.addFlagged (h : Keeps s₀ s) (ctx n) : Keeps s₀ (s.addFlagged ctx n) := .ctxM h _ _

end Sys2Proof.Machine
end

section
/-! SUPPORT. What every step keeps: how work fails and stops. -/

namespace Sys2Proof.Machine

variable {s₀ s : State}

theorem Keeps.entryM (h : Keeps s₀ s) (ctx core q slot f) : Keeps s₀ (s.entryM ctx core q slot f) := .coreM h _ _ _

theorem Keeps.setStateAll (h : Keeps s₀ s) (st) : Keeps s₀ (s.setStateAll st) := .noted (.update h rfl) _

theorem Keeps.stopSeqs (h : Keeps s₀ s) (ctx o) : Keeps s₀ (s.stopSeqs ctx o) := by
  unfold State.stopSeqs
  refine .foldl h (fun _ _ h => ?_) _
  split
  · exact h
  · split
    · exact h
    · exact h
    · exact .seqM h _ _ _

theorem Keeps.flushCore (h : Keeps s₀ s) (ctx core o) : Keeps s₀ (s.flushCore ctx core o).1 := by
  unfold State.flushCore
  dsimp only
  exact .coreM h _ _ _

theorem Keeps.dropIssue (h : Keeps s₀ s) (ctx) : Keeps s₀ (s.dropIssue ctx).1 := by
  refine .foldl_fst h fun p cl h => ?_
  split
  · exact h
  · exact .pair (.seqM h _ _ _)

theorem Keeps.dropColls (h : Keeps s₀ s) (ctx) : Keeps s₀ (s.dropColls ctx) := .update h rfl

theorem Keeps.cancelCtx (h : Keeps s₀ s) (ctx o) : Keeps s₀ (s.cancelCtx ctx o).1 := by
  unfold State.cancelCtx
  grind [Keeps.stopSeqs, Keeps.dropIssue, Keeps.flushCore, Keeps.dropColls, Keeps.foldl, Keeps.foldl_fst]

theorem Keeps.tellSpan (h : Keeps s₀ s) (f) : Keeps s₀ (s.tellSpan f) := .foldl h (fun _ _ h => .ite h (.emit h _)) _

theorem Keeps.tellStop (h : Keeps s₀ s) (ctx o origin) : Keeps s₀ (s.tellStop ctx o origin) := by
  unfold State.tellStop
  dsimp only
  split
  · exact h
  · exact .ite (.foldl (.update h rfl) (fun _ _ h => .ite h (.emit h _)) _) (.emit (.update h rfl) _)

theorem Keeps.cancelJobs (h : Keeps s₀ s) (sel o) : Keeps s₀ (s.cancelJobs sel o) := by
  unfold State.cancelJobs
  dsimp only
  refine .foldl h (fun _ _ h => ?_) _
  split
  · exact h
  · split
    · exact h
    · exact .ite h (.ite (.update (.tellStop (.cancelCtx h _ _) _ _ _) rfl) (.update (.tellStop (.cancelCtx h _ _) _ _ _) rfl))
    · exact .ite (.update h rfl) (.update h rfl)

theorem Keeps.setReplace (h : Keeps s₀ s) (ctx) : Keeps s₀ (s.setReplace ctx) :=
  .ite h (.raiseRec (.noted (.update (.freeWord64 h) rfl) _) _)

theorem Keeps.noticeAll (h : Keeps s₀ s) (cause) : Keeps s₀ (s.noticeAll cause) :=
  .ite h (.update (.foldl h (fun _ _ h => .ite h (.emit h _)) _) rfl)

theorem Keeps.startDrain (h : Keeps s₀ s) (cause esn ctx) : Keeps s₀ (s.startDrain cause esn ctx) :=
  .ite (.cancelJobs (.update (.setStateAll (.raiseRec h _) _) rfl) _ _) h

theorem Keeps.sdcEffect (h : Keeps s₀ s) (esn ctx) : Keeps s₀ (s.sdcEffect esn ctx) :=
  .ite (.setStateAll (.setReplace (.startDrain h _ _ _) _) _) (.setReplace (.startDrain h _ _ _) _)

theorem Keeps.takeRec (h : Keeps s₀ s) (r) : Keeps s₀ (s.takeRec r) :=
  .ite (.raiseRec h _) (.sdcEffect (.ite (.setFault (.raiseRec h _) _ _ _) (.raiseRec h _)) _ _)

theorem Keeps.sdcRec (h : Keeps s₀ s) (unit code ctx opcode d) : Keeps s₀ (s.sdcRec unit code ctx opcode d).1 :=
  .sdcEffect (.ite (.setFault (.raiseRec h _) _ _ _) (.raiseRec h _)) _ _

theorem Keeps.endEntry (h : Keeps s₀ s) (ctx core q slot o) : Keeps s₀ (s.endEntry ctx core q slot o) := .entryM h _ _ _ _ _

theorem Keeps.failEntry (h : Keeps s₀ s) (ctx core q e status cause d) : Keeps s₀ (s.failEntry ctx core q e status cause d) :=
  .ite (.endEntry h _ _ _ _ _) (.iteStep (.endEntry (.failRec h _ _ _ _ _ _) _ _ _ _ _) (fun h => .setFault h _ _ _))

theorem Keeps.sdcEntry (h : Keeps s₀ s) (ctx core q e d) : Keeps s₀ (s.sdcEntry ctx core q e d) :=
  .endEntry (.sdcRec h _ _ _ _ _) _ _ _ _ _

theorem Keeps.failAccess (h : Keeps s₀ s) (ctx core q e err write queue) : Keeps s₀ (s.failAccess ctx core q e err write queue) := by
  unfold State.failAccess
  dsimp only
  split
  · exact .failEntry h _ _ _ _ _ _ _
  · exact .failEntry h _ _ _ _ _ _ _

theorem Keeps.doneEntry (h : Keeps s₀ s) (ctx core q slot flagged) : Keeps s₀ (s.doneEntry ctx core q slot flagged) :=
  .endEntry h _ _ _ _ _

theorem Keeps.progress (h : Keeps s₀ s) (core e) : Keeps s₀ (s.progress core e) := .physM h _ _

end Sys2Proof.Machine
end

section
/-! SUPPORT. What every step keeps: the hub's digest table. -/

namespace Sys2Proof.Machine

variable {s₀ s : State}

theorem Keeps.digestArrive (h : Keeps s₀ s) (m ctx step tag origin count dg) : Keeps s₀
  (s.digestArrive m ctx step tag origin count dg) := by
  unfold State.digestArrive
  dsimp only
  split
  · exact .update h rfl
  · exact .ite (.foldl (.setFault (.update h rfl) _ _ _) (fun _ _ h => .ite h (.emit h _)) _) (.update h rfl)

theorem Keeps.digestEnd (h : Keeps s₀ s) (ctx step tag origin count) : Keeps s₀ (s.digestEnd ctx step tag origin count) := by
  unfold State.digestEnd
  dsimp only
  split
  · exact h
  · exact .ite h (.foldl (.update h rfl) (fun _ _ h => .ite (.sdcRec h _ _ _ _ _) (.emit h _)) _)

end Sys2Proof.Machine
end

section
/-! SUPPORT. What every step keeps: queue-take. -/

namespace Sys2Proof.Machine

variable {s₀ s : State}

theorem Keeps.row7 (h : Keeps s₀ s) (g rs u own) : Keeps s₀ (s.row7 g rs u own).1 := by
  unfold State.row7
  dsimp only
  split
  · refine .pair (.foldl_fst h fun p a h => ?_)
    exact .ite_fst h (.pair (.vaCheck h _ _ _ _ _))
  · refine .pair (.foldl_fst h fun p a h => ?_)
    exact .ite_fst h (.pair (.vaCheck h _ _ _ _ _))

theorem Keeps.row7All (h : Keeps s₀ s) (g l) : Keeps s₀ (s.row7All g l).1 := by
  unfold State.row7All
  exact .foldl_fst h fun _ _ h => .ite_fst (.row7 h _ _ _ _) h

theorem Keeps.applyCtr (h : Keeps s₀ s) (ctx core) : Keeps s₀ (s.applyCtr ctx core) := by
  unfold State.applyCtr
  dsimp only
  refine .ite h (.seqM ?_ _ _ _)
  exact .foldl_fst h fun _ _ h => .ite_fst h (.pair (.coreM h _ _ _))

theorem Keeps.headChecks (h : Keeps s₀ s) (ctx core q e o rest) (hrest : ∀ t ctx e o, Keeps s₀ t → Keeps s₀ (rest t ctx e o).1) :
    Keeps s₀ (s.headChecks ctx core q e o rest).1 := by
  unfold State.headChecks
  dsimp only
  refine .ite_fst h ?_
  have he : ∀ e', Keeps s₀ ((rest s ctx e' o).1.entryM ctx core q e'.slot fun _ => e') := fun e' => .entryM (hrest _ _ _ _ h) _ _ _ _ _
  split
  · exact he _
  · exact .pair (.coreM (he _) _ _ _)

theorem Keeps.takeHead (h : Keeps s₀ s) (core q sel rest run) (hrest : ∀ t ctx e o, Keeps s₀ t → Keeps s₀ (rest t ctx e o).1)
  (hrun : ∀ t ctx e o, Keeps s₀ t → Keeps s₀ (run t ctx e o)) : Keeps s₀ (s.takeHead core q sel rest run) := by
  unfold State.takeHead
  dsimp only
  split
  · exact .applyCtr h _ _
  · split
    · exact .applyCtr h _ _
    · split
      · exact .applyCtr h _ _
      · split
        · exact .failEntry (.applyCtr h _ _) _ _ _ _ _ _ _
        · split
          · exact .applyCtr h _ _
          · split
            · exact .failEntry (.headChecks (.applyCtr h _ _) _ _ _ _ _ _ hrest) _ _ _ _ _ _ _
            · exact .ite (.entryM (.headChecks (.applyCtr h _ _) _ _ _ _ _ _ hrest) _ _ _ _ _) (hrun _ _ _ _ (.progress (.entryM
                (.headChecks (.applyCtr h _ _) _ _ _ _ _ _ hrest) _ _ _ _ _) _ _))

end Sys2Proof.Machine
end

section
/-! SUPPORT. What every step keeps: norm slots. -/

namespace Sys2Proof.Machine

variable {s₀ s : State}

theorem Keeps.mergeNorm (h : Keeps s₀ s) (ctx core i p) : Keeps s₀ (s.mergeNorm ctx core i p).1 := by
  unfold State.mergeNorm
  dsimp only
  split
  · exact .setFault (.failRec (.vaRead h _ _ _ _) _ _ _ _ _ _) _ _ _
  · split
    · exact .sdcRec (.vaRead h _ _ _ _) _ _ _ _ _
    · split
      · exact .setFault (.failRec (.vaCheck (.vaRead h _ _ _ _) _ _ _ _ _) _ _ _ _ _ _) _ _ _
      · split
        · exact .setFault (.failRec (.vaWrite (.vaCheck (.vaRead h _ _ _ _) _ _ _ _ _) _ _ _) _ _ _ _ _ _) _ _ _
        · exact .vaWrite (.vaCheck (.vaRead h _ _ _ _) _ _ _ _ _) _ _ _

theorem Keeps.flushNorms (h : Keeps s₀ s) (ctx core) : Keeps s₀ (s.flushNorms ctx core).1 := by
  unfold State.flushNorms
  dsimp only
  exact .foldl_fst (.pair (.coreM h _ _ _)) fun _ _ h => .mergeNorm h _ _ _ _

theorem Keeps.normAdd (h : Keeps s₀ s) (ctx core i terms) : Keeps s₀ (s.normAdd ctx core i terms).1 := by
  unfold State.normAdd
  refine .ite_fst (.pair (.coreM h _ _ _)) (.pair (.coreM ?_ _ _ _))
  split
  · exact .ite_fst (.mergeNorm (.coreM h _ _ _) _ _ _ _) h
  · exact h

theorem Keeps.normWritten (h : Keeps s₀ s) (ctx core tag d w) : Keeps s₀ (s.normWritten ctx core tag d w).1 := by
  unfold State.normWritten
  split
  · exact .ite_fst h (.normAdd h _ _ _ _)
  · exact h

theorem Keeps.endAfterNorm {p : State × Option Outcm} (h : Keeps s₀ p.1) (ctx core q slot flagged) :
    Keeps s₀
  (endAfterNorm p ctx core q slot flagged) := by
  unfold Machine.endAfterNorm
  split
  · exact .endEntry h _ _ _ _ _
  · exact .doneEntry h _ _ _ _ _

end Sys2Proof.Machine
end

section
/-! SUPPORT. What every step keeps: the matrix engine. -/

namespace Sys2Proof.Machine

variable {s₀ s : State}

theorem Keeps.mxeRest (h : Keeps s₀ s) (core ctx e o) : Keeps s₀ (mxeRest s core ctx e o).1 := by
  unfold Machine.mxeRest
  dsimp only
  exact .ite_fst h (.row7 h _ _ _ _)

theorem Keeps.slotReject (h : Keeps s₀ s) (ctx core e f) : Keeps s₀ (s.slotReject ctx core e f) :=
  .failEntry (.physM h _ _) _ _ _ _ _ _ _

theorem Keeps.capture (h : Keeps s₀ s) (ctx core a u n put) : Keeps s₀ (s.capture ctx core a u n put) :=
  .ite h (.ite (.physM (.coreM h _ _ _) _ _) (.coreM h _ _ _))

theorem Keeps.openTile (h : Keeps s₀ s) (ctx core a u step) : Keeps s₀ (s.openTile ctx core a u step) :=
  .ite (.coreM (.coreM h _ _ _) _ _ _) (.coreM h _ _ _)

theorem Keeps.mxeStart (h : Keeps s₀ s) (ctx core e o l ready go) (hgo : ∀ t i, Keeps s₀ t → Keeps s₀ (go t i)) : Keeps s₀
  (s.mxeStart ctx core e o l ready go) := by
  unfold State.mxeStart
  dsimp only
  split
  · exact .doneEntry (.coreM h _ _ _) _ _ _ _ _
  · split
    · exact .slotReject h _ _ _ _
    · exact hgo _ _ (.coreM h _ _ _)

theorem Keeps.runLoad (h : Keeps s₀ s) (core ready ctx e o) : Keeps s₀ (runLoad core ready s ctx e o) := by
  unfold Machine.runLoad
  dsimp only
  refine .mxeStart h _ _ _ _ _ _ _ (fun _ _ h => ?_)
  split
  · exact .failAccess (.fetchAt h _ _) _ _ _ _ _ _ _
  · exact .doneEntry (.foldl (.fetchAt h _ _) (fun _ _ h => .coreM h _ _ _) _) _ _ _ _ _

theorem Keeps.runPass (h : Keeps s₀ s) (core ready ctx e o) : Keeps s₀ (runPass core ready s ctx e o) := by
  unfold Machine.runPass
  dsimp only
  refine .mxeStart h _ _ _ _ _ _ _ (fun _ _ h => ?_)
  split
  · exact .failAccess (.fetchAt h _ _) _ _ _ _ _ _ _
  · exact .doneEntry (.runM (.foldl (.fetchAt h _ _) (fun _ _ h => .physM (.capture (.coreM (.ite
      (.openTile h _ _ _ _ _) h) _ _ _) _ _ _ _ _ _) _ _) _) _ _) _ _ _ _ _

theorem Keeps.closeTile (h : Keeps s₀ s) (ctx core a u las bytes e scales) : Keeps s₀ (s.closeTile ctx core a u las bytes e scales) :=
  .ite h (.coreM (.capture h _ _ _ _ _ _) _ _ _)

theorem Keeps.runDrn (h : Keeps s₀ s) (core ready ctx e o) : Keeps s₀ (runDrn core ready s ctx e o) := by
  unfold Machine.runDrn
  dsimp only
  refine .mxeStart h _ _ _ _ _ _ _ (fun _ _ h => ?_)
  split
  · exact .failAccess (.convertTo (.coreM (.foldl h (fun _ _ h => .coreM h _ _ _) _) _ _ _) _ _ _ _ _) _ _ _ _ _ _ _
  · split
    · split
      · exact .sdcEntry (.normWritten (.addFlagged (.convertTo (.coreM (.foldl h (fun _ _ h =>
          .coreM h _ _ _) _) _ _ _) _ _ _ _ _) _ _) _ _ _ _ _) _ _ _ _ _
      · exact .normWritten (.addFlagged (.convertTo (.coreM (.foldl h (fun _ _ h => .coreM h _ _ _) _) _ _ _) _ _ _ _ _) _ _) _ _ _ _ _
    · exact .endAfterNorm (.foldl (.normWritten (.addFlagged (.convertTo (.coreM (.foldl h (fun _ _ h =>
        .coreM h _ _ _) _) _ _ _) _ _ _ _ _) _ _) _ _ _ _ _) (fun _ _ h => .closeTile h _ _ _ _ _ _ _ _) _) _ _ _ _ _

theorem Keeps.mxeTake (h : Keeps s₀ s) (c sel run) (hrun : ∀ t ctx e o, Keeps s₀ t → Keeps s₀ (run t ctx e o)) : OutKeeps s₀
  (mxeTake c sel run s) :=
  Keeps.takeHead h _ _ _ _ _ (fun _ _ _ _ h => .mxeRest h _ _ _ _) hrun

theorem Keeps.execLdw (h : Keeps s₀ s) (c t) : OutKeeps s₀ (execLdw c t s) :=
  Keeps.takeHead h _ _ _ _ _ (fun _ _ _ _ h => .mxeRest h _ _ _ _) (fun _ _ _ _ h => .runLoad h _ _ _ _ _)

theorem Keeps.execLdwt (h : Keeps s₀ s) (c t) : OutKeeps s₀ (execLdwt c t s) :=
  Keeps.takeHead h _ _ _ _ _ (fun _ _ _ _ h => .mxeRest h _ _ _ _) (fun _ _ _ _ h => .runLoad h _ _ _ _ _)

theorem Keeps.execMmul (h : Keeps s₀ s) (c t) : OutKeeps s₀ (execMmul c t s) :=
  Keeps.takeHead h _ _ _ _ _ (fun _ _ _ _ h => .mxeRest h _ _ _ _) (fun _ _ _ _ h => .runPass h _ _ _ _ _)

theorem Keeps.execMmula (h : Keeps s₀ s) (c t) : OutKeeps s₀ (execMmula c t s) :=
  Keeps.takeHead h _ _ _ _ _ (fun _ _ _ _ h => .mxeRest h _ _ _ _) (fun _ _ _ _ h => .runPass h _ _ _ _ _)

theorem Keeps.execDrn (h : Keeps s₀ s) (c t) : OutKeeps s₀ (execDrn c t s) :=
  Keeps.takeHead h _ _ _ _ _ (fun _ _ _ _ h => .mxeRest h _ _ _ _) (fun _ _ _ _ h => .runDrn h _ _ _ _ _)

theorem Keeps.execArrayRampDown (h : Keeps s₀ s) (c a idle) : OutKeeps s₀ (execArrayRampDown c a idle s) := Keeps.physM h _ _

end Sys2Proof.Machine
end

section
/-! SUPPORT. What every step keeps: sync counters. -/

namespace Sys2Proof.Machine

variable {s₀ s : State}

theorem Keeps.ctrPut (h : Keeps s₀ s) (ctx u i c) : Keeps s₀ (s.ctrPut ctx u i c) := .ite (.coreM h _ _ _) (.seqM h _ _ _)

theorem Keeps.wake (h : Keeps s₀ s) (ctx u i sat) : Keeps s₀ (s.wake ctx u i sat) :=
  .ite (.seqM (.coreM h _ _ _) _ _ _) (.seqM (.foldl h (fun _ _ h => .coreM h _ _ _) _) _ _ _)

theorem Keeps.increment (h : Keeps s₀ s) (ctx u i inc) : Keeps s₀ (s.increment ctx u i inc) := .wake (.ctrPut h _ _ _ _) _ _ _ _

theorem Keeps.countStale (h : Keeps s₀ s) (u) : Keeps s₀ (s.countStale u) := .ite (.physM h _ _) (.clusM h _ _)

theorem Keeps.arrive (h : Keeps s₀ s) (g) : Keeps s₀ (s.arrive g) := .ite (.countStale h _) (.ite (.increment h _ _ _ _) h)

theorem Keeps.execSignalArrival (h : Keeps s₀ s) (n) : OutKeeps s₀ (execSignalArrival n s) := by
  unfold Machine.execSignalArrival
  refine OutKeeps.next ?_
  split
  · exact h
  · exact .arrive (.update h rfl) _

theorem Keeps.sendSignal (h : Keeps s₀ s) (g fan) : Keeps s₀ (s.sendSignal g fan) :=
  .ite (.update h rfl) (.ite (.dropFor h _) (.ite h (.emit h _)))

theorem Keeps.fanout (h : Keeps s₀ s) (unit g) : Keeps s₀ (s.fanout unit g) :=
  .ite (.foldl h (fun _ _ h => .sendSignal h _ _) _) (.sendSignal h _ _)

theorem Keeps.signalOf (h : Keeps s₀ s) (ctx t epoch self) : Keeps s₀ (s.signalOf ctx t epoch self) := by
  unfold State.signalOf
  dsimp only
  split
  · exact .sendSignal h _ _
  · exact .foldl h (fun _ _ h => .sendSignal h _ _) _
  · exact .fanout h _ _

theorem Keeps.setCtr (h : Keeps s₀ s) (ctx unit i v writer origin) : Keeps s₀ (s.setCtr ctx unit i v writer origin) :=
  .wake (.raiseRec (.ctrPut h _ _ _ _) _) _ _ _ _

theorem Keeps.execSyncSignal (h : Keeps s₀ s) (w unit v) : OutKeeps s₀ (execSyncSignal w unit v s) :=
  Keeps.ite (.infoAccess h _ _ _ _) (.ite h (.sendSignal h _ _))

theorem Keeps.execDbgScset (h : Keeps s₀ s) (w unit v) : OutKeeps s₀ (execDbgScset w unit v s) :=
  Keeps.ite (.infoAccess h _ _ _ _) (.setCtr h _ _ _ _ _ _)

end Sys2Proof.Machine
end

section
/-! SUPPORT. What every step keeps: the sequencers. -/

namespace Sys2Proof.Machine

variable {s₀ s : State}

theorem Keeps.seqFail (h : Keeps s₀ s) (ctx cl o) : Keeps s₀ (s.seqFail ctx cl o) := .setFault (.seqM h _ _ _) _ _ _

theorem Keeps.seqExc (h : Keeps s₀ s) (ctx cl code tval pc words) : Keeps s₀ (s.seqExc ctx cl code tval pc words) :=
  .seqFail (.seqM (.failRec (.clusM h _ _) _ _ _ _ _ _) _ _ _) _ _ _

theorem Keeps.deliver (h : Keeps s₀ s) (ctx cl e) : Keeps s₀ (s.deliver ctx cl e) := .foldl h (fun _ _ h => .coreM h _ _ _) _

theorem Keeps.issue (h : Keeps s₀ s) (ctx cl t pc replay loc) : Keeps s₀ (s.issue ctx cl t pc replay loc) := by
  unfold State.issue
  dsimp only
  split
  · exact .seqExc h _ _ _ _ _ _
  · split
    · exact .seqExc h _ _ _ _ _ _
    · exact .ite (.setFault (.failRec (.seqM h _ _ _) _ _ _ _ _ _) _ _ _) (.ite (.seqM (.seqM h _ _ _) _ _ _) (.ite (.deliver
        (.seqM h _ _ _) _ _ _) (.seqM (.seqM h _ _ _) _ _ _)))

theorem Keeps.endShare (h : Keeps s₀ s) (ctx cl a0) : Keeps s₀ (s.endShare ctx cl a0) := by
  unfold State.endShare
  dsimp only
  refine .seqM ?_ _ _ _
  exact .foldl_fst h fun _ _ h => .flushNorms h _ _

theorem Keeps.act (h : Keeps s₀ s) (ctx cl a) : Keeps s₀ (s.act ctx cl a) := by
  unfold State.act
  dsimp only
  split
  · exact .ite (.seqExc h _ _ _ _ _ _) (.ite (.seqExc h _ _ _ _ _ _) (.issue (.seqM h _ _ _) _ _ _ _ _ _))
  · exact .ite (.seqExc h _ _ _ _ _ _) (.seqM h _ _ _)
  · exact .seqM h _ _ _
  · exact .ite (.seqExc h _ _ _ _ _ _) (.sendSignal (.seqM h _ _ _) _ _)
  · exact .seqM h _ _ _
  · exact .ite (.applyCtr (.seqM h _ _ _) _ _) (.seqM h _ _ _)
  · exact .seqM h _ _ _
  · exact .seqM h _ _ _
  · exact .ite (.seqM h _ _ _) (.seqM h _ _ _)

theorem Keeps.pumpOnce (h : Keeps s₀ s) (ctx cl) : OptKeeps s₀ (s.pumpOnce ctx cl) := by
  unfold State.pumpOnce
  dsimp only
  refine .ite .none ?_
  split
  · exact .ite (.some (.deliver (.seqM h _ _ _) _ _ _)) .none
  · generalize (s.seqE ctx cl).replayPos = rp
    obtain _ | ⟨i, _ | n⟩ := rp
    case some.succ => exact .some (.issue (.seqM h _ _ _) _ _ _ _ _ _)
    all_goals
      generalize (s.seqE ctx cl).run = r
      cases r with
      | waitReplay a => exact .some (.act (.seqM h _ _ _) _ _ _)
      | waitFence mask rd => exact .ite (.some (.seqM h _ _ _)) .none
      | ending a0 => exact .ite (.some (.endShare h _ _ _)) .none
      | stepWait => exact .ite .none (.some (.seqM h _ _ _))
      | _ => exact .none

theorem Keeps.pumpN (n ctx cl) : ∀ {s : State}, Keeps s₀ s → Keeps s₀ (State.pumpN n s ctx cl) := by
  induction n with
  | zero => exact fun h => h
  | succ n ih =>
    intro s h
    have ho := Keeps.pumpOnce h ctx cl
    unfold State.pumpN
    split
    · next hu => exact ih (hu ▸ ho :)
    · exact .seqM h _ _ _

theorem Keeps.pump (h : Keeps s₀ s) (ctx cl) : Keeps s₀ (s.pump ctx cl) := .pumpN _ _ _ h

theorem Keeps.issueClass (h : Keeps s₀ s) (cl pc a) : Keeps s₀ (s.issueClass cl pc a) := .ite h (.pump (.seqM h _ _ _) _ _)

theorem Keeps.execTissue (h : Keeps s₀ s) (cl pc rs1) : OutKeeps s₀ (execTissue cl pc rs1 s) := Keeps.issueClass h _ _ _

theorem Keeps.execTreplay (h : Keeps s₀ s) (cl pc rs1 rs2) : OutKeeps s₀ (execTreplay cl pc rs1 rs2 s) := Keeps.issueClass h _ _ _

theorem Keeps.execPmsetW (h : Keeps s₀ s) (cl pc pm rs1) : OutKeeps s₀ (execPmsetW cl pc pm rs1 s) := Keeps.issueClass h _ _ _

theorem Keeps.execPmsetA (h : Keeps s₀ s) (cl pc pm rs1) : OutKeeps s₀ (execPmsetA cl pc pm rs1 s) := Keeps.issueClass h _ _ _

theorem Keeps.execQcsig (h : Keeps s₀ s) (cl pc rs1 rs2) : OutKeeps s₀ (execQcsig cl pc rs1 rs2 s) := Keeps.issueClass h _ _ _

theorem Keeps.execTfence (h : Keeps s₀ s) (cl pc rd rs1) : OutKeeps s₀ (execTfence cl pc rd rs1 s) := Keeps.issueClass h _ _ _

theorem Keeps.execCounterWindowStore (h : Keeps s₀ s) (cl pc addr v) : OutKeeps s₀ (execCounterWindowStore cl pc addr v s) :=
  Keeps.ite h (.ite (.seqExc h _ _ _ _ _ _) (.issueClass h _ _ _))

theorem Keeps.execReplayBufferStore (h : Keeps s₀ s) (cl pc addr v) : OutKeeps s₀ (execReplayBufferStore cl pc addr v s) :=
  Keeps.ite h (.ite (.seqExc h _ _ _ _ _ _) (.ite (.seqExc h _ _ _ _ _ _) (.issueClass h _ _ _)))

theorem Keeps.execSqBmaskWrite (h : Keeps s₀ s) (cl pc v) : OutKeeps s₀ (execSqBmaskWrite cl pc v s) := Keeps.issueClass h _ _ _

theorem Keeps.execSqStepadv (h : Keeps s₀ s) (cl pc x_v) : OutKeeps s₀ (execSqStepadv cl pc x_v s) := Keeps.issueClass h _ _ _

theorem Keeps.takeScalar (h : Keeps s₀ s) (ctx cl) : Keeps s₀ (s.takeScalar ctx cl) := by
  unfold State.takeScalar
  dsimp only
  split
  · split
    · exact h
    · split
      · exact .seqFail (.seqM h _ _ _) _ _ _
      · exact .seqM (.seqM h _ _ _) _ _ _
  · exact h

theorem Keeps.seqTawait (h : Keeps s₀ s) (cl pc rd rs1) : Keeps s₀ (s.seqTawait cl pc rd rs1) :=
  .ite h (.takeScalar (.seqM h _ _ _) _ _)

theorem Keeps.execTawait (h : Keeps s₀ s) (cl pc rd rs1) : OutKeeps s₀ (execTawait cl pc rd rs1 s) := Keeps.seqTawait h _ _ _ _

theorem Keeps.enterTokens (h : Keeps s₀ s) (ctx cl) : Keeps s₀ (s.enterTokens ctx cl) :=
  .foldl h (fun _ _ h => .ite h (.takeScalar (.seqM h _ _ _) _ _)) _

theorem Keeps.endVred (h : Keeps s₀ s) (ctx no cores o) : Keeps s₀ (s.endVred ctx no cores o) :=
  .foldl h (fun _ _ h => .coreM h _ _ _) _

theorem Keeps.execScalarReturn (h : Keeps s₀ s) (cl slot) : OutKeeps s₀ (execScalarReturn cl slot s) := by
  unfold Machine.execScalarReturn
  refine OutKeeps.next ?_
  dsimp only
  split
  · exact h
  · split
    · exact h
    · exact .ite (.endVred (.sdcRec (.seqM h _ _ _) _ _ _ _ _) _ _ _ _) (.enterTokens (.takeScalar (.endVred (.seqM
        (.seqM h _ _ _) _ _ _) _ _ _ _) _ _) _ _)

theorem Keeps.seqQcwait (h : Keeps s₀ s) (cl pc rs1 rs2) : Keeps s₀ (s.seqQcwait cl pc rs1 rs2) := .ite h (.seqM h _ _ _)

theorem Keeps.execQcwait (h : Keeps s₀ s) (cl pc rs1 rs2) : OutKeeps s₀ (execQcwait cl pc rs1 rs2 s) := Keeps.seqQcwait h _ _ _ _

theorem Keeps.seqEcall (h : Keeps s₀ s) (cl pc a7 a0) : Keeps s₀ (s.seqEcall cl pc a7 a0) :=
  .ite h (.ite (.seqExc h _ _ _ _ _ _) (.pump (.seqM h _ _ _) _ _))

theorem Keeps.execEcall (h : Keeps s₀ s) (cl pc a7 a0) : OutKeeps s₀ (execEcall cl pc a7 a0 s) := Keeps.seqEcall h _ _ _ _

theorem Keeps.seqEbreak (h : Keeps s₀ s) (cl pc) : Keeps s₀ (s.seqEbreak cl pc) :=
  .ite h (.ite (.seqM h _ _ _) (.seqExc h _ _ _ _ _ _))

theorem Keeps.execEbreak (h : Keeps s₀ s) (cl pc) : OutKeeps s₀ (execEbreak cl pc s) := Keeps.seqEbreak h _ _

theorem Keeps.execSequencerStop (h : Keeps s₀ s) (ctx) : OutKeeps s₀ (execSequencerStop ctx s) := by
  unfold Machine.execSequencerStop
  refine OutKeeps.next ?_
  dsimp only
  split
  · exact h
  · exact .tellStop (.stopSeqs h _ _) _ _ _

theorem Keeps.scsetAll (h : Keeps s₀ s) (ctx cl e) : Keeps s₀ (s.scsetAll ctx cl e) := by
  unfold State.scsetAll
  dsimp only
  split
  · exact .ite (.setCtr h _ _ _ _ _ _) (.ite (.dropFor h _) (.emit h _))
  · exact .foldl h (fun _ _ h => .ite (.setCtr h _ _ _ _ _ _) (.ite (.dropFor h _) (.emit h _))) _
  · exact .ite (.foldl h (fun _ _ h => .ite (.setCtr h _ _ _ _ _ _) (.ite (.dropFor h _) (.emit h _))) _) (.ite (.setCtr h _ _ _ _ _ _)
      (.ite (.dropFor h _) (.emit h _)))

theorem Keeps.syncRun (h : Keeps s₀ s) (cl sel) : Keeps s₀ (s.syncRun cl sel) := by
  unfold State.syncRun
  refine .ite h ?_
  split
  · exact h
  dsimp only
  refine .ite h ?_
  split
  · exact .setFault (.seqM (.failRec h _ _ _ _ _ _) _ _ _) _ _ _
  · refine .ite (.seqM h _ _ _) (.pump ?_ _ _)
    have hq := fun c k g => Keeps.seqM h c k g
    split
    · exact .scsetAll (.seqM h _ _ _) _ _ _
    · exact .iteStep (.seqM h _ _ _) fun h => .signalOf h _ _ _ _

theorem Keeps.execSig (h : Keeps s₀ s) (cl) : OutKeeps s₀ (execSig cl s) := Keeps.syncRun h _ _

theorem Keeps.execWait (h : Keeps s₀ s) (cl) : OutKeeps s₀ (execWait cl s) := Keeps.syncRun h _ _

theorem Keeps.execScset (h : Keeps s₀ s) (cl) : OutKeeps s₀ (execScset cl s) := Keeps.syncRun h _ _

end Sys2Proof.Machine
end

section
/-! SUPPORT. What every step keeps: completion and faults of contexts. -/

namespace Sys2Proof.Machine

variable {s₀ s : State}

theorem Keeps.failToken (h : Keeps s₀ s) (ctx e o) : Keeps s₀ (s.failToken ctx e o) := by
  unfold State.failToken
  dsimp only
  split
  · exact .ite h (.enterTokens (.seqM h _ _ _) _ _)
  · exact h

theorem Keeps.execInstructionComplete (h : Keeps s₀ s) (c q slot) : OutKeeps s₀ (execInstructionComplete c q slot s) := by
  unfold Machine.execInstructionComplete
  refine OutKeeps.next ?_
  dsimp only
  split
  · exact h
  · split
    · exact h
    · split
      · exact h
      · refine .pump ?_ _ _
        split
        · exact .physM (.iteElse (.iteStep (.seqM (.coreM (.ite (.dcowRelease h _ _ _) h) _ _ _) _ _ _) (fun h => .signalOf h _ _ _ _))
            (fun h => .failToken h _ _ _)) _ _
        · exact .physM (.iteElse (.iteStep (.seqM (.coreM (.ite (.dcowRelease h _ _ _) h) _ _ _) _ _ _) (fun h => .signalOf h _ _ _ _))
            (fun h => .failToken h _ _ _)) _ _
        · exact .iteElse (.iteStep (.seqM (.coreM (.ite (.dcowRelease h _ _ _) h) _ _ _) _ _ _) (fun h => .signalOf h _ _ _ _))
            (fun h => .failToken h _ _ _)

theorem Keeps.faultCore (h : Keeps s₀ s) (c n o) : Keeps s₀ (s.faultCore c n o) :=
  .infoOther (.flushCore (.coreM h _ _ _) _ _ _) _ _ _ _

theorem Keeps.execContextFault (h : Keeps s₀ s) (ctx) : OutKeeps s₀ (execContextFault ctx s) := by
  unfold Machine.execContextFault
  refine OutKeeps.next ?_
  dsimp only
  split
  · exact h
  · exact .ite h (.runM (.dropColls (.foldl (.dropIssue h _) (fun _ _ h => .faultCore h _ _ _) _) _) _ _)

theorem Keeps.execWaitTimeout (h : Keeps s₀ s) (w) : OutKeeps s₀ (execWaitTimeout w s) := by
  unfold Machine.execWaitTimeout
  refine OutKeeps.next ?_
  dsimp only
  split
  · split
    · exact h
    · exact .ite h (.failEntry h _ _ _ _ _ _ _)
  · split
    · exact h
    · exact .ite h (.setFault (.seqM (.failRec h _ _ _ _ _ _) _ _ _) _ _ _)
  · split
    · exact h
    · split
      · exact .seqFail (.failRec h _ _ _ _ _ _) _ _ _
      · exact .seqFail (.failRec h _ _ _ _ _ _) _ _ _
      · exact h

end Sys2Proof.Machine
end

section
/-! SUPPORT. What every step keeps: residency and switches. -/

namespace Sys2Proof.Machine

variable {s₀ s : State}

theorem Keeps.copyRange (h : Keeps s₀ s) (src dst n) : Keeps s₀ (s.copyRange src dst n) :=
  .withCells h fun hw => cellsFoldl_wf (fun _ _ => cellPut_wf _ _ _) _ (cellsZero_wf _ dst n hw)

theorem Keeps.countLines (h : Keeps s₀ s) (a n cls) : Keeps s₀ (s.countLines a n cls) := .ite h (.update h rfl)

theorem Keeps.fillLines (h : Keeps s₀ s) (a n key) : Keeps s₀ (s.fillLines a n key) := by
  unfold State.fillLines
  dsimp only
  exact .update (.foldl h (fun _ _ h => .backInv h _) _) rfl

theorem Keeps.stackClaim (h : Keeps s₀ s) (a n dom) : Keeps s₀ (s.stackClaim a n dom) := .fillLines h _ _ _

theorem Keeps.scanLines (h : Keeps s₀ s) (a n rq) : Keeps s₀ (s.scanLines a n rq).1 := by
  unfold State.scanLines
  dsimp only
  exact .ite_fst (.countLines h _ _ _) (.foldl_fst h fun _ _ h => .readLine h _ _ _)

theorem Keeps.checkImage (h : Keeps s₀ s) (g va) : Keeps s₀ (s.checkImage g va).1 := by
  unfold State.checkImage
  dsimp only
  split
  · exact .vaRead h _ _ _ _
  · split
    · exact .vaRead h _ _ _ _
    · split
      · exact .vaRead h _ _ _ _
      · split
        · exact .vaRead (.vaRead h _ _ _ _) _ _ _ _
        · split
          · exact .vaRead (.vaRead h _ _ _ _) _ _ _ _
          · split
            · exact .vaRead (.vaRead h _ _ _ _) _ _ _ _
            · exact .vaRead (.vaRead h _ _ _ _) _ _ _ _

theorem Keeps.execSliceExpiry (h : Keeps s₀ s) (cl) : OutKeeps s₀ (execSliceExpiry cl s) :=
  Keeps.ite h (.foldl h (fun _ _ h => .ite (.runM h _ _) (.ite (.runM h _ _) h)) _)

theorem Keeps.switchOut (h : Keeps s₀ s) (ctx) : Keeps s₀ (s.switchOut ctx) :=
  Keeps.update (.runM (.foldl (.dropLeaves (.foldl h (fun _ _ h => .coreM (.flushNorms h _ _) _ _ _) _) _) (fun _ _ h => .ite
    (.clusM h _ _) h) _) _ _) rfl

theorem Keeps.readCtxLines (h : Keeps s₀ s) (ctx) : Keeps s₀ (s.readCtxLines ctx).1 := .ite_fst h (.scanLines h _ _ _)

theorem Keeps.cannotRun (h : Keeps s₀ s) (ctx) : Keeps s₀ (s.cannotRun ctx) := .stopSeqs (.setFault h _ _ _) _ _

theorem Keeps.switchIn (h : Keeps s₀ s) (ctx) : Keeps s₀ (s.switchIn ctx) :=
  Keeps.ite (.cannotRun (.readCtxLines h _) _) (.foldl (.foldl (.update (.runM (.readCtxLines h _) _ _) rfl) (fun _ _ h =>
    .clusM h _ _) _) (fun _ _ h => .pump h _ _) _)

theorem Keeps.execContextSwitch (h : Keeps s₀ s) (outc inc) : OutKeeps s₀ (execContextSwitch outc inc s) :=
  Keeps.ite h (.iteElse (.ite h (.switchOut h _)) (fun h => .switchIn h _))

theorem Keeps.restoreSave (h : Keeps s₀ s) (ctx) : Keeps s₀ (s.restoreSave ctx) :=
  .ite (.runM (.foldl (.scanLines h _ _ _) (fun _ _ h => .copyRange h _ _ _) _) _ _) (.cannotRun (.runM (.scanLines h _ _ _) _ _) _)

theorem Keeps.execContextResident (h : Keeps s₀ s) (ctx storeOff poolOff) : OutKeeps s₀ (execContextResident ctx storeOff poolOff s) := by
  unfold Machine.execContextResident
  refine OutKeeps.next ?_
  dsimp only
  split
  · exact h
  · split
    · exact .ite h (.restoreSave (.runM h _ _) _)
    · split
      · exact h
      · exact .ite h (.ctxM (.runM h _ _) _ _)

theorem Keeps.keepRetired {old : State} (h : Keeps s₀ s) (a n) : Keeps s₀ (s.keepRetired old a n) := by
  unfold State.keepRetired
  extract_lets pages inP _ t
  have ht : Keeps s₀ t := Keeps.withCells h fun hw => cellsFoldl_wf (fun _ _ => cellPut_wf _ _ _) _ (Memory.wf_filter _ _ hw)
  exact .ite h (.foldl ht (fun _ _ h => .infoAccess h _ _ _ _) _)

theorem Keeps.execContextEvict (h : Keeps s₀ s) (ctx) : OutKeeps s₀ (execContextEvict ctx s) :=
  Keeps.ite h (.update (.runM (.keepRetired (.countLines (.stackClaim (.putBytes (.freeBytes (.foldl h (fun _ _ h =>
    .copyRange h _ _ _) _) _) _ _) _ _ _) _ _ _) _ _) _ _) rfl)

theorem Keeps.newEpoch (h : Keeps s₀ s) (ctx ep counters) : Keeps s₀ (s.newEpoch ctx ep counters) :=
  .ite (.ctxM h _ _) (.foldl (.foldl (.ctxM h _ _) (fun _ _ h => .coreM h _ _ _) _) (fun _ _ h => .seqM h _ _ _) _)

theorem Keeps.moveUnits (h : Keeps s₀ s) (ctx mv) : Keeps s₀ (s.moveUnits ctx mv) := .update h rfl

theorem Keeps.moveAllocs (h : Keeps s₀ s) (c mv storeOff poolOff) : Keeps s₀ (s.moveAllocs c mv storeOff poolOff) :=
  Keeps.withCells h fun hw =>
    cellsFoldl_wf (fun _ _ hcs => cellsFoldl_wf (fun _ _ => cellPut_wf _ _ _) _ (cellsZero_wf _ _ _ hcs)) _ <|
    cellsFoldl_wf (fun _ _ hcs => cellsFoldl_wf (fun _ _ => cellPut_wf _ _ _) _ (cellsZero_wf _ _ _ hcs)) _ <|
    cellsFoldl_wf (fun _ _ => cellsZero_wf _ _ _) _ <| cellsFoldl_wf (fun _ _ => cellsZero_wf _ _ _) _ hw

theorem Keeps.orderEpoch (h : Keeps s₀ s) (ctx ep forced) : Keeps s₀ (s.orderEpoch ctx ep forced) :=
  .ite h (.foldl h (fun _ _ h => .ite h (.emit h _)) _)

theorem Keeps.execCleanMove (h : Keeps s₀ s) (ctx place storeOff poolOff) : OutKeeps s₀ (execCleanMove ctx place storeOff poolOff s) :=
  Keeps.ite h (.ite (.emit h _) (.ctxM (.update (.runM (.moveUnits (.moveAllocs (.ite h (.orderEpoch
    (.newEpoch h _ _ _) _ _ _)) _ _ _ _) _ _) _ _) rfl) _ _))

theorem Keeps.openMove (h : Keeps s₀ s) (ctx ep) : Keeps s₀ (s.openMove ctx ep) := by
  unfold State.openMove
  dsimp only
  exact .newEpoch (.runM h _ _) _ _ _

theorem Keeps.schWait (h : Keeps s₀ s) (w) : Keeps s₀ (s.schWait w) := .ite h (.update h rfl)

theorem Keeps.moveAway (h : Keeps s₀ s) (ctx) : Keeps s₀ (s.moveAway ctx) :=
  .ite (.schWait h _) (.ite (.emit h _) (.ite h (.orderEpoch (.openMove h _ _) _ _ _)))

theorem Keeps.forcedMove (h : Keeps s₀ s) (ctx o) : Keeps s₀ (s.forcedMove ctx o) := .moveAway (.setFault h _ _ _) _

theorem Keeps.takeEpoch (h : Keeps s₀ s) (ctx ep forced) : Keeps s₀ (s.takeEpoch ctx ep forced) :=
  .ite h (.ite (.schWait h _) (.ite (.ite h (.openMove h _ _)) (.runM (.newEpoch h _ _ _) _ _)))

theorem Keeps.takeMoveAsk (h : Keeps s₀ s) (ctx forced) : Keeps s₀ (s.takeMoveAsk ctx forced) :=
  .ite h (.ite (.schWait h _) (.ite (.moveAway h _) (.ite h (.orderEpoch (.newEpoch h _ _ _) _ _ _))))

theorem Keeps.schServes (h : Keeps s₀ s) : Keeps s₀ (s.schServes) := by
  unfold State.schServes
  dsimp only
  refine .foldl (.update h rfl) (fun _ _ h => ?_) _
  split
  · exact .moveAway h _
  · exact .takeEpoch h _ _ _
  · exact .takeMoveAsk h _ _

theorem Keeps.execSwitchOutTimeout (h : Keeps s₀ s) (ctx) : OutKeeps s₀ (execSwitchOutTimeout ctx s) :=
  Keeps.ite h (.forcedMove (.failRec h _ _ _ _ _ _) _ _)

theorem Keeps.scrubUnits (h : Keeps s₀ s) (cores so sl po pl) : Keeps s₀ (s.scrubUnits cores so sl po pl) :=
  .foldl (.foldl h (fun _ _ h => .zeroBytes h _ _) _) (fun _ _ h => .zeroBytes h _ _) _

theorem Keeps.startScrub (h : Keeps s₀ s) (ctx) : Keeps s₀ (s.startScrub ctx) := .ctxM h _ _

theorem Keeps.scrubIfAsked (h : Keeps s₀ s) (c) : Keeps s₀ (s.scrubIfAsked c) := .ite h (.startScrub (.update h rfl) _)

theorem Keeps.execFenceClose (h : Keeps s₀ s) (ctx) : OutKeeps s₀ (execFenceClose ctx s) := by
  unfold Machine.execFenceClose
  refine OutKeeps.next ?_
  dsimp only
  split
  · exact h
  · exact .ite h (.scrubIfAsked (.runM (.scrubUnits (.foldl h (fun _ _ h => .ite h (.coreM
      (.infoOther h _ _ _ _) _ _ _)) _) _ _ _ _ _) _ _) _)

end Sys2Proof.Machine
end

section
/-! SUPPORT. What every step keeps: the context commands. -/

namespace Sys2Proof.Machine

variable {s₀ s : State}

theorem Keeps.instM (h : Keeps s₀ s) (i g) : Keeps s₀ (s.instM i g) := by
  unfold State.instM
  dsimp only
  split
  · exact .funcM h _ _
  · exact .update h rfl

theorem Keeps.ctxResult (h : Keeps s₀ s) (i result field) : Keeps s₀ (s.ctxResult i result field) := .instM h _ _

theorem Keeps.readImg (h : Keeps s₀ s) (f a) : Keeps s₀ (s.readImg f a).1 := by
  unfold State.readImg
  exact .ite_fst (.ite_fst h (.ite_fst h (.pair (.stackRead h _ _ _)))) (.ite_fst (.pair (.hostRead h _ _ _)) h)

theorem Keeps.ctxCommand (h : Keeps s₀ s) (w ctx op addr run) (hrun : ∀ t i, Keeps s₀ t → Keeps s₀ (run t i)) : Keeps s₀
  (s.ctxCommand w ctx op addr run) := by
  unfold State.ctxCommand
  dsimp only
  split
  · exact .infoAccess h _ _ _ _
  · exact .ite h (.ite (.infoAccess h _ _ _ _) (.ite (.ctxResult (.instM h _ _) _ _ _) (hrun _ _ (.instM h _ _))))

theorem Keeps.withImg (h : Keeps s₀ s) (i addr run) (hrun : ∀ t b, Keeps s₀ t → Keeps s₀ (run t b)) : Keeps s₀
  (s.withImg i addr run) := by
  unfold State.withImg
  dsimp only
  split
  · exact .ctxResult h _ _ _
  · split
    · exact .ctxResult (.readImg h _ _) _ _ _
    · exact hrun _ _ (.readImg h _ _)

theorem Keeps.execCtxCreate (h : Keeps s₀ s) (w ctx addr) : OutKeeps s₀ (execCtxCreate w ctx addr s) := by
  unfold Machine.execCtxCreate
  refine OutKeeps.next ?_
  dsimp only
  refine .ctxCommand h _ _ _ _ _ (fun _ _ h => .withImg h _ _ _ (fun _ _ h => ?_))
  split
  · exact .ctxResult h _ _ _
  · split
    · exact .ctxResult h _ _ _
    · split
      · exact .ctxResult h _ _ _
      · split
        · exact .ctxResult h _ _ _
        · exact .ctxResult (.runM (.ite (.stackClaim (.ctxM h _ _) _ _ _) (.ctxM h _ _)) _ _) _ _ _

theorem Keeps.execCtxSet (h : Keeps s₀ s) (w ctx addr) : OutKeeps s₀ (execCtxSet w ctx addr s) := by
  unfold Machine.execCtxSet
  refine OutKeeps.next ?_
  dsimp only
  refine .ctxCommand h _ _ _ _ _ (fun _ _ h => .withImg h _ _ _ (fun _ _ h => ?_))
  split
  · exact .ctxResult h _ _ _
  · split
    · exact .ctxResult h _ _ _
    · exact .ctxResult (.runM (.ctxM h _ _) _ _) _ _ _

theorem Keeps.execCtxDestroy (h : Keeps s₀ s) (w ctx) : OutKeeps s₀ (execCtxDestroy w ctx s) :=
  Keeps.ctxCommand h _ _ _ _ _ (fun _ _ h => .ite (.ctxResult h _ _ _) (.ite (.instM h _ _) (.ctxResult (.startScrub h _) _ _ _)))

theorem Keeps.execCtxInval (h : Keeps s₀ s) (w ctx) : OutKeeps s₀ (execCtxInval w ctx s) :=
  Keeps.ctxCommand h _ _ _ _ _ (fun _ _ h => .ite (.ctxResult h _ _ _) (.ctxResult (.dropLeaves h _) _ _ _))

theorem Keeps.execCtxRead (h : Keeps s₀ s) (w ctx addr) : OutKeeps s₀ (execCtxRead w ctx addr s) := by
  refine OutKeeps.next (.ctxCommand h _ _ _ _ _ fun t i h => ?_)
  split
  · exact .ctxResult h _ _ _
  · dsimp only
    refine .ite (.ctxResult (.foldl_fst (p := (t, true)) h fun p k h => ?_) _ _ _) (.ite (.ctxResult (.hostWrite h _ _ _) _ _ _) (.ctxResult h _ _ _))
    exact .ite_fst h (.pair (.stackWrite h _ _ _ _))

theorem Keeps.execContextScrubEnd (h : Keeps s₀ s) (ctx) : OutKeeps s₀ (execContextScrubEnd ctx s) :=
  Keeps.ite h (.iteStep (.ctxM (.infoOther (.update (.dropLeaves (.iteStep (.iteStep h fun h => .scrubUnits h _ _ _ _ _)
    fun h => .keepRetired (.stackClaim (.zeroBytes h _ _) _ _ _) _ _) _) rfl) _ _ _ _) _ _) fun h => .funcM h _ _)

end Sys2Proof.Machine
end

section
/-! SUPPORT. What every step keeps: jobs and rings. -/

namespace Sys2Proof.Machine

variable {s₀ s : State}

theorem Keeps.ringRead (h : Keeps s₀ s) (f dev a n) : Keeps s₀ (s.ringRead f dev a n).1 :=
  .ite_fst (.ite_fst h (.ite_fst h (.stackRead h _ _ _))) (.ite_fst h (.ite_fst h h))

theorem Keeps.ringStop (h : Keeps s₀ s) (f slot ring addr reason tail) : Keeps s₀ (s.ringStop f slot ring addr reason tail) :=
  .msix (.raiseRec (.funcM h _ _) _) _ _

theorem Keeps.readTail (h : Keeps s₀ s) (f slot ring tail) : Keeps s₀ (s.readTail f slot ring tail) := by
  unfold State.readTail
  dsimp only
  split
  · exact h
  · split
    · exact .ringStop (.ringRead h _ _ _ _) _ _ _ _ _ _
    · split
      · exact .ringRead h _ _ _ _
      · exact .ringStop (.ringRead h _ _ _ _) _ _ _ _ _ _
      · exact .iteStep (.funcM (.ringRead h _ _ _ _) _ _) (fun h => .ringStop h _ _ _ _ _ _)

theorem Keeps.execTailLineTaken (h : Keeps s₀ s) (f slot ring tail) : OutKeeps s₀ (execTailLineTaken f slot ring tail s) :=
  Keeps.readTail h _ _ _ _

theorem Keeps.execTailLinePoll (h : Keeps s₀ s) (tails refused) : OutKeeps s₀ (execTailLinePoll tails refused s) := by
  refine OutKeeps.next (.foldl ?_ (fun _ _ h => .foldl h (fun _ _ h => .readTail h _ _ _ _) _) _)
  exact .update h rfl

theorem Keeps.jobM (h : Keeps s₀ s) (id g) : Keeps s₀ (s.jobM id g) := .update h rfl

theorem Keeps.jobFail (h : Keeps s₀ s) (j status cause d) : Keeps s₀ (s.jobFail j status cause d) := .jobM (.raiseRec h _) _ _

theorem Keeps.judgeJob (h : Keeps s₀ s) (j far) : Keeps s₀ (s.judgeJob j far) := by
  unfold State.judgeJob
  extract_lets own st before wait queue accept
  have hwait : ∀ b, Keeps s₀ (wait b) := fun b => .jobM h _ _
  have hqueue : ∀ {t}, Keeps s₀ t → Keeps s₀ (queue t) := fun h => .ctxM h _ _
  have haccept : Keeps s₀ accept := hqueue (.jobM h _ _)
  refine .ite (.jobFail h _ _ _ _) (.ite (.jobFail h _ _ _ _) (.ite (.jobFail h _ _ _ _) (.ite (.jobM h _ _) (.ite (hwait _) (.ite haccept
    (.ite (hqueue (.jobM (hwait _) _ _)) ?_))))))
  split
  · exact hwait _
  · exact .ite (.jobFail (.jobM (.ite (.ctxM h _ _) h) _ _) _ _ _ _) (.ite (hwait _) (.tellSpan haccept _))

theorem Keeps.promote (h : Keeps s₀ s) : Keeps s₀ (s.promote) := by
  unfold State.promote
  refine .foldl h (fun _ _ h => ?_) _
  split
  · exact .ite (.judgeJob h _ _) h
  · exact h

theorem Keeps.execJobFetch (h : Keeps s₀ s) (f slot ring line peersAgree peersBusy) : OutKeeps s₀
  (execJobFetch f slot ring line peersAgree peersBusy s) := by
  unfold Machine.execJobFetch
  refine OutKeeps.next ?_
  dsimp only
  split
  · exact h
  · split
    · exact .ringStop (.ringRead h _ _ _ _) _ _ _ _ _ _
    · exact .ite (.ringStop (.ringRead h _ _ _ _) _ _ _ _ _ _) (.ite (.jobFail (.update (.funcM (.ringRead h _ _ _ _) _ _) rfl) _ _ _ _)
        (.ite (.jobFail (.update (.funcM (.ringRead h _ _ _ _) _ _) rfl) _ _ _ _) (.judgeJob (.update (.funcM
        (.ringRead h _ _ _ _) _ _) rfl) _ _)))

theorem Keeps.startShare (h : Keeps s₀ s) (j h_ cl rank count data replay) : Keeps s₀ (s.startShare j h_ cl rank count data replay) := by
  unfold State.startShare
  dsimp only
  exact .clusM (.foldl (.seqM h _ _ _) (fun _ _ h => .coreM h _ _ _) _) _ _

theorem Keeps.orderShares (h : Keeps s₀ s) (j) : Keeps s₀ (s.orderShares j) := .foldl h (fun _ _ h => .emit h _) _

theorem Keeps.startJob (h : Keeps s₀ s) (job) : Keeps s₀ (s.startJob job) := by
  unfold State.startJob
  split
  · exact h
  dsimp only
  have hl : Keeps s₀ (s.readCtxLines (Job.ctx ‹Job›)).1 := .readCtxLines h _
  refine .ite h (.ite (.jobFail hl _ _ _ _) ?_)
  generalize (s.readCtxLines (Job.ctx ‹Job›)).1 = t at hl ⊢
  split
  · exact .jobFail (.checkImage hl _ _) _ _ _ _
  · exact .jobFail (.checkImage hl _ _) _ _ _ _
  · generalize ht : (State.checkImage _ _ _).1 = t'
    have hi : Keeps s₀ t' := ht ▸ .checkImage hl _ _
    refine .ite (.jobFail hi _ _ _ _) (.ite (.jobFail hi _ _ _ _) (.ite hi ?_))
    clear ht
    generalize ht : (State.vaRead (State.vaRead _ _ _ _).1 _ _ _).1 = t'
    have hr : Keeps s₀ t' := ht ▸ .vaRead (.vaRead hi _ _ _ _) _ _ _ _
    clear ht
    split
    · exact .iteStep (.iteStep (.jobM (.ctxM (.foldl (.runM hr _ _) (fun _ _ h => .startShare h _ _ _ _ _ _ _) _) _ _) _ _)
        fun h => .orderShares h _) fun h => .switchIn h _
    · exact .jobFail hr _ _ _ _
    · exact .jobFail hr _ _ _ _

theorem Keeps.takeOrder (h : Keeps s₀ s) (job ctx image arg) : Keeps s₀ (s.takeOrder job ctx image arg) :=
  .ite h (.ctxM (.update h rfl) _ _)

theorem Keeps.takeQueued (h : Keeps s₀ s) (ctx on) : Keeps s₀ (s.takeQueued ctx on) :=
  .ite h (.ite (.ctxM h _ _) (.ite (.promote (.ctxM h _ _)) h))

theorem Keeps.execShareStart (h : Keeps s₀ s) (job order) : OutKeeps s₀ (execShareStart job order s) := by
  unfold Machine.execShareStart
  refine OutKeeps.next ?_
  split
  · split
    · exact .startJob (.judgeJob h _ _) _
    · exact .startJob h _
  · split
    · exact .startJob h _
    · exact .takeOrder h _ _ _ _

theorem Keeps.crInterrupt (h : Keeps s₀ s) (f cq) : Keeps s₀ (s.crInterrupt f cq) :=
  .ite (.emit (.hartM (.funcM h _ _) _ _) _) (.msix (.funcM h _ _) _ _)

theorem Keeps.crWrite (h : Keeps s₀ s) (f cq irq rec_) : Keeps s₀ (s.crWrite f cq irq rec_).1 := by
  unfold State.crWrite
  extract_lets e cfg n p a b fail done
  have hf (t : State) (h : Keeps s₀ t) : Keeps s₀ (fail t).1 := .pair (.msix (.raiseRec (.funcM h _ _) _) _ _)
  have hd (t : State) (h : Keeps s₀ t) : Keeps s₀ (done t).1 :=
    .ite_fst (.pair (.funcM h _ _)) (.pair (.iteStep (.funcM (.funcM h _ _) _ _) fun h => .crInterrupt h _ _))
  have hs := fun rq => Keeps.stackWrite h a b rq true
  exact .ite_fst h (.ite_fst (.ite_fst (.ite_fst (hf _ (hs _)) (hd _ (hs _))) (hf _ h))
    (.ite_fst (hd _ (.hostWrite h _ _ _)) (hf _ h)))

theorem Keeps.flushHeld (h : Keeps s₀ s) (f cq) : Keeps s₀ (s.flushHeld f cq) :=
  .foldl h (fun _ _ h => .iteStep (.crWrite h _ _ _ _) (fun h => .update h rfl)) _

theorem Keeps.stopDone (h : Keeps s₀ s) (f) : Keeps s₀ (s.stopDone f) := .ite (.ite (.msix (.funcM h _ _) _ _) (.funcM h _ _)) h

theorem Keeps.finishJob (h : Keeps s₀ s) (j o exit) : Keeps s₀ (s.finishJob j o exit) :=
  Keeps.stopDone (.ite (.update h rfl) (.ite (.update (.jobM h _ _) rfl) (.ite (.update (.crWrite h _ _ _ _) rfl) (.ite (.update
    (.crWrite h _ _ _ _) rfl) (.update (.jobM (.crWrite h _ _ _ _) _ _) rfl))))) _

theorem Keeps.endCtxJob (h : Keeps s₀ s) (j status rank0) : Keeps s₀ (s.endCtxJob j status rank0) := by
  unfold State.endCtxJob
  dsimp only
  refine .scrubIfAsked (.dropColls (.ctxM ?_ _ _) _) _
  split
  · exact .ite (.switchOut h _) h
  · exact .foldl (.ctxM (.ite (.switchOut h _) h) _ _) (fun _ _ h => .infoOther h _ _ _ _) _

theorem Keeps.reportShare (h : Keeps s₀ s) (j) : Keeps s₀ (s.reportShare j) := .ite (.update h rfl) (.emit (.update h rfl) _)

theorem Keeps.execJobComplete (h : Keeps s₀ s) (job rank0) : OutKeeps s₀ (execJobComplete job rank0 s) := by
  unfold Machine.execJobComplete
  refine OutKeeps.next ?_
  dsimp only
  split
  · exact h
  · split
    · exact .ite (.promote (.finishJob h _ _ _)) h
    · exact .ite h (.promote (.iteStep (.iteStep (.ite (.reportShare h _) (.finishJob h _ _ _)) (fun h => .tellSpan h _)) (fun h =>
        .endCtxJob h _ _ _)))
    · exact .ite h (.promote (.endCtxJob (.ite (.reportShare h _) (.finishJob h _ _ _)) _ _ _))
    · exact h

theorem Keeps.execCrDelayExpiry (h : Keeps s₀ s) (f cq) : OutKeeps s₀ (execCrDelayExpiry f cq s) := Keeps.ite h (.crInterrupt h _ _)

theorem Keeps.execJrEnable (h : Keeps s₀ s) (f slot ring v tail) : OutKeeps s₀ (execJrEnable f slot ring v tail s) := by
  unfold Machine.execJrEnable
  refine OutKeeps.next ?_
  dsimp only
  split
  · exact h
  · split
    · exact .ite (.emit h _) (.infoAccess h _ _ _ _)
    · split
      · exact .iteElse (.ite (.funcM h _ _) h) (fun h => .infoAccess h _ _ _ _)
      · split
        · exact .funcM (.ite (.funcM h _ _) h) _ _
        · split
          · exact .ringStop (.ringRead (.funcM (.funcM (.ite (.funcM h _ _) h) _ _) _ _) _ _ _ _) _ _ _ _ _ _
          · split
            · exact .ringStop (.ringRead (.funcM (.funcM (.ite (.funcM h _ _) h) _ _) _ _) _ _ _ _) _ _ _ _ _ _
            · exact .funcM (.ringRead (.funcM (.funcM (.ite (.funcM h _ _) h) _ _) _ _) _ _ _ _) _ _

theorem Keeps.execCrEnable (h : Keeps s₀ s) (f cq v) : OutKeeps s₀ (execCrEnable f cq v s) :=
  Keeps.ite h (.ite (.funcM h _ _) (.ite (.funcM h _ _) (.stopDone (.flushHeld (.funcM h _ _) _ _) _)))

theorem Keeps.execCrHeadWrite (h : Keeps s₀ s) (f cq head) : OutKeeps s₀ (execCrHeadWrite f cq head s) :=
  Keeps.ite (.infoAccess h _ _ _ _) (.flushHeld (.funcM h _ _) _ _)

end Sys2Proof.Machine
end

section
/-! SUPPORT. What every step keeps: functions, the host link and the companion cores. -/

namespace Sys2Proof.Machine

variable {s₀ s : State}

theorem Keeps.hartOff (h : Keeps s₀ s) (h_) : Keeps s₀ (s.hartOff h_) := .update (.hartM h _ _) rfl

theorem Keeps.stopHarts (h : Keeps s₀ s) (f) : Keeps s₀ (s.stopHarts f) := .foldl h (fun _ _ h => .hartOff h _) _

theorem Keeps.stopFunc (h : Keeps s₀ s) (f) : Keeps s₀ (s.stopFunc f) := .stopHarts (.funcM (.cancelJobs h _ _) _ _) _

theorem Keeps.destroyAll (h : Keeps s₀ s) (f) : Keeps s₀ (s.destroyAll f) :=
  .foldl (.ite h (.funcM h _ _)) (fun _ _ h => .ite (.startScrub h _) h) _

theorem Keeps.resetRec (h : Keeps s₀ s) (domain what) : Keeps s₀ (s.resetRec domain what) := .update (.info h _ _ _ _ _) rfl

theorem Keeps.funcReset (h : Keeps s₀ s) (f) : Keeps s₀ (s.funcReset f) := by
  unfold State.funcReset
  dsimp only
  exact .stopDone (.update (.destroyAll (.funcM (.update (.stopFunc (.resetRec h _ _) _) rfl) _ _) _) rfl) _

theorem Keeps.execFuncDisable (h : Keeps s₀ s) (f) : OutKeeps s₀ (execFuncDisable f s) :=
  Keeps.ite h (.stopDone (.stopFunc (.funcM h _ _) _) _)

theorem Keeps.execFuncReenable (h : Keeps s₀ s) (f) : OutKeeps s₀ (execFuncReenable f s) := Keeps.ite (.funcM h _ _) h

theorem Keeps.execFlr (h : Keeps s₀ s) (f) : OutKeeps s₀ (execFlr f s) := Keeps.funcReset h _

theorem Keeps.execVfEnableClear (h : Keeps s₀ s) : OutKeeps s₀ (execVfEnableClear s) :=
  Keeps.foldl h (fun _ _ h => .ite (.funcM (.funcReset h _) _ _) h) _

theorem Keeps.execBusMasterDisable (h : Keeps s₀ s) (f) : OutKeeps s₀ (execBusMasterDisable f s) :=
  Keeps.ite h (.stopDone (.stopFunc (.funcM h _ _) _) _)

theorem Keeps.execBusMasterEnable (h : Keeps s₀ s) (f) : OutKeeps s₀ (execBusMasterEnable f s) :=
  Keeps.foldl (.funcM h _ _) (fun _ _ h => .flushHeld h _ _) _

theorem Keeps.linkDown (h : Keeps s₀ s) : Keeps s₀ (s.linkDown) :=
  Keeps.ite h (.infoOther (.foldl (.update (.foldl (.update h rfl) (fun _ _ h => .destroyAll (.stopFunc h _) _) _) rfl) (fun _ _ h =>
    .stopDone h _) _) _ _ _ _)

theorem Keeps.execLinkDown (h : Keeps s₀ s) : OutKeeps s₀ (execLinkDown s) := Keeps.linkDown h

theorem Keeps.execBackInvalidateTimeout (h : Keeps s₀ s) (line) : OutKeeps s₀ (execBackInvalidateTimeout line s) :=
  Keeps.ite (.linkDown h) h

theorem Keeps.requestTaken (h : Keeps s₀ s) : Keeps s₀ (s.requestTaken) := .update h rfl

theorem Keeps.execConfigRequest (h : Keeps s₀ s) : OutKeeps s₀ (execConfigRequest s) := by
  unfold Machine.execConfigRequest
  refine OutKeeps.next ?_
  dsimp only
  split
  · exact .emit h _
  · split
    · exact .emit (.requestTaken h) _
    · exact .emit (.funcM (.requestTaken h) _ _) _
    · exact .emit (.funcM (.requestTaken h) _ _) _
    · exact .emit (.requestTaken h) _

theorem Keeps.snoopAdd (h : Keeps s₀ s) (lines) : Keeps s₀ (s.snoopAdd lines) := by
  unfold State.snoopAdd
  dsimp only
  refine .foldl h (fun _ _ h => ?_) _
  split
  · exact h
  · refine .update ?_ rfl
    split
    · exact .ite (.backInv h _) h
    · exact h

theorem Keeps.execHdmRead (h : Keeps s₀ s) (dec addr n flaws) : OutKeeps s₀ (execHdmRead dec addr n flaws s) := by
  unfold Machine.execHdmRead
  extract_lets f _ s₁
  have h₁ : Keeps s₀ s₁ := .update h rfl
  clear_value s₁
  refine OutKeeps.next (.ite h₁ ?_)
  split
  · exact .emit (.infoAccess h₁ _ _ _ _) _
  · next b _ =>
    have hr : Keeps s₀ (s₁.stackRead b n (s₁.hdmReq f)).1 := .stackRead h₁ _ _ _
    split
    · exact .emit (.infoAccess h₁ _ _ _ _) _
    · exact .emit h₁ _
    · refine .ite (.emit h₁ _) ?_
      dsimp only
      split
      · exact .emit (.snoopAdd hr _) _
      · exact .emit hr _

theorem Keeps.execHdmWrite (h : Keeps s₀ s) (dec addr bytes) : OutKeeps s₀ (execHdmWrite dec addr bytes s) := by
  unfold Machine.execHdmWrite
  dsimp only
  refine OutKeeps.next (.ite h ?_)
  split
  · exact .infoAccess h _ _ _ _
  · split
    · exact .infoAccess h _ _ _ _
    · exact .iteStep h fun h => .update h rfl
    · refine .ite (.infoAccess h _ _ _ _) (.ite (.update h rfl) (.stackWrite ?_ _ _ _ _))
      exact .update h rfl

theorem Keeps.pf0Only (h : Keeps s₀ s) (w off v act) (hact : ∀ t, Keeps s₀ t → Keeps s₀ (act t)) : Keeps s₀ (s.pf0Only w off v act) := by
  unfold State.pf0Only
  split
  · exact .ite (hact _ h) (.infoAccess h _ _ _ _)
  · exact .ite (hact _ h) (.infoAccess h _ _ _ _)
  · exact .ite (hact _ h) h
  · exact .infoAccess h _ _ _ _

theorem Keeps.execCompAssign (h : Keeps s₀ s) (w h_ f) : OutKeeps s₀ (execCompAssign w h_ f s) :=
  Keeps.pf0Only h _ _ _ _ (fun _ h => .ite h (.hartM h _ _))

theorem Keeps.execCompStart (h : Keeps s₀ s) (w h_) : OutKeeps s₀ (execCompStart w h_ s) := by
  unfold Machine.execCompStart
  refine OutKeeps.next ?_
  dsimp only
  refine .pf0Only h _ _ _ _ (fun _ h => ?_)
  split
  · exact .infoAccess h _ _ _ _
  · exact .ite h (.ite (.hartM (.update h rfl) _ _) (.infoAccess h _ _ _ _))

theorem Keeps.execCompStop (h : Keeps s₀ s) (w h_) : OutKeeps s₀ (execCompStop w h_ s) :=
  Keeps.pf0Only h _ _ _ _ (fun _ h => .hartOff h _)

end Sys2Proof.Machine
end

section
/-! SUPPORT. What every step keeps: the stacks' own events. -/

namespace Sys2Proof.Machine

variable {s₀ s : State}

theorem Keeps.execMemCulladd (h : Keeps s₀ s) (w v) : OutKeeps s₀ (execMemCulladd w v s) := by
  refine OutKeeps.next (.ite (.infoAccess h _ _ _ _) (.ite h (.ite (.infoAccess ?_ _ _ _ _) (.update h rfl))))
  exact .update h rfl

theorem Keeps.execPersist (h : Keeps s₀ s) (w) : OutKeeps s₀ (execPersist w s) := by
  unfold Machine.execPersist
  refine OutKeeps.next ?_
  dsimp only
  exact .ite (.infoAccess h _ _ _ _) (.ite h (.ite (.update h rfl) (.update h rfl)))

theorem Keeps.writeImage (h : Keeps s₀ s) (g) : Keeps s₀ (s.writeImage g) := .info (.update h rfl) _ _ _ _ _

theorem Keeps.imgM (h : Keeps s₀ s) (bank comp g) : Keeps s₀ (s.imgM bank comp g) := .update h rfl

theorem Keeps.execPersistDone (h : Keeps s₀ s) (ok) : OutKeeps s₀ (execPersistDone ok s) := by
  refine OutKeeps.next (.ite h (.ite (.update (.writeImage h _) rfl) (.raiseRec ?_ _)))
  exact .update (.freeWord64 h) rfl

theorem Keeps.execPatrolScrub (h : Keeps s₀ s) (line flaw) : OutKeeps s₀ (execPatrolScrub line flaw s) := by
  unfold Machine.execPatrolScrub
  refine OutKeeps.next ?_
  dsimp only
  split
  · exact h
  · refine .readLine ?_ _ _ _
    split
    · exact .update h rfl
    · exact h

theorem Keeps.execRefresh (h : Keeps s₀ s) (st ch bank) : OutKeeps s₀ (execRefresh st ch bank s) := Keeps.ite h (.chanM h _ _ _)

theorem Keeps.execChannelLost (h : Keeps s₀ s) (st ch access) : OutKeeps s₀ (execChannelLost st ch access s) :=
  Keeps.ite h (.memRec (.chanM h _ _ _) _ _ _ _ _)

end Sys2Proof.Machine
end

section
/-! SUPPORT. What every step keeps: the governor and the power registers. -/

namespace Sys2Proof.Machine

variable {s₀ s : State}

theorem Keeps.domainsOff (h : Keeps s₀ s) : Keeps s₀ (s.domainsOff) := .ite (.update h rfl) h

theorem Keeps.execGovernorEval (h : Keeps s₀ s) (us) : OutKeeps s₀ (execGovernorEval us s) := Keeps.ite h (.domainsOff (.update h rfl))

theorem Keeps.shareEnergy (h : Keeps s₀ s) : Keeps s₀ (s.shareEnergy) :=
  .update (.iteElse (.foldl h (fun _ _ h => .ite h (.ctxM h _ _)) _) (fun h => .ctxM h _ _)) rfl

theorem Keeps.execPowerInterval (h : Keeps s₀ s) (avg run stop) : OutKeeps s₀ (execPowerInterval avg run stop s) :=
  Keeps.shareEnergy (.ite (.fmpEventAll (.raiseRec (.update h rfl) _) _) (.update h rfl))

theorem Keeps.execDomainWake (h : Keeps s₀ s) (d) : OutKeeps s₀ (execDomainWake d s) := by
  unfold Machine.execDomainWake
  refine OutKeeps.next ?_
  dsimp only
  exact .ite h (.ite (.update h rfl) (.update h rfl))

theorem Keeps.execEnergySample (h : Keeps s₀ s) (mv ma) : OutKeeps s₀ (execEnergySample mv ma s) := Keeps.update h rfl

theorem Keeps.execInputCurrentTrip (h : Keeps s₀ s) (ma) : OutKeeps s₀ (execInputCurrentTrip ma s) := Keeps.ite h (.update h rfl)

theorem Keeps.execCurrentTripRelease (h : Keeps s₀ s) : OutKeeps s₀ (execCurrentTripRelease s) := Keeps.update h rfl

theorem Keeps.execDroopDetect (h : Keeps s₀ s) (d) : OutKeeps s₀ (execDroopDetect d s) := Keeps.update h rfl

theorem Keeps.execDroopRecovery (h : Keeps s₀ s) (d) : OutKeeps s₀ (execDroopRecovery d s) := Keeps.update h rfl

theorem Keeps.execPwrCapWrite (h : Keeps s₀ s) (w v) : OutKeeps s₀ (execPwrCapWrite w v s) :=
  Keeps.ite (.infoAccess h _ _ _ _) (.ite h (.update h rfl))

theorem Keeps.execPwrModeWrite (h : Keeps s₀ s) (w v) : OutKeeps s₀ (execPwrModeWrite w v s) :=
  Keeps.ite (.infoAccess h _ _ _ _) (.ite h (.ite (.infoAccess (.update h rfl) _ _ _ _) (.update h rfl)))

theorem Keeps.loseGroup (h : Keeps s₀ s) (g) : Keeps s₀ (s.loseGroup g) := .withCells h (Memory.wf_filter _ _)

theorem Keeps.execChannelGroupPowerDown (h : Keeps s₀ s) (id g) : OutKeeps s₀ (execChannelGroupPowerDown id g s) :=
  Keeps.ite h (.update (.loseGroup h _) rfl)

end Sys2Proof.Machine
end

section
/-! SUPPORT. What every step keeps: the crust writer. -/

namespace Sys2Proof.Machine

variable {s₀ s : State}

theorem Keeps.openDump (h : Keeps s₀ s) (domain unit esn by_) : Keeps s₀ (s.openDump domain unit esn by_) := .update h rfl

theorem Keeps.closeDump (h : Keeps s₀ s) (index cut) : Keeps s₀ (s.closeDump index cut) := by
  unfold State.closeDump
  dsimp only
  split
  · exact h
  · exact .ite (.info (.update h rfl) _ _ _ _ _) (.raiseRec (.freeWord64 (.update h rfl)) _)

theorem Keeps.execDumpWordTimeout (h : Keeps s₀ s) (index word unitEnd) : OutKeeps s₀ (execDumpWordTimeout index word unitEnd s) :=
  Keeps.update h rfl

theorem Keeps.execDumpCommit (h : Keeps s₀ s) (index) : OutKeeps s₀ (execDumpCommit index s) := by
  unfold Machine.execDumpCommit
  refine OutKeeps.next ?_
  dsimp only
  split
  · exact h
  · exact .nvmCommit (.update h rfl)

end Sys2Proof.Machine
end

section
/-! SUPPORT. What every step keeps: reset domains. -/

namespace Sys2Proof.Machine

variable {s₀ s : State}

theorem Keeps.warmClear (h : Keeps s₀ s) : Keeps s₀ (s.warmClear) := ⟨h.queue, h.order, fun _ => Memory.wf_nil⟩

theorem Keeps.coldClear (h : Keeps s₀ s) (power) : Keeps s₀ (s.coldClear power) :=
  ⟨h.queue, fun _ => Ledger.inOrder_nil rfl, fun _ => Memory.wf_nil⟩

theorem Keeps.lastRecord (h : Keeps s₀ s) (j rec_) : Keeps s₀ (s.lastRecord j rec_).1 := .ite_fst (.crWrite h _ _ _ _) h

theorem Keeps.failAll (h : Keeps s₀ s) (o) : Keeps s₀ (s.failAll o).1 := by
  unfold State.failAll
  dsimp only
  refine .update (.foldl ?_ (fun _ _ h => .crInterrupt h _ _) _) rfl
  refine .foldl_fst ?_ fun _ _ h => .pair (.lastRecord h _ _)
  exact .foldl_fst h fun _ _ h => .pair (.lastRecord h _ _)

theorem Keeps.powerOff (h : Keeps s₀ s) : Keeps s₀ (s.powerOff) := .noted (.warmClear (.update h rfl)) _

theorem Keeps.fillLatchRec (h : Keeps s₀ s) (esn written lost index bad) : Keeps s₀ (s.fillLatchRec esn written lost index bad) :=
  .withLed h fun ho => Ledger.inOrder_map ho (fun r => by split <;> rfl) rfl rfl

theorem Keeps.latchCommit (h : Keeps s₀ s) (esn) : Keeps s₀ (s.latchCommit esn) := .nvmCommit (.update h rfl)

theorem Keeps.latchFinish (h : Keeps s₀ s) : Keeps s₀ (s.latchFinish) :=
  .latchCommit (.update (.powerOff (.fillLatchRec (.failAll h _) _ _ _ _ _)) rfl) _

theorem Keeps.tripFinish (h : Keeps s₀ s) (esn) : Keeps s₀ (s.tripFinish esn) := .powerOff (.failAll (.noticeAll h _) _)

theorem Keeps.askReset (h : Keeps s₀ s) (domain n esn by_) : Keeps s₀ (s.askReset domain n esn by_).1 :=
  .ite_fst h (.openDump (.update h rfl) _ _ _ _)

theorem Keeps.ctxHit (h : Keeps s₀ s) (unit c) : Keeps s₀ (s.ctxHit unit c) := by
  unfold State.ctxHit
  dsimp only
  split
  · exact h
  · split
    · refine .ctxM (.forcedMove ?_ _ _) _ _
      split
      · exact h
      · exact .failRec h _ _ _ _ _ _
    · refine .update (.forcedMove ?_ _ _) rfl
      split
      · exact h
      · exact .failRec h _ _ _ _ _ _
    · refine .forcedMove ?_ _ _
      split
      · exact h
      · exact .failRec h _ _ _ _ _ _

theorem Keeps.clearCore (h : Keeps s₀ s) (n) : Keeps s₀ (s.clearCore n) := by
  unfold State.clearCore
  dsimp only
  exact .physM (.zeroBytes (.update (.foldl h (fun _ _ h => .foldl h (fun _ _ h => .dcowRelease h _ _ _) _) _) rfl) _ _) _ _

theorem Keeps.clearCluster (h : Keeps s₀ s) (k) : Keeps s₀ (s.clearCluster k) := by
  unfold State.clearCluster
  dsimp only
  exact .clusM (.zeroBytes (.update h rfl) _ _) _ _

theorem Keeps.cancelComp (h : Keeps s₀ s) (comp) : Keeps s₀ (s.cancelComp comp) := by
  unfold State.cancelComp
  dsimp only
  split
  · exact h
  · exact .foldl (.imgM (.writeImage h _) _ _ _) (fun _ _ h => .procM h _ _) _

theorem Keeps.cancelActivations (h : Keeps s₀ s) (procs) : Keeps s₀ (s.cancelActivations procs) :=
  .foldl h (fun _ _ h => .ite (.cancelComp h _) h) _

theorem Keeps.unitReset (h : Keeps s₀ s) (domain n) : Keeps s₀ (s.unitReset domain n) := by
  exact Keeps.ite (.foldl (.foldl (.cancelActivations (.resetRec h _ _) _) (fun _ _ h => .ctxHit h _ _) _) (fun _ _ h =>
    .clearCore h _) _) (.ite (.clusM (.foldl (.foldl (.foldl (.cancelActivations (.resetRec h _ _) _) (fun _ _ h => .ctxHit h _ _) _)
    (fun _ _ h => .clearCore h _) _) (fun _ _ h => .clearCluster h _) _) _ _) (.update (.dieM (.update (.foldl (.foldl (.foldl (.foldl
    (.cancelActivations (.resetRec h _ _) _) (fun _ _ h => .ctxHit h _ _) _) (fun _ _ h => .clearCore h _) _) (fun _ _ h =>
    .clearCluster h _) _) (fun _ _ h => .hartOff h _) _) rfl) _ _) rfl))

theorem Keeps.warmReset (h : Keeps s₀ s) : Keeps s₀ (s.warmReset) := by
  unfold State.warmReset
  dsimp only
  exact .noted (.warmClear (.cancelActivations (.resetRec (.ite (.failAll (.noticeAll h _) _) (.noticeAll h _)) _ _) _)) _

theorem Keeps.coldReset (h : Keeps s₀ s) : Keeps s₀ (s.coldReset) :=
  .noted (.coldClear (.cancelActivations (.resetRec (.noticeAll h _) _ _) _) _) _

theorem Keeps.execCrustDump (h : Keeps s₀ s) (domain unit index) : OutKeeps s₀ (execCrustDump domain unit index s) := by
  unfold Machine.execCrustDump
  refine OutKeeps.next ?_
  split
  · exact h
  extract_lets dm uf n inner t u
  have ht : Keeps s₀ t := .foldl h (fun t p h => .update (by split; exacts [.closeDump h _ _, h]) rfl) _
  have hu : Keeps s₀ u := .closeDump ht _ _
  exact .ite (.ite (.latchFinish hu) (.ite (.tripFinish hu _) (.warmReset hu))) (.ite (.coldReset hu) (.unitReset hu _ _))

theorem Keeps.rstRequest (h : Keeps s₀ s) (w domain unit part good n run) (hrun : ∀ t, Keeps s₀ t → Keeps s₀ (run t).1) : Keeps s₀
  (s.rstRequest w domain unit part good n run) :=
  .ite (.infoAccess h _ _ _ _) (.ite h (.ite (.update h rfl) (.ite (.update h rfl) (.ite (.update h rfl) (hrun _ (.update h rfl))))))

theorem Keeps.rstUnit (h : Keeps s₀ s) (w domain unit) : Keeps s₀ (s.rstUnit w domain unit) :=
  .rstRequest h _ _ _ _ _ _ _ (fun _ h => .askReset h _ _ _ _)

theorem Keeps.execResetCore (h : Keeps s₀ s) (w unit) : OutKeeps s₀ (execResetCore w unit s) := Keeps.rstUnit h _ _ _

theorem Keeps.execResetCluster (h : Keeps s₀ s) (w unit) : OutKeeps s₀ (execResetCluster w unit s) := Keeps.rstUnit h _ _ _

theorem Keeps.execResetDie (h : Keeps s₀ s) (w unit) : OutKeeps s₀ (execResetDie w unit s) := Keeps.rstUnit h _ _ _

theorem Keeps.plainReset (h : Keeps s₀ s) (domain what) : Keeps s₀ (s.plainReset domain what) := .update (.resetRec h _ _) rfl

theorem Keeps.execResetChannelGroup (h : Keeps s₀ s) (w part) : OutKeeps s₀ (execResetChannelGroup w part s) :=
  Keeps.rstRequest h _ _ _ _ _ _ _ (fun _ h => .update (.foldl (.loseGroup (.plainReset h _ _) _) (fun _ _ h => .chanM h _ _ _) _) rfl)

theorem Keeps.execResetSpanLink (h : Keeps s₀ s) (w part) : OutKeeps s₀ (execResetSpanLink w part s) :=
  Keeps.rstRequest h _ _ _ _ _ _ _ (fun _ h => .update (.plainReset h _ _) rfl)

theorem Keeps.execResetHostFunction (h : Keeps s₀ s) (w part) : OutKeeps s₀ (execResetHostFunction w part s) := by
  unfold Machine.execResetHostFunction
  grind [OutKeeps.next, Keeps.rstRequest, Keeps.funcReset]

theorem Keeps.execResetModuleWarm (h : Keeps s₀ s) (w) : OutKeeps s₀ (execResetModuleWarm w s) :=
  Keeps.rstRequest h _ _ _ _ _ _ _ (fun _ h => .askReset h _ _ _ _)

theorem Keeps.execResetModuleCold (h : Keeps s₀ s) (w) : OutKeeps s₀ (execResetModuleCold w s) :=
  Keeps.rstRequest h _ _ _ _ _ _ _ (fun _ h => .openDump (.update h rfl) _ _ _ _)

theorem Keeps.execResetComplete (h : Keeps s₀ s) (domain what) : OutKeeps s₀ (execResetComplete domain what s) := by
  refine OutKeeps.next (.ite h ?_)
  extract_lets _ t t₁ t₂ t₂' t₂''
  have ht : Keeps s₀ t := .update h rfl
  have hd : Keeps s₀ t₂'' := .dieM (.foldl (.foldl ht (fun _ _ h => .physM h _ _) _) (fun _ _ h => .clusM h _ _) _) _ _
  clear_value t t₂''
  split
  · exact .physM ht _ _
  · exact .clusM (.foldl ht (fun _ _ h => .physM h _ _) _) _ _
  · exact .update hd rfl
  · refine .foldl ?_ (fun _ _ h => .chanM h _ _ _) _
    exact .update ht rfl
  · exact .funcM ht _ _
  · exact ht

theorem Keeps.execMgmtRstreq (h : Keeps s₀ s) (w v) : OutKeeps s₀ (execMgmtRstreq w v s) :=
  Keeps.ite (.infoAccess h _ _ _ _) (.ite (.askReset h _ _ _ _) h)

theorem Keeps.execFenceTimeout (h : Keeps s₀ s) (ctx) : OutKeeps s₀ (execFenceTimeout ctx s) := by
  unfold Machine.execFenceTimeout
  refine OutKeeps.next ?_
  dsimp only
  split
  · exact h
  · exact .ite h (.foldl h (fun _ _ h => .askReset h _ _ _ _) _)

theorem Keeps.execEngineHang (h : Keeps s₀ s) (c e slot) : OutKeeps s₀ (execEngineHang c e slot s) := by
  unfold Machine.execEngineHang
  refine OutKeeps.next ?_
  dsimp only
  split
  · exact h
  · split
    · exact h
    · exact .ite h (.askReset (.setFault (.endEntry (.raiseRec h _) _ _ _ _ _) _ _ _) _ _ _ _)

theorem Keeps.execColdPowerLoss (h : Keeps s₀ s) : OutKeeps s₀ (execColdPowerLoss s) := Keeps.noted (.coldClear h _) _

theorem Keeps.mainLost (h : Keeps s₀ s) : Keeps s₀ (s.mainLost) := .ite h (.ite (.update h rfl) (.powerOff (.linkDown h)))

theorem Keeps.execMainPowerLoss (h : Keeps s₀ s) : OutKeeps s₀ (execMainPowerLoss s) := Keeps.mainLost h

theorem Keeps.execTemperatureReport (h : Keeps s₀ s) (sensor v) : OutKeeps s₀ (execTemperatureReport sensor v s) := by
  unfold Machine.execTemperatureReport
  refine OutKeeps.next ?_
  dsimp only
  exact .ite (.update h rfl) (.ite (.update h rfl) (.openDump (.update (.raiseRec (.update h rfl) _) rfl) _ _ _ _))

end Sys2Proof.Machine
end

section
/-! SUPPORT. What every step keeps: the firmware processors. -/

namespace Sys2Proof.Machine

variable {s₀ s : State}

theorem Keeps.secStarts (h : Keeps s₀ s) : Keeps s₀ (s.secStarts) := .update h rfl

theorem Keeps.dropSessions (h : Keeps s₀ s) (sel reason) : Keeps s₀ (s.dropSessions sel reason) :=
  .foldl (.update h rfl) (fun _ _ h => .info (.emit h _) _ _ _ _ _) _

theorem Keeps.goDown (h : Keeps s₀ s) (p state bank) : Keeps s₀ (s.goDown p state bank) :=
  .ite (.update (.dropSessions (.procM h _ _) _ _) rfl) (.procM h _ _)

theorem Keeps.hold (h : Keeps s₀ s) (p) : Keeps s₀ (s.hold p) :=
  .ite (.procM (.raiseRec h _) _ _) (.askReset (.clusM (.procM (.raiseRec h _) _ _) _ _) _ _ _ _)

theorem Keeps.fallback (h : Keeps s₀ s) (comp) : Keeps s₀ (s.fallback comp) :=
  .raiseRec (.foldl (.writeImage h _) (fun _ _ h => .goDown (.procM h _ _) _ _ _) _) _

theorem Keeps.restart (h : Keeps s₀ s) (p) : Keeps s₀ (s.restart p) :=
  .ite h (.iteElse (.procM (.goDown h _ _ _) _ _) (fun h => .ite (.fallback (.raiseRec h _) _) (.hold h _)))

theorem Keeps.execHeartbeat (h : Keeps s₀ s) (p progress) : OutKeeps s₀ (execHeartbeat p progress s) := Keeps.ite h (.procM h _ _)

theorem Keeps.execHeartbeatMiss (h : Keeps s₀ s) (p) : OutKeeps s₀ (execHeartbeatMiss p s) :=
  Keeps.ite h (.restart (.procM (.raiseRec h _) _ _) _)

theorem Keeps.execWatchdogExpiry (h : Keeps s₀ s) (p) : OutKeeps s₀ (execWatchdogExpiry p s) := Keeps.ite h (.restart (.raiseRec h _) _)

theorem Keeps.activateNext (h : Keeps s₀ s) (comp) : Keeps s₀ (s.activateNext comp) := by
  unfold State.activateNext
  dsimp only
  split
  · exact h
  · split
    · exact .goDown (.procM h _ _) _ _ _
    · exact .info h _ _ _ _ _

theorem Keeps.startActivation (h : Keeps s₀ s) (comp) : Keeps s₀ (s.startActivation comp) :=
  .ite h (.activateNext (.foldl (.imgM (.writeImage h _) _ _ _) (fun _ _ h => .procM h _ _) _) _)

theorem Keeps.flushLatch (h : Keeps s₀ s) (p) : Keeps s₀ (s.flushLatch p) := by
  unfold State.flushLatch
  dsimp only
  exact .foldl (.procM h _ _) (fun _ _ h => .takeRec h _) _

theorem Keeps.execProcessorServing (h : Keeps s₀ s) (p) : OutKeeps s₀ (execProcessorServing p s) :=
  Keeps.ite h (.iteStep (.iteStep (.ite (.flushLatch (.info (.ite (.update (.secStarts (.procM h _ _)) rfl)
    (.procM h _ _)) _ _ _ _ _) _) (.iteStep (.info (.ite (.update (.secStarts (.procM h _ _)) rfl) (.procM h _ _)) _ _ _ _ _) (fun h =>
    .schServes h))) (fun h => .activateNext h _)) (fun h => .pump h _ _))

end Sys2Proof.Machine
end

section
/-! SUPPORT. What every step keeps: the ledger, check intervals and drain. -/

namespace Sys2Proof.Machine

variable {s₀ s : State}

theorem Keeps.countLost (h : Keeps s₀ s) (cls) : Keeps s₀ (s.countLost cls) := by
  refine Keeps.withLed h fun ho => ?_
  split <;> exact ho

theorem Keeps.execLedgerRecordArrival (h : Keeps s₀ s) (unit cls code ctx d0 d1 d2 d3 opcode cause status cfc) : OutKeeps s₀
  (execLedgerRecordArrival unit cls code ctx d0 d1 d2 d3 opcode cause status cfc s) := by
  unfold Machine.execLedgerRecordArrival
  refine OutKeeps.next ?_
  split
  · exact h
  · split
    · exact .ite (.takeRec h _) (.ite (.procM h _ _) (.countLost h _))
    · exact .takeRec h _

theorem Keeps.execLdgSelWrite (h : Keeps s₀ s) (w unit v) : OutKeeps s₀ (execLdgSelWrite w unit v s) := by
  unfold Machine.execLdgSelWrite
  refine OutKeeps.next ?_
  split
  · exact .infoAccess h _ _ _ _
  · exact .update h rfl

theorem Keeps.compareTile (h : Keeps s₀ s) (ctx t) : Keeps s₀ (s.compareTile ctx t) :=
  .ite (.runM (.physM h _ _) _ _) (.sdcRec (.runM (.physM h _ _) _ _) _ _ _ _ _)

theorem Keeps.execCheckInterval (h : Keeps s₀ s) (ctx digests) : OutKeeps s₀ (execCheckInterval ctx digests s) :=
  Keeps.ite h (.switchIn (.foldl (.foldl (.switchOut h _) (fun _ _ h => .compareTile h _ _) _) (fun _ _ h => .coreM h _ _ _) _) _)

theorem Keeps.execDigestMessage (h : Keeps s₀ s) (m ctx step tag origin count digest) : OutKeeps s₀
  (execDigestMessage m ctx step tag origin count digest s) :=
  Keeps.ite h (.digestArrive h _ _ _ _ _ _ _)

theorem Keeps.execDigestCollectEnd (h : Keeps s₀ s) (ctx step tag origin count) : OutKeeps s₀
  (execDigestCollectEnd ctx step tag origin count s) :=
  Keeps.digestEnd h _ _ _ _ _

theorem Keeps.hcvWriter (h : Keeps s₀ s) (w off v act) (hact : ∀ t, Keeps s₀ t → Keeps s₀ (act t)) : Keeps s₀
  (s.hcvWriter w off v act) := by
  unfold State.hcvWriter
  split
  · exact .ite (hact _ h) h
  · exact .ite (hact _ h) (.infoAccess h _ _ _ _)
  · exact .infoAccess h _ _ _ _

theorem Keeps.execHcvInit (h : Keeps s₀ s) (w n v) : OutKeeps s₀ (execHcvInit w n v s) :=
  Keeps.hcvWriter h _ _ _ _ (fun _ h => .hcvM h _ _)

theorem Keeps.execHcvRearm (h : Keeps s₀ s) (w n) : OutKeeps s₀ (execHcvRearm w n s) := Keeps.hcvWriter h _ _ _ _ (fun _ h => .hcvM h _ _)

theorem Keeps.freshDies (h : Keeps s₀ s) : Keeps s₀ (s.freshDies) := .update h rfl

theorem Keeps.askDrain (h : Keeps s₀ s) (cause) : Keeps s₀ (s.askDrain cause) :=
  .ite (.startDrain h _ _ _) (.ite (.info h _ _ _ _ _) h)

theorem Keeps.drainCtl (h : Keeps s₀ s) (w op act) (hact : ∀ t, Keeps s₀ t → Keeps s₀ (act t)) : Keeps s₀ (s.drainCtl w op act) :=
  .ite (.infoAccess h _ _ _ _) (.ite (hact _ h) h)

theorem Keeps.execDrain (h : Keeps s₀ s) (w) : OutKeeps s₀ (execDrain w s) := Keeps.drainCtl h _ _ _ (fun _ h => .askDrain h _)

theorem Keeps.execDrainComplete (h : Keeps s₀ s) : OutKeeps s₀ (execDrainComplete s) :=
  Keeps.ite h (.setStateAll (.raiseRec (.noticeAll h _) _) _)

theorem Keeps.execResume (h : Keeps s₀ s) (w) : OutKeeps s₀ (execResume w s) :=
  Keeps.drainCtl h _ _ _ (fun _ h => .ite (.infoAccess h _ _ _ _) (.freshDies (.setStateAll h _)))

theorem Keeps.dropReplace (h : Keeps s₀ s) : Keeps s₀ (s.dropReplace) := .nvmCommit (.noted (.update h rfl) _)

theorem Keeps.execClearReplace (h : Keeps s₀ s) (w) : OutKeeps s₀ (execClearReplace w s) :=
  Keeps.drainCtl h _ _ _ (fun _ h => .ite (.iteStep (.info (.dropReplace h) _ _ _ _ _) (fun h => .setStateAll h _)) h)

theorem Keeps.execReplaceNvmRetry (h : Keeps s₀ s) (ok) : OutKeeps s₀ (execReplaceNvmRetry ok s) :=
  Keeps.ite h (.nvmCommit (.update h rfl))

end Sys2Proof.Machine
end

section
/-! SUPPORT. What every step keeps: restore from a checkpoint. -/

namespace Sys2Proof.Machine

variable {s₀ s : State}

theorem Keeps.ckpResult (h : Keeps s₀ s) (i result page) : Keeps s₀ (s.ckpResult i result page) := .instM h _ _

theorem Keeps.ckpCommand (h : Keeps s₀ s) (w op ctx src m run) (hrun : ∀ t i, Keeps s₀ t → Keeps s₀ (run t i)) : Keeps s₀
  (s.ckpCommand w op ctx src m run) := by
  unfold State.ckpCommand
  dsimp only
  split
  · exact .infoAccess h _ _ _ _
  · exact .ite h (.ite (.infoAccess h _ _ _ _) (.ite (.ckpResult (.instM h _ _) _ _ _) (hrun _ _ (.instM h _ _))))

theorem Keeps.execCkpBegin (h : Keeps s₀ s) (w ctx) : OutKeeps s₀ (execCkpBegin w ctx s) :=
  Keeps.ckpCommand h _ _ _ _ _ _ (fun _ _ h => .ite (.ckpResult h _ _ _) (.ckpResult (.runM (.ctxM h _ _) _ _) _ _ _))

theorem Keeps.execCkpLoad (h : Keeps s₀ s) (w ctx src m) : OutKeeps s₀ (execCkpLoad w ctx src m s) :=
  Keeps.ckpCommand h _ _ _ _ _ _ (fun _ _ h => .ite (.ckpResult h _ _ _) (.instM h _ _))

theorem Keeps.ckpRead (h : Keeps s₀ s) (f c src m a n) : Keeps s₀ (s.ckpRead f c src m a n).1 := by
  unfold State.ckpRead
  dsimp only
  split
  · exact .ite_fst (.hostRead h _ _ _) h
  · exact .ite_fst h (.stackRead h _ _ _)
  · exact .ite_fst h (.ite_fst (.vaRead h _ _ _ _) (.ite_fst (.freeBytes h _) h))
  · exact h

theorem Keeps.loadPage (h : Keeps s₀ s) (f c src m addr va digest) : Keeps s₀ (s.loadPage f c src m addr va digest).1 := by
  unfold State.loadPage
  dsimp only
  split
  · exact .ckpRead h _ _ _ _ _ _
  · exact .ite_fst (.vaWrite (.ckpRead h _ _ _ _ _ _) _ _ _) (.ite_fst (.vaWrite (.ckpRead h _ _ _ _ _ _) _ _ _) (.vaWrite
      (.ckpRead h _ _ _ _ _ _) _ _ _))

theorem Keeps.spoilPages (h : Keeps s₀ s) (c va n) : Keeps s₀ (s.spoilPages c va n) :=
  .foldl h (fun _ _ h => .vaWrite (.freeBytes h _) _ _ _) _

theorem Keeps.doLoad (h : Keeps s₀ s) (i f c src m a) : Keeps s₀ (s.doLoad i f c src m a) := by
  unfold State.doLoad
  extract_lets fail
  have hf (t : State) (result page : Nat) (h : Keeps s₀ t) : Keeps s₀ (fail t result page) := .ckpResult (.runM h _ _) _ _ _
  have h₁ := Keeps.ckpRead h f c src m a 64
  generalize s.ckpRead f c src m a 64 = p at h₁ ⊢
  clear_value fail
  dsimp only
  split
  · exact hf _ _ _ h₁
  · refine .ite (hf _ _ _ h₁) ?_
    have h₂ := fun a n => Keeps.ckpRead h₁ f c src m a n
    split
    · exact hf _ _ _ (h₂ _ _)
    · refine .ite (hf _ _ _ (h₂ _ _)) ?_
      generalize hq : (List.foldl _ _ (List.range _) : State × Option (Nat × Nat)) = q
      have h₃ : Keeps s₀ q.1 := by
        rw [← hq]
        exact .foldl_fst (.pair (h₂ _ _)) fun _ _ h => .ite_fst h (.pair (.loadPage h _ _ _ _ _ _ _))
      split
      · exact hf _ _ _ (.spoilPages h₃ _ _ _)
      · exact .ckpResult (.runM h₃ _ _) _ _ _

theorem Keeps.execRestoreLoadDone (h : Keeps s₀ s) (w) : OutKeeps s₀ (execRestoreLoadDone w s) := by
  unfold Machine.execRestoreLoadDone
  refine OutKeeps.next ?_
  dsimp only
  split
  · exact h
  · split
    · exact .ite (.ckpResult h _ _ _) (.doLoad h _ _ _ _ _ _)
    · exact h

theorem Keeps.execCkpEnd (h : Keeps s₀ s) (w ctx) : OutKeeps s₀ (execCkpEnd w ctx s) := by
  unfold Machine.execCkpEnd
  refine OutKeeps.next ?_
  dsimp only
  refine .ckpCommand h _ _ _ _ _ _ (fun _ _ h => ?_)
  split
  · exact .ckpResult h _ _ _
  · split
    · exact .ckpResult h _ _ _
    · exact .ite (.ckpResult h _ _ _) (.ite (.ckpResult h _ _ _) (.ckpResult (.runM (.ctxM h _ _) _ _) _ _ _))

theorem Keeps.execCkpAbort (h : Keeps s₀ s) (w ctx) : OutKeeps s₀ (execCkpAbort w ctx s) :=
  Keeps.ckpCommand h _ _ _ _ _ _ (fun _ _ h => .ite (.ckpResult h _ _ _) (.ckpResult (.runM h _ _) _ _ _))

end Sys2Proof.Machine
end

section
/-! SUPPORT. What every step keeps: the data engine. -/

namespace Sys2Proof.Machine

variable {s₀ s : State}

theorem Keeps.feedHcv (h : Keeps s₀ s) (ctx src dst bs) : Keeps s₀ (s.feedHcv ctx src dst bs) :=
  .foldl h (fun _ _ h => .ite (.hcvM h _ _) h) _

theorem Keeps.checkStreams (h : Keeps s₀ s) (ctx core e g src dst sb db) : Keeps s₀ (s.checkStreams ctx core e g src dst sb db) :=
  .ite h (.feedHcv (.coreM h _ _ _) _ _ _ _)

theorem Keeps.holdEntry (h : Keeps s₀ s) (ctx core q slot) : Keeps s₀ (s.holdEntry ctx core q slot) := .entryM h _ _ _ _ _

theorem Keeps.moveRemainder (h : Keeps s₀ s) (g l pairs) : Keeps s₀ (s.moveRemainder g l pairs) := by
  unfold State.moveRemainder
  dsimp only
  refine .foldl (.foldl (.freeBytes h _) (fun _ _ h => .writeMasked h _ _) _) (fun _ _ h => ?_) _
  split
  · exact .ite (.writePoison h _ _) h
  · exact h

theorem Keeps.broadcast (h : Keeps s₀ s) (g core mask l) : Keeps s₀ (s.broadcast g core mask l) :=
  .ite h (.foldl h (fun _ _ h => .ite h (.foldl h (fun _ _ h => .putBytes h _ _) _)) _)

theorem Keeps.dxeRows (h : Keeps s₀ s) (core ctx e o r6 r9 ranges skip) : Keeps s₀ (dxeRows s core ctx e o r6 r9 ranges skip).1 :=
  .ite_fst h (.row7All h _ _)

theorem Keeps.dxeTake (h : Keeps s₀ s) (c sel rest run) (hrest : ∀ t c ctx e o, Keeps s₀ t → Keeps s₀ (rest t c ctx e o).1)
  (hrun : ∀ c t ctx e o, Keeps s₀ t → Keeps s₀ (run c t ctx e o)) : OutKeeps s₀ (dxeTake c sel rest run s) :=
  Keeps.takeHead h _ _ _ _ _ (fun _ _ _ _ h => hrest _ _ _ _ _ h) (fun _ _ _ _ h => hrun _ _ _ _ _ h)

theorem Keeps.dmovRest (h : Keeps s₀ s) (core ctx e o) : Keeps s₀ (dmovRest s core ctx e o).1 := by
  unfold Machine.dmovRest
  dsimp only
  exact .dxeRows h _ _ _ _ _ _ _ _

theorem Keeps.runDmov (h : Keeps s₀ s) (core ctx e x_o) : Keeps s₀ (runDmov core s ctx e x_o) := by
  unfold Machine.runDmov
  dsimp only
  split
  · exact .holdEntry h _ _ _ _
  · split
    · exact .failAccess (.moveRemainder (.fetchAt h _ _) _ _ _) _ _ _ _ _ _ _
    · split
      · exact .failAccess (.moveRemainder (.writeMasked (.fetchAt h _ _) _ _) _ _ _) _ _ _ _ _ _ _
      · exact .doneEntry (.checkStreams (.broadcast (.writeMasked (.fetchAt h _ _) _ _) _ _ _ _) _ _ _ _ _ _ _ _) _ _ _ _ _

theorem Keeps.execDmov (h : Keeps s₀ s) (c flaws) : OutKeeps s₀ (execDmov c flaws s) := by
  have hf : Keeps s₀ { s with mem := { s.mem with flaws := flaws.foldl (fun l p =>
      if s.mem.poison.contains p.1 || s.stackCap ≤ p.1 * 64 then l else tabSet l p.1 p.2) s.mem.flaws } } := .update h rfl
  exact Keeps.dxeTake hf _ _ _ _ (fun _ _ _ _ _ h => .dmovRest h _ _ _ _) fun _ _ _ _ _ h => .runDmov h _ _ _ _

theorem Keeps.freeShard (h : Keeps s₀ s) (g m as) : Keeps s₀ (s.freeShard g m as).1 := by
  unfold State.freeShard
  dsimp only
  exact .foldl_fst h fun _ _ h => .freeBytes (.emit h _) _

theorem Keeps.dgthRest (h : Keeps s₀ s) (core ctx e o) : Keeps s₀ (dgthRest s core ctx e o).1 := by
  unfold Machine.dgthRest
  dsimp only
  exact .dxeRows h _ _ _ _ _ _ _ _

theorem Keeps.gatherRead (h : Keeps s₀ s) (g e ms) : Keeps s₀ (s.gatherRead g e ms).1 := by
  unfold State.gatherRead
  refine .foldl_fst h fun p m h => ?_
  split
  · exact h
  · dsimp only
    split
    · exact .pair (.freeShard h _ _ _)
    · split
      · exact .pair (.fetchAt h _ _)
      · exact .pair (.fetchAt h _ _)

theorem Keeps.runDgth (h : Keeps s₀ s) (core ctx e x_o) : Keeps s₀ (runDgth core s ctx e x_o) := by
  unfold Machine.runDgth
  dsimp only
  split
  · exact .holdEntry h _ _ _ _
  · split
    · exact .failAccess h _ _ _ _ _ _ _
    · split
      · exact .failAccess (.moveRemainder (.gatherRead h _ _ _) _ _ _) _ _ _ _ _ _ _
      · split
        · exact .failAccess (.moveRemainder (.writeMasked (.gatherRead h _ _ _) _ _) _ _ _) _ _ _ _ _ _ _
        · exact .doneEntry (.checkStreams (.writeMasked (.gatherRead h _ _ _) _ _) _ _ _ _ _ _ _ _) _ _ _ _ _

theorem Keeps.execDgth (h : Keeps s₀ s) (c) : OutKeeps s₀ (execDgth c s) :=
  Keeps.takeHead h _ _ _ _ _ (fun _ _ _ _ h => .dgthRest h _ _ _ _) (fun _ _ _ _ h => .runDgth h _ _ _ _)

theorem Keeps.dsctRest (h : Keeps s₀ s) (core ctx e o) : Keeps s₀ (dsctRest s core ctx e o).1 := by
  unfold Machine.dsctRest
  dsimp only
  exact .dxeRows h _ _ _ _ _ _ _ _

theorem Keeps.runDsct (h : Keeps s₀ s) (core ctx e x_o) : Keeps s₀ (runDsct core s ctx e x_o) := by
  unfold Machine.runDsct
  dsimp only
  split
  · exact .failAccess (.fetchAt h _ _) _ _ _ _ _ _ _
  · split
    · exact .failEntry (.fetchAt h _ _) _ _ _ _ _ _ _
    · split
      · exact .holdEntry (.fetchAt h _ _) _ _ _ _
      · split
        · exact .failAccess (.moveRemainder (.fetchAt (.fetchAt h _ _) _ _) _ _ _) _ _ _ _ _ _ _
        · split
          · exact .failAccess (.moveRemainder (.convertTo (.fetchAt (.fetchAt h _ _) _ _) _ _ _ _ _) _ _ _) _ _ _ _ _ _ _
          · split
            · exact .sdcEntry (.addFlagged (.convertTo (.fetchAt (.fetchAt h _ _) _ _) _ _ _ _ _) _ _) _ _ _ _ _
            · exact .doneEntry (.checkStreams (.addFlagged (.convertTo (.fetchAt
                (.fetchAt h _ _) _ _) _ _ _ _ _) _ _) _ _ _ _ _ _ _ _) _ _ _ _ _

theorem Keeps.execDsct (h : Keeps s₀ s) (c) : OutKeeps s₀ (execDsct c s) :=
  Keeps.takeHead h _ _ _ _ _ (fun _ _ _ _ h => .dsctRest h _ _ _ _) (fun _ _ _ _ h => .runDsct h _ _ _ _)

theorem Keeps.cowResolve (h : Keeps s₀ s) (g va n source) : Keeps s₀ (s.cowResolve g va n source).1 := by
  unfold State.cowResolve
  dsimp only
  refine .foldl_fst h (fun _ _ h => ?_)
  split
  · exact h
  · split
    · exact .translate h _ _ _ _
    · split
      · exact .ite_fst (.translate h _ _ _ _) (.translate h _ _ _ _)
      · exact .translate h _ _ _ _
      · exact .translate h _ _ _ _
      · exact .translate h _ _ _ _

theorem Keeps.dcowRest (h : Keeps s₀ s) (core ctx e o) : Keeps s₀ (dcowRest s core ctx e o).1 := by
  unfold Machine.dcowRest
  dsimp only
  split
  · exact h
  · split
    · exact .cowResolve h _ _ _ _
    · split
      · exact .cowResolve (.cowResolve h _ _ _ _) _ _ _ _
      · exact .cowResolve (.cowResolve h _ _ _ _) _ _ _ _

theorem Keeps.runDcow (h : Keeps s₀ s) (core ctx e x_o) : Keeps s₀ (runDcow core s ctx e x_o) := by
  unfold Machine.runDcow
  dsimp only
  split
  · exact .failAccess (.cowResolve h _ _ _ _) _ _ _ _ _ _ _
  · split
    · exact .failAccess (.coreM (.outWrite (.update (.cowResolve h _ _ _ _) rfl) _ _ _ _) _ _ _) _ _ _ _ _ _ _
    · exact .coreM (.outWrite (.update (.cowResolve h _ _ _ _) rfl) _ _ _ _) _ _ _

theorem Keeps.execDcow (h : Keeps s₀ s) (c) : OutKeeps s₀ (execDcow c s) :=
  Keeps.takeHead h _ _ _ _ _ (fun _ _ _ _ h => .dcowRest h _ _ _ _) (fun _ _ _ _ h => .runDcow h _ _ _ _)

theorem Keeps.execDcowPageCopy (h : Keeps s₀ s) (c slot) : OutKeeps s₀ (execDcowPageCopy c slot s) := by
  unfold Machine.execDcowPageCopy
  refine OutKeeps.next ?_
  dsimp only
  split
  · exact h
  · split
    · exact h
    · split
      · exact .dcowCopy h _ _ _ _ _
      · split
        · exact .dcowCopy h _ _ _ _ _
        · exact h

theorem Keeps.feedRest (h : Keeps s₀ s) (core ctx e o) : Keeps s₀ (feedRest s core ctx e o).1 := .dxeRows h _ _ _ _ _ _ _ _

theorem Keeps.runFeed (h : Keeps s₀ s) (core ctx e x_o) : Keeps s₀ (runFeed core s ctx e x_o) := by
  unfold Machine.runFeed
  dsimp only
  split
  · exact .failAccess (.fetchAt h _ _) _ _ _ _ _ _ _
  · exact .doneEntry (.iteStep (.coreM (.fetchAt h _ _) _ _ _) (fun h => .feedHcv h _ _ _ _)) _ _ _ _ _

theorem Keeps.execDcrcFeed (h : Keeps s₀ s) (c) : OutKeeps s₀ (execDcrcFeed c s) :=
  Keeps.takeHead h _ _ _ _ _ (fun _ _ _ _ h => .feedRest h _ _ _ _) (fun _ _ _ _ h => .runFeed h _ _ _ _)

theorem Keeps.saveRest (h : Keeps s₀ s) (core ctx e o) : Keeps s₀ (saveRest s core ctx e o).1 := .dxeRows h _ _ _ _ _ _ _ _

theorem Keeps.runSave (h : Keeps s₀ s) (core ctx e x_o) : Keeps s₀ (runSave core s ctx e x_o) := by
  unfold Machine.runSave
  dsimp only
  split
  · exact .holdEntry h _ _ _ _
  · split
    · exact .failAccess (.vaWrite h _ _ _) _ _ _ _ _ _ _
    · exact .doneEntry (.checkStreams (.vaWrite h _ _ _) _ _ _ _ _ _ _ _) _ _ _ _ _

theorem Keeps.execDcrcSave (h : Keeps s₀ s) (c) : OutKeeps s₀ (execDcrcSave c s) :=
  Keeps.takeHead h _ _ _ _ _ (fun _ _ _ _ h => .saveRest h _ _ _ _) (fun _ _ _ _ h => .runSave h _ _ _ _)

theorem Keeps.loadRest (h : Keeps s₀ s) (core ctx e o) : Keeps s₀ (loadRest s core ctx e o).1 := .dxeRows h _ _ _ _ _ _ _ _

theorem Keeps.runCrcLoad (h : Keeps s₀ s) (core ctx e x_o) : Keeps s₀ (runCrcLoad core s ctx e x_o) := by
  unfold Machine.runCrcLoad
  dsimp only
  split
  · exact .failAccess (.vaRead h _ _ _ _) _ _ _ _ _ _ _
  · exact .doneEntry (.checkStreams (.coreM (.vaRead h _ _ _ _) _ _ _) _ _ _ _ _ _ _ _) _ _ _ _ _

theorem Keeps.execDcrcLoad (h : Keeps s₀ s) (c) : OutKeeps s₀ (execDcrcLoad c s) :=
  Keeps.takeHead h _ _ _ _ _ (fun _ _ _ _ h => .loadRest h _ _ _ _) (fun _ _ _ _ h => .runCrcLoad h _ _ _ _)

end Sys2Proof.Machine
end

section
/-! SUPPORT. What every step keeps: the collective engine. -/

namespace Sys2Proof.Machine

variable {s₀ s : State}

theorem Keeps.collM (h : Keeps s₀ s) (ctx unit k f) : Keeps s₀ (s.collM ctx unit k f) := .update h rfl

theorem Keeps.collEnd (h : Keeps s₀ s) (ctx unit k) : Keeps s₀ (s.collEnd ctx unit k) := .ite h (.update h rfl)

theorem Keeps.cxeRest (h : Keeps s₀ s) (core ctx e o) : Keeps s₀ (cxeRest s core ctx e o).1 := by
  unfold Machine.cxeRest
  dsimp only
  split
  · exact h
  · exact .dxeRows h _ _ _ _ _ _ _ _

theorem Keeps.announce (h : Keeps s₀ s) (ctx unit k o) : Keeps s₀ (s.announce ctx unit k o) :=
  .ite h (.foldl h (fun _ _ h => .emit h _) _)

theorem Keeps.peerJoins (h : Keeps s₀ s) (j) : Keeps s₀ (s.peerJoins j) := .update h rfl

theorem Keeps.joinColl (h : Keeps s₀ s) (core ctx e o) : Keeps s₀ (joinColl core s ctx e o) := by
  unfold Machine.joinColl
  dsimp only
  split
  · exact .failAccess (.ite_fst (.takeScales h _ _ _) h) _ _ _ _ _ _ _
  · exact .announce (.entryM (.coreM (.ite_fst (.takeScales h _ _ _) h) _ _ _) _ _ _ _ _) _ _ _ _

theorem Keeps.endAll (h : Keeps s₀ s) (ctx unit k o) : Keeps s₀ (s.endAll ctx unit k o) := by
  unfold State.endAll
  dsimp only
  refine .collEnd (.foldl h (fun _ _ h => ?_) _) _ _ _
  split
  · exact .endEntry h _ _ _ _ _
  · exact h

theorem Keeps.sendStream (h : Keeps s₀ s) (ctx unit k m ws) : Keeps s₀ (s.sendStream ctx unit k m ws) :=
  .foldl (.foldl h (fun _ _ h => .emit h _) _) (fun _ _ h => .emit h _) _

theorem Keeps.sumDies (h : Keeps s₀ s) (ctx ps) : Keeps s₀ (s.sumDies ctx ps).1 := by
  unfold State.sumDies
  dsimp only
  refine .foldl_fst h (fun _ _ h => ?_)
  split
  · exact h
  · split
    · exact .fetchAt h _ _
    · exact .fetchAt h _ _

theorem Keeps.startSum (h : Keeps s₀ s) (ctx unit k ps peers) : Keeps s₀ (s.startSum ctx unit k ps peers) := by
  unfold State.startSum
  dsimp only
  split
  · exact .failAccess (.sumDies h _ _) _ _ _ _ _ _ _
  · exact .update (.foldl (.sumDies h _ _) (fun _ _ h => .sendStream h _ _ _ _ _) _) rfl

theorem Keeps.readSlots (h : Keeps s₀ s) (ctx ps) : Keeps s₀ (s.readSlots ctx ps).1 := by
  unfold State.readSlots
  dsimp only
  refine .foldl_fst h (fun _ _ h => ?_)
  split
  · exact h
  · split
    · exact .vaRead h _ _ _ _
    · exact .vaRead h _ _ _ _

theorem Keeps.startNorm (h : Keeps s₀ s) (ctx unit k ps peers) : Keeps s₀ (s.startNorm ctx unit k ps peers) := by
  unfold State.startNorm
  dsimp only
  split
  · exact .failAccess (.readSlots h _ _) _ _ _ _ _ _ _
  · exact .update (.foldl (.readSlots h _ _) (fun _ _ h => .foldl h (fun _ _ h => .emit h _) _) _) rfl

theorem Keeps.gatherMove (h : Keeps s₀ s) (ctx ps o n me) : Keeps s₀ (s.gatherMove ctx ps o n me).1 := by
  unfold State.gatherMove
  dsimp only
  refine .foldl_fst h (fun _ _ h => ?_)
  split
  · split
    · exact .fetchAt h _ _
    · exact .fetchAt h _ _
  · exact h

theorem Keeps.moveOne (h : Keeps s₀ s) (ctx ps o n form me) : Keeps s₀ (s.moveOne ctx ps o n form me) := by
  unfold State.moveOne
  dsimp only
  split
  · exact .failEntry h _ _ _ _ _ _ _
  · split
    · exact .failAccess (.gatherMove h _ _ _ _ _) _ _ _ _ _ _ _
    · split
      · exact .failAccess (.writeMasked (.gatherMove h _ _ _ _ _) _ _) _ _ _ _ _ _ _
      · exact .iteStep (.writeMasked (.gatherMove h _ _ _ _ _) _ _) (fun h => .doneEntry h _ _ _ _ _)

theorem Keeps.sendPart (h : Keeps s₀ s) (ctx unit k m o n q x) : Keeps s₀ (s.sendPart ctx unit k m o n q x) := by
  unfold State.sendPart
  dsimp only
  split
  · exact .failAccess (.fetchAt h _ _) _ _ _ _ _ _ _
  · exact .emit (.fetchAt h _ _) _

theorem Keeps.startMove (h : Keeps s₀ s) (ctx unit k ps o peers) : Keeps s₀ (s.startMove ctx unit k ps o peers) :=
  Keeps.collEnd (.foldl (.iteElse (.foldl h (fun _ _ h => .foldl h (fun _ _ h => .foldl h (fun _ _ h =>
    .sendPart h _ _ _ _ _ _ _ _) _) _) _) (fun h => .update h rfl)) (fun _ _ h => .moveOne h _ _ _ _ _ _) _) _ _ _

theorem Keeps.partIn (h : Keeps s₀ s) (ctx unit k source dest bytes) : Keeps s₀ (s.partIn ctx unit k source dest bytes) := by
  unfold State.partIn
  dsimp only
  split
  · exact h
  · split
    · exact h
    · split
      · exact .collM h _ _ _ _
      · split
        · exact .collM h _ _ _ _
        · refine .collEnd ?_ _ _ _
          split
          · exact .failAccess (.writeMasked (.collM h _ _ _ _) _ _) _ _ _ _ _ _ _
          · exact .iteStep (.writeMasked (.collM h _ _ _ _) _ _) (fun h => .doneEntry h _ _ _ _ _)

theorem Keeps.wireFault (h : Keeps s₀ s) (ctx unit k m) : Keeps s₀ (s.wireFault ctx unit k m) := by
  unfold State.wireFault
  dsimp only
  exact .setFault (.endAll (.failRec h _ _ _ _ _ _) _ _ _ _) _ _ _

theorem Keeps.chunkSdc (h : Keeps s₀ s) (ctx unit k m chunk want got) : Keeps s₀ (s.chunkSdc ctx unit k m chunk want got) :=
  .endAll (.sdcRec h _ _ _ _ _) _ _ _ _

theorem Keeps.chunkIn (h : Keeps s₀ s) (ctx unit k m bytes last) : Keeps s₀ (s.chunkIn ctx unit k m bytes last) :=
  .ite (.wireFault h _ _ _ _) (.ite (.chunkSdc h _ _ _ _ _ _ _) (.collM h _ _ _ _))

theorem Keeps.tlwIn (h : Keeps s₀ s) (ctx unit k m c t) : Keeps s₀ (s.tlwIn ctx unit k m c t) := by
  unfold State.tlwIn
  dsimp only
  split
  · exact .collM h _ _ _ _
  · split
    · exact .ite (.chunkSdc h _ _ _ _ _ _ _) (.collM h _ _ _ _)
    · exact h

theorem Keeps.collWord (h : Keeps s₀ s) (m f) : Keeps s₀ (s.collWord m f) := by
  unfold State.collWord
  dsimp only
  split
  · split
    · exact .ite (.chunkIn h _ _ _ _ _ _) h
    · exact .ite (.update h rfl) h
  · split
    · split
      · exact .tlwIn h _ _ _ _ _ _
      · exact .wireFault h _ _ _ _
    · exact .ite (.update h rfl) h
  · split
    · exact .partIn h _ _ _ _ _ _
    · exact .ite (.update h rfl) h
  · exact h

theorem Keeps.execChunkReceive (h : Keeps s₀ s) (ctx unit k m bytes last) : OutKeeps s₀ (execChunkReceive ctx unit k m bytes last s) :=
  Keeps.collWord h _ _

theorem Keeps.execTlwReceive (h : Keeps s₀ s) (ctx unit k m bytes) : OutKeeps s₀ (execTlwReceive ctx unit k m bytes s) :=
  Keeps.collWord h _ _

theorem Keeps.collOpen (h : Keeps s₀ s) (ctx unit k) : Keeps s₀ (s.collOpen ctx unit k) :=
  .foldl (.update h rfl) (fun _ _ h => .ite (.collWord h _ _) h) _

theorem Keeps.execCollectiveStart (h : Keeps s₀ s) (ctx unit k) : OutKeeps s₀ (execCollectiveStart ctx unit k s) := by
  unfold Machine.execCollectiveStart
  refine OutKeeps.next ?_
  dsimp only
  split
  · exact h
  · split
    · exact .collOpen (.foldl h (fun _ _ h => .failEntry h _ _ _ _ _ _ _) _) _ _ _
    · split
      · refine .collOpen ?_ _ _ _
        split
        · exact .startNorm h _ _ _ _ _
        · exact .startMove h _ _ _ _ _ _
        · exact .startMove h _ _ _ _ _ _
        · exact .startSum h _ _ _ _ _
      · exact h

theorem Keeps.escRec (h : Keeps s₀ s) (ctx core c flagged) : Keeps s₀ (s.escRec ctx core c flagged) := .raiseRec h _

theorem Keeps.finishSum (h : Keeps s₀ s) (ctx core e c) : Keeps s₀ (s.finishSum ctx core e c) := by
  unfold State.finishSum
  dsimp only
  split
  · exact h
  · split
    · exact .failAccess (.convertTo h _ _ _ _ _) _ _ _ _ _ _ _
    · split
      · exact .sdcEntry (.addFlagged (.convertTo h _ _ _ _ _) _ _) _ _ _ _ _
      · exact .doneEntry (.iteStep (.addFlagged (.convertTo h _ _ _ _ _) _ _) (fun h => .escRec h _ _ _ _)) _ _ _ _ _

theorem Keeps.finishNorm (h : Keeps s₀ s) (ctx core e c) : Keeps s₀ (s.finishNorm ctx core e c) := by
  unfold State.finishNorm
  dsimp only
  split
  · exact .sdcEntry h _ _ _ _ _
  · split
    · exact .failAccess (.vaWrite h _ _ _) _ _ _ _ _ _ _
    · exact .doneEntry (.vaWrite h _ _ _) _ _ _ _ _

theorem Keeps.cxeTake (h : Keeps s₀ s) (c sel) : Keeps s₀ (cxeTake c sel s) := by
  unfold Machine.cxeTake
  dsimp only
  split
  · exact .ite h (.collEnd (.progress (.ite (.finishNorm h _ _ _ _) (.finishSum h _ _ _ _)) _ _) _ _ _)
  · exact .takeHead h _ _ _ _ _ (fun _ _ _ _ h => .cxeRest h _ _ _ _) (fun _ _ _ _ h => .joinColl h _ _ _ _)

theorem Keeps.execCred (h : Keeps s₀ s) (c) : OutKeeps s₀ (execCred c s) := Keeps.cxeTake h _ _

theorem Keeps.execCredNorm (h : Keeps s₀ s) (c) : OutKeeps s₀ (execCredNorm c s) := Keeps.cxeTake h _ _

theorem Keeps.execCrsc (h : Keeps s₀ s) (c) : OutKeeps s₀ (execCrsc c s) := Keeps.cxeTake h _ _

theorem Keeps.execCbcs (h : Keeps s₀ s) (c) : OutKeeps s₀ (execCbcs c s) := Keeps.cxeTake h _ _

theorem Keeps.execCa2a (h : Keeps s₀ s) (c) : OutKeeps s₀ (execCa2a c s) := Keeps.cxeTake h _ _

end Sys2Proof.Machine
end

section
/-! SUPPORT. What every step keeps: span links. -/

namespace Sys2Proof.Machine

variable {s₀ s : State}

theorem Keeps.linkRec (h : Keeps s₀ s) (code d0 d1) : Keeps s₀ (s.linkRec code d0 d1) := .raiseRec h _

theorem Keeps.goneRec (h : Keeps s₀ s) (unit ctx opcode m) : Keeps s₀ (s.goneRec unit ctx opcode m).1 := .failRec h _ _ _ _ _ _

theorem Keeps.goneWaits (h : Keeps s₀ s) (c m) : Keeps s₀ (s.goneWaits c m).1 := by
  unfold State.goneWaits
  dsimp only
  refine .foldl_fst (.foldl_fst h (fun _ _ h => .foldl_fst h (fun _ _ h => .endEntry (.goneRec h _ _ _ _) _ _ _ _ _))) (fun _ _ h => ?_)
  split
  · refine .seqFail (.goneRec ?_ _ _ _ _) _ _ _
    split
    · exact .ite_fst (.seqM (.goneRec h _ _ _ _) _ _ _) h
    · exact h
  · refine .seqFail (.goneRec ?_ _ _ _ _) _ _ _
    split
    · exact .ite_fst (.seqM (.goneRec h _ _ _ _) _ _ _) h
    · exact h
  · split
    · exact .ite_fst (.seqM (.goneRec h _ _ _ _) _ _ _) h
    · exact h

theorem Keeps.dropSpanColls (h : Keeps s₀ s) (ctx) : Keeps s₀ (s.dropSpanColls ctx) := .update (.dropColls h _) rfl

theorem Keeps.endSpanJobs (h : Keeps s₀ s) (m) : Keeps s₀ (s.endSpanJobs m) := by
  unfold State.endSpanJobs
  dsimp only
  refine .foldl h (fun _ _ h => ?_) _
  split
  · exact .jobM h _ _
  · split
    · exact .iteStep (.setFault (.dropSpanColls (.goneWaits (.jobM h _ _) _ _) _) _ _ _) (fun h => .moveAway h _)
    · exact .iteStep (.setFault (.dropSpanColls (.goneRec (.goneWaits (.jobM h _ _) _ _) _ _ _ _) _) _ _ _) (fun h => .moveAway h _)

theorem Keeps.answerRead (h : Keeps s₀ s) (w x) : Keeps s₀ (s.answerRead w x) := by
  unfold State.answerRead
  split
  · exact .ite (.emit (.fmpSent (.emit h _) _) _) (.emit h _)
  · exact .emit h _

theorem Keeps.dropForwards (h : Keeps s₀ s) (m) : Keeps s₀ (s.dropForwards m) :=
  .foldl (.update h rfl) (fun _ _ h => .iteElse (.infoAccess h _ _ _ _) (fun h => .answerRead h _ _)) _

theorem Keeps.lossRec (h : Keeps s₀ s) (m cause l) : Keeps s₀ (s.lossRec m cause l) := .raiseRec h _

theorem Keeps.memberLost (h : Keeps s₀ s) (m cause) : Keeps s₀ (s.memberLost m cause) :=
  .ite h (.iteElse (.dropForwards (.update (.linkM h _ _) rfl) _) (fun h => .endSpanJobs (.linkM (.lossRec h _ _ _) _ _) _))

theorem Keeps.selfLost (h : Keeps s₀ s) (cause l) : Keeps s₀ (s.selfLost cause l) :=
  .ite h (.endSpanJobs (.update (.lossRec h _ _ _) rfl) _)

theorem Keeps.relay (h : Keeps s₀ s) (m cause) : Keeps s₀ (s.relay m cause) := .foldl h (fun _ _ h => .ite h (.emit h _)) _

theorem Keeps.linkFails (h : Keeps s₀ s) (l cause) : Keeps s₀ (s.linkFails l cause) := by
  unfold State.linkFails
  dsimp only
  split
  · exact h
  · exact .ite h (.ite (.linkM h _ _) (.ite (.memberLost (.relay (.linkM h _ _) _ _) _ _) (.iteStep (.ite (.linkM h _ _) (.emit
      (.linkM h _ _) _)) (fun h => .selfLost h _ _))))

theorem Keeps.execSpanLinkTrained (h : Keeps s₀ s) (l proved spanId index master members replace) : OutKeeps s₀
  (execSpanLinkTrained l proved spanId index master members replace s) := by
  unfold Machine.execSpanLinkTrained
  refine OutKeeps.next ?_
  dsimp only
  split
  · exact h
  · exact .ite h (.ite (.linkRec (.linkM h _ _) _ _ _) (.ite (.linkM (.linkM h _ _) _ _) (.ite (.linkRec (.linkM
      (.linkM h _ _) _ _) _ _ _) (.linkM (.ite (.update (.linkM h _ _) rfl) (.linkM h _ _)) _ _))))

theorem Keeps.execLinkHandshakeRetry (h : Keeps s₀ s) (l proved) : OutKeeps s₀ (execLinkHandshakeRetry l proved s) :=
  Keeps.ite h (.ite (.linkM h _ _) (.linkRec h _ _ _))

theorem Keeps.stopIn (h : Keeps s₀ s) (job o origin) : Keeps s₀ (s.stopIn job o origin) := by
  unfold State.stopIn
  dsimp only
  split
  · exact h
  · exact .ite h (.ite (.setFault (.ite (.tellStop (.jobM h _ _) _ _ _) (.jobM h _ _)) _ _ _) (.cancelJobs (.ite (.tellStop
      (.jobM h _ _) _ _ _) (.jobM h _ _)) _ _))

theorem Keeps.shareEndIn (h : Keeps s₀ s) (m job o flagged) : Keeps s₀ (s.shareEndIn m job o flagged) := by
  unfold State.shareEndIn
  split
  · exact h
  · exact .ite h (.stopIn (.jobM h _ _) _ _ _)

theorem Keeps.execShareEndNotice (h : Keeps s₀ s) (m job ended flagged) : OutKeeps s₀ (execShareEndNotice m job ended flagged s) :=
  Keeps.ite (.shareEndIn h _ _ _ _) (.ite (.stopIn h _ _ _) h)

theorem Keeps.scsetIn (h : Keeps s₀ s) (unit ctx ctr v fan m) : Keeps s₀ (s.scsetIn unit ctx ctr v fan m) :=
  .ite h (.ite (.foldl h (fun _ _ h => .setCtr h _ _ _ _ _ _) _) (.ite (.setCtr h _ _ _ _ _ _) h))

theorem Keeps.peerFault (h : Keeps s₀ s) (tag d0 d1 d3) : Keeps s₀ (s.peerFault tag d0 d1 d3) := by
  unfold State.peerFault
  dsimp only
  split
  · exact .ite h (.seqExc h _ _ _ _ _ _)
  · split
    · exact .ite (.failEntry h _ _ _ _ _ _ _) h
    · exact h

theorem Keeps.flitApply (h : Keeps s₀ s) (m f) : Keeps s₀ (s.flitApply m f) := by
  have write g va bs : Keeps s₀ (s.vaWrite g va bs).1 := .vaWrite h _ _ _
  have read g va n : Keeps s₀ (s.vaRead g va n).1 := .vaRead h _ _ _ _
  unfold State.flitApply
  cases f with
  | signal unit ctx ctr inc epoch fan => exact .ite h (.ite (.fanout h _ _) (.sendSignal h _ _))
  | scset unit ctx ctr v fan => exact .scsetIn h _ _ _ _ _ _
  | write ctx epoch va bytes tag =>
    refine .ite (.dropStale h _) ?_
    split
    · next hw => exact (congrArg Prod.fst hw ▸ write _ _ _ :)
    · next hw => exact .emit (congrArg Prod.fst hw ▸ write _ _ _ :) _
  | read ctx va n tag =>
    dsimp only
    split
    · next hr => exact .emit (congrArg Prod.fst hr ▸ read _ _ _ :) _
    · next hr => exact .emit (congrArg Prod.fst hr ▸ read _ _ _ :) _
  | data tag b => exact h
  | fault tag d0 d1 d3 => exact .peerFault h _ _ _ _
  | joined ctx unit k key wants => exact .peerJoins h _
  | differ ctx unit k => exact .peerJoins h _
  | tlw => exact .collWord h _ _
  | chunk => exact .collWord h _ _
  | part => exact .collWord h _ _
  | epoch ctx ep forced => exact .iteStep h fun h => .takeEpoch h _ _ _
  | moveAsk ctx forced => exact .takeMoveAsk h _ _
  | queued ctx on => exact .iteStep h fun h => .takeQueued h _ _
  | shareEnd job status cause esn flagged => exact .shareEndIn h _ _ _ _
  | stop job status cause esn origin => exact .iteStep h fun h => .stopIn h _ _ _
  | state k st => exact .update h rfl
  | idle => exact h
  | other => exact h

theorem Keeps.execFlitReceive (h : Keeps s₀ s) (l seq crcOk tagOk fec load) : OutKeeps s₀
  (execFlitReceive l seq crcOk tagOk fec load s) := by
  unfold Machine.execFlitReceive
  refine OutKeeps.next ?_
  dsimp only
  split
  · exact h
  · exact .ite h (.ite (.linkFails (.ite (.linkM h _ _) h) _ _) (.ite (.flitApply (.linkM (.ite (.linkM h _ _) h) _ _) _ _) (.ite
      (.iteStep (.ite (.linkM h _ _) h) (fun h => .linkFails h _ _)) (.linkM (.ite (.linkM h _ _) h) _ _))))

theorem Keeps.execLaneLockLoss (h : Keeps s₀ s) (l) : OutKeeps s₀ (execLaneLockLoss l s) := Keeps.linkFails h _ _

theorem Keeps.execPeerSilence (h : Keeps s₀ s) (l) : OutKeeps s₀ (execPeerSilence l s) := by
  unfold Machine.execPeerSilence
  refine OutKeeps.next ?_
  split
  · exact h
  · exact .ite (.memberLost h _ _) h

theorem Keeps.execWithdrawalNotice (h : Keeps s₀ s) (l m cause) : OutKeeps s₀ (execWithdrawalNotice l m cause s) := by
  unfold Machine.execWithdrawalNotice
  refine OutKeeps.next ?_
  split
  · exact h
  · exact .ite h (.ite (.ite h (.ite (.memberLost (.relay h _ _) _ _) (.ite (.memberLost h _ _) h))) (.ite h (.ite (.selfLost h _ _)
      (.memberLost h _ _))))

theorem Keeps.admitMember (h : Keeps s₀ s) (m cores) : Keeps s₀ (s.admitMember m cores) := .update h rfl

theorem Keeps.execMemberAdmit (h : Keeps s₀ s) (m) : OutKeeps s₀ (execMemberAdmit m s) :=
  Keeps.ite h (.ite (.ite h (.promote (.foldl (.admitMember h _ _) (fun _ _ h => .ite h (.emit h _)) _))) (.admitMember h _ _))

theorem Keeps.spanCtl (h : Keeps s₀ s) (w op m act) (hact : ∀ t, Keeps s₀ t → Keeps s₀ (act t)) : Keeps s₀ (s.spanCtl w op m act) :=
  .ite (.infoAccess h _ _ _ _) (.ite (hact _ h) h)

theorem Keeps.execExpel (h : Keeps s₀ s) (w m) : OutKeeps s₀ (execExpel w m s) :=
  Keeps.spanCtl h _ _ _ _ (fun _ h => .update (.memberLost (.relay h _ _) _ _) rfl)

theorem Keeps.execReadmit (h : Keeps s₀ s) (w m) : OutKeeps s₀ (execReadmit w m s) :=
  Keeps.spanCtl h _ _ _ _ (fun _ h => .ite h (.linkM (.update h rfl) _ _))

end Sys2Proof.Machine
end

section
/-! SUPPORT. What every step keeps: the management port. -/

namespace Sys2Proof.Machine

variable {s₀ s : State}

theorem Keeps.fmpAns (h : Keeps s₀ s) (id status) : Keeps s₀ (s.fmpAns id status) := .fmpSent (.emit h _) _

theorem Keeps.fmpOp (h : Keeps s₀ s) (id role run) (hrun : ∀ t, Keeps s₀ t → Keeps s₀ (run t)) : Keeps s₀ (s.fmpOp id role run) :=
  .ite h (.ite (.dropSessions h _ _) (.ite (hrun _ h) (.fmpAns h _ _)))

theorem Keeps.openFails (h : Keeps s₀ s) (source) : Keeps s₀ (s.openFails source) := .raiseRec (.update h rfl) _

theorem Keeps.execFmpSessionOpen (h : Keeps s₀ s) (source account verified) : OutKeeps s₀
  (execFmpSessionOpen source account verified s) := by
  unfold Machine.execFmpSessionOpen
  refine OutKeeps.next ?_
  dsimp only
  split
  · exact h
  · split
    · exact .raiseRec h _
    · split
      · exact .openFails h _
      · exact .ite (.openFails h _) (.info (.update h rfl) _ _ _ _ _)

theorem Keeps.execFmpSessionIdle (h : Keeps s₀ s) (id) : OutKeeps s₀ (execFmpSessionIdle id s) := Keeps.dropSessions h _ _

theorem Keeps.execFmpLockoutExpiry (h : Keeps s₀ s) (source) : OutKeeps s₀ (execFmpLockoutExpiry source s) := Keeps.update h rfl

theorem Keeps.execLedgerStream (h : Keeps s₀ s) (id) : OutKeeps s₀ (execLedgerStream id s) := by
  refine Keeps.fmpOp h _ _ _ fun t h => ?_
  extract_lets t₁ t₂ t₃
  have h₁ : Keeps s₀ t₁ := .fmpAns h _ _
  have h₂ : Keeps s₀ t₂ := by
    simp only [t₂]
    split
    · exact .ite h₁ (.fmpEvent h₁ _ _)
    · exact h₁
  have h₃ : Keeps s₀ t₃ := .foldl h₂ (fun _ _ h => .fmpSent (.emit h _) _) _
  exact ⟨h₃.queue, fun h0 => Ledger.inOrder_map (f := fun r => { r with delivered := true }) (h₃.order h0) (fun _ => rfl) rfl rfl,
    h₃.cells⟩

theorem Keeps.execLedgerAck (h : Keeps s₀ s) (id esn) : OutKeeps s₀ (execLedgerAck id esn s) := by
  refine Keeps.fmpOp h _ _ _ fun t h => .fmpAns ?_ _ _
  exact ⟨h.queue, fun h0 => Ledger.inOrder_sublist (h.order h0) List.filter_sublist (Nat.le_refl _), h.cells⟩

theorem Keeps.execFuncAssign (h : Keeps s₀ s) (id f base size quota checkf) : OutKeeps s₀
  (execFuncAssign id f base size quota checkf s) :=
  Keeps.fmpOp h _ _ _ (fun _ h => .ite (.fmpAns h _ _) (.ite (.fmpAns h _ _) (.fmpAns (.nvmCommit (.info (.update
    (.funcM h _ _) rfl) _ _ _ _ _)) _ _)))

theorem Keeps.execKdBind (h : Keeps s₀ s) (id f d) : OutKeeps s₀ (execKdBind id f d s) :=
  Keeps.fmpOp h _ _ _ (fun _ h => .ite (.fmpAns h _ _) (.fmpAns (.nvmCommit (.info (.update (.funcM
    (.domM h _ _) _ _) rfl) _ _ _ _ _)) _ _))

theorem Keeps.execKdRelease (h : Keeps s₀ s) (id d) : OutKeeps s₀ (execKdRelease id d s) := by
  unfold Machine.execKdRelease
  refine OutKeeps.next ?_
  dsimp only
  refine .fmpOp h _ _ _ (fun _ h => ?_)
  split
  · exact .fmpAns h _ _
  · exact .ite (.fmpAns h _ _) (.fmpAns (.nvmCommit (.infoOther (.update (.domM h _ _) rfl) _ _ _ _)) _ _)

theorem Keeps.freshZero (h : Keeps s₀ s) (a n dom) : Keeps s₀ (s.freshZero a n dom) :=
  .keepRetired (.countLines (.stackClaim (.zeroBytes h _ _) _ _ _) _ _ _) _ _

theorem Keeps.execKdFillDone (h : Keeps s₀ s) (d) : OutKeeps s₀ (execKdFillDone d s) :=
  Keeps.ite h (.fmpEventAll (.infoOther (.update (.funcM (.domM (.freshZero h _ _ _) _ _) _ _) rfl) _ _ _ _) _)

theorem Keeps.putImage (h : Keeps s₀ s) (img) : Keeps s₀ (s.putImage img) := .writeImage h _

theorem Keeps.execConfigWrite (h : Keeps s₀ s) (id img) : OutKeeps s₀ (execConfigWrite id img s) :=
  Keeps.fmpOp h _ _ _ (fun _ h => .ite (.fmpAns h _ _) (.ite (.fmpAns (.update h rfl) _ _) (.fmpAns (.putImage h _) _ _)))

theorem Keeps.execFwLoad (h : Keeps s₀ s) (id comp slotComp version svn digest sigEd sigMl) : OutKeeps s₀
  (execFwLoad id comp slotComp version svn digest sigEd sigMl s) := by
  unfold Machine.execFwLoad
  refine OutKeeps.next ?_
  dsimp only
  refine .fmpOp h _ _ _ (fun _ h => ?_)
  split
  · exact .fmpAns h _ _
  · split
    · exact .fmpAns (.update h rfl) _ _
    · split
      · exact .fmpAns (.raiseRec (.update h rfl) _) _ _
      · exact .fmpAns (.info (.imgM (.update h rfl) _ _ _) _ _ _ _ _) _ _

theorem Keeps.putOff (h : Keeps s₀ s) (comp) : Keeps s₀ (s.putOff comp) :=
  .ite (.foldl h (fun _ _ h => .ite (.procM h _ _) h) _) (.update (.foldl h (fun _ _ h => .ite (.procM h _ _) h) _) rfl)

theorem Keeps.execFwActivate (h : Keeps s₀ s) (id comp) : OutKeeps s₀ (execFwActivate id comp s) :=
  Keeps.fmpOp h _ _ _ (fun _ h => .ite (.fmpAns h _ _) (.ite (.fmpAns (.info (.putOff h _) _ _ _ _ _) _ _) (.ite (.fmpAns
    (.putOff h _) _ _) (.startActivation (.fmpAns h _ _) _))))

theorem Keeps.execFwCommit (h : Keeps s₀ s) (id comp) : OutKeeps s₀ (execFwCommit id comp s) :=
  Keeps.fmpOp h _ _ _ (fun _ h => .ite (.fmpAns h _ _) (.fmpAns (.info (.update h rfl) _ _ _ _ _) _ _))

theorem Keeps.takeDeferred (h : Keeps s₀ s) : Keeps s₀ (s.takeDeferred) := by
  unfold State.takeDeferred
  dsimp only
  refine .foldl (.update h rfl) (fun _ _ h => ?_) _
  split
  · exact h
  · exact .fmpEventAll (.putImage h _) _
  · exact .startActivation (.fmpEventAll h _) _

theorem Keeps.execEmergencyEnd (h : Keeps s₀ s) : OutKeeps s₀ (execEmergencyEnd s) := Keeps.ite h (.takeDeferred (.update h rfl))

theorem Keeps.execProcRelease (h : Keeps s₀ s) (id p) : OutKeeps s₀ (execProcRelease id p s) :=
  Keeps.fmpOp h _ _ _ (fun _ h => .ite (.fmpAns h _ _) (.iteElse (.fmpAns (.goDown (.procM h _ _) _ _ _) _ _) (fun h => .clusM h _ _)))

theorem Keeps.mainArrives (h : Keeps s₀ s) : Keeps s₀ (s.mainArrives) := .ite (.noted (.update h rfl) _) (.update h rfl)

theorem Keeps.execMainPowerOn (h : Keeps s₀ s) (id) : OutKeeps s₀ (execMainPowerOn id s) :=
  Keeps.fmpOp h _ _ _ (fun _ h => .ite (.fmpAns h _ _) (.fmpAns (.mainArrives (.resetRec (.update h rfl) _ _)) _ _))

theorem Keeps.execResetGrant (h : Keeps s₀ s) (id on) : OutKeeps s₀ (execResetGrant id on s) :=
  Keeps.fmpOp h _ _ _ (fun _ h => .fmpAns (.update h rfl) _ _)

theorem Keeps.execDebugGrant (h : Keeps s₀ s) (id f on) : OutKeeps s₀ (execDebugGrant id f on s) :=
  Keeps.fmpOp h _ _ _ (fun _ h => .ite (.fmpAns h _ _) (.fmpAns (.info (.funcM h _ _) _ _ _ _ _) _ _))

theorem Keeps.execDumpList (h : Keeps s₀ s) (id) : OutKeeps s₀ (execDumpList id s) :=
  Keeps.fmpOp h _ _ _ (fun _ h => .emit (.fmpAns h _ _) _)

theorem Keeps.execDumpRead (h : Keeps s₀ s) (id index) : OutKeeps s₀ (execDumpRead id index s) := by
  unfold Machine.execDumpRead
  refine OutKeeps.next ?_
  refine .fmpOp h _ _ _ (fun _ h => ?_)
  split
  · exact .fmpAns h _ _
  · exact .emit (.fmpAns h _ _) _

theorem Keeps.execDumpPin (h : Keeps s₀ s) (id index on) : OutKeeps s₀ (execDumpPin id index on s) :=
  Keeps.fmpOp h _ _ _ (fun _ h => .ite (.fmpAns h _ _) (.fmpAns (.update h rfl) _ _))

theorem Keeps.putAccounts (h : Keeps s₀ s) (l) : Keeps s₀ (s.putAccounts l) := .nvmCommit (.info (.update h rfl) _ _ _ _ _)

theorem Keeps.execAccountAdd (h : Keeps s₀ s) (id a) : OutKeeps s₀ (execAccountAdd id a s) :=
  Keeps.fmpOp h _ _ _ (fun _ h => .ite (.fmpAns h _ _) (.ite (.fmpAns (.putAccounts h _) _ _) (.ite (.fmpAns h _ _) (.fmpAns
    (.putAccounts h _) _ _))))

theorem Keeps.execAccountRemove (h : Keeps s₀ s) (id name) : OutKeeps s₀ (execAccountRemove id name s) :=
  Keeps.fmpOp h _ _ _ (fun _ h => .ite (.fmpAns h _ _) (.ite (.fmpAns h _ _) (.dropSessions (.fmpAns (.putAccounts h _) _ _) _ _)))

theorem Keeps.execAccountClear (h : Keeps s₀ s) (id) : OutKeeps s₀ (execAccountClear id s) :=
  Keeps.fmpOp h _ _ _ (fun _ h => .fmpAns (.update h rfl) _ _)

theorem Keeps.execAccountClearLapse (h : Keeps s₀ s) : OutKeeps s₀ (execAccountClearLapse s) := Keeps.update h rfl

theorem Keeps.clearAccounts (h : Keeps s₀ s) : Keeps s₀ (s.clearAccounts) := .dropSessions (.putAccounts (.update h rfl) _) _ _

theorem Keeps.execEnrolment (h : Keeps s₀ s) (a) : OutKeeps s₀ (execEnrolment a s) :=
  Keeps.ite h (.nvmCommit (.info (.update h rfl) _ _ _ _ _))

theorem Keeps.report (h : Keeps s₀ s) (l) : Keeps s₀ (s.report l).1 := by
  unfold State.report
  dsimp only
  exact .freeBytes h _

theorem Keeps.execMeasure (h : Keeps s₀ s) (id) : OutKeeps s₀ (execMeasure id s) := by
  unfold Machine.execMeasure
  refine OutKeeps.next ?_
  dsimp only
  exact .fmpOp h _ _ _ (fun _ h => .emit (.fmpAns (.report h _) _ _) _)

theorem Keeps.spdmAsk (h : Keeps s₀ s) (doe run) (hrun : ∀ t, Keeps s₀ t → Keeps s₀ (run t)) : Keeps s₀ (s.spdmAsk doe run) :=
  .ite h (.ite (hrun _ h) (.ite (.emit h _) (.ite (.emit h _) (.info (.emit h _) _ _ _ _ _))))

theorem Keeps.execSpdmRequest (h : Keeps s₀ s) (doe ask) : OutKeeps s₀ (execSpdmRequest doe ask s) := by
  unfold Machine.execSpdmRequest
  refine OutKeeps.next ?_
  dsimp only
  refine .spdmAsk h _ _ (fun _ h => ?_)
  split
  · exact .emit h _
  · exact .emit (.freeBytes (.update h rfl) _) _

theorem Keeps.execSpdmMeasurements (h : Keeps s₀ s) (doe block) : OutKeeps s₀ (execSpdmMeasurements doe block s) := by
  unfold Machine.execSpdmMeasurements
  refine OutKeeps.next ?_
  dsimp only
  exact .spdmAsk h _ _ (fun _ h => .ite (.emit h _) (.emit (.report h _) _))

theorem Keeps.execPldmRequest (h : Keeps s₀ s) (type2 sensor) : OutKeeps s₀ (execPldmRequest type2 sensor s) := by
  unfold Machine.execPldmRequest
  refine OutKeeps.next ?_
  dsimp only
  split
  · exact h
  · split
    · exact .emit (.freeWord64 h) _
    · split
      · exact h
      · split
        · exact .emit h _
        · exact h

end Sys2Proof.Machine
end

section
/-! SUPPORT. What every step keeps: bring-up. -/

namespace Sys2Proof.Machine

variable {s₀ s : State}

theorem Keeps.phaseEnds (h : Keeps s₀ s) (n) : Keeps s₀ (s.phaseEnds n) := .info (.update h rfl) _ _ _ _ _

theorem Keeps.bringUpFails (h : Keeps s₀ s) : Keeps s₀ (s.bringUpFails) := .ite (.raiseRec (.update h rfl) _) (.update h rfl)

theorem Keeps.loadFuncs (h : Keeps s₀ s) : Keeps s₀ (s.loadFuncs) := by
  unfold State.loadFuncs
  dsimp only
  refine .foldl h (fun _ _ h => ?_) _
  split
  · exact .domM (.funcM h _ _) _ _
  · exact .funcM h _ _

theorem Keeps.readImage (h : Keeps s₀ s) : Keeps s₀ s.readImage := by
  unfold State.readImage
  refine .iteStep (.foldl ?_ (fun _ _ h => .procM h _ _) _) fun h => .raiseRec h _
  exact .update h rfl

theorem Keeps.bootFallback (h : Keeps s₀ s) (comp) : Keeps s₀ (s.bootFallback comp) :=
  .raiseRec (.foldl (.writeImage h _) (fun _ _ h => .procM h _ _) _) _

theorem Keeps.execBringupPhase0 (h : Keeps s₀ s) (t sec) : OutKeeps s₀ (execBringupPhase0 t sec s) := by
  unfold Machine.execBringupPhase0
  extract_lets _ s₁ s₂ s₃
  have h₁ : Keeps s₀ s₁ := .update h rfl
  have h₃ : Keeps s₀ s₃ := .loadFuncs (.readImage (.info h₁ _ _ _ _ _))
  clear_value s₁ s₃
  refine OutKeeps.next (.ite h ?_)
  split
  · exact .bringUpFails (.procM h₁ _ _)
  · extract_lets s₄ _ _ _ _ s₅ s₆
    have h₄ : Keeps s₀ s₄ := .secStarts (.foldl h₃ (fun _ _ h => .bootFallback h _) _)
    have h₆ : Keeps s₀ s₆ := .phaseEnds (.noted (.update h₄ rfl) _) _
    exact .ite (.mainArrives h₆) h₆

theorem Keeps.upTo (h : Keeps s₀ s) (st) : Keeps s₀ (s.upTo st) := .ite (.freshDies (.setStateAll h _)) (.freshDies h)

theorem Keeps.execBringupPhase1 (h : Keeps s₀ s) (t) : OutKeeps s₀ (execBringupPhase1 t s) :=
  Keeps.ite (.ite (.mainArrives h) h) (.ite (.setStateAll (.phaseEnds (.update (.ite (.mainArrives h) h) rfl) _) _) (.update (.phaseEnds
    (.update (.ite (.mainArrives h) h) rfl) _) rfl))

theorem Keeps.leaveOut (h : Keeps s₀ s) (unit cores) : Keeps s₀ (s.leaveOut unit cores) := .raiseRec (.update (.freeWord64 h) rfl) _

theorem Keeps.execBringupPhase2 (h : Keeps s₀ s) (t badCores badClusters badHub) : OutKeeps s₀
  (execBringupPhase2 t badCores badClusters badHub s) :=
  Keeps.ite h (.ite (.bringUpFails h) (.upTo (.update (.phaseEnds (.update (.foldl (.foldl h (fun _ _ h => .ite (.leaveOut h _ _) h) _)
    (fun _ _ h => .ite (.leaveOut h _ _) h) _) rfl) _) rfl) _))

theorem Keeps.execBringupPhase3 (h : Keeps s₀ s) : OutKeeps s₀ (execBringupPhase3 s) := Keeps.ite h (.update h rfl)

theorem Keeps.stackChans (h : Keeps s₀ s) (st v) : Keeps s₀ (s.stackChans st v) := .update h rfl

theorem Keeps.openFills (h : Keeps s₀ s) (before) : Keeps s₀ (s.openFills before) := by
  unfold State.openFills
  dsimp only
  refine .foldl h (fun _ _ h => .foldl (.stackClaim h _ _ _) (fun _ _ h => ?_) _) _
  split
  · exact .ite (.stackClaim h _ _ _) h
  · exact h

theorem Keeps.execStackJoin (h : Keeps s₀ s) (st) : OutKeeps s₀ (execStackJoin st s) :=
  Keeps.ite h (.freshDies (.update (.openFills (.update (.info (.stackChans h _ _) _ _ _ _ _) rfl) _) rfl))

theorem Keeps.execStackFail (h : Keeps s₀ s) (st ch step) : OutKeeps s₀ (execStackFail st ch step s) :=
  Keeps.ite h (.raiseRec (.update (.stackChans h _ _) rfl) _)

theorem Keeps.execBringupPhase4 (h : Keeps s₀ s) (t) : OutKeeps s₀ (execBringupPhase4 t s) :=
  Keeps.ite h (.promote (.iteElse (.iteStep (.foldl (.upTo (.update (.phaseEnds h _) rfl) _) (fun _ _ h => .ite h (.linkM h _ _)) _)
    (fun h => .admitMember h _ _)) (fun h => .takeDeferred h)))

theorem Keeps.execBringupTimeout (h : Keeps s₀ s) : OutKeeps s₀ (execBringupTimeout s) :=
  Keeps.ite h (.ite (.bringUpFails (.procM (.freeWord64 h) _ _)) (.bringUpFails h))

end Sys2Proof.Machine
end

section
/-! SUPPORT. What every step keeps: the service panel. -/

namespace Sys2Proof.Machine

variable {s₀ s : State}

theorem Keeps.execLatchOpen (h : Keeps s₀ s) : OutKeeps s₀ (execLatchOpen s) := by
  unfold Machine.execLatchOpen
  refine OutKeeps.next ?_
  dsimp only
  split
  · exact h
  · split
    · exact .update h rfl
    · split
      · exact .update (.powerOff (.info (.update h rfl) _ _ _ _ _)) rfl
      · refine .openDump ?_ _ _ _ _
        split
        · exact .closeDump (.foldl (.noticeAll (.update (.raiseRec (.update h rfl) _) rfl) _) (fun _ _ h => .ite (.hartOff h _) h) _) _ _
        · exact .foldl (.noticeAll (.update (.raiseRec (.update h rfl) _) rfl) _) (fun _ _ h => .ite (.hartOff h _) h) _

theorem Keeps.execLatchDumpCutoff (h : Keeps s₀ s) : OutKeeps s₀ (execLatchDumpCutoff s) := by
  unfold Machine.execLatchDumpCutoff
  refine OutKeeps.next ?_
  split
  · exact h
  · exact .ite (.latchFinish (.closeDump h _ _)) h

theorem Keeps.execLatchClose (h : Keeps s₀ s) : OutKeeps s₀ (execLatchClose s) :=
  Keeps.ite h (.iteStep (.ite (.info (.update h rfl) _ _ _ _ _) (.update h rfl)) (fun h => .mainArrives h))

theorem Keeps.execPresenceChange (h : Keeps s₀ s) (pin made) : OutKeeps s₀ (execPresenceChange pin made s) :=
  Keeps.ite (.mainLost (.update h rfl)) (.ite (.mainArrives (.update h rfl)) (.update h rfl))

theorem Keeps.execDrainButtonHold (h : Keeps s₀ s) : OutKeeps s₀ (execDrainButtonHold s) :=
  Keeps.ite (.askDrain (.update h rfl) _) (.update h rfl)

theorem Keeps.setIdentify (h : Keeps s₀ s) (on source) : Keeps s₀ (s.setIdentify on source) :=
  .ite h (.info (.update h rfl) _ _ _ _ _)

theorem Keeps.execIdentifyTouch (h : Keeps s₀ s) (ms within1s) : OutKeeps s₀ (execIdentifyTouch ms within1s s) :=
  Keeps.ite h (.ite (.clearAccounts h) (.setIdentify h _ _))

theorem Keeps.panelCtl (h : Keeps s₀ s) (w ident on) : Keeps s₀ (s.panelCtl w ident on) :=
  .ite (.infoAccess h _ _ _ _) (.ite (.setIdentify h _ _) h)

theorem Keeps.execIdentOn (h : Keeps s₀ s) (w) : OutKeeps s₀ (execIdentOn w s) := Keeps.panelCtl h _ _ _

theorem Keeps.execIdentOff (h : Keeps s₀ s) (w) : OutKeeps s₀ (execIdentOff w s) := Keeps.panelCtl h _ _ _

theorem Keeps.execIdentToggle (h : Keeps s₀ s) (w) : OutKeeps s₀ (execIdentToggle w s) := Keeps.panelCtl h _ _ _

theorem Keeps.execPldmIdentify (h : Keeps s₀ s) (on) : OutKeeps s₀ (execPldmIdentify on s) := Keeps.ite (.setIdentify h _ _) h

end Sys2Proof.Machine
end

section
/-! SUPPORT. What every step keeps: the vector engine. -/

namespace Sys2Proof.Machine

variable {s₀ s : State}

theorem Keeps.vxeRow7 (h : Keeps s₀ s) (ctx core ops) : Keeps s₀ (s.vxeRow7 ctx core ops).1 := .row7All h _ _

theorem Keeps.vxeRows (h : Keeps s₀ s) (core ctx e o r6 r9 views) : Keeps s₀ (vxeRows s core ctx e o r6 r9 views).1 :=
  .ite_fst h (.vxeRow7 h _ _ _)

theorem Keeps.vxeTake (h : Keeps s₀ s) (c sel rest run) (hrest : ∀ t c ctx e o, Keeps s₀ t → Keeps s₀ (rest t c ctx e o).1)
  (hrun : ∀ c t ctx e o, Keeps s₀ t → Keeps s₀ (run c t ctx e o)) : OutKeeps s₀ (vxeTake c sel rest run s) :=
  Keeps.takeHead h _ _ _ _ _ (fun _ _ _ _ h => hrest _ _ _ _ _ h) (fun _ _ _ _ h => hrun _ _ _ _ _ h)

theorem Keeps.vxeWrite (h : Keeps s₀ s) (ctx core e d forced vals go) (hgo : ∀ t c, Keeps s₀ t → Keeps s₀ (go t c)) : Keeps s₀
  (s.vxeWrite ctx core e d forced vals go) := by
  unfold State.vxeWrite
  dsimp only
  split
  · exact .failAccess (.convertTo h _ _ _ _ _) _ _ _ _ _ _ _
  · exact hgo _ _ (.addFlagged (.convertTo h _ _ _ _ _) _ _)

theorem Keeps.vxeRead (h : Keeps s₀ s) (ctx core e vs go) (hgo : ∀ t f, Keeps s₀ t → Keeps s₀ (go t f)) : Keeps s₀
  (s.vxeRead ctx core e vs go) := by
  unfold State.vxeRead
  dsimp only
  split
  · exact .failAccess (.fetchAt h _ _) _ _ _ _ _ _ _
  · exact hgo _ _ (.fetchAt h _ _)

theorem Keeps.vewRest (h : Keeps s₀ s) (core ctx e o) : Keeps s₀ (vewRest s core ctx e o).1 := .vxeRows h _ _ _ _ _ _ _

theorem Keeps.runVew (h : Keeps s₀ s) (core ctx e o) : Keeps s₀ (runVew core s ctx e o) := by
  unfold Machine.runVew
  dsimp only
  split
  · exact .vxeRead h _ _ _ _ _ (fun _ _ h => .vxeWrite h _ _ _ _ _ _ _ (fun _ _ h => .doneEntry h _ _ _ _ _))
  · exact h

theorem Keeps.execVew (h : Keeps s₀ s) (c) : OutKeeps s₀ (execVew c s) :=
  Keeps.takeHead h _ _ _ _ _ (fun _ _ _ _ h => .vewRest h _ _ _ _) (fun _ _ _ _ h => .runVew h _ _ _ _)

theorem Keeps.vredRest (h : Keeps s₀ s) (core ctx e o) : Keeps s₀ (vredRest s core ctx e o).1 := by
  unfold Machine.vredRest
  dsimp only
  split
  · exact .vxeRows h _ _ _ _ _ _ _
  · exact h

theorem Keeps.runVred (h : Keeps s₀ s) (core ctx e o) : Keeps s₀ (runVred core s ctx e o) := by
  unfold Machine.runVred
  dsimp only
  split
  · refine .vxeRead h _ _ _ _ _ (fun _ _ h => ?_)
    split
    · exact .doneEntry (.coreM (.ite (.coreM h _ _ _) h) _ _ _) _ _ _ _ _
    · split
      · split
        · exact .sdcEntry (.coreM (.coreM (.ite (.coreM h _ _ _) h) _ _ _) _ _ _) _ _ _ _ _
        · exact .seqM (.coreM (.coreM (.ite (.coreM h _ _ _) h) _ _ _) _ _ _) _ _ _
      · refine .vxeWrite (.coreM (.coreM (.ite (.coreM h _ _ _) h) _ _ _) _ _ _) _ _ _ _ _ _ _ (fun _ _ h => ?_)
        split
        · exact .sdcEntry h _ _ _ _ _
        · exact .doneEntry h _ _ _ _ _
  · exact h

theorem Keeps.execVred (h : Keeps s₀ s) (c) : OutKeeps s₀ (execVred c s) :=
  Keeps.takeHead h _ _ _ _ _ (fun _ _ _ _ h => .vredRest h _ _ _ _) (fun _ _ _ _ h => .runVred h _ _ _ _)

theorem Keeps.vcvtRest (h : Keeps s₀ s) (core ctx e o) : Keeps s₀ (vcvtRest s core ctx e o).1 := .vxeRows h _ _ _ _ _ _ _

theorem Keeps.runVcvt (h : Keeps s₀ s) (core ctx e x_o) : Keeps s₀ (runVcvt core s ctx e x_o) := by
  unfold Machine.runVcvt
  dsimp only
  exact .vxeRead h _ _ _ _ _ (fun _ _ h => .vxeWrite h _ _ _ _ _ _ _ (fun _ _ h => .endAfterNorm (.normWritten h _ _ _ _ _) _ _ _ _ _))

theorem Keeps.execVcvtConvert (h : Keeps s₀ s) (c) : OutKeeps s₀ (execVcvtConvert c s) :=
  Keeps.takeHead h _ _ _ _ _ (fun _ _ _ _ h => .vcvtRest h _ _ _ _) (fun _ _ _ _ h => .runVcvt h _ _ _ _)

theorem Keeps.commitRest (h : Keeps s₀ s) (core ctx e o) : Keeps s₀ (commitRest s core ctx e o).1 := by
  unfold Machine.commitRest
  dsimp only
  exact .ite_fst h (.row7 h _ _ _ _)

theorem Keeps.runCommit (h : Keeps s₀ s) (core ctx e x_o) : Keeps s₀ (runCommit core s ctx e x_o) := by
  unfold Machine.runCommit
  dsimp only
  split
  · exact .failAccess (.fetchAt h _ _) _ _ _ _ _ _ _
  · split
    · exact .failAccess (.writeMasked (.fetchAt h _ _) _ _) _ _ _ _ _ _ _
    · exact .doneEntry (.writeMasked (.fetchAt h _ _) _ _) _ _ _ _ _

theorem Keeps.execVcvtCommit (h : Keeps s₀ s) (c) : OutKeeps s₀ (execVcvtCommit c s) :=
  Keeps.takeHead h _ _ _ _ _ (fun _ _ _ _ h => .commitRest h _ _ _ _) (fun _ _ _ _ h => .runCommit h _ _ _ _)

theorem Keeps.vnrmRest (h : Keeps s₀ s) (core ctx e o) : Keeps s₀ (vnrmRest s core ctx e o).1 := .vxeRows h _ _ _ _ _ _ _

theorem Keeps.runVnrmAdd (h : Keeps s₀ s) (core ctx e x_o) : Keeps s₀ (runVnrmAdd core s ctx e x_o) := by
  unfold Machine.runVnrmAdd
  dsimp only
  exact .vxeRead h _ _ _ _ _ (fun _ _ h => .endAfterNorm (.normAdd h _ _ _ _) _ _ _ _ _)

theorem Keeps.execVnrmAdd (h : Keeps s₀ s) (c) : OutKeeps s₀ (execVnrmAdd c s) :=
  Keeps.takeHead h _ _ _ _ _ (fun _ _ _ _ h => .vnrmRest h _ _ _ _) (fun _ _ _ _ h => .runVnrmAdd h _ _ _ _)

theorem Keeps.runVnrmFlush (h : Keeps s₀ s) (core ctx e x_o) : Keeps s₀ (runVnrmFlush core s ctx e x_o) := by
  unfold Machine.runVnrmFlush
  dsimp only
  split
  · exact .endEntry (.flushNorms h _ _) _ _ _ _ _
  · exact .doneEntry (.flushNorms h _ _) _ _ _ _ _

theorem Keeps.execVnrmFlush (h : Keeps s₀ s) (c) : OutKeeps s₀ (execVnrmFlush c s) :=
  Keeps.takeHead h _ _ _ _ _ (fun _ _ _ _ h => h) (fun _ _ _ _ h => .runVnrmFlush h _ _ _ _)

theorem Keeps.voptRest (h : Keeps s₀ s) (core ctx e o) : Keeps s₀ (voptRest s core ctx e o).1 := by
  unfold Machine.voptRest
  split
  · exact .vxeRows h _ _ _ _ _ _ _
  · exact h

theorem Keeps.clipGamma (h : Keeps s₀ s) (ctx core r) : Keeps s₀ (s.clipGamma ctx core r).1 := by
  unfold State.clipGamma
  dsimp only
  split
  · exact h
  · split
    · exact .vaRead h _ _ _ _
    · split
      · exact .freeWord64 (.vaRead h _ _ _ _)
      · exact .ite_fst (.vaRead h _ _ _ _) (.ite_fst (.vaRead h _ _ _ _) (.vaRead h _ _ _ _))

theorem Keeps.sendDigest (h : Keeps s₀ s) (ctx e w dg) : Keeps s₀ (s.sendDigest ctx e w dg) :=
  .ite (.emit h _) (.digestArrive h _ _ _ _ _ _ _)

theorem Keeps.runVopt (h : Keeps s₀ s) (core ctx e o) : Keeps s₀ (runVopt core s ctx e o) := by
  unfold Machine.runVopt
  split
  · dsimp only
    have hg := fun r => Keeps.clipGamma h ctx core r
    split
    · exact .failAccess (hg _) _ _ _ _ _ _ _
    · refine .vxeRead (hg _) _ _ _ _ _ fun t f h => .vxeWrite h _ _ _ _ _ _ _ fun t ow h => .vxeWrite h _ _ _ _ _ _ _ fun t om h => ?_
      refine .endAfterNorm (.pair (.sendDigest (.ite_fst (.pair ?_) (.normAdd ?_ _ _ _ _)) _ _ _ _)) _ _ _ _ _
      all_goals exact .ite_fst (.pair h) (.normAdd h _ _ _ _)
  · exact h

theorem Keeps.execVopt (h : Keeps s₀ s) (c) : OutKeeps s₀ (execVopt c s) :=
  Keeps.takeHead h _ _ _ _ _ (fun _ _ _ _ h => .voptRest h _ _ _ _) (fun _ _ _ _ h => .runVopt h _ _ _ _)

theorem Keeps.vhrvRest (h : Keeps s₀ s) (core ctx e o) : Keeps s₀ (vhrvRest s core ctx e o).1 := by
  unfold Machine.vhrvRest
  dsimp only
  have hv := fun a b c => Keeps.vxeRows h core ctx e o a b c
  exact .ite_fst (.pair (hv _ _ _)) (.pair (.row7 (hv _ _ _) _ _ _ _))

theorem Keeps.runVhrv (h : Keeps s₀ s) (core ctx e x_o) : Keeps s₀ (runVhrv core s ctx e x_o) := by
  unfold Machine.runVhrv
  dsimp only
  refine .vxeRead h _ _ _ _ _ (fun _ _ h => .vxeWrite h _ _ _ _ _ _ _ (fun _ _ h => .vxeWrite h _ _ _ _ _ _ _ (fun _ _ h => ?_)))
  split
  · exact .failAccess (.writeMasked h _ _) _ _ _ _ _ _ _
  · exact .doneEntry (.writeMasked h _ _) _ _ _ _ _

theorem Keeps.execVhrv (h : Keeps s₀ s) (c) : OutKeeps s₀ (execVhrv c s) :=
  Keeps.takeHead h _ _ _ _ _ (fun _ _ _ _ h => .vhrvRest h _ _ _ _) (fun _ _ _ _ h => .runVhrv h _ _ _ _)

theorem Keeps.vsgnRest (h : Keeps s₀ s) (core ctx e o) : Keeps s₀ (vsgnRest s core ctx e o).1 := by
  unfold Machine.vsgnRest
  dsimp only
  have hv := fun a => Keeps.vxeRow7 h ctx core a
  exact .ite_fst h (.ite_fst (.pair (hv _)) (.pair (.row7All (hv _) _ _)))

theorem Keeps.runVsgn (h : Keeps s₀ s) (core ctx e x_o) : Keeps s₀ (runVsgn core s ctx e x_o) := by
  unfold Machine.runVsgn
  dsimp only
  refine .vxeRead h _ _ _ _ _ (fun _ _ h => ?_)
  split
  · exact .failAccess (.fetchAt h _ _) _ _ _ _ _ _ _
  · split
    · exact .failAccess (.writeMasked (.fetchAt h _ _) _ _) _ _ _ _ _ _ _
    · exact .vxeWrite (.addFlagged (.writeMasked (.fetchAt h _ _) _ _) _ _) _ _ _ _ _ _ _ (fun _ _ h => .vxeWrite h _ _ _ _ _ _ _
        (fun _ _ h => .doneEntry h _ _ _ _ _))

theorem Keeps.execVsgn (h : Keeps s₀ s) (c) : OutKeeps s₀ (execVsgn c s) :=
  Keeps.takeHead h _ _ _ _ _ (fun _ _ _ _ h => .vsgnRest h _ _ _ _) (fun _ _ _ _ h => .runVsgn h _ _ _ _)

end Sys2Proof.Machine
end

section
/-! SUPPORT. What every step keeps: register writes. -/

namespace Sys2Proof.Machine

variable {s₀ s : State}

theorem Keeps.outState {o : Out} (h : Keeps s₀ s) (ho : OutKeeps s₀ o) : Keeps s₀ (outState s o) := by
  cases o with
  | next t => exact ho
  | fault r => exact h
  | refused r => exact h

theorem Keeps.sclWrite (h : Keeps s₀ s) (w n refused g) (hrefused : Keeps s₀ refused) : Keeps s₀ (s.sclWrite w n refused g) :=
  .ite (.coreM h _ _ _) hrefused

theorem Keeps.execCvInit (h : Keeps s₀ s) (x_w c n v) : OutKeeps s₀ (execCvInit x_w c n v s) := Keeps.ite h (.coreM h _ _ _)

theorem Keeps.execPeek (h : Keeps s₀ s) (w c v) : OutKeeps s₀ (execPeek w c v s) := by
  unfold Machine.execPeek
  refine OutKeeps.next ?_
  dsimp only
  split
  · exact .infoAccess h _ _ _ _
  · split
    · exact h
    · split
      · exact .ite (.infoAccess (.physM h _ _) _ _ _ _) (.physM h _ _)
      · exact .physM h _ _

theorem Keeps.execPeekDone (h : Keeps s₀ s) (c) : OutKeeps s₀ (execPeekDone c s) :=
  Keeps.ite h (.ite (.physM h _ _) (.sdcEffect (.raiseRec (.physM h _ _) _) _ _))

theorem Keeps.debugWrite (h : Keeps s₀ s) (w u unit off x refused) (hrefused : Keeps s₀ refused) :
    Keeps s₀ (s.debugWrite w u unit off x refused) :=
  .ite hrefused (.ite (.ite (.outState h (Keeps.execDbgScset h _ _ _)) hrefused) (.ite hrefused (.ite (.physM h _ _)
    (.ite (.iteStep h fun h => .outState h (Keeps.execPeek h _ _ _)) h))))

theorem Keeps.coreWrite (h : Keeps s₀ s) (w n off x refused) (hrefused : Keeps s₀ refused) : Keeps s₀
  (s.coreWrite w n off x refused) := by
  unfold State.coreWrite
  dsimp only
  split
  · exact .physM h _ _
  · split
    · exact .sclWrite h _ _ _ _ hrefused
    · exact .sclWrite h _ _ _ _ hrefused
    · exact .coreM h _ _ _
    · exact .coreM h _ _ _
    · exact h

theorem Keeps.clusWrite (h : Keeps s₀ s) (w cl off x) : Keeps s₀ (s.clusWrite w cl off x) := .ite h (.clusM h _ _)

theorem Keeps.syncWrite (h : Keeps s₀ s) (w u unit off x refused) (hrefused : Keeps s₀ refused) :
    Keeps s₀ (s.syncWrite w u unit off x refused) :=
  .ite (.ite (.outState h (Keeps.execSyncSignal h _ _ _)) hrefused) (.ite (.ite (.physM h _ _) (.clusM h _ _)) h)

theorem Keeps.jrCfgWrite (h : Keeps s₀ s) (f slot r x refused) (hrefused : Keeps s₀ refused) :
    Keeps s₀ (s.jrCfgWrite f slot r x refused) := by
  unfold State.jrCfgWrite
  dsimp only
  refine .ite h (.ite (.outState h (Keeps.execJrEnable (.update h rfl) _ _ _ _ _)) ?_)
  exact .ite (.funcM (.iteStep h fun h => .funcM h _ _) _ _) (.ite (.funcM (.iteStep h fun h => .funcM h _ _) _ _)
    (.funcM (.ite (.infoAccess (.iteStep h fun h => .funcM h _ _) _ _ _ _) hrefused) _ _))

theorem Keeps.jobRingWrite (h : Keeps s₀ s) (w u off x refused) (hrefused : Keeps s₀ refused) : Keeps s₀
  (s.jobRingWrite w u off x refused) := by
  unfold State.jobRingWrite
  dsimp only
  split
  · exact hrefused
  · split
    · exact .ite hrefused (.funcM h _ _)
    · exact .jrCfgWrite h _ _ _ _ _ hrefused
    · exact .ite hrefused (.funcM h _ _)

theorem Keeps.crCfgWrite (h : Keeps s₀ s) (f c x refused) (hrefused : Keeps s₀ refused) : Keeps s₀ (s.crCfgWrite f c x refused) :=
  .ite (.outState h (Keeps.execCrEnable h _ _ _)) (.ite hrefused (.funcM h _ _))

theorem Keeps.compRingWrite (h : Keeps s₀ s) (w off x refused) (hrefused : Keeps s₀ refused) :
    Keeps s₀ (s.compRingWrite w off x refused) := by
  unfold State.compRingWrite
  dsimp only
  split
  · exact hrefused
  · split
    · exact .funcM h _ _
    · exact .crCfgWrite h _ _ _ _ hrefused
    · exact .iteStep h fun h => .outState h (Keeps.execCrHeadWrite h _ _ _)

theorem Keeps.ctxCmdWrite (h : Keeps s₀ s) (w x refused) (hrefused : Keeps s₀ refused) : Keeps s₀ (s.ctxCmdWrite w x refused) := by
  unfold State.ctxCmdWrite
  refine .ite hrefused ?_
  split
  · exact .outState h (Keeps.execCtxCreate h _ _ _)
  · exact .outState h (Keeps.execCtxSet h _ _ _)
  · exact .outState h (Keeps.execCtxDestroy h _ _)
  · exact .outState h (Keeps.execCtxInval h _ _)
  · exact .outState h (Keeps.execCtxRead h _ _ _)
  · exact .ctxCommand h _ _ _ _ _ fun _ _ h => .ctxResult h _ _ _

theorem Keeps.ckpCmdWrite (h : Keeps s₀ s) (w x) : Keeps s₀ (s.ckpCmdWrite w x) := by
  unfold State.ckpCmdWrite
  refine .ite h ?_
  split
  · exact .outState h (Keeps.execCkpBegin h _ _)
  · exact .outState h (Keeps.execCkpLoad h _ _ _ _)
  · exact .outState h (Keeps.execCkpEnd h _ _)
  · exact .outState h (Keeps.execCkpAbort h _ _)
  · exact .ckpCommand h _ _ _ _ _ _ fun _ _ h => .ckpResult h _ _ _

theorem Keeps.mgmtWrite (h : Keeps s₀ s) (w refused act) (hrefused : Keeps s₀ refused) (hact : ∀ t, Keeps s₀ t → Keeps s₀
  (act t)) : Keeps s₀ (s.mgmtWrite w refused act) :=
  .ite hrefused (.ite (hact _ h) h)

theorem Keeps.modStatusWrite (h : Keeps s₀ s) (w off x refused) (hrefused : Keeps s₀ refused) :
    Keeps s₀ (s.modStatusWrite w off x refused) := by
  unfold State.modStatusWrite
  split
  · exact .iteStep h fun h => .outState h (Keeps.execMemCulladd h _ _)
  · exact .update h rfl
  · exact .iteStep h fun h => .outState h (Keeps.execPersist h _)
  · exact .update h rfl
  · exact .ctxCmdWrite h _ _ _ hrefused
  · exact .mgmtWrite h _ _ _ hrefused fun _ h => .iteStep h fun h => .update h rfl
  · exact .ckpCmdWrite h _ _
  · split
    · exact hrefused
    · exact .iteStep h fun h => .instM h _ _
  · exact .iteStep h fun h => .outState h (Keeps.execMgmtRstreq h _ _)
  · split
    · exact .outState h (Keeps.execIdentOn h _)
    · exact .outState h (Keeps.execIdentOff h _)
    · exact .outState h (Keeps.execIdentToggle h _)
    · exact .ite h hrefused
  · exact h

theorem Keeps.rstCtlWrite (h : Keeps s₀ s) (w x refused) (hrefused : Keeps s₀ refused) : Keeps s₀ (s.rstCtlWrite w x refused) := by
  unfold State.rstCtlWrite
  refine .ite hrefused ?_
  split
  · exact .ite h hrefused
  · exact .outState h (Keeps.execResetCore h _ _)
  · exact .outState h (Keeps.execResetCluster h _ _)
  · exact .outState h (Keeps.execResetDie h _ _)
  · exact .outState h (Keeps.execResetChannelGroup h _ _)
  · exact .outState h (Keeps.execResetSpanLink h _ _)
  · exact .outState h (Keeps.execResetHostFunction h _ _)
  · exact .outState h (Keeps.execResetModuleWarm h _)
  · exact .outState h (Keeps.execResetModuleCold h _)
  · exact .mgmtWrite h _ _ _ hrefused fun _ h => .update h rfl

theorem Keeps.modHubWrite (h : Keeps s₀ s) (w off x refused) (hrefused : Keeps s₀ refused) :
    Keeps s₀ (s.modHubWrite w off x refused) := by
  have own : ∀ g, Keeps s₀ (match s.writerFunc w with | some f => s.funcM f.val g | none => refused) := fun g => by
    split
    · exact .funcM h _ _
    · exact hrefused
  unfold State.modHubWrite
  dsimp only
  split
  · exact own _
  · exact own _
  · exact own _
  · split
    · exact .outState h (Keeps.execDrain h _)
    · exact .outState h (Keeps.execResume h _)
    · exact .outState h (Keeps.execClearReplace h _)
    · exact .ite h hrefused
  · exact .rstCtlWrite h _ _ _ hrefused
  · exact .ite (.outState h (Keeps.execPwrCapWrite h _ _)) (.ite h hrefused)
  · exact .ite (.outState h (Keeps.execPwrModeWrite h _ _)) (.ite h hrefused)
  · exact .mgmtWrite h _ _ _ hrefused fun _ h => .update h rfl
  · split
    · exact .hcvWriter h _ _ _ _ fun _ h => .hcvM h _ _
    · exact .hcvWriter h _ _ _ _ fun _ h => .hcvM h _ _
    · exact h

theorem Keeps.spanWrite (h : Keeps s₀ s) (w off x refused) (hrefused : Keeps s₀ refused) : Keeps s₀ (s.spanWrite w off x refused) := by
  unfold State.spanWrite
  refine .ite h ?_
  split
  · exact .outState h (Keeps.execExpel h _ _)
  · exact .outState h (Keeps.execReadmit h _ _)
  · exact .ite h hrefused

theorem Keeps.writeReg (h : Keeps s₀ s) (w unit off x refused) (hrefused : Keeps s₀ refused) :
    Keeps s₀ (s.writeReg w unit off x refused) := by
  refine .ite (.debugWrite h _ _ _ _ _ _ hrefused) (.ite (.ite h (.ite hrefused h))
    (.ite (.iteStep h fun h => .outState h (Keeps.execLdgSelWrite h _ _ _)) (.ite (.iteStep h fun h => .modHubWrite h _ _ _ _ hrefused)
    (.ite h (.ite (.syncWrite h _ _ _ _ _ _ hrefused) (.ite (.compRingWrite h _ _ _ _ hrefused)
    (.ite (.jobRingWrite h _ _ _ _ _ hrefused) ?_)))))))
  split
  · exact .coreWrite h _ _ _ _ _ hrefused
  · exact .clusWrite h _ _ _ _
  · exact .iteStep h fun h => .dieM h _ _
  · exact .modStatusWrite h _ _ _ _ hrefused
  · exact .spanWrite h _ _ _ _ hrefused

theorem Keeps.writeBar (h : Keeps s₀ s) (w f off x refused) (hrefused : Keeps s₀ refused) : Keeps s₀ (s.writeBar w f off x refused) := by
  unfold State.writeBar
  split
  · refine .ite h (.outState h ?_)
    split
    · exact Keeps.execFuncDisable h _
    · exact Keeps.execFuncReenable h _
  · exact .update h rfl
  · refine .ite hrefused ?_
    split
    · exact .outState h (Keeps.execCompAssign h _ _ _)
    · exact .outState h (Keeps.execCompStart h _ _)
    · exact .outState h (Keeps.execCompStop h _ _)
    · exact h
  · split
    · exact .iteStep (.funcM h _ _) fun h => .msix (.funcM h _ _) _ _
    · exact .funcM h _ _
    · exact .funcM h _ _
    · exact h

end Sys2Proof.Machine
end

section
/-! SUPPORT. What every step keeps: register accesses of every agent. -/

namespace Sys2Proof.Machine

variable {s₀ s : State}

theorem Keeps.uncAccess (h : Keeps s₀ s) (w unit addr data) : Keeps s₀ (s.uncAccess w unit addr data) := .raiseRec (.update h rfl) _

theorem Keeps.laAccess (h : Keeps s₀ s) (w unit off width v) : Keeps s₀ (s.laAccess w unit off width v).1 :=
  .ite_fst (.uncAccess h _ _ _ _) (.ite_fst (.infoAccess h _ _ _ _) h)

theorem Keeps.kdProgress (h : Keeps s₀ s) : Keeps s₀ (s.kdProgress) := .ite h (.update (.freeWord64 h) rfl)

theorem Keeps.windowAccess (h : Keeps s₀ s) (w unit off width v absent refused) (habsent : Keeps s₀ absent)
  (hrefused : Keeps s₀ refused) : Keeps s₀ (s.windowAccess w unit off width v absent refused).1 := by
  unfold State.windowAccess
  dsimp only
  split
  · exact habsent
  · split
    · exact hrefused
    · split
      · exact .ite_fst habsent (.emit (.update h rfl) _)
      · split
        · exact .ite (.kdProgress h) h
        · exact .writeReg (.ite (.kdProgress h) h) _ _ _ _ _ hrefused
        · exact hrefused
        · exact hrefused
        · exact hrefused

theorem Keeps.blockAccess (h : Keeps s₀ s) (w f off width v) : Keeps s₀ (s.blockAccess w f off width v).1 := by
  unfold State.blockAccess
  dsimp only
  split
  · exact .infoAccess h _ _ _ _
  · split
    · exact h
    · exact .writeBar h _ _ _ _ _ (.infoAccess h _ _ _ _)
    · exact .infoAccess h _ _ _ _

theorem Keeps.barAccess (h : Keeps s₀ s) (w f off width v) : Keeps s₀ (s.barAccess w f off width v).1 :=
  Keeps.ite_fst (.blockAccess h _ _ _ _ _) (.ite_fst (.infoAccess h _ _ _ _) (.windowAccess h _ _ _ _ _ _ _ (.infoAccess h _ _ _ _)
    (.infoAccess h _ _ _ _)))

theorem Keeps.regAccess (h : Keeps s₀ s) (w unit off width v) : Keeps s₀ (s.regAccess w unit off width v).1 := by
  unfold State.regAccess
  dsimp only
  split
  · split
    · exact .infoAccess h _ _ _ _
    · exact .ite_fst (.barAccess h _ _ _ _ _) (.ite_fst (.infoAccess h _ _ _ _) (.windowAccess h _ _ _ _ _ _ _ (.infoAccess h _ _ _ _)
        (.infoAccess h _ _ _ _)))
  · exact .ite_fst (.windowAccess h _ _ _ _ _ _ _ (.uncAccess h _ _ _ _) (.infoAccess h _ _ _ _)) (.ite_fst (.laAccess h _ _ _ _ _)
      (.uncAccess h _ _ _ _))

theorem Keeps.regDo (h : Keeps s₀ s) (w unit off width v) : Keeps s₀ (s.regDo w unit off width v) := by
  unfold State.regDo
  dsimp only
  split
  · exact .emit (.regAccess h _ _ _ _ _) _
  · exact .regAccess h _ _ _ _ _

theorem Keeps.execInvalidRegisterAccess (h : Keeps s₀ s) (w unit off width v) : OutKeeps s₀
  (execInvalidRegisterAccess w unit off width v s) := by
  unfold Machine.execInvalidRegisterAccess
  refine OutKeeps.next ?_
  split
  · exact .ite (.regDo h _ _ _ _ _) h
  · exact .regDo h _ _ _ _ _

theorem Keeps.execRegisterWrite (h : Keeps s₀ s) (w unit off width v) : OutKeeps s₀ (execRegisterWrite w unit off width v s) :=
  Keeps.ite (.regDo h _ _ _ _ _) h

theorem Keeps.fmpReg (h : Keeps s₀ s) (id role addr width v) : Keeps s₀ (s.fmpReg id role addr width v) := by
  unfold State.fmpReg
  dsimp only
  refine .fmpOp h _ _ _ (fun _ h => ?_)
  split
  · exact .fmpAns h _ _
  · split
    · exact .fmpAns h _ _
    · split
      · exact .emit (.fmpAns (.regAccess h _ _ _ _ _) _ _) _
      · exact .regAccess h _ _ _ _ _
      · exact .fmpAns (.regAccess h _ _ _ _ _) _ _

theorem Keeps.execRegRead (h : Keeps s₀ s) (id addr width) : OutKeeps s₀ (execRegRead id addr width s) := Keeps.fmpReg h _ _ _ _ _

theorem Keeps.execRegWrite (h : Keeps s₀ s) (id addr width v) : OutKeeps s₀ (execRegWrite id addr width v s) := Keeps.fmpReg h _ _ _ _ _

theorem Keeps.forwardAnswer (h : Keeps s₀ s) (w write) : Keeps s₀ (s.forwardAnswer w write) :=
  .ite h (.answerRead (.freeWord64 h) _ _)

theorem Keeps.execForwardedAccess (h : Keeps s₀ s) (m addr width w) : OutKeeps s₀ (execForwardedAccess m addr width w s) := by
  unfold Machine.execForwardedAccess
  refine OutKeeps.next ?_
  dsimp only
  split
  · exact h
  · split
    · exact .ite (.regDo h _ _ _ _ _) h
    · split
      · exact h
      · split
        · exact h
        · exact .forwardAnswer (.update h rfl) _ _

end Sys2Proof.Machine
end

section
/-! SUPPORT. What every step keeps: a companion core's accesses. -/

namespace Sys2Proof.Machine

variable {s₀ s : State}

theorem Keeps.hartFault (h : Keeps s₀ s) (h_ cause addr) : Keeps s₀ (s.hartFault h_ cause addr) := by
  unfold State.hartFault
  dsimp only
  exact .hartM (.freeWord64 h) _ _

theorem Keeps.hartRefused (h : Keeps s₀ s) (h_ cause addr data) : Keeps s₀ (s.hartRefused h_ cause addr data) :=
  .hartFault (.infoAccess h _ _ _ _) _ _ _

theorem Keeps.hartAccess (h : Keeps s₀ s) (h_ f addr n v) : Keeps s₀ (s.hartAccess h_ f addr n v) := by
  unfold State.hartAccess
  refine .ite (.ite (.hartRefused h _ _ _ _) ?_) (.ite (.ite (.hartRefused h _ _ _ _) ?_) (.ite ?_ (.hartRefused h _ _ _ _)))
  · split
    · exact .ite (.update h rfl) (.iteStep (.stackWrite h _ _ _ _) fun h => .hartFault h _ _ _)
    · have hr := fun rq => Keeps.stackRead h addr.toNat n rq
      dsimp only
      split
      · exact .emit (hr _) _
      · exact .hartFault (hr _) _ _ _
  · split
    · exact .hostWrite h _ _ _
    · exact .emit (.hostRead h _ _ _) _
  · generalize hq : s.barAccess _ _ _ _ _ = q
    have hk : Keeps s₀ q.1 := hq ▸ .barAccess h _ _ _ _ _
    clear hq
    obtain ⟨t, r⟩ := q
    dsimp only
    split
    · exact .emit hk _
    · exact hk

theorem Keeps.execHartAccessRefused (h : Keeps s₀ s) (h_ act) : OutKeeps s₀ (execHartAccessRefused h_ act s) := by
  unfold Machine.execHartAccessRefused
  refine OutKeeps.next ?_
  dsimp only
  split
  · exact h
  · split
    · exact h
    · split
      · exact .hartAccess h _ _ _ _ _
      · exact .hartAccess h _ _ _ _ _
      · exact .emit (.freeWord64 h) _
      · exact .hartM h _ _
      · exact .foldl h (fun _ _ h => .hartM h _ _) _
      · exact .ite (.hartM (.update h rfl) _ _) h
      · exact .hartM h _ _
      · exact .stopHarts h _

end Sys2Proof.Machine
end

section
/-! SUPPORT. What every step keeps: the sequencer's processor. -/

namespace Sys2Proof.Machine

variable {s₀ s : State}

theorem Keeps.seqAccErr (h : Keeps s₀ s) (ctx cl code addr pc e write) : Keeps s₀ (s.seqAccErr ctx cl code addr pc e write) :=
  .seqExc h _ _ _ _ _ _

theorem Keeps.seqVaRead (h : Keeps s₀ s) (ctx cl va n u) : Keeps s₀ (s.seqVaRead ctx cl va n u).1 := by
  unfold State.seqVaRead
  dsimp only
  split
  · exact .translate h _ _ _ _
  · exact .regAccess (.translate h _ _ _ _) _ _ _ _ _
  · split
    · exact .locRead (.translate h _ _ _ _) _ _ _
    · exact .locRead (.translate h _ _ _ _) _ _ _

theorem Keeps.seqVaWrite {p} (h : Keeps s₀ s) (ctx cl va n v) (hp : s.seqVaWrite ctx cl va n v = some p) : Keeps s₀ p.1 := by
  have ht : Keeps s₀ (s.translate (seqAgent ctx cl) va .write).1 := .translate h _ _ _ _
  unfold State.seqVaWrite at hp
  dsimp only at hp
  split at hp
  · exact Option.some.inj hp ▸ ht
  · exact Option.some.inj hp ▸ .regAccess ht _ _ _ _ _
  · split at hp
    · nomatch hp
    · exact Option.some.inj hp ▸ .locWrite ht _ _ _
  · exact Option.some.inj hp ▸ .locWrite ht _ _ _

theorem Keeps.seqLoad (h : Keeps s₀ s) (ctx cl pc len addr n signed rd lr) : Keeps s₀ (s.seqLoad ctx cl pc len addr n signed rd lr) := by
  unfold State.seqLoad
  dsimp only
  split
  · exact h
  · split
    · exact .seqExc h _ _ _ _ _ _
    · split
      · exact .seqM (.ite (.seqM h _ _ _) h) _ _ _
      · exact .ite (.seqM h _ _ _) (.seqExc h _ _ _ _ _ _)
      · split
        · exact .seqM (.seqVaRead h _ _ _ _ _) _ _ _
        · exact .seqAccErr (.seqVaRead h _ _ _ _ _) _ _ _ _ _ _ _
      · split
        · exact .seqM (.seqVaRead h _ _ _ _ _) _ _ _
        · exact .seqAccErr (.seqVaRead h _ _ _ _ _) _ _ _ _ _ _ _
      · exact .seqExc h _ _ _ _ _ _

theorem Keeps.seqStore (h : Keeps s₀ s) (ctx cl pc len addr n v) : Keeps s₀ (s.seqStore ctx cl pc len addr n v) := by
  unfold State.seqStore
  dsimp only
  split
  · exact h
  split
  · exact .seqExc h _ _ _ _ _ _
  split
  · exact .seqM (.seqM h _ _ _) _ _ _
  · exact .ite (.issueClass h _ _ _) (.seqExc h _ _ _ _ _ _)
  · exact .ite (.issueClass h _ _ _) (.seqExc h _ _ _ _ _ _)
  · split
    · exact h
    · next hp => exact .seqM (Keeps.seqVaWrite h _ _ _ _ _ hp) _ _ _
    · next hp => exact .seqAccErr (Keeps.seqVaWrite h _ _ _ _ _ hp) _ _ _ _ _ _ _
  · exact .seqExc h _ _ _ _ _ _

theorem Keeps.seqAtomic (h : Keeps s₀ s) (ctx cl pc len addr v rd op) : Keeps s₀ (s.seqAtomic ctx cl pc len addr v rd op) := by
  unfold State.seqAtomic
  dsimp only
  split
  · exact .seqExc h _ _ _ _ _ _
  · split
    · exact .seqM h _ _ _
    · exact .seqExc h _ _ _ _ _ _

theorem Keeps.ticked (h : Keeps s₀ s) (ctx cl) : Keeps s₀ (s.ticked ctx cl) := by
  unfold State.ticked
  dsimp only
  exact .seqM (.freeWord64 (.freeWord64 h)) _ _ _

theorem Keeps.seqCsr (h : Keeps s₀ s) (ctx cl pc len csr rd v word) : Keeps s₀ (s.seqCsr ctx cl pc len csr rd v word) := by
  unfold State.seqCsr
  dsimp only
  split
  · exact .seqM (.ite (.ticked h _ _) h) _ _ _
  · exact .ite (.issueClass (.seqM (.ite (.ticked h _ _) h) _ _ _) _ _ _) (.ite (.issueClass (.seqM (.ite
      (.ticked h _ _) h) _ _ _) _ _ _) (.seqExc (.ite (.ticked h _ _) h) _ _ _ _ _ _))
  · exact .seqExc (.ite (.ticked h _ _) h) _ _ _ _ _ _

theorem Keeps.fetchHalf (h : Keeps s₀ s) (ctx cl pc addr) : Keeps s₀ (s.fetchHalf ctx cl pc addr).1 := by
  unfold State.fetchHalf
  dsimp only
  split
  · split
    · exact .seqVaRead h _ _ _ _ _
    · exact .seqAccErr (.seqVaRead h _ _ _ _ _) _ _ _ _ _ _ _
  · exact .seqExc h _ _ _ _ _ _

theorem Keeps.seqFetch (h : Keeps s₀ s) (ctx cl pc len addr) : Keeps s₀ (s.seqFetch ctx cl pc len addr).1 := by
  unfold State.seqFetch
  dsimp only
  split
  · exact .seqExc h _ _ _ _ _ _
  · split
    · exact .fetchHalf h _ _ _ _
    · exact .ite_fst (.fetchHalf (.fetchHalf h _ _ _ _) _ _ _ _) (.fetchHalf h _ _ _ _)

theorem Keeps.seqCustom (h : Keeps s₀ s) (cl pc c) : Keeps s₀ (s.seqCustom cl pc c) := by
  unfold State.seqCustom
  dsimp only
  split
  · exact .issueClass h _ _ _
  · exact .issueClass h _ _ _
  · exact .issueClass h _ _ _
  · exact .seqTawait h _ _ _ _
  · exact .seqQcwait h _ _ _ _
  · exact .issueClass h _ _ _
  · exact .issueClass h _ _ _

theorem Keeps.seqAccess (h : Keeps s₀ s) (ctx cl pc len acc) : Keeps s₀ (s.seqAccess ctx cl pc len acc) := by
  unfold State.seqAccess
  dsimp only
  split
  · exact .seqLoad h _ _ _ _ _ _ _ _ _
  · exact .seqLoad h _ _ _ _ _ _ _ _ _
  · exact .seqStore h _ _ _ _ _ _ _
  · exact .seqAtomic h _ _ _ _ _ _ _ _
  · exact .seqAtomic h _ _ _ _ _ _ _ _
  · exact .seqFetch h _ _ _ _ _
  · exact .seqCsr h _ _ _ _ _ _ _ _
  · exact .seqCsr (.freeWord64 h) _ _ _ _ _ _ _ _
  · exact .seqExc h _ _ _ _ _ _
  · exact h

theorem Keeps.seqStep (h : Keeps s₀ s) (ctx cl) : Keeps s₀ (s.seqStep ctx cl) := by
  unfold State.seqStep
  grind [Keeps.seqFetch, Keeps.seqExc, Keeps.seqM, Keeps.seqAccess, Keeps.seqCsr, Keeps.seqCustom, Keeps.seqEcall, Keeps.seqEbreak]

theorem Keeps.execSequencerLoadStore (h : Keeps s₀ s) (cl pc len acc) : OutKeeps s₀ (execSequencerLoadStore cl pc len acc s) := by
  unfold Machine.execSequencerLoadStore
  refine OutKeeps.next ?_
  split
  · exact h
  · split
    · exact .seqStep h _ _
    · exact .seqAccess h _ _ _ _ _

end Sys2Proof.Machine
end

section
/-! PROOF. Every command keeps the queue, the order of the ledger and the canonical form of the memory; so does a step. -/

namespace Sys2Proof.Machine

theorem exec_keeps {s₀ s : State} (h : Keeps s₀ s) (c : Instr) : OutKeeps s₀ (exec c s) := by
  cases c with
  | tissue cl pc rs1 => exact Keeps.execTissue h cl pc rs1
  | treplay cl pc rs1 rs2 => exact Keeps.execTreplay h cl pc rs1 rs2
  | pmsetW cl pc pm rs1 => exact Keeps.execPmsetW h cl pc pm rs1
  | pmsetA cl pc pm rs1 => exact Keeps.execPmsetA h cl pc pm rs1
  | tawait cl pc rd rs1 => exact Keeps.execTawait h cl pc rd rs1
  | qcwait cl pc rs1 rs2 => exact Keeps.execQcwait h cl pc rs1 rs2
  | qcsig cl pc rs1 rs2 => exact Keeps.execQcsig h cl pc rs1 rs2
  | tfence cl pc rd rs1 => exact Keeps.execTfence h cl pc rd rs1
  | ecall cl pc a7 a0 => exact Keeps.execEcall h cl pc a7 a0
  | ebreak cl pc => exact Keeps.execEbreak h cl pc
  | counterWindowStore cl pc addr v => exact Keeps.execCounterWindowStore h cl pc addr v
  | replayBufferStore cl pc addr v => exact Keeps.execReplayBufferStore h cl pc addr v
  | sqBmaskWrite cl pc v => exact Keeps.execSqBmaskWrite h cl pc v
  | sqStepadv cl pc v => exact Keeps.execSqStepadv h cl pc v
  | sequencerStop ctx => exact Keeps.execSequencerStop h ctx
  | ldw c t => exact Keeps.execLdw h c t
  | ldwt c t => exact Keeps.execLdwt h c t
  | mmul c t => exact Keeps.execMmul h c t
  | mmula c t => exact Keeps.execMmula h c t
  | drn c t => exact Keeps.execDrn h c t
  | arrayRampDown c a idle => exact Keeps.execArrayRampDown h c a idle
  | vew c => exact Keeps.execVew h c
  | vred c => exact Keeps.execVred h c
  | scalarReturn cl slot => exact Keeps.execScalarReturn h cl slot
  | vcvtConvert c => exact Keeps.execVcvtConvert h c
  | vcvtCommit c => exact Keeps.execVcvtCommit h c
  | vopt c => exact Keeps.execVopt h c
  | vnrmAdd c => exact Keeps.execVnrmAdd h c
  | vnrmFlush c => exact Keeps.execVnrmFlush h c
  | vhrv c => exact Keeps.execVhrv h c
  | vsgn c => exact Keeps.execVsgn h c
  | dmov c flaws => exact Keeps.execDmov h c flaws
  | dgth c => exact Keeps.execDgth h c
  | dsct c => exact Keeps.execDsct h c
  | dcow c => exact Keeps.execDcow h c
  | dcowPageCopy c slot => exact Keeps.execDcowPageCopy h c slot
  | dcrcFeed c => exact Keeps.execDcrcFeed h c
  | dcrcSave c => exact Keeps.execDcrcSave h c
  | dcrcLoad c => exact Keeps.execDcrcLoad h c
  | cred c => exact Keeps.execCred h c
  | credNorm c => exact Keeps.execCredNorm h c
  | crsc c => exact Keeps.execCrsc h c
  | cbcs c => exact Keeps.execCbcs h c
  | ca2a c => exact Keeps.execCa2a h c
  | collectiveStart ctx unit k => exact Keeps.execCollectiveStart h ctx unit k
  | chunkReceive ctx unit k m bytes last => exact Keeps.execChunkReceive h ctx unit k m bytes last
  | tlwReceive ctx unit k m bytes => exact Keeps.execTlwReceive h ctx unit k m bytes
  | sig cl => exact Keeps.execSig h cl
  | wait cl => exact Keeps.execWait h cl
  | scset cl => exact Keeps.execScset h cl
  | instructionComplete c q slot => exact Keeps.execInstructionComplete h c q slot
  | contextFault ctx => exact Keeps.execContextFault h ctx
  | signalArrival n => exact Keeps.execSignalArrival h n
  | waitTimeout w => exact Keeps.execWaitTimeout h w
  | syncSignal w unit v => exact Keeps.execSyncSignal h w unit v
  | dbgScset w unit v => exact Keeps.execDbgScset h w unit v
  | peek w c v => exact Keeps.execPeek h w c v
  | peekDone c => exact Keeps.execPeekDone h c
  | cvInit w c n v => exact Keeps.execCvInit h w c n v
  | hcvInit w n v => exact Keeps.execHcvInit h w n v
  | hcvRearm w n => exact Keeps.execHcvRearm h w n
  | sliceExpiry cl => exact Keeps.execSliceExpiry h cl
  | contextSwitch outc inc => exact Keeps.execContextSwitch h outc inc
  | contextResident ctx storeOff poolOff => exact Keeps.execContextResident h ctx storeOff poolOff
  | contextEvict ctx => exact Keeps.execContextEvict h ctx
  | cleanMove ctx place storeOff poolOff => exact Keeps.execCleanMove h ctx place storeOff poolOff
  | switchOutTimeout ctx => exact Keeps.execSwitchOutTimeout h ctx
  | fenceClose ctx => exact Keeps.execFenceClose h ctx
  | fenceTimeout ctx => exact Keeps.execFenceTimeout h ctx
  | ctxCreate w ctx addr => exact Keeps.execCtxCreate h w ctx addr
  | ctxSet w ctx addr => exact Keeps.execCtxSet h w ctx addr
  | ctxDestroy w ctx => exact Keeps.execCtxDestroy h w ctx
  | ctxInval w ctx => exact Keeps.execCtxInval h w ctx
  | ctxRead w ctx addr => exact Keeps.execCtxRead h w ctx addr
  | contextScrubEnd ctx => exact Keeps.execContextScrubEnd h ctx
  | tailLineTaken f slot ring tail => exact Keeps.execTailLineTaken h f slot ring tail
  | tailLinePoll tails refused => exact Keeps.execTailLinePoll h tails refused
  | jobFetch f slot ring line peersAgree peersBusy => exact Keeps.execJobFetch h f slot ring line peersAgree peersBusy
  | shareStart job order => exact Keeps.execShareStart h job order
  | jobComplete job rank0 => exact Keeps.execJobComplete h job rank0
  | crDelayExpiry f cq => exact Keeps.execCrDelayExpiry h f cq
  | jrEnable f slot ring v tail => exact Keeps.execJrEnable h f slot ring v tail
  | crEnable f cq v => exact Keeps.execCrEnable h f cq v
  | crHeadWrite f cq head => exact Keeps.execCrHeadWrite h f cq head
  | funcDisable f => exact Keeps.execFuncDisable h f
  | funcReenable f => exact Keeps.execFuncReenable h f
  | flr f => exact Keeps.execFlr h f
  | vfEnableClear => exact Keeps.execVfEnableClear h 
  | busMasterDisable f => exact Keeps.execBusMasterDisable h f
  | busMasterEnable f => exact Keeps.execBusMasterEnable h f
  | linkDown => exact Keeps.execLinkDown h 
  | backInvalidateTimeout line => exact Keeps.execBackInvalidateTimeout h line
  | configRequest => exact Keeps.execConfigRequest h 
  | hdmRead dec addr n flaws => exact Keeps.execHdmRead h dec addr n flaws
  | hdmWrite dec addr bytes => exact Keeps.execHdmWrite h dec addr bytes
  | compAssign w h_ f => exact Keeps.execCompAssign h w h_ f
  | compStart w h_ => exact Keeps.execCompStart h w h_
  | compStop w h_ => exact Keeps.execCompStop h w h_
  | hartAccessRefused h_ act => exact Keeps.execHartAccessRefused h h_ act
  | memCulladd w v => exact Keeps.execMemCulladd h w v
  | persist w => exact Keeps.execPersist h w
  | persistDone ok => exact Keeps.execPersistDone h ok
  | patrolScrub line flaw => exact Keeps.execPatrolScrub h line flaw
  | refresh st ch bank => exact Keeps.execRefresh h st ch bank
  | channelLost st ch access => exact Keeps.execChannelLost h st ch access
  | kdFillDone d => exact Keeps.execKdFillDone h d
  | governorEval us => exact Keeps.execGovernorEval h us
  | powerInterval avg run stop => exact Keeps.execPowerInterval h avg run stop
  | domainWake d => exact Keeps.execDomainWake h d
  | energySample mv ma => exact Keeps.execEnergySample h mv ma
  | inputCurrentTrip ma => exact Keeps.execInputCurrentTrip h ma
  | currentTripRelease => exact Keeps.execCurrentTripRelease h 
  | droopDetect d => exact Keeps.execDroopDetect h d
  | temperatureReport sensor v => exact Keeps.execTemperatureReport h sensor v
  | emergencyEnd => exact Keeps.execEmergencyEnd h 
  | pwrCapWrite w v => exact Keeps.execPwrCapWrite h w v
  | pwrModeWrite w v => exact Keeps.execPwrModeWrite h w v
  | ledgerRecordArrival unit cls code ctx d0 d1 d2 d3 opcode cause status cfc => exact Keeps.execLedgerRecordArrival h unit cls code ctx d0 d1 d2 d3 opcode cause status cfc
  | ldgSelWrite w unit v => exact Keeps.execLdgSelWrite h w unit v
  | checkInterval ctx digests => exact Keeps.execCheckInterval h ctx digests
  | digestMessage m ctx step tag origin count digest => exact Keeps.execDigestMessage h m ctx step tag origin count digest
  | digestCollectEnd ctx step tag origin count => exact Keeps.execDigestCollectEnd h ctx step tag origin count
  | drain w => exact Keeps.execDrain h w
  | drainComplete => exact Keeps.execDrainComplete h 
  | resume w => exact Keeps.execResume h w
  | clearReplace w => exact Keeps.execClearReplace h w
  | replaceNvmRetry ok => exact Keeps.execReplaceNvmRetry h ok
  | ckpBegin w ctx => exact Keeps.execCkpBegin h w ctx
  | ckpLoad w ctx src m => exact Keeps.execCkpLoad h w ctx src m
  | ckpEnd w ctx => exact Keeps.execCkpEnd h w ctx
  | ckpAbort w ctx => exact Keeps.execCkpAbort h w ctx
  | heartbeat p progress => exact Keeps.execHeartbeat h p progress
  | heartbeatMiss p => exact Keeps.execHeartbeatMiss h p
  | watchdogExpiry p => exact Keeps.execWatchdogExpiry h p
  | processorServing p => exact Keeps.execProcessorServing h p
  | engineHang c e slot => exact Keeps.execEngineHang h c e slot
  | crustDump domain unit index => exact Keeps.execCrustDump h domain unit index
  | dumpWordTimeout index word unitEnd => exact Keeps.execDumpWordTimeout h index word unitEnd
  | dumpCommit index => exact Keeps.execDumpCommit h index
  | resetCore w unit => exact Keeps.execResetCore h w unit
  | resetCluster w unit => exact Keeps.execResetCluster h w unit
  | resetDie w unit => exact Keeps.execResetDie h w unit
  | resetChannelGroup w part => exact Keeps.execResetChannelGroup h w part
  | resetSpanLink w part => exact Keeps.execResetSpanLink h w part
  | resetHostFunction w part => exact Keeps.execResetHostFunction h w part
  | resetModuleWarm w => exact Keeps.execResetModuleWarm h w
  | resetModuleCold w => exact Keeps.execResetModuleCold h w
  | resetComplete domain what => exact Keeps.execResetComplete h domain what
  | mgmtRstreq w v => exact Keeps.execMgmtRstreq h w v
  | coldPowerLoss => exact Keeps.execColdPowerLoss h 
  | mainPowerLoss => exact Keeps.execMainPowerLoss h 
  | fmpSessionOpen source account verified => exact Keeps.execFmpSessionOpen h source account verified
  | fmpSessionIdle id => exact Keeps.execFmpSessionIdle h id
  | fmpLockoutExpiry source => exact Keeps.execFmpLockoutExpiry h source
  | regRead id addr width => exact Keeps.execRegRead h id addr width
  | regWrite id addr width v => exact Keeps.execRegWrite h id addr width v
  | ledgerStream id => exact Keeps.execLedgerStream h id
  | ledgerAck id esn => exact Keeps.execLedgerAck h id esn
  | measure id => exact Keeps.execMeasure h id
  | funcAssign id f base size quota checkf => exact Keeps.execFuncAssign h id f base size quota checkf
  | kdBind id f d => exact Keeps.execKdBind h id f d
  | kdRelease id d => exact Keeps.execKdRelease h id d
  | configWrite id img => exact Keeps.execConfigWrite h id img
  | fwLoad id comp slotComp version svn digest sigEd sigMl => exact Keeps.execFwLoad h id comp slotComp version svn digest sigEd sigMl
  | fwActivate id comp => exact Keeps.execFwActivate h id comp
  | fwCommit id comp => exact Keeps.execFwCommit h id comp
  | procRelease id p => exact Keeps.execProcRelease h id p
  | mainPowerOn id => exact Keeps.execMainPowerOn h id
  | resetGrant id on => exact Keeps.execResetGrant h id on
  | debugGrant id f on => exact Keeps.execDebugGrant h id f on
  | dumpList id => exact Keeps.execDumpList h id
  | dumpRead id index => exact Keeps.execDumpRead h id index
  | dumpPin id index on => exact Keeps.execDumpPin h id index on
  | accountAdd id a => exact Keeps.execAccountAdd h id a
  | accountRemove id name => exact Keeps.execAccountRemove h id name
  | accountClear id => exact Keeps.execAccountClear h id
  | accountClearLapse => exact Keeps.execAccountClearLapse h 
  | enrolment a => exact Keeps.execEnrolment h a
  | spdmRequest doe ask => exact Keeps.execSpdmRequest h doe ask
  | spdmMeasurements doe block => exact Keeps.execSpdmMeasurements h doe block
  | pldmRequest type2 sensor => exact Keeps.execPldmRequest h type2 sensor
  | pldmIdentify on => exact Keeps.execPldmIdentify h on
  | spanLinkTrained l proved spanId index master members replace => exact Keeps.execSpanLinkTrained h l proved spanId index master members replace
  | linkHandshakeRetry l proved => exact Keeps.execLinkHandshakeRetry h l proved
  | flitReceive l seq crcOk tagOk fec load => exact Keeps.execFlitReceive h l seq crcOk tagOk fec load
  | laneLockLoss l => exact Keeps.execLaneLockLoss h l
  | peerSilence l => exact Keeps.execPeerSilence h l
  | withdrawalNotice l m cause => exact Keeps.execWithdrawalNotice h l m cause
  | memberAdmit m => exact Keeps.execMemberAdmit h m
  | expel w m => exact Keeps.execExpel h w m
  | readmit w m => exact Keeps.execReadmit h w m
  | shareEndNotice m job ended flagged => exact Keeps.execShareEndNotice h m job ended flagged
  | forwardedAccess m addr width w => exact Keeps.execForwardedAccess h m addr width w
  | bringupPhase0 t sec => exact Keeps.execBringupPhase0 h t sec
  | bringupPhase1 t => exact Keeps.execBringupPhase1 h t
  | bringupPhase2 t badCores badClusters badHub => exact Keeps.execBringupPhase2 h t badCores badClusters badHub
  | bringupPhase3 => exact Keeps.execBringupPhase3 h 
  | bringupPhase4 t => exact Keeps.execBringupPhase4 h t
  | bringupTimeout => exact Keeps.execBringupTimeout h 
  | stackJoin st => exact Keeps.execStackJoin h st
  | stackFail st ch step => exact Keeps.execStackFail h st ch step
  | latchOpen => exact Keeps.execLatchOpen h 
  | latchDumpCutoff => exact Keeps.execLatchDumpCutoff h 
  | latchClose => exact Keeps.execLatchClose h 
  | presenceChange pin made => exact Keeps.execPresenceChange h pin made
  | drainButtonHold => exact Keeps.execDrainButtonHold h 
  | identifyTouch ms within1s => exact Keeps.execIdentifyTouch h ms within1s
  | identOn w => exact Keeps.execIdentOn h w
  | identOff w => exact Keeps.execIdentOff h w
  | identToggle w => exact Keeps.execIdentToggle h w
  | invalidRegisterAccess w unit off width v => exact Keeps.execInvalidRegisterAccess h w unit off width v
  | registerWrite w unit off width v => exact Keeps.execRegisterWrite h w unit off width v
  | sequencerLoadStore cl pc len acc => exact Keeps.execSequencerLoadStore h cl pc len acc
  | restoreLoadDone w => exact Keeps.execRestoreLoadDone h w
  | droopRecovery d => exact Keeps.execDroopRecovery h d
  | channelGroupPowerDown id g => exact Keeps.execChannelGroupPowerDown h id g

/-- Settles O3: every command keeps the relation `Keeps` to the state with the queue's rest. -/
theorem stepKeepsMemoryAndLedger : Obligations.StepKeepsMemoryAndLedger := by
  intro s t hm hl hstep
  unfold step at hstep
  split at hstep
  next hq =>
    obtain rfl := Host.Outcome.next.inj hstep
    exact ⟨hm, hl, by rw [hq]; rfl⟩
  next c rest hq =>
    have hk : OutKeeps { s with pending := rest } (exec c { s with pending := rest }) := exec_keeps (.refl _) c
    rw [hstep] at hk
    exact ⟨hk.cells hm, hk.order hl, by rw [hq]; exact hk.queue⟩

end Sys2Proof.Machine
end

section
/-! SUPPORT. Bytes and fields read back: the number that the bytes of a number spell, one word out of many, a flag out of a packed
register, and a number of two's complement from its residue. -/

namespace Sys2Proof.Machine

@[simp] theorem length_natBytes (n v : Nat) : (natBytes n v).length = n := by
  induction n generalizing v with
  | zero => rfl
  | succ n ih => simp [natBytes, ih]

theorem bytesNat_natBytes (n v : Nat) : bytesNat (natBytes n v) = v % 256 ^ n := by
  induction n generalizing v with
  | zero => simp [natBytes, bytesNat, Nat.mod_one]
  | succ n ih =>
    rw [natBytes, bytesNat, ih, BitVec.toNat_ofNat, show 256 ^ (n + 1) = 256 * 256 ^ n from Nat.pow_succ']
    exact Nat.mod_mul.symm

theorem bytesNat_natBytes_of_lt {n v : Nat} (h : v < 256 ^ n) : bytesNat (natBytes n v) = v := by
  rw [bytesNat_natBytes, Nat.mod_eq_of_lt h]

theorem ofNat_bytesNat_natBytes {n w : Nat} (hw : 256 ^ n = 2 ^ w) (v : BitVec w) : BitVec.ofNat w (bytesNat (natBytes n v.toNat)) = v := by
  rw [bytesNat_natBytes_of_lt (hw ▸ v.isLt), BitVec.ofNat_toNat, BitVec.setWidth_eq]

/-- Word i of a list that is written word by word, each in n places. -/
theorem take_drop_flatMap {α β : Type} {f : α → List β} {n : Nat} (hf : ∀ a, (f a).length = n) (rest : List β) :
    ∀ (l : List α) (i : Nat) (hi : i < l.length), ((l.flatMap f ++ rest).drop (n * i)).take n = f l[i]
  | a :: l, 0, _ => by simp [hf a]
  | a :: l, i + 1, hi => by
    have hd : (((a :: l).flatMap f ++ rest).drop (n * (i + 1))) = (l.flatMap f ++ rest).drop (n * i) := by
      rw [List.flatMap_cons, List.append_assoc, Nat.mul_add_one, Nat.add_comm, ← List.drop_drop, List.drop_left' (hf a)]
    rw [hd, take_drop_flatMap hf rest l i (Nat.lt_of_succ_lt_succ hi)]
    rfl

theorem b2n_le_one (b : Bool) : b2n b ≤ 1 := by cases b <;> decide

theorem testBit_of_b2n {x i : Nat} {b : Bool} (h : x / 2 ^ i % 2 = b2n b) : x.testBit i = b := by
  rw [Nat.testBit_eq_decide_div_mod_eq, h]
  cases b <;> rfl

theorem sgn_emod {n : Nat} {z : Int} (hn : 1 ≤ n) (hz : fitsInt n z = true) : sgn n (z % (2 ^ n : Nat)).toNat = z := by
  obtain ⟨k, rfl⟩ : ∃ k, n = k + 1 := ⟨n - 1, by omega⟩
  simp only [fitsInt, Bool.and_eq_true, decide_eq_true_eq, Nat.add_sub_cancel] at hz
  obtain ⟨hlo, hhi⟩ := hz
  have hpow : 2 ^ (k + 1) = 2 * 2 ^ k := Nat.pow_succ'
  have hpos : 0 < 2 ^ k := Nat.two_pow_pos k
  unfold sgn
  rw [Nat.add_sub_cancel, hpow]
  generalize 2 ^ k = m at *
  rcases Int.lt_or_le z 0 with hneg | hpos'
  · have hmod : z % ((2 * m : Nat) : Int) = z + (2 * m : Nat) := by
      rw [← Int.add_emod_right, Int.emod_eq_of_lt (by omega) (by omega)]
    rw [hmod, Nat.mod_eq_of_lt (by omega), if_neg (by omega)]
    omega
  · rw [Int.emod_eq_of_lt hpos' (by omega), Nat.mod_eq_of_lt (by omega), if_pos (by omega)]
    omega

end Sys2Proof.Machine
end

section
/-! PROOF. Each encoding reads back. -/

namespace Sys2Proof.Machine

theorem uid_uidFields {v : BitVec 32} (h : bits v 18 0 = 0) : uid (uidFields v) = v := by
  apply BitVec.eq_of_toNat_eq
  have hlt := v.isLt
  simp only [bits, fld] at h
  simp only [uid, uidFields, packFields, bits, fld, BitVec.toNat_ofNat]
  omega

theorem twordOfBytes_bytesOfTword (t : TWord) : twordOfBytes (bytesOfTword t) = t := by
  have hw (i : Nat) (hi : i < 8) : BitVec.ofNat 32 (bytesNat (((bytesOfTword t).drop (4 * i)).take 4)) = t.word i := by
    have ht := take_drop_flatMap (f := fun i => natBytes 4 (t.word i).toNat) (fun _ => length_natBytes _ _) [] (List.range 8) i
      (by simpa using hi)
    rw [List.append_nil, List.getElem_range] at ht
    rw [bytesOfTword, ht, ofNat_bytesNat_natBytes rfl]
  simp only [twordOfBytes, hw, Nat.reduceLT, TWord.word]

theorem descOfBytes_bytesOfDesc (d : Desc) : descOfBytes (bytesOfDesc d) = d := by
  have hw (i : Nat) (hi : i < 8) : BitVec.ofNat 64 (bytesNat (((bytesOfDesc d).drop (8 * i)).take 8)) = d.dw i := by
    have hd := take_drop_flatMap (f := fun i => natBytes 8 (d.dw i).toNat) (fun _ => length_natBytes _ _) [] (List.range 8) i
      (by simpa using hi)
    rw [List.append_nil, List.getElem_range] at hd
    rw [bytesOfDesc, hd, ofNat_bytesNat_natBytes rfl]
  simp only [descOfBytes, hw, Nat.reduceLT, Desc.dw]

theorem blwOfBytes_blwBytes {b : Blw} (hw : fitsInt 120 b.w = true) (hp : b.pos < 256) : blwOfBytes (blwBytes b) = b := by
  have ht : (blwBytes b).take 15 = natBytes 15 (BitVec.ofInt 120 b.w).toNat := List.take_left' (length_natBytes _ _)
  have hg : (blwBytes b).getD 15 0 = BitVec.ofNat 8 b.pos := by
    rw [blwBytes, List.getD_append_right _ _ _ _ (by simp), length_natBytes]
    rfl
  have hv : bytesNat (natBytes 15 (BitVec.ofInt 120 b.w).toNat) = (b.w % (2 ^ 120 : Nat)).toNat := by
    rw [bytesNat_natBytes_of_lt (BitVec.isLt _), BitVec.toNat_ofInt]
  rw [blwOfBytes, ht, hg, hv, sgn_emod (by decide) hw, BitVec.toNat_ofNat, Nat.mod_eq_of_lt hp]

/-- The header of a trimmed long word as a number (Table 10-3). -/
def tlwHeader (t : Tlw) : Nat :=
  packFields [(t.first, 0, 4), (t.count, 4, 4), (b2n t.pinf, 8, 1), (b2n t.ninf, 9, 1), (b2n t.nan, 10, 1), (b2n t.nzero, 11, 1),
    (b2n t.ovf, 12, 1), (b2n t.ovfNeg, 13, 1)]

theorem tlwHeader_fields {t : Tlw} (hf : t.first + t.count ≤ 10) :
    tlwHeader t < 2 ^ 14 ∧ fld (tlwHeader t) 3 0 = t.first ∧ fld (tlwHeader t) 7 4 = t.count ∧
    (tlwHeader t).testBit 8 = t.pinf ∧ (tlwHeader t).testBit 9 = t.ninf ∧ (tlwHeader t).testBit 10 = t.nan ∧
    (tlwHeader t).testBit 11 = t.nzero ∧ (tlwHeader t).testBit 12 = t.ovf ∧ (tlwHeader t).testBit 13 = t.ovfNeg := by
  have h8 := b2n_le_one t.pinf
  have h9 := b2n_le_one t.ninf
  have h10 := b2n_le_one t.nan
  have h11 := b2n_le_one t.nzero
  have h12 := b2n_le_one t.ovf
  have h13 := b2n_le_one t.ovfNeg
  have hh : tlwHeader t = t.first + 16 * t.count + 256 * b2n t.pinf + 512 * b2n t.ninf + 1024 * b2n t.nan + 2048 * b2n t.nzero +
      4096 * b2n t.ovf + 8192 * b2n t.ovfNeg := by
    simp only [tlwHeader, packFields]
    omega
  simp only [fld, Nat.shiftRight_eq_div_pow]
  refine ⟨?_, ?_, ?_, testBit_of_b2n ?_, testBit_of_b2n ?_, testBit_of_b2n ?_, testBit_of_b2n ?_, testBit_of_b2n ?_,
    testBit_of_b2n ?_⟩ <;> omega

theorem tlwOfBytes_tlwBytes {t : Tlw} (hc : 1 ≤ t.count) (hf : t.first + t.count ≤ 10) (hz : fitsInt (64 * t.count) t.z = true) :
    tlwOfBytes (tlwBytes t) = some t := by
  obtain ⟨htop, hfirst, hcount, hpinf, hninf, hnan, hnzero, hovf, hovfNeg⟩ := tlwHeader_fields hf
  have htake : bytesNat ((tlwBytes t).take 8) = tlwHeader t := by
    rw [show (tlwBytes t).take 8 = natBytes 8 (tlwHeader t) from List.take_left' (length_natBytes _ _),
      bytesNat_natBytes_of_lt (by omega)]
  have hdrop : bytesNat ((tlwBytes t).drop 8) = (t.z % (2 ^ (64 * t.count) : Nat)).toNat := by
    have hlt : 0 < 2 ^ (64 * t.count) := Nat.two_pow_pos _
    have hpow : (256 : Nat) ^ (8 * t.count) = 2 ^ (64 * t.count) := by
      rw [show 256 = 2 ^ 8 from rfl, ← Nat.pow_mul, ← Nat.mul_assoc]
    rw [show (tlwBytes t).drop 8 = _ from List.drop_left' (length_natBytes _ _), bytesNat_natBytes_of_lt (by rw [hpow]; omega)]
  have hlen : (tlwBytes t).length = 8 + 8 * t.count := by simp [tlwBytes]
  unfold tlwOfBytes
  simp only [htake, hdrop, hlen, hfirst, hcount, hpinf, hninf, hnan, hnzero, hovf, hovfNeg, sgn_emod (by omega) hz]
  rw [if_neg]
  simp only [Bool.or_eq_true, decide_eq_true_eq, not_or, not_not, ne_eq, and_true]
  omega

theorem laFlags_fields (l : LA) : laFlags l < 2 ^ 7 ∧ (laFlags l).testBit 0 = l.pinf ∧ (laFlags l).testBit 1 = l.ninf ∧
    (laFlags l).testBit 2 = l.nan ∧ (laFlags l).testBit 3 = l.any ∧ (laFlags l).testBit 4 = l.nzero ∧
    (laFlags l).testBit 5 = l.ovf ∧ (laFlags l).testBit 6 = l.ovfNeg := by
  have h0 := b2n_le_one l.pinf
  have h1 := b2n_le_one l.ninf
  have h2 := b2n_le_one l.nan
  have h3 := b2n_le_one l.any
  have h4 := b2n_le_one l.nzero
  have h5 := b2n_le_one l.ovf
  have h6 := b2n_le_one l.ovfNeg
  have hl : laFlags l = b2n l.pinf + 2 * b2n l.ninf + 4 * b2n l.nan + 8 * b2n l.any + 16 * b2n l.nzero + 32 * b2n l.ovf +
      64 * b2n l.ovfNeg := by
    simp only [laFlags, packFields]
    omega
  refine ⟨?_, testBit_of_b2n ?_, testBit_of_b2n ?_, testBit_of_b2n ?_, testBit_of_b2n ?_, testBit_of_b2n ?_, testBit_of_b2n ?_,
    testBit_of_b2n ?_⟩ <;> omega

theorem slotOfBytes_bytesOfSlot {l : LA} (h : l.limb.length = 10) : slotOfBytes (bytesOfSlot l) =
    { limb := l.limb, pinf := l.pinf, ninf := l.ninf, nan := l.nan, any := l.any, nzero := l.nzero, ovf := l.ovf, ovfNeg := l.ovfNeg,
      resAcc := limbResidue l } := by
  obtain ⟨htop, hpinf, hninf, hnan, hany, hnzero, hovf, hovfNeg⟩ := laFlags_fields l
  have hlimb : (List.range 10).map (fun i => BitVec.ofNat 64 (bytesNat (((bytesOfSlot l).drop (8 * i)).take 8))) = l.limb := by
    refine List.ext_getElem (by simp [h]) fun i hi hi' => ?_
    rw [List.getElem_map, List.getElem_range, bytesOfSlot, List.append_assoc,
      take_drop_flatMap (fun _ => length_natBytes _ _) _ _ i hi', ofNat_bytesNat_natBytes rfl]
  have hflags : bytesNat (((bytesOfSlot l).drop 80).take 8) = laFlags l := by
    have hl : (l.limb.flatMap fun w => natBytes 8 w.toNat).length = 80 := by simp [List.length_flatMap, h]
    rw [bytesOfSlot, List.append_assoc, List.drop_left' hl, List.take_left' (length_natBytes _ _), bytesNat_natBytes_of_lt (by omega)]
  unfold slotOfBytes
  simp only [hlimb, hflags, hpinf, hninf, hnan, hany, hnzero, hovf, hovfNeg]
  rfl

/-- Settles O8: each field is one word or one flag of the bytes, and `bytesNat_natBytes` reads every word back. -/
theorem encodingsReadBack : Obligations.EncodingsReadBack := by
  refine ⟨fun v hv => uid_uidFields ?_, twordOfBytes_bytesOfTword, descOfBytes_bytesOfDesc, fun b => blwOfBytes_blwBytes,
    fun t => tlwOfBytes_tlwBytes, fun l => slotOfBytes_bytesOfSlot⟩
  simp only [uidForm, Bool.and_eq_true, beq_iff_eq] at hv
  exact hv.1.1

end Sys2Proof.Machine
end

section
/-! SUPPORT. The debug block of a unit window (R21): no register of the other blocks has an offset from 0x8000 on, so without debug
privilege nothing answers there. -/

namespace Sys2Proof.Machine

theorem ctrCount_le (u : UnitF) : ctrCount u ≤ 64 := by
  unfold ctrCount
  split <;> decide

section Block
variable {off : Nat} (h : 0x8000 ≤ off)
include h

theorem idxOf_debugBlock {base stride n : Nat} (hs : 0 < stride) (hn : base + stride * n ≤ 0x8000) : idxOf off base stride n = none := by
  have hq : n ≤ (off - base) / stride := (Nat.le_div_iff_mul_le hs).2 (by rw [Nat.mul_comm]; omega)
  simp [idxOf, Nat.not_lt.2 hq]

theorem State.coreReg_debugBlock (s : State) (n : Nat) : s.coreReg n off = none := by
  unfold State.coreReg
  split
  any_goals omega
  simp [idxOf_debugBlock h]

theorem State.clusReg_debugBlock (s : State) (w : Writer) (cl : Nat) : s.clusReg w cl off = none := by
  unfold State.clusReg
  extract_lets
  split
  any_goals omega
  rfl

theorem State.dieReg_debugBlock (s : State) (k : Nat) : s.dieReg k off = none := by
  unfold State.dieReg
  extract_lets
  split
  any_goals omega
  rfl

theorem State.modStatusReg_debugBlock (s : State) (w : Writer) : s.modStatusReg w off = none := by
  unfold State.modStatusReg
  extract_lets
  split
  any_goals omega
  simp [idxOf_debugBlock h]

theorem State.compRingReg_debugBlock (s : State) (w : Writer) : s.compRingReg w off = none := by
  simp [State.compRingReg, idxOf_debugBlock h]

theorem State.modHubReg_debugBlock (s : State) (w : Writer) : s.modHubReg w off = none := by
  unfold State.modHubReg
  extract_lets
  split
  any_goals omega
  simp [idxOf_debugBlock h]

theorem State.spanReg_debugBlock (s : State) : s.spanReg off = none := by
  unfold State.spanReg
  split
  any_goals omega
  rfl

theorem State.descReg_debugBlock (s : State) (u : UnitF) (unit : BitVec 32) : s.descReg u unit off = none := by
  unfold State.descReg
  split
  any_goals omega
  rfl

theorem State.syncReg_debugBlock (s : State) (w : Writer) (u : UnitF) : s.syncReg w u off = none := by
  unfold State.syncReg
  extract_lets
  split
  any_goals omega
  have := ctrCount_le u
  rw [idxOf_debugBlock h (by decide) (by omega)]

theorem State.ledgerReg_debugBlock (s : State) (w : Writer) (unit : BitVec 32) : s.ledgerReg w unit off = none := by
  have h0 : off ≠ 0x2000 := by omega
  have h8 : off ≠ 0x2008 := by omega
  simp [State.ledgerReg, idxOf_debugBlock h, h0, h8]

theorem State.throttleReg_debugBlock (s : State) (u : UnitF) : s.throttleReg u off = none := by
  have h0 : off ≠ 0x3000 := by omega
  simp [State.throttleReg, idxOf_debugBlock h, h0]

theorem State.jobRingReg_debugBlock (s : State) (w : Writer) (u : UnitF) : s.jobRingReg w u off = none := by
  simp [State.jobRingReg, idxOf_debugBlock h]

/-- Without debug privilege no register of the debug block is there. -/
theorem State.readReg_debugBlock {s : State} {w : Writer} (hd : s.hasDebug w = false) (unit : BitVec 32) :
    s.readReg w unit off = .bad := by
  unfold State.readReg
  simp only [State.coreReg_debugBlock h, State.clusReg_debugBlock h, State.dieReg_debugBlock h, State.modStatusReg_debugBlock h,
    State.compRingReg_debugBlock h, State.modHubReg_debugBlock h, State.spanReg_debugBlock h, State.descReg_debugBlock h,
    State.syncReg_debugBlock h, State.ledgerReg_debugBlock h, State.throttleReg_debugBlock h, State.jobRingReg_debugBlock h, hd]
  split <;> rfl

end Block

theorem State.windowAccess_bad {s absent refused : State} {w : Writer} {unit : BitVec 32} {off width : Nat} {v : Option (BitVec 64)}
    (hu : s.unitValid unit = true) (hf : s.farOf unit = none)
    (hr : s.readReg w unit (off / 8 * 8) = .bad) (ho : off / 8 * 8 ≠ 0x260) :
    s.windowAccess w unit off width v absent refused = (refused, some ones) := by
  simp [State.windowAccess, hu, hf, hr, ho]

theorem State.regAccess_debugBlock {s : State} {w : Writer} {unit : BitVec 32} {off width : Nat} {v : Option (BitVec 64)}
    (hlo : 0x8000 ≤ off) (ho : off < 0x10000) (hu : s.unitValid unit = true) (hf : s.farOf unit = none) (hd : s.hasDebug w = false)
    (hw : isBar w = true → s.writerFunc w ≠ none) :
    s.regAccess w unit off width v = (s.infoAccess w unit off (v.getD 0), some ones) := by
  by_cases hs : s.seesUnit w unit
  · obtain ⟨absent, h⟩ := State.regAccess_eq_windowAccess hs ho
    have hbad : s.readReg w unit (off / 8 * 8) = .bad := State.readReg_debugBlock (by omega) hd unit
    rw [h, State.windowAccess_bad hu hf hbad (by omega)]
  · obtain ⟨hb, hslot⟩ : isBar w = true ∧ s.slotUnit (slotOf (uidFields unit)) ≠ unit := by
      simp only [State.seesUnit, Classical.not_imp, not_and] at hs
      exact ⟨hs.1, hs.2 (hw hs.1)⟩
    exact State.regAccess_noSlot hb (hw hb) ho hslot

theorem exec_invalidRegisterAccess_of_hasRole {s : State} {w : Writer} {unit : BitVec 32} {off : BitVec 24} {width : Nat}
    {v : Option (BitVec 64)} (h : s.hasRole w (if v.isSome then 1 else 0) = true) :
    exec (.invalidRegisterAccess w unit off width v) s = .next (s.regDo w unit off.toNat width v) := by
  cases w with
  | mgmt i => exact congrArg _ (if_pos h)
  | _ => rfl

theorem exec_registerWrite_of_hasRole {s : State} {w : Writer} {unit : BitVec 32} {off : BitVec 24} {width : Nat} {x : BitVec 64}
    (h : s.hasRole w 1 = true) : exec (.registerWrite w unit off width x) s = .next (s.regDo w unit off.toNat width (some x)) :=
  congrArg _ (if_pos h)

end Sys2Proof.Machine
end

section
/-! SUPPORT. A record that is raised is the last in the ledger's tail: what its copies touch leaves the tail alone (R28, R334). -/

namespace Sys2Proof.Machine

@[simp] theorem State.hostWrite_led (s : State) (f a : Nat) (bs : List (BitVec 8)) : (s.hostWrite f a bs).led = s.led := rfl

@[simp] theorem State.msix_led (s : State) (f v : Nat) : (s.msix f v).led = s.led := by
  unfold State.msix
  extract_lets fe
  split
  · rfl
  · split
    · rfl
    · rfl

@[simp] theorem State.fmpSent_led (s : State) (id : Nat) : (s.fmpSent id).led = s.led := rfl

theorem State.copyRec_led_tail (s : State) (r : Rec) (stored : Bool) (f : Nat) : (s.copyRec r stored f).led.tail = s.led.tail := by
  unfold State.copyRec
  split
  · rfl
  · dsimp only
    split
    · split
      · simp
      · split
        · simp
        · rfl
    · split
      · simp
      · rfl

theorem State.copyRecs_led_tail (r : Rec) (stored : Bool) (l : List Nat) (s : State) :
    (l.foldl (fun s f => s.copyRec r stored f) s).led.tail = s.led.tail := by
  induction l generalizing s with
  | nil => rfl
  | cons f l ih => rw [List.foldl_cons, ih, State.copyRec_led_tail]

theorem State.raiseRec_led_tail (s : State) (r : Rec) : (s.raiseRec r).led.tail.getLast? = some (s.heldRec r) := by
  unfold State.raiseRec
  extract_lets r cls stored _ led₁ led₂ s₁ s₂
  have h₁ : led₁.tail.getLast? = some r := List.getLast?_concat
  have h₂ : led₂.tail = led₁.tail := by
    simp only [led₂]
    split
    · rfl
    · clear_value cls
      split <;> rfl
  have hs : s₂.led.tail.getLast? = some r := by rw [State.copyRecs_led_tail r stored, h₂, h₁]
  split
  · split
    · exact hs
    · exact hs
  · exact hs

theorem State.infoAccess_led_tail (s : State) (w : Writer) (unit : BitVec 32) (addr : Nat) (data : BitVec 64) :
    ∃ r, (s.infoAccess w unit addr data).led.tail.getLast? = some r ∧ r.cls = 4 ∧ r.code = 0xC0 ∧ r.d0 = writerWord w unit ∧
      r.d1 = BitVec.ofNat 64 addr := by
  unfold State.infoAccess
  exact ⟨_, State.raiseRec_led_tail s _, rfl, rfl, rfl, rfl⟩

end Sys2Proof.Machine
end

section
/-! PROOF. The debug block requires debug privilege. -/

namespace Sys2Proof.Machine

/-- Settles O28: without debug privilege the block holds no register, so every access is refused as one of R9 is. -/
theorem debugBlockNeedsPrivilege : Obligations.DebugBlockNeedsPrivilege := by
  intro w unit off width x s hlo hhi hread hwrite hu hf hd hw
  have hacc (v : Option (BitVec 64)) := State.regAccess_debugBlock (width := width) (v := v) hlo hhi hu hf hd hw
  refine ⟨?_, ?_, ?_, State.infoAccess_led_tail s w unit off.toNat x⟩
  · rw [exec_invalidRegisterAccess_of_hasRole (v := none) hread, State.regDo_read (hacc none), Option.getD_none]
  · rw [exec_invalidRegisterAccess_of_hasRole (v := some x) hwrite, State.regDo_write (hacc (some x)), Option.getD_some]
  · rw [exec_registerWrite_of_hasRole hwrite, State.regDo_write (hacc (some x)), Option.getD_some]

end Sys2Proof.Machine
end

section
/-! SUPPORT. What a record leaves alone: the ledger, what its copies touch, the sessions' counts and the messages out are all that
changes (R28, R334). -/

namespace Sys2Proof.Machine

/-- The state t is s but for the ledger, the memory, the functions, the management port and the messages out. -/
def State.RecordsOf (s t : State) : Prop :=
  ∃ led mem funcs mgmt out, t = { s with led := led, mem := mem, funcs := funcs, mgmt := mgmt, out := out }

theorem State.RecordsOf.refl (s : State) : s.RecordsOf s := ⟨_, _, _, _, _, rfl⟩

theorem State.RecordsOf.trans {s t u : State} (h : s.RecordsOf t) (h' : t.RecordsOf u) : s.RecordsOf u := by
  obtain ⟨_, _, _, _, _, rfl⟩ := h
  obtain ⟨_, _, _, _, _, rfl⟩ := h'
  exact ⟨_, _, _, _, _, rfl⟩

theorem State.RecordsOf.foldl {α : Type} {f : State → α → State} (hf : ∀ (s : State) (a : α), s.RecordsOf (f s a)) (l : List α) (s : State) :
    s.RecordsOf (l.foldl f s) := by
  induction l generalizing s with
  | nil => exact .refl s
  | cons a l ih => exact (hf s a).trans (ih _)

theorem State.hostWrite_recordsOf (s : State) (f a : Nat) (bs : List (BitVec 8)) : s.RecordsOf (s.hostWrite f a bs) :=
  ⟨_, _, _, _, _, rfl⟩

theorem State.msix_recordsOf (s : State) (f v : Nat) : s.RecordsOf (s.msix f v) := by
  unfold State.msix
  extract_lets fe
  split
  · exact .refl s
  · split
    · exact ⟨_, _, _, _, _, rfl⟩
    · exact ⟨_, _, _, _, _, rfl⟩

theorem State.copyRec_recordsOf (s : State) (r : Rec) (stored : Bool) (f : Nat) : s.RecordsOf (s.copyRec r stored f) := by
  have hled (led : Ledger) : s.RecordsOf { s with led := led } := ⟨_, _, _, _, _, rfl⟩
  have hring (t : State) (g : Func → Func) : t.RecordsOf (t.funcM f g) := ⟨_, _, _, _, _, rfl⟩
  unfold State.copyRec
  split
  · exact .refl s
  · dsimp only
    split
    · split
      · exact (State.hostWrite_recordsOf s _ _ _).trans ((hring _ _).trans (State.msix_recordsOf _ _ _))
      · split
        · exact State.msix_recordsOf s _ _
        · exact .refl s
    · split
      · exact (hled _).trans (State.msix_recordsOf _ _ _)
      · exact hled _

theorem State.raiseRec_recordsOf (s : State) (r : Rec) : s.RecordsOf (s.raiseRec r) := by
  unfold State.raiseRec
  extract_lets r cls stored _ led₁ led₂ s₁ s₂
  have h₁ : s.RecordsOf s₁ := ⟨_, _, _, _, _, rfl⟩
  have h₂ : s.RecordsOf s₂ := h₁.trans (.foldl (fun s f => State.copyRec_recordsOf s r stored f) _ _)
  split
  · split
    · exact h₂.trans ⟨_, _, _, _, _, rfl⟩
    · exact h₂
  · exact h₂

theorem State.ctrE_of_recordsOf {s t : State} (h : s.RecordsOf t) (ctx : Nat) (u : UnitF) (i : Nat) : t.ctrE ctx u i = s.ctrE ctx u i := by
  obtain ⟨_, _, _, _, _, rfl⟩ := h
  rfl

end Sys2Proof.Machine
end

section
/-! SUPPORT. Counters: what a store of one leaves of the others, and that waking its waits leaves them all (R201, R202). -/

namespace Sys2Proof.Machine

theorem State.ctrE_core {u : UnitF} (h : u.level = 0) (s : State) (ctx i : Nat) :
    s.ctrE ctx u i = tabGet (s.coreE ctx u.coreN).sc i {} := if_pos h

theorem State.ctrE_seq {u : UnitF} (h : u.level ≠ 0) (s : State) (ctx i : Nat) :
    s.ctrE ctx u i = tabGet (s.seqE ctx u.clusN).qc i {} := if_neg h

theorem tabGet_tabSet {α : Type} (l : List (Nat × α)) (k j : Nat) (v d : α) :
    tabGet (tabSet l k v) j d = if j = k then v else tabGet l j d := by
  split
  · next h => rw [h, tabGet_tabSet_same]
  · next h => exact tabGet_tabSet_ne l k j v d h

theorem State.ctrE_ctrPut (s : State) (ctx : Nat) (u : UnitF) (i k : Nat) (c : Ctr) :
    (s.ctrPut ctx u i c).ctrE ctx u k = if k = i then c else s.ctrE ctx u k := by
  by_cases h : u.level = 0
  · rw [State.ctrE_core h, State.ctrE_core h, State.ctrPut, if_pos h, State.coreE_coreM_same]
    exact tabGet_tabSet _ i k c _
  · rw [State.ctrE_seq h, State.ctrE_seq h, State.ctrPut, if_neg h, State.seqE_seqM_same]
    exact tabGet_tabSet _ i k c _

theorem SeqCtx.wakeSync_qc (q : SeqCtx) (qc : Bool) (i : Nat) (mask : BitVec 4) (sat : Nat → Bool) :
    (q.wakeSync qc i mask sat).qc = q.qc := by
  unfold SeqCtx.wakeSync
  split
  · split <;> rfl
  · rfl

theorem SeqCtx.wakeQc_qc (q : SeqCtx) (i : Nat) (sat : Nat → Bool) : (q.wakeQc i sat).qc = q.qc := by
  unfold SeqCtx.wakeQc
  split
  · split <;> rfl
  · rfl

theorem State.seqE_foldl_coreM (g : CoreCtx → CoreCtx) (ctx cl : Nat) (l : List Nat) (s : State) :
    (l.foldl (fun s n => s.coreM ctx n g) s).seqE ctx cl = s.seqE ctx cl := by
  induction l generalizing s with
  | nil => rfl
  | cons n l ih => rw [List.foldl_cons, ih, State.coreM_seqE]

theorem State.ctrE_wake (s : State) (ctx : Nat) (u : UnitF) (i k : Nat) (sat : Nat → Bool) :
    (s.wake ctx u i sat).ctrE ctx u k = s.ctrE ctx u k := by
  by_cases h : u.level = 0
  · rw [State.ctrE_core h, State.ctrE_core h, State.wake, if_pos h, State.seqM_coreE, State.coreE_coreM_same]
    rfl
  · rw [State.ctrE_seq h, State.ctrE_seq h, State.wake, if_neg h, State.seqE_seqM_same, SeqCtx.wakeQc_qc, SeqCtx.wakeSync_qc,
      State.seqE_foldl_coreM]

theorem State.ctrE_setCtr (s : State) (ctx : Nat) (unit : BitVec 32) (i k : Nat) (x : BitVec 16) (d : BitVec 64) (o : Option (Fin 32)) :
    (s.setCtr ctx unit i x d o).ctrE ctx (uidFields unit) k =
      if k = i then { s.ctrE ctx (uidFields unit) k with value := x } else s.ctrE ctx (uidFields unit) k := by
  rw [State.setCtr, State.ctrE_wake, State.ctrE_of_recordsOf (State.raiseRec_recordsOf _ _), State.ctrE_ctrPut]
  split
  · next hk => rw [hk]
  · rfl

end Sys2Proof.Machine
end

section
/-! PROOF. DBG_SCSET and PEEK take effect with debug privilege only. -/

namespace Sys2Proof.Machine

section Commands
variable {s : State} {w : Writer} {unit : BitVec 32} {v : BitVec 64} {c : CoreN} {la : LA}

theorem exec_dbgScset_refused (hd : s.hasDebug w = false) : exec (.dbgScset w unit v) s = .next (s.infoAccess w unit 0x8100 v) := by
  refine congrArg Host.Outcome.next (if_pos ?_)
  simp [hd]

theorem exec_dbgScset_of_agent (hu : s.unitValid unit = true) (hm : (uidFields unit).module = s.modIdx)
    (hl : (uidFields unit).level ≤ 1) (hd : s.hasDebug w = true) (hw : isMgmt w = true ∨ isFirm w = true) (hc : bits v 63 52 ≠ 0)
    (hfree : (s.ctxE (bits v 63 52)).state ≠ .free) (hscrub : (s.ctxE (bits v 63 52)).state ≠ .scrubbing)
    (hi : bits v 37 32 < ctrCount (uidFields unit)) :
    exec (.dbgScset w unit v) s = .next (s.setCtr (bits v 63 52) unit (bits v 37 32) (BitVec.ofNat 16 (bits v 15 0))
      (writerWord w unit) (s.writerFunc w)) := by
  refine congrArg Host.Outcome.next (if_neg ?_)
  cases w with
  | mgmt i => simp [hu, hm, hl, hd, hc, hfree, hscrub, hi]
  | firmware p => simp [hu, hm, hl, hd, hc, hfree, hscrub, hi]
  | _ => simp [isMgmt, isFirm] at hw

theorem exec_peek_refused (hd : s.hasDebug w = false) : exec (.peek w c v) s = .next (s.infoAccess w (s.coreUid c.val) 0x8008 v) := by
  refine congrArg Host.Outcome.next (if_pos ?_)
  simp [hd]

section Peek
variable (hc : s.corePresent c.val = true) (hd : s.hasDebug w = true) (hb : (s.physE c.val).peekBusy = false) (hv : bit v 0 = true)
include hc hd hb hv

theorem exec_peek_copies (hs : s.peekSel c.val = .ok la) : exec (.peek w c v) s =
    .next (s.physM c.val fun p => { p with selerr := false, peekValid := false, peekBusy := true, peekLa := la }) := by
  change execPeek w c v s = _
  simp [execPeek, hc, hd, hb, hv, hs]

theorem exec_peek_noTile (hs : s.peekSel c.val = .error false) :
    exec (.peek w c v) s = .next (s.physM c.val fun p => { p with selerr := true }) := by
  change execPeek w c v s = _
  simp [execPeek, hc, hd, hb, hv, hs]

end Peek

end Commands

/-- Settles O29: DBG_SCSET is `State.setCtr`, of which `State.ctrE_setCtr` says what each counter shows, and PEEK and PEEK_DONE run
their own branches. -/
theorem debugAccessTakesEffect : Obligations.DebugAccessTakesEffect := by
  constructor
  · rintro w unit v s u rfl
    refine ⟨exec_dbgScset_refused, exec_dbgScset_of_agent, fun ctx i x d o _ k => State.ctrE_setCtr s ctx unit i k x d o⟩
  · intro w c v s la hc
    refine ⟨exec_peek_refused, fun hd hb hv hs => exec_peek_copies hc hd hb hv hs, fun hd hb hv hs => exec_peek_noTile hc hd hb hv hs, ?_⟩
    rintro t hb rfl rfl
    constructor
    · intro hm
      change execPeekDone c s = _
      simp only [execPeekDone, hb, hm]
      rfl
    · intro hm
      refine ⟨_, rfl, ?_⟩
      change execPeekDone c s = _
      simp only [execPeekDone, hb, hm]
      rfl

end Sys2Proof.Machine
end

section
/-! SUPPORT. Power: what a notice of the state and a report of a sensor leave alone (R325, R428). -/

namespace Sys2Proof.Machine

theorem State.noted_out (t s : State) : ∃ out, t.noted s = { t with out := out } := by
  unfold State.noted
  extract_lets changed told
  have htold : ∃ out, told = { t with out := out } := by
    unfold told changed
    split
    · exact ⟨_, rfl⟩
    · split
      · exact ⟨_, rfl⟩
      · exact ⟨_, rfl⟩
  obtain ⟨out, hout⟩ := htold
  rw [hout]
  split
  · exact ⟨_, rfl⟩
  · exact ⟨_, rfl⟩

/-- The supply state p is q in what stops the engines: tripped, and main power on. -/
def Pwr.SameSupply (p q : Pwr) : Prop := q.tripped = p.tripped ∧ q.mainOn = p.mainOn

theorem Pwr.report_sameSupply (p : Pwr) (sensor : Sensor) (v : Nat) (up : Bool) : p.SameSupply (p.report sensor v up) := by
  cases sensor with
  | junction d =>
    simp only [Pwr.report, Pwr.SameSupply]
    split
    · exact ⟨rfl, rfl⟩
    · split
      · split <;> exact ⟨rfl, rfl⟩
      · split <;> exact ⟨rfl, rfl⟩
  | stack st => exact ⟨rfl, rfl⟩
  | inlet => exact ⟨rfl, rfl⟩
  | flow => exact ⟨rfl, rfl⟩

theorem State.openDump_frozen {s : State} (h : s.pwr.tripped = true) (domain : Nat) (unit : BitVec 32) (esn : Nat) :
    (s.openDump domain unit esn).frozen = true := by
  change (s.pwr.tripped || s.panel.latchPath || s.pwr.unattain) = true
  rw [h, Bool.true_or, Bool.true_or]

end Sys2Proof.Machine
end

section
/-! PROOF. What power losses clear, and critical temperatures. -/

namespace Sys2Proof.Machine

section Losses
variable {s : State}

theorem exec_coldPowerLoss : exec .coldPowerLoss s = .next ((s.coldClear true).noted s) := rfl

theorem exec_mainPowerLoss_off_latch (hm : s.pwr.mainOn = true) (hl : s.panel.latchPath = false) :
    exec .mainPowerLoss s = .next s.linkDown.powerOff := by
  refine congrArg Host.Outcome.next ?_
  rw [State.mainLost, hm, hl]
  rfl

theorem State.powerOff_out (s : State) :
    ∃ out, s.powerOff = { ({ s with pwr := { s.pwr with mainOn := false } } : State).warmClear with out := out } :=
  State.noted_out _ s

end Losses

section Temperature
variable {s : State} {sensor : Sensor} {v : Nat}

theorem exec_temperatureReport_below (hc : criticalTrip sensor v = false) :
    exec (.temperatureReport sensor v) s = .next { s with pwr := s.pwr.report sensor v s.pmcUp } := by
  refine congrArg Host.Outcome.next (if_pos ?_)
  rw [hc]
  rfl

theorem exec_temperatureReport_critical {u : State} (hc : criticalTrip sensor v = true) (ht : s.pwr.tripped = false)
    (hm : s.pwr.mainOn = true) (hl : s.panel.latchPath = false)
    (hu : u = ({ s with pwr := s.pwr.report sensor v s.pmcUp } : State).raiseRec
      { unit := s.modUid, cls := 3, code := 0x74, d0 := BitVec.ofNat 64 (sensorWord sensor), d1 := BitVec.ofNat 64 v }) :
    exec (.temperatureReport sensor v) s =
      .next (({ u with pwr := { u.pwr with tripped := true } } : State).openDump 6 s.modUid u.lastEsn) := by
  obtain ⟨hpt, hpm⟩ := Pwr.report_sameSupply s.pwr sensor v s.pmcUp
  have hmod : u.modUid = s.modUid := by
    obtain ⟨_, _, _, _, _, h⟩ := hu ▸ State.raiseRec_recordsOf { s with pwr := s.pwr.report sensor v s.pmcUp } _
    rw [h]
    rfl
  refine congrArg Host.Outcome.next ((if_neg ?_).trans ((if_neg ?_).trans ?_))
  · simp [hc, hpt, hpm, ht, hm]
  · simp [hl]
  · rw [← hmod, hu]
    rfl

end Temperature

/-- Settles O51: both losses clear the state field by field and what they report touches only the messages out; a report of a sensor
keeps the supply, and the record of a critical trip keeps the module's unit and power. -/
theorem powerLossClears : Obligations.PowerLossClears := by
  refine ⟨fun s => ⟨?_, ?_⟩, ?_⟩
  · obtain ⟨out, hout⟩ := State.noted_out (s.coldClear true) s
    refine ⟨_, exec_coldPowerLoss, ?_⟩
    rw [hout]
    exact ⟨rfl, rfl, rfl, rfl, rfl, rfl, rfl, rfl, rfl, Bool.and_false _, rfl, rfl, rfl⟩
  · intro hm hl
    obtain ⟨out, hout⟩ := State.powerOff_out s.linkDown
    refine ⟨_, exec_mainPowerLoss_off_latch hm hl, ?_⟩
    rw [hout]
    exact ⟨rfl, rfl, rfl, rfl, rfl, rfl, rfl, rfl, rfl, rfl, rfl, rfl⟩
  · rintro sensor v s t rfl
    exact ⟨exec_temperatureReport_below, fun hc ht hm hl =>
      ⟨_, rfl, exec_temperatureReport_critical hc ht hm hl rfl, State.openDump_frozen rfl _ _ _⟩⟩

end Sys2Proof.Machine
end

section
/-! SUPPORT. The long accumulator's physical form (Table 3-1, R54, R56): what each operation on it makes of the integer that its limbs
and deferred carries hold together, and of its side file. -/

namespace Sys2Proof.Machine

/-- The ten limbs and the ten deferred carries of Table 3-1 are there. -/
structure LA.Sized (l : LA) : Prop where
  limbs : l.limb.length = 10
  carries : l.carry.length = 10

/-- A limb word as place i reads it: signed at place 9 (R54). -/
def limbInt (i : Nat) (w : BitVec 64) : Int := if i = 9 then w.toInt else w.toNat

/-- What place i of an LA holds: its limb and its deferred carry. -/
def laPlace (l : LA) (i : Nat) : Int := laLimb l i + l.carry.getD i 0 * 2 ^ 64

theorem laLimb_eq (l : LA) (i : Nat) : laLimb l i = limbInt i (l.limb.getD i 0) := rfl

theorem laPhys_eq_sum (l : LA) : laPhys l = ∑ i ∈ Finset.range 10, laPlace l i * 2 ^ (64 * i) := rfl

theorem getD_listSet {α : Type} {l : List α} {i : Nat} (hi : i < l.length) (j : Nat) (v d : α) :
    (listSet l i v).getD j d = if j = i then v else l.getD j d := by
  rw [listSet, List.getD_eq_getElem?_getD, List.getD_eq_getElem?_getD]
  split
  · next h => rw [h, List.getElem?_set_self hi, Option.getD_some]
  · next h => rw [List.getElem?_set_ne (Ne.symm h)]

/-- What a limb keeps of an integer and what goes out as a carry are the integer. -/
theorem limbInt_ofInt (i : Nat) (t : Int) : limbInt i (BitVec.ofInt 64 t) + (t - limbInt i (BitVec.ofInt 64 t)) / 2 ^ 64 * 2 ^ 64 = t := by
  unfold limbInt
  split
  · rw [BitVec.toInt_ofInt, Int.bmod_def]
    split <;> omega
  · rw [BitVec.toNat_ofInt]
    omega

theorem laPlace_laPut {l : LA} (h : l.Sized) {i : Nat} (hi : i < 10) (p : Int) (j : Nat) :
    laPlace (laPut l i p) j = laPlace l j + if j = i then p else 0 := by
  have hput := limbInt_ofInt i (laLimb l i + p)
  simp only [laPlace, laLimb_eq, laPut, getD_listSet (h.limbs ▸ hi), getD_listSet (h.carries ▸ hi)]
  split
  · next hji =>
    subst hji
    simp only [laLimb_eq, limbInt] at hput ⊢
    linarith
  · ring

theorem laPhys_of_laPlace_add {l m : LA} {i : Nat} (hi : i < 10) {p : Int} (h : ∀ j, laPlace m j = laPlace l j + if j = i then p else 0) :
    laPhys m = laPhys l + p * 2 ^ (64 * i) := by
  simp only [laPhys_eq_sum, h, add_mul, ite_mul, zero_mul, Finset.sum_add_distrib, Finset.sum_ite_eq', Finset.mem_range, hi, if_true]

/-- The flags that an LA's terms have carried into it (R61). -/
def LA.flags (l : LA) : TermFlags := { pinf := l.pinf, ninf := l.ninf, nan := l.nan, any := l.any, nzero := l.nzero }

/-- An LA without its physical form: the integer that it holds, and its side file. Two LAs with the same total resolve to the same LA
(`laResolve_eq_of_total`). -/
structure LaTotal where
  phys : Int
  flags : TermFlags
  ovf : Bool
  ovfNeg : Bool
  resAcc : Nat
  adds : Nat
  ctx : BitVec 12

def LA.total (l : LA) : LaTotal := ⟨laPhys l, l.flags, l.ovf, l.ovfNeg, l.resAcc, l.adds, l.ctx⟩

def LaTotal.plus (t : LaTotal) (z : Int) : LaTotal := { t with phys := t.phys + z }

/-- The total with the flags and the residue of one addition more, as `laMark` counts it. -/
def LaTotal.mark (t : LaTotal) (f : TermFlags) (r : Nat) : LaTotal :=
  { t with flags := t.flags.join f, resAcc := (t.resAcc + r) % 255, adds := satAdd (2 ^ 28 - 1) t.adds 1 }

/-- m is l with the integer z added and its side file untouched. -/
structure LA.Gains (l : LA) (z : Int) (m : LA) : Prop where
  sized : m.Sized
  total : m.total = l.total.plus z

theorem LA.Gains.refl {l : LA} (h : l.Sized) : l.Gains 0 l := ⟨h, by simp [LaTotal.plus]⟩

theorem LA.Gains.trans {l m k : LA} {y z : Int} (h : l.Gains y m) (h' : m.Gains z k) : l.Gains (y + z) k :=
  ⟨h'.sized, by rw [h'.total, h.total]; simp [LaTotal.plus, add_assoc]⟩

theorem LA.Gains.of_eq {l m : LA} {y z : Int} (h : l.Gains y m) (hz : y = z) : l.Gains z m := hz ▸ h

theorem laPut_gains {l : LA} (h : l.Sized) {i : Nat} (hi : i < 10) (p : Int) : l.Gains (p * 2 ^ (64 * i)) (laPut l i p) :=
  ⟨⟨(List.length_set ..).trans h.limbs, (List.length_set ..).trans h.carries⟩,
    congrArg (fun z => { l.total with phys := z }) (laPhys_of_laPlace_add hi (laPlace_laPut h hi p))⟩

theorem setCarry_gains {l : LA} (h : l.Sized) {i : Nat} (hi : i < 10) (c : Int) :
    l.Gains ((c - l.carry.getD i 0) * 2 ^ (64 * (i + 1))) { l with carry := listSet l.carry i c } := by
  have hplace : ∀ j, laPlace { l with carry := listSet l.carry i c } j =
      laPlace l j + if j = i then (c - l.carry.getD i 0) * 2 ^ 64 else 0 := by
    intro j
    simp only [laPlace, laLimb_eq, getD_listSet (h.carries ▸ hi)]
    split
    · next hj => rw [hj]; ring
    · ring
  refine ⟨⟨h.limbs, (List.length_set ..).trans h.carries⟩, congrArg (fun z => { l.total with phys := z }) ?_⟩
  rw [laPhys_of_laPlace_add hi hplace, mul_assoc, ← pow_add, Nat.mul_succ, add_comm 64]
  rfl

theorem addCarry_gains {l : LA} (h : l.Sized) {i : Nat} (hi : i < 10) (c : Int) :
    l.Gains (c * 2 ^ (64 * (i + 1))) { l with carry := listSet l.carry i (l.carry.getD i 0 + c) } :=
  (setCarry_gains h hi _).of_eq (by rw [add_sub_cancel_left])

theorem laFold_gains {l : LA} (h : l.Sized) (i : Nat) : l.Gains 0 (laFold l i) := by
  unfold laFold
  dsimp only
  split
  · next hfold =>
    have hi : i ≤ 8 := by simp at hfold; exact hfold.1
    have hset := setCarry_gains h (show i < 10 by omega) 0
    exact (hset.trans (laPut_gains hset.sized (show i + 1 < 10 by omega) _)).of_eq (by ring)
  · exact .refl h

theorem laPiece_gains {l : LA} (h : l.Sized) {i : Nat} (hi : i < 10) (p : Int) : l.Gains (p * 2 ^ (64 * i)) (laPiece l i p) := by
  unfold laPiece
  split
  · next hp => exact (LA.Gains.refl h).of_eq (by rw [hp, zero_mul])
  · have hput := laPut_gains h hi p
    exact (hput.trans (laFold_gains hput.sized i)).of_eq (add_zero _)

theorem laPieces_gains {l : LA} (h : l.Sized) {place : Nat → Nat} (p : Nat → Int) (n : Nat) (hplace : ∀ i < n, place i < 10) :
    l.Gains (∑ i ∈ Finset.range n, p i * 2 ^ (64 * place i)) ((List.range n).foldl (fun l i => laPiece l (place i) (p i)) l) := by
  induction n with
  | zero => exact .refl h
  | succ n ih =>
    have ih := ih fun i hi => hplace i (by omega)
    rw [Finset.sum_range_succ, List.range_succ, List.foldl_append]
    exact ih.trans (laPiece_gains ih.sized (hplace n (by omega)) (p n))

/-- The 64-bit fields of a number spell it, up to where they end. -/
theorem sum_fld (m n : Nat) : ∑ i ∈ Finset.range n, fld m (64 * i + 63) (64 * i) * 2 ^ (64 * i) = m % 2 ^ (64 * n) := by
  induction n with
  | zero => simp [Nat.mod_one]
  | succ n ih =>
    have hw : 64 * n + 63 + 1 - 64 * n = 64 := by omega
    rw [Finset.sum_range_succ, ih, Nat.mul_succ, Nat.pow_add, Nat.mod_mul, fld, hw, Nat.shiftRight_eq_div_pow, Nat.mul_comm (_ % _)]

/-- What `laAddInt` adds: v at position pos by sign and magnitude, the bits below position 0 and above the limbs discarded (R60). -/
def laAmount (v pos : Int) : Int :=
  if v < 0 then -((floorMag v.natAbs pos % 2 ^ (64 * 10) : Nat) : Int) else (floorMag v.natAbs pos % 2 ^ (64 * 10) : Nat)

/-- The piece of it that goes to limb i. -/
def laPieceOf (v pos : Int) (i : Nat) : Int :=
  if v < 0 then -(fld (floorMag v.natAbs pos) (64 * i + 63) (64 * i) : Int) else fld (floorMag v.natAbs pos) (64 * i + 63) (64 * i)

theorem sum_laPieceOf (v pos : Int) : ∑ i ∈ Finset.range 10, laPieceOf v pos i * 2 ^ (64 * i) = laAmount v pos := by
  rw [laAmount, ← sum_fld (floorMag v.natAbs pos) 10]
  unfold laPieceOf
  split
  · simp only [neg_mul, Finset.sum_neg_distrib, Nat.cast_sum, Nat.cast_mul, Nat.cast_pow, Nat.cast_ofNat]
  · simp only [Nat.cast_sum, Nat.cast_mul, Nat.cast_pow, Nat.cast_ofNat]

theorem floorMag_of_neg (m : Nat) (e : Int) : (if e < 0 then m / 2 ^ e.natAbs else m * 2 ^ e.toNat) = floorMag m e := by
  obtain h | h := lt_or_ge e 0
  · rw [if_pos h, floorMag, if_neg (not_le.2 h)]
  · rw [if_neg (not_lt.2 h), floorMag, if_pos h]

theorem laAddInt_eq_pieces (l : LA) (v pos : Int) :
    laAddInt l v pos = (List.range 10).foldl (fun l i => laPiece l i (laPieceOf v pos i)) l := by
  unfold laAddInt laPieceOf
  rw [floorMag_of_neg]

theorem laAddInt_gains {l : LA} (h : l.Sized) (v pos : Int) : l.Gains (laAmount v pos) (laAddInt l v pos) := by
  rw [laAddInt_eq_pieces, ← sum_laPieceOf]
  exact laPieces_gains h (laPieceOf v pos) 10 fun _ hi => hi

theorem laAddLA_total {a : LA} (h : a.Sized) (b : LA) :
    (laAddLA a b).total = { (a.total.plus (laPhys b)).mark b.flags b.resAcc with
      ovf := a.ovf || b.ovf, ovfNeg := if a.ovf then a.ovfNeg else if b.ovf then b.ovfNeg else a.ovfNeg } := by
  have hl := laPieces_gains h (place := fun i => i) (laLimb b) 10 fun _ hi => hi
  have hc := hl.trans
    (laPieces_gains hl.sized (place := fun i => i + 1) (fun i => b.carry.getD i 0) 9 fun _ hi => Nat.succ_lt_succ hi)
  have hs := hc.trans (addCarry_gains hc.sized (show 9 < 10 by decide) (b.carry.getD 9 0))
  have hsum : laPhys b = ∑ i ∈ Finset.range 10, laLimb b i * 2 ^ (64 * i) +
      ∑ i ∈ Finset.range 9, b.carry.getD i 0 * 2 ^ (64 * (i + 1)) + b.carry.getD 9 0 * 2 ^ (64 * (9 + 1)) := by
    rw [add_assoc, ← Finset.sum_range_succ (fun i => b.carry.getD i 0 * 2 ^ (64 * (i + 1))) 9, ← Finset.sum_add_distrib, laPhys_eq_sum]
    exact Finset.sum_congr rfl fun i _ => by rw [laPlace, add_mul, mul_assoc, ← pow_add, Nat.mul_succ, Nat.add_comm 64]
  exact congrArg (fun t => ({ t.mark b.flags b.resAcc with
    ovf := a.ovf || b.ovf, ovfNeg := if a.ovf then a.ovfNeg else if b.ovf then b.ovfNeg else a.ovfNeg } : LaTotal))
    (hs.of_eq hsum.symm).total

theorem laAddLA_ovf (a b : LA) : (laAddLA a b).ovf = (a.ovf || b.ovf) ∧
    (laAddLA a b).ovfNeg = if a.ovf then a.ovfNeg else if b.ovf then b.ovfNeg else a.ovfNeg := ⟨rfl, rfl⟩

theorem laAddLA_total_congr {a a' b b' : LA} (ha : a.Sized) (ha' : a'.Sized) (hta : a.total = a'.total) (htb : b.total = b'.total) :
    (laAddLA a b).total = (laAddLA a' b').total := by
  rw [laAddLA_total ha, laAddLA_total ha', hta]
  simp only [LA.total, LaTotal.mk.injEq] at hta htb
  obtain ⟨_, _, ho, hn, _, _, _⟩ := hta
  obtain ⟨hp, hf, hbo, hbn, hr, _, _⟩ := htb
  rw [hp, hf, hr, ho, hn, hbo, hbn]

theorem laAddBand_ovf {l : LA} (h : l.Sized) (band : BandSum) (k : Int) (r : Nat) : (laAddBand l band k r).ovf = l.ovf := by
  unfold laAddBand
  split
  · rfl
  · exact congrArg LaTotal.ovf (laAddInt_gains h band.s _).total

end Sys2Proof.Machine
end

section
/-! SUPPORT. Terms added into a long accumulator (R57, R60, R61): on its total an addition is the sum of integers and the join of flags,
so the order of the terms does not matter there. -/

namespace Sys2Proof.Machine

theorem TermFlags.join_comm (f g : TermFlags) : f.join g = g.join f := by
  simp [TermFlags.join, Bool.or_comm, Bool.and_comm]

theorem TermFlags.join_assoc (f g h : TermFlags) : (f.join g).join h = f.join (g.join h) := by
  simp [TermFlags.join, Bool.or_assoc, Bool.and_assoc]

theorem TermFlags.join_empty (f : TermFlags) : f.join {} = f := by simp [TermFlags.join]

/-- The integer that a term adds (R60). -/
def termAmount : Val → Int
  | .fin n m e => laAmount (if n then -(m : Int) else m) (e + 320)
  | _ => 0

/-- The residue that a term adds (R64). -/
def termResidue : Val → Nat
  | .fin n m e => residueTerm n m e
  | _ => 0

/-- `laAddTerm` on totals. -/
def LaTotal.addTerm (t : LaTotal) (v : Val) : LaTotal := (t.plus (termAmount v)).mark (termFlags v) (termResidue v)

theorem LaTotal.addTerm_right_comm (t : LaTotal) (u v : Val) : (t.addTerm u).addTerm v = (t.addTerm v).addTerm u := by
  simp only [LaTotal.addTerm, LaTotal.mark, LaTotal.plus, Nat.mod_add_mod, TermFlags.join_assoc, add_right_comm t.phys,
    Nat.add_right_comm t.resAcc, TermFlags.join_comm (termFlags u)]

theorem laAddTerm_sized {l : LA} (h : l.Sized) (v : Val) : (laAddTerm l v).Sized := by
  cases v with
  | fin n m e =>
    have hadd := (laAddInt_gains h (if n then -(m : Int) else m) (e + 320)).sized
    exact ⟨hadd.limbs, hadd.carries⟩
  | _ => exact ⟨h.limbs, h.carries⟩

theorem laAddTerm_total {l : LA} (h : l.Sized) (v : Val) : (laAddTerm l v).total = l.total.addTerm v := by
  cases v with
  | fin n m e => exact congrArg (fun t => t.mark (termFlags (.fin n m e)) (residueTerm n m e)) (laAddInt_gains h _ _).total
  | _ => exact congrArg (fun z => ({ l.total with phys := z } : LaTotal).mark _ 0) (add_zero (laPhys l)).symm

theorem laAddTerm_keeps_ovf {l : LA} (h : l.Sized) (v : Val) : (laAddTerm l v).ovf = l.ovf ∧ (laAddTerm l v).ovfNeg = l.ovfNeg := by
  have ht := laAddTerm_total h v
  exact ⟨congrArg LaTotal.ovf ht, congrArg LaTotal.ovfNeg ht⟩

theorem foldl_laAddTerm_sized {l : LA} (h : l.Sized) (xs : List Val) : (xs.foldl laAddTerm l).Sized := by
  induction xs generalizing l with
  | nil => exact h
  | cons v xs ih => exact ih (laAddTerm_sized h v)

theorem foldl_laAddTerm_total {l : LA} (h : l.Sized) (xs : List Val) :
    (xs.foldl laAddTerm l).total = xs.foldl LaTotal.addTerm l.total := by
  induction xs generalizing l with
  | nil => rfl
  | cons v xs ih => rw [List.foldl_cons, List.foldl_cons, ih (laAddTerm_sized h v), laAddTerm_total h]

/-- The flags that terms together carry into an LA (R61). -/
def flagsOf : List Val → TermFlags
  | [] => {}
  | v :: vs => (termFlags v).join (flagsOf vs)

theorem flagsOf_append (xs ys : List Val) : flagsOf (xs ++ ys) = (flagsOf xs).join (flagsOf ys) := by
  induction xs with
  | nil => rw [List.nil_append, flagsOf, TermFlags.join_comm, TermFlags.join_empty]
  | cons v xs ih => rw [List.cons_append, flagsOf, flagsOf, ih, TermFlags.join_assoc]

theorem foldl_addTerm (t : LaTotal) (xs : List Val) :
    (xs.foldl LaTotal.addTerm t).phys = t.phys + (xs.map termAmount).sum ∧
    (xs.foldl LaTotal.addTerm t).flags = t.flags.join (flagsOf xs) ∧
    (xs.foldl LaTotal.addTerm t).ovf = t.ovf ∧ (xs.foldl LaTotal.addTerm t).ovfNeg = t.ovfNeg := by
  induction xs generalizing t with
  | nil => exact ⟨(add_zero _).symm, t.flags.join_empty.symm, rfl, rfl⟩
  | cons v xs ih =>
    obtain ⟨hp, hf, ho, hn⟩ := ih (t.addTerm v)
    refine ⟨hp.trans ?_, hf.trans ?_, ho, hn⟩
    · rw [List.map_cons, List.sum_cons]
      exact add_assoc _ _ _
    · exact TermFlags.join_assoc _ _ _

end Sys2Proof.Machine
end

section
/-! SUPPORT. Resolution (R62, R63): the limbs of a resolved LA are its integer modulo 2^640, read as signed, and its value is the LA's own
where the integer lies in [−2^319, 2^319). -/

namespace Sys2Proof.Machine

/-- R63: the physical value lies in [−2^319, 2^319). -/
def LA.InRange (l : LA) : Prop := -(2 ^ 639 : Int) ≤ laPhys l ∧ laPhys l < (2 ^ 639 : Int)

theorem LA.inRange_of_abs {l : LA} (h : |laPhys l| < 2 ^ 639) : l.InRange := ⟨(abs_lt.1 h).1.le, (abs_lt.1 h).2⟩

theorem laResolve_eq_of_total {a b : LA} (h : a.total = b.total) : laResolve a = laResolve b := by
  obtain ⟨⟩ := a
  obtain ⟨⟩ := b
  simp only [LA.total, LA.flags, LaTotal.mk.injEq, TermFlags.mk.injEq] at h
  obtain ⟨hp, ⟨rfl, rfl, rfl, rfl, rfl⟩, rfl, rfl, rfl, rfl, rfl⟩ := h
  simp only [laResolve, hp]

theorem laResolve_sized (l : LA) : (laResolve l).Sized :=
  ⟨(List.length_map _).trans List.length_range, List.length_replicate⟩

theorem laPlace_laResolve (l : LA) {i : Nat} (hi : i < 10) :
    laPlace (laResolve l) i = limbInt i (BitVec.ofNat 64 ((BitVec.ofInt 640 (laPhys l)).toNat >>> (64 * i))) := by
  have hc : (laResolve l).carry.getD i 0 = 0 := by
    rw [List.getD_eq_getElem?_getD, laResolve, List.getElem?_replicate, if_pos hi, Option.getD_some]
  have hl : (laResolve l).limb.getD i 0 = BitVec.ofNat 64 ((BitVec.ofInt 640 (laPhys l)).toNat >>> (64 * i)) := by
    rw [List.getD_eq_getElem?_getD, laResolve, List.getElem?_map, List.getElem?_range hi, Option.map_some, Option.getD_some]
  rw [laPlace, laLimb_eq, hc, hl, zero_mul, add_zero]

/-- The sign of a number is that of its high 64 bits. -/
theorem bmod_high {N H : Nat} (hN : N < H * 2 ^ 64) :
    ((N % H : Nat) : Int) + ((N / H : Nat) : Int).bmod (2 ^ 64) * H = (N : Int).bmod (H * 2 ^ 64) := by
  have hq : N / H < 2 ^ 64 := Nat.div_lt_of_lt_mul hN
  have hsum : (H : Int) * (N / H : Nat) + (N % H : Nat) = N := mod_cast Nat.div_add_mod N H
  have hH : 0 < H := Nat.pos_of_ne_zero fun h => by simp [h] at hN
  have hhalf : N / H < 2 ^ 63 ↔ N < 2 ^ 63 * H := Nat.div_lt_iff_lt_mul hH
  generalize N / H = q at *
  generalize N % H = r at *
  rw [Int.bmod_def, Int.bmod_def, Int.emod_eq_of_lt (by omega) (by omega), Int.emod_eq_of_lt (by omega) (by omega)]
  split <;> split
  · linarith
  · omega
  · omega
  · push_cast
    linarith

theorem toInt_high {w : Nat} (n : BitVec (w + 64)) :
    ((n.toNat % 2 ^ w : Nat) : Int) + (BitVec.ofNat 64 (n.toNat >>> w)).toInt * 2 ^ w = n.toInt := by
  have hn : n.toNat < 2 ^ w * 2 ^ 64 := n.isLt.trans_eq (pow_add 2 w 64)
  rw [Nat.shiftRight_eq_div_pow, BitVec.toInt_eq_toNat_bmod n, BitVec.toInt_eq_toNat_bmod, BitVec.toNat_ofNat,
    Nat.mod_eq_of_lt (Nat.div_lt_of_lt_mul hn), pow_add 2 w 64, ← bmod_high hn, Nat.cast_pow, Nat.cast_ofNat]

theorem sum_limbInt (n : BitVec 640) :
    ∑ i ∈ Finset.range 10, limbInt i (BitVec.ofNat 64 (n.toNat >>> (64 * i))) * 2 ^ (64 * i) = n.toInt := by
  have hlow : ∑ i ∈ Finset.range 9, limbInt i (BitVec.ofNat 64 (n.toNat >>> (64 * i))) * 2 ^ (64 * i) =
      ((n.toNat % 2 ^ (64 * 9) : Nat) : Int) := by
    rw [← sum_fld, Nat.cast_sum]
    refine Finset.sum_congr rfl fun i hi => ?_
    have hi : i ≠ 9 := (Finset.mem_range.1 hi).ne
    have hw : 64 * i + 63 + 1 - 64 * i = 64 := by omega
    rw [limbInt, if_neg hi, BitVec.toNat_ofNat, fld, hw, Nat.cast_mul, Nat.cast_pow, Nat.cast_ofNat]
  rw [Finset.sum_range_succ, hlow, limbInt, if_pos rfl]
  exact toInt_high (w := 64 * 9) n

theorem laPhys_laResolve (l : LA) : laPhys (laResolve l) = (laPhys l).bmod (2 ^ 640) := by
  rw [← BitVec.toInt_ofInt, ← sum_limbInt, laPhys_eq_sum]
  exact Finset.sum_congr rfl fun i hi => by rw [laPlace_laResolve l (Finset.mem_range.1 hi)]

theorem laPhys_laResolve_emod (l : LA) : laPhys (laResolve l) % (2 ^ 640 : Int) = laPhys l % (2 ^ 640 : Int) := by
  have hM : ((2 ^ 640 : Nat) : Int) = 2 ^ 640 := by rw [Nat.cast_pow, Nat.cast_ofNat]
  rw [laPhys_laResolve, ← hM, Int.bmod_emod]

theorem laResolve_of_outside {l : LA} (h : laPhys l < -(2 ^ 639 : Int) ∨ (2 ^ 639 : Int) ≤ laPhys l) :
    (laResolve l).ovf = true ∧ (laResolve l).ovfNeg = decide (laPhys l < 0) := by
  have hout : (laPhys l < -(2 ^ 639 : Int) || (2 ^ 639 : Int) ≤ laPhys l) = true := by
    rwa [Bool.or_eq_true, decide_eq_true_eq, decide_eq_true_eq]
  simp only [laResolve, hout, Bool.or_true, if_true, and_self]

theorem bmod_of_half {x B : Int} {M : Nat} (hM : (M : Int) = 2 * B) (hlo : -B ≤ x) (hhi : x < B) : x.bmod M = x :=
  Int.bmod_eq_of_le_mul_two (by omega) (by omega)

theorem laResolve_of_inRange {l : LA} (h : l.InRange) :
    (laResolve l).ovf = l.ovf ∧ (laResolve l).ovfNeg = l.ovfNeg ∧ laPhys (laResolve l) = laPhys l := by
  have hout : (laPhys l < -(2 ^ 639 : Int) || (2 ^ 639 : Int) ≤ laPhys l) = false := by
    rw [Bool.or_eq_false_iff, decide_eq_false_iff_not, decide_eq_false_iff_not, not_lt, not_le]
    exact h
  have hM : ((2 ^ 640 : Nat) : Int) = 2 * 2 ^ 639 := by rw [Nat.cast_pow, Nat.cast_ofNat, pow_succ']
  rw [laPhys_laResolve, bmod_of_half hM h.1 h.2]
  simp only [laResolve, hout, Bool.or_false, Bool.false_eq_true, if_false, and_self]

theorem laResolve_total_of_inRange {l : LA} (h : l.InRange) : (laResolve l).total = l.total := by
  obtain ⟨hovf, hneg, hphys⟩ := laResolve_of_inRange h
  rw [LA.total, hovf, hneg, hphys]
  rfl

theorem laResolve_ovf_of_ovf {l : LA} (h : l.ovf = true) : (laResolve l).ovf = true := by
  simp only [laResolve, h, Bool.true_or]

theorem laValue_ne_fin_of_ovf {l : LA} (h : l.ovf = true) (n : Bool) (m : Nat) (e : Int) : laValue l ≠ .val (.fin n m e) := by
  simp only [laValue, h, if_true]
  split_ifs <;> simp

theorem laValue_congr {a b : LA} (hf : a.flags = b.flags) (ho : a.ovf = b.ovf) (hn : a.ovfNeg = b.ovfNeg) (hp : laPhys a = laPhys b) :
    laValue a = laValue b := by
  simp only [LA.flags, TermFlags.mk.injEq] at hf
  obtain ⟨hpinf, hninf, hnan, hany, hnzero⟩ := hf
  simp only [laValue, hpinf, hninf, hnan, hany, hnzero, ho, hn, hp]

theorem laValue_laResolve {l : LA} (h : l.InRange) : laValue (laResolve l) = laValue l := by
  obtain ⟨ho, hn, hp⟩ := laResolve_of_inRange h
  exact laValue_congr rfl ho hn hp

end Sys2Proof.Machine
end

section
/-! PROOF. Overflow is found by a resolve and sticks. -/

namespace Sys2Proof.Machine

/-- Settles O6: a resolve compares the integer that the LA holds with the range and reduces it modulo 2^640; an addition leaves OVF and
OVF_NEG as they are, but for another LA's. -/
theorem overflowIsFoundAndSticks : Obligations.OverflowIsFoundAndSticks := by
  intro l b v band k r hl hc
  have h : l.Sized := ⟨hl, hc⟩
  obtain ⟨hterm, htermNeg⟩ := laAddTerm_keeps_ovf h v
  obtain ⟨hla, hlaNeg⟩ := laAddLA_ovf l b
  refine ⟨laResolve_of_outside, fun hlo hhi => laResolve_of_inRange ⟨hlo, hhi⟩, laPhys_laResolve_emod l, fun ho => ?_,
    laValue_ne_fin_of_ovf, fun ho hb => ?_⟩
  · refine ⟨hterm.trans ho, (laAddBand_ovf h band k r).trans ho, ?_, laResolve_ovf_of_ovf ho, htermNeg, hlaNeg.trans (if_pos ho)⟩
    rw [hla, ho, Bool.true_or]
  · simp [hla, hlaNeg, ho, hb]

end Sys2Proof.Machine
end

section
/-! SUPPORT. The LA that a list of terms makes of a cleared one (R55, R57): what it holds, and when it cannot overflow. -/

namespace Sys2Proof.Machine

theorem laClear_sized (c : Nat) : (laClear c).Sized := ⟨rfl, rfl⟩

theorem laLimb_laClear (c : Nat) {i : Nat} (hi : i < 10) : laLimb (laClear c) i = 0 := by
  interval_cases i <;> rfl

theorem laPlace_laClear (c : Nat) {i : Nat} (hi : i < 10) : laPlace (laClear c) i = 0 := by
  interval_cases i <;> rfl

theorem laPhys_laClear (c : Nat) : laPhys (laClear c) = 0 := by
  rw [laPhys_eq_sum]
  exact Finset.sum_eq_zero fun i hi => by rw [laPlace_laClear c (Finset.mem_range.1 hi), zero_mul]

theorem laClear_total (c : Nat) : (laClear c).total = ⟨0, {}, false, false, 0, 0, BitVec.ofNat 12 c⟩ := by
  rw [LA.total, laPhys_laClear]
  rfl

theorem laClear_inRange (c : Nat) : (laClear c).InRange := by
  apply LA.inRange_of_abs
  rw [laPhys_laClear, abs_zero]
  positivity

def laOf (c : Nat) (xs : List Val) : LA := xs.foldl laAddTerm (laClear c)

theorem laOf_sized (c : Nat) (xs : List Val) : (laOf c xs).Sized := foldl_laAddTerm_sized (laClear_sized c) xs

theorem laOf_holds (c : Nat) (xs : List Val) : laPhys (laOf c xs) = (xs.map termAmount).sum ∧ (laOf c xs).flags = flagsOf xs ∧
    (laOf c xs).ovf = false ∧ (laOf c xs).ovfNeg = false := by
  have ht := foldl_laAddTerm_total (laClear_sized c) xs
  rw [laClear_total] at ht
  obtain ⟨hp, hf, ho, hn⟩ := foldl_addTerm ⟨0, {}, false, false, 0, 0, BitVec.ofNat 12 c⟩ xs
  exact ⟨(congrArg LaTotal.phys ht).trans (hp.trans (zero_add _)),
    (congrArg LaTotal.flags ht).trans (hf.trans ((TermFlags.join_comm _ _).trans (TermFlags.join_empty _))),
    (congrArg LaTotal.ovf ht).trans ho, (congrArg LaTotal.ovfNeg ht).trans hn⟩

theorem laResolve_laOf_of_perm (c : Nat) {xs ys : List Val} (h : xs.Perm ys) : laResolve (laOf c xs) = laResolve (laOf c ys) := by
  apply laResolve_eq_of_total
  rw [laOf, laOf, foldl_laAddTerm_total (laClear_sized c), foldl_laAddTerm_total (laClear_sized c)]
  exact h.foldl_eq' (fun u _ v _ t => t.addTerm_right_comm u v) _

/-- Two partial LAs that are added hold what one LA holds of all their terms. -/
theorem laAddLA_laOf (c : Nat) (xs ys : List Val) : laPhys (laAddLA (laOf c xs) (laOf c ys)) = laPhys (laOf c (xs ++ ys)) ∧
    laValue (laAddLA (laOf c xs) (laOf c ys)) = laValue (laOf c (xs ++ ys)) := by
  obtain ⟨hpx, hfx, hox, hnx⟩ := laOf_holds c xs
  obtain ⟨hpy, hfy, hoy, hny⟩ := laOf_holds c ys
  obtain ⟨hp, hf, ho, hn⟩ := laOf_holds c (xs ++ ys)
  have ht := laAddLA_total (laOf_sized c xs) (laOf c ys)
  obtain ⟨hovf, hneg⟩ := laAddLA_ovf (laOf c xs) (laOf c ys)
  have hphys : laPhys (laAddLA (laOf c xs) (laOf c ys)) = laPhys (laOf c (xs ++ ys)) := by
    rw [hp, List.map_append, List.sum_append, ← hpx, ← hpy]
    exact congrArg LaTotal.phys ht
  refine ⟨hphys, laValue_congr ?_ ?_ ?_ hphys⟩
  · rw [hf, flagsOf_append, ← hfx, ← hfy]
    exact congrArg LaTotal.flags ht
  · simp [hovf, hox, hoy, ho]
  · simp [hneg, hox, hoy, hnx, hn]

/-- The magnitude of a term in units of 2^-320, the bits below discarded (R60). -/
def termMag : Val → Nat
  | .fin _ m e => floorMag m (e + 320)
  | _ => 0

/-- A term in units of 2^-320, where it has no bits below (R57). -/
def termExact : Val → Int
  | .fin n m e => (if n then -1 else 1) * (m * 2 ^ (e + 320).toNat : Nat)
  | _ => 0

theorem floorMag_zero (e : Int) : floorMag 0 e = 0 := by
  unfold floorMag
  split <;> simp

theorem laAmount_natCast (m : Nat) (pos : Int) : laAmount m pos = (floorMag m pos % 2 ^ (64 * 10) : Nat) := by
  rw [laAmount, if_neg (by omega), Int.natAbs_natCast]

theorem laAmount_neg (m : Nat) (pos : Int) : laAmount (-(m : Int)) pos = -((floorMag m pos % 2 ^ (64 * 10) : Nat) : Int) := by
  obtain rfl | hm := Nat.eq_zero_or_pos m
  · rw [Nat.cast_zero, neg_zero, ← Nat.cast_zero, laAmount_natCast, floorMag_zero, Nat.zero_mod, Nat.cast_zero, neg_zero]
  · rw [laAmount, if_pos (by omega), Int.natAbs_neg, Int.natAbs_natCast]

theorem termAmount_fin (n : Bool) (m : Nat) (e : Int) :
    termAmount (.fin n m e) = (if n then -1 else 1) * (floorMag m (e + 320) % 2 ^ (64 * 10) : Nat) := by
  cases n with
  | false => exact (laAmount_natCast m _).trans (one_mul _).symm
  | true => exact (laAmount_neg m _).trans (neg_one_mul _).symm

theorem abs_termAmount_le (v : Val) : |termAmount v| ≤ termMag v := by
  cases v with
  | fin n m e =>
    have hmod : ((floorMag m (e + 320) % 2 ^ (64 * 10) : Nat) : Int) ≤ floorMag m (e + 320) := mod_cast Nat.mod_le _ _
    have hsign : |(if n then -1 else 1 : Int)| = 1 := by cases n <;> rfl
    rwa [termAmount_fin, abs_mul, hsign, one_mul, Nat.abs_cast]
  | _ => simp [termAmount, termMag]

theorem abs_sum_termAmount_le (xs : List Val) : |(xs.map termAmount).sum| ≤ ((xs.map termMag).sum : Nat) := by
  induction xs with
  | nil => simp
  | cons v xs ih =>
    rw [List.map_cons, List.sum_cons, List.map_cons, List.sum_cons, Nat.cast_add]
    exact (abs_add_le _ _).trans (add_le_add (abs_termAmount_le v) ih)

theorem laOf_inRange (c : Nat) {xs : List Val} (h : (xs.map termMag).sum < 2 ^ 639) : (laOf c xs).InRange := by
  apply LA.inRange_of_abs
  obtain ⟨hp, -⟩ := laOf_holds c xs
  rw [hp]
  exact (abs_sum_termAmount_le xs).trans_lt (mod_cast h)

theorem termAmount_eq_exact {v : Val} (hmag : termMag v < 2 ^ 639) (he : ∀ n m e, v = .fin n m e → -320 ≤ e) :
    termAmount v = termExact v := by
  cases v with
  | fin n m e =>
    have he : 0 ≤ e + 320 := by have := he n m e rfl; omega
    have hval : floorMag m (e + 320) = m * 2 ^ (e + 320).toNat := if_pos he
    have hlt : floorMag m (e + 320) < 2 ^ (64 * 10) := lt_trans hmag (pow_lt_pow_right₀ (by decide) (by decide))
    rw [termAmount_fin, Nat.mod_eq_of_lt hlt, hval, termExact]
  | _ => rfl

theorem sum_termAmount_eq_exact {xs : List Val} (hmag : (xs.map termMag).sum < 2 ^ 639)
    (he : ∀ v ∈ xs, ∀ n m e, v = .fin n m e → -320 ≤ e) : (xs.map termAmount).sum = (xs.map termExact).sum := by
  refine congrArg List.sum (List.map_congr_left fun v hv => termAmount_eq_exact ?_ (he v hv))
  exact (List.le_sum_of_mem (List.mem_map_of_mem hv)).trans_lt hmag

end Sys2Proof.Machine
end

section
/-! PROOF. A cleared LA resolves to +0, and the value of an LA depends only on the multiset of its terms. -/

namespace Sys2Proof.Machine

/-- Settles O4: a cleared LA holds 0 without a flag, so a resolve leaves its value. -/
theorem clearedAccumulatorIsPlusZero : Obligations.ClearedAccumulatorIsPlusZero := by
  intro c
  refine ⟨fun i => laLimb_laClear c, rfl, rfl, rfl, rfl, rfl, rfl, rfl, rfl, rfl, ?_⟩
  rw [laValue_laResolve (laClear_inRange c)]
  simp only [laValue, laPhys_laClear]
  rfl

/-- Settles O5: on totals the additions of two terms commute, so a resolve, which sees the total alone, gives the same for both orders; a
sum of partial LAs holds what one LA of all the terms holds; and below the bound on the magnitudes none of them overflows. -/
theorem sumsDoNotDependOnOrder : Obligations.SumsDoNotDependOnOrder := by
  intro c xs ys mag exact_ hmag hexact
  obtain rfl : mag = termMag := funext fun v => (hmag v).trans (by cases v <;> rfl)
  obtain rfl : exact_ = termExact := funext fun v => (hexact v).trans (by cases v <;> rfl)
  refine ⟨laResolve_laOf_of_perm c, fun hsum => ?_⟩
  rw [← laOf, ← laOf, ← laOf]
  have hall := laOf_inRange c hsum
  rw [List.map_append, List.sum_append] at hsum
  have hx := laOf_inRange c (xs := xs) (by omega)
  have hy := laOf_inRange c (xs := ys) (by omega)
  obtain ⟨hphys, hvalue⟩ := laAddLA_laOf c xs ys
  have hadd : (laAddLA (laOf c xs) (laOf c ys)).InRange := by rwa [LA.InRange, hphys]
  have hpart : laValue (laResolve (laAddLA (laOf c xs) (laOf c ys))) = laValue (laResolve (laOf c (xs ++ ys))) := by
    rw [laValue_laResolve hadd, laValue_laResolve hall, hvalue]
  refine ⟨hpart, ?_, fun he => ?_⟩
  · have htotal := laAddLA_total_congr (laResolve_sized _) (laOf_sized c xs) (laResolve_total_of_inRange hx) (laResolve_total_of_inRange hy)
    rw [← hpart, laResolve_eq_of_total htotal]
  · obtain ⟨hovf, _, hres⟩ := laResolve_of_inRange hx
    obtain ⟨hp, _, ho, _⟩ := laOf_holds c xs
    exact ⟨hovf.trans ho, by rw [hres, hp, sum_termAmount_eq_exact (by omega) he]⟩

end Sys2Proof.Machine
end

section
/-! SUPPORT. The way through an instruction on which nothing fails: its slot is on time, its operands are read, its destination is written
and no residue disagrees. -/

namespace Sys2Proof.Machine

section Steps
variable {s s' : State} {ctx core : Nat} {e : QEntry}

theorem State.mxeStart_drn {ready : Nat} {go : State → Int → State} (ha : e.word.arrays ≠ 0)
    (hs : slotFail e.word .drn 0 (issueCycle e.word (s.coreE ctx core) ready) (s.coreE ctx core) = none) :
    s.mxeStart ctx core e .drn 0 ready go =
      go (s.coreM ctx core fun k => { k with anchor := some (issueCycle e.word (s.coreE ctx core) ready) })
        (issueCycle e.word (s.coreE ctx core) ready) := by
  unfold State.mxeStart
  simp only [Int.add_zero]
  rw [if_neg ha, hs]

theorem State.vxeRead_ok {vs : List View} {f : Fetched} {go : State → Fetched → State}
    (h : s.fetchAt (agentOf ctx core 2) (vs.flatMap fun v => readAddrs v.d v.xs) = (s', .ok f)) :
    s.vxeRead ctx core e vs go = go s' f := by
  unfold State.vxeRead
  rw [h]

theorem State.vxeWrite_ok {d : Desc} {forced : Bool} {vals : List (List Nat × Res)} {out : ConvOut} {go : State → ConvOut → State}
    (h : s.convertTo (agentOf ctx core 2) d (s.convCtx ctx e forced) vals = (s', .ok out)) :
    s.vxeWrite ctx core e d forced vals go = go (s'.addFlagged ctx out.count) out := by
  unfold State.vxeWrite
  rw [h]

end Steps

theorem find?_range_eq_none {n : Nat} {p : Nat → Bool} (h : ∀ i < n, p i = false) : (List.range n).find? p = none := by
  simpa only [List.find?_eq_none, List.mem_range, Bool.not_eq_true] using h

/-- No row of the tiles of some arrays has an LA that fails a check that every LA of them passes. -/
theorem find?_tileRow_eq_none {arrs : List Nat} {bad : Nat → Nat → Nat → Bool}
    (h : ∀ a ∈ arrs, ∀ m n, m < 64 → n < 64 → bad a m n = false) :
    ((List.range 64).find? fun m => arrs.zipIdx.any fun aj => (List.range 64).any fun n => bad aj.1 m n) = none := by
  refine find?_range_eq_none fun m hm => ?_
  simp only [List.any_eq_false, List.mem_range, Bool.not_eq_true]
  exact fun aj haj n hn => h aj.1 (List.fst_mem_of_mem_zipIdx haj) m n hm hn

/-- Valuing the present places of a tile, and taking the present ones of its valued places, are the same. -/
theorem map_filter_presentAt (d : Desc) (place : Nat → Nat → List Nat) (value : Nat → Nat → Nat → Res) (a : Nat) :
    ((((List.range 64).flatMap fun m => (List.range 64).map fun n => (place m n, Res.val .nan, a, m, n)).filter
        fun q => presentAt d q.1).map fun q => (q.1, value q.2.2.1 q.2.2.2.1 q.2.2.2.2)) =
      (((List.range 64).flatMap fun m => (List.range 64).map fun n => (m, n)).map fun p => (place p.1 p.2, value a p.1 p.2)).filter
        fun q => presentAt d q.1 := by
  simp only [List.map_flatMap, List.map_map, List.filter_map, List.filter_flatMap, Function.comp_def]

end Sys2Proof.Machine
end

section
/-! PROOF. DRN writes each resolved LA to its place. -/

namespace Sys2Proof.Machine

/-- Settles O17: the DRN starts, finds no row with a residue mismatch, and so converts the resolved LAs of all 64 rows. -/
theorem drainWritesTheResolvedTiles : Obligations.DrainWritesTheResolvedTiles := by
  intro c ready ctx s s1 s2 s2r s3 s4 e d st vals out w hready ha hd hst hslot hs2 hs2r hres hvals hconv hnorm
  subst hd hst
  have htiles := hvals.trans (congrArg (fun f => (arrayList e.word).zipIdx.flatMap f) (funext fun aj =>
    (map_filter_presentAt (e.desc (e.word.td 0)) _
      (fun a m n => laValue (laResolve ((s2.coreE ctx c.val).la ctx (laKey a e.word.tile m n)))) aj.1).symm))
  refine congrArg Host.Outcome.next ((State.takeHead_ready hready).trans ?_)
  unfold runDrn
  dsimp only
  rw [State.mxeStart_drn ha hslot, ← hs2, ← hs2r, find?_tileRow_eq_none hres, Option.getD_none, ← htiles, hconv]
  dsimp only
  rw [hnorm]

end Sys2Proof.Machine
end

section
/-! PROOF. VRED accumulates and finishes, and its scalar returns to its slot. -/

namespace Sys2Proof.Machine

section Vred
variable {c : CoreN} {ctx phase dim n : Nat} {sret : Bool} {s s1 s2 s3 : State} {e : QEntry} {f : Fetched} {ext : List Nat}
variable (hready : s.ready c.val 1 isVred (fun s ctx e o => vredRest s c.val ctx e o) = some (s1, ctx, e, .vred phase sret dim))
  (hread : s1.fetchAt (agentOf ctx c.val 2) ([e.view 1].flatMap fun v => readAddrs v.d v.xs) = (s2, .ok f))
  (hext : ext = vredExt (e.view 1).e sret dim)
  (hn : n = ext.getD 0 0 * ext.getD 1 0 * ext.getD 2 0 * ext.getD 3 0)
  (hacc : s3 = (if phase ≤ 1 then
      s2.coreM ctx c.val fun k => { k with vacc := forN (accBase e.word) n (fun i l => tabSet l i (laClear ctx)) k.vacc }
    else s2).coreM ctx c.val (fun k => vredAdd k ctx ((e.view 1).present.map fun p =>
      (accBase e.word + (if sret then 0 else winIdx ext (p.1.set dim 0)), valAt (e.view 1).d f p.2))))
include hready hread hext hn hacc

theorem exec_vred_accumulates (hp : phase = 1 ∨ phase = 2) : exec (.vred c) s = .next (s3.doneEntry ctx c.val 1 e.slot false) := by
  subst hn hext
  refine congrArg Host.Outcome.next ((State.takeHead_ready hready).trans ?_)
  unfold runVred
  dsimp only
  rw [State.vxeRead_ok hread, ← hacc, if_pos (by simpa using hp)]

section Finish
variable (h1 : phase ≠ 1) (h2 : phase ≠ 2)
  (hres : ∀ i < n, laMismatch (laResolve ((s3.coreE ctx c.val).acc ctx (accBase e.word + i))) = false)
include h1 h2 hres

theorem exec_vred_returns (hs : sret = true) :
    exec (.vred c) s = .next ((s3.coreM ctx c.val fun k => k.resolveAccs (accBase e.word) n).seqM ctx e.cluster fun q =>
      { q with combine := q.combine ++
          [(e.word.mod % 8, e.issueNo, c.val, laResolve ((s3.coreE ctx c.val).acc ctx (accBase e.word)))] }) := by
  subst hn hext
  refine congrArg Host.Outcome.next ((State.takeHead_ready hready).trans ?_)
  unfold runVred
  dsimp only
  rw [State.vxeRead_ok hread, ← hacc, if_neg (by simp [h1, h2]), if_pos hs, find?_range_eq_none hres]
  rfl

theorem exec_vred_writes {s4 : State} {out : ConvOut} (hs : sret = false)
    (hconv : (s3.coreM ctx c.val fun k => k.resolveAccs (accBase e.word) n).convertTo (agentOf ctx c.val 2) (e.view 0).d
      ((s3.coreM ctx c.val fun k => k.resolveAccs (accBase e.word) n).convCtx ctx e false)
      (((e.view 0).present.filter fun p => winIdx ext p.1 < n).map fun p =>
        (p.2, laValue (laResolve ((s3.coreE ctx c.val).acc ctx (accBase e.word + winIdx ext p.1))))) = (s4, .ok out)) :
    exec (.vred c) s = .next ((s4.addFlagged ctx out.count).doneEntry ctx c.val 1 e.slot out.flagged) := by
  subst hn hext
  refine congrArg Host.Outcome.next ((State.takeHead_ready hready).trans ?_)
  unfold runVred
  dsimp only
  rw [State.vxeRead_ok hread, ← hacc, if_neg (by simp [h1, h2]), if_neg (by simp [hs]), find?_range_eq_none hres, Option.getD_none,
    State.vxeWrite_ok hconv]

end Finish

end Vred

theorem exec_scalarReturn_combined {cl : Cluster} {slot : Fin 8} {s : State} {no : Nat} {parts : List (Nat × Nat × Nat × LA)}
    {cores : List Nat} (hf : s.frozen = false) (hc : s.combined (s.ctxOn cl.val) cl.val slot.val = some (no, parts, cores))
    (hm : laMismatch (combineSum (s.ctxOn cl.val) parts) = false) :
    exec (.scalarReturn cl slot) s = .next ((((s.seqM (s.ctxOn cl.val) cl.val fun q =>
      { q.uncombine slot.val no with
        slots := tabSet q.slots slot.val (tabGet q.slots slot.val [] ++
          [⟨BitVec.ofNat 32 (lehrRound 10 true 0 (laValue (combineSum (s.ctxOn cl.val) parts)) 127 0 0).code, none, no⟩]) }).endVred
        (s.ctxOn cl.val) no cores {}).takeScalar (s.ctxOn cl.val) cl.val).enterTokens (s.ctxOn cl.val) cl.val) := by
  refine congrArg Host.Outcome.next ?_
  dsimp only
  rw [if_neg (by simp [hf]), hc]
  dsimp only
  rw [hm, State.seqM_seqM]
  rfl

/-- Settles O19: a VRED that is read adds its elements and ends by its phase, and a sum that the combiner gives is delivered by two
changes of one sequencer. -/
theorem reductionsAccumulateAndFinish : Obligations.ReductionsAccumulateAndFinish := by
  refine ⟨fun c ctx phase dim n sret s s1 s2 s3 s4 e f ext out hready hread hext hn hacc => ?_,
    fun cl slot s no parts cores => exec_scalarReturn_combined⟩
  exact ⟨exec_vred_accumulates hready hread hext hn hacc, fun h1 h2 hres =>
    ⟨exec_vred_returns hready hread hext hn hacc h1 h2 hres, exec_vred_writes hready hread hext hn hacc h1 h2 hres⟩⟩

end Sys2Proof.Machine
end

section
/-! PROOF. A slice ends, contexts switch out and in. -/

namespace Sys2Proof.Machine

theorem State.switchIn_ok {s w : State} {ctx : Nat} (h : s.readCtxLines ctx = (w, true)) :
    s.switchIn ctx =
      let x : State := { w.runM ctx (fun r => { r with
          running := true, waited := 0, lastRun := w.sch.stamp + 1, expired := false, epochDue := false,
          debug := (w.ctxE ctx).debug && (w.funcE (w.ctxE ctx).func.toNat).debug }) with
        sch := { w.sch with stamp := w.sch.stamp + 1 } }
      let y := (x.jobClusters ctx).foldl (fun a k => a.clusM k fun c => { c with ctx := ctx }) x
      (y.jobClusters ctx).foldl (fun a k => a.pump ctx k) y := by
  unfold State.switchIn
  rw [h]
  rfl

theorem exec_contextSwitch {outc inc : CtxId} {s : State} (hs : s.schUp = true)
    (hc : (s.jobClusters outc.toNat ++ s.jobClusters inc.toNat).all s.cfcUp = true) (hne : outc.toNat ≠ inc.toNat)
    (ho : outc.toNat ≠ 0 → s.mayLeave outc.toNat = true) (hi : inc.toNat ≠ 0 → s.mayRun inc.toNat outc.toNat = true) :
    exec (.contextSwitch outc inc) s = .next (
      let v := if outc.toNat = 0 then s else s.switchOut outc.toNat
      if inc.toNat = 0 then v else v.switchIn inc.toNat) := by
  have hleave : (outc.toNat != 0 && !(s.mayLeave outc.toNat)) = false := by simpa using ho
  have hrun : (inc.toNat != 0 && !(s.mayRun inc.toNat outc.toNat)) = false := by simpa using hi
  refine congrArg Host.Outcome.next ?_
  dsimp only
  rw [if_neg (by simp [hs, hc, hleave, hrun, hne])]

/-- Settles O31: once the guards of the switch hold, it is `switchOut` and then `switchIn`, whose entry reads well; the end of a slice
marks the residents one by one. -/
theorem contextsSwitch : Obligations.ContextsSwitch := by
  refine ⟨fun outc inc s t t1 u v w x y o i ho hi hs hc hne ht ht1 hu hv hw hx hy hleave hrun => ?_, fun cl s hs hc => ?_⟩
  · subst o i
    have hout : (if outc.toNat = 0 then s else s.switchOut outc.toNat) = v := by subst t t1 u v; rfl
    rw [exec_contextSwitch hs hc hne hleave hrun]
    dsimp only
    rw [hout]
    split
    · rfl
    · next hi => subst x y; rw [State.switchIn_ok (hw hi)]
  · refine congrArg Host.Outcome.next ?_
    rw [if_neg (by simp [hs, hc])]

end Sys2Proof.Machine
end

section
/-! SUPPORT. Folds in which one element alone touches what is looked at. -/

namespace Sys2Proof.Machine

section Folds
variable {β γ V W : Type} {f : γ → β → γ} {view : γ → V} {l : List β}

theorem foldl_view (h : ∀ y ∈ l, ∀ c, view (f c y) = view c) (c : γ) : view (l.foldl f c) = view c := by
  induction l generalizing c with
  | nil => rfl
  | cons y l ih =>
    rw [List.foldl_cons, ih fun z hz => h z (List.mem_cons_of_mem _ hz), h y List.mem_cons_self]

/-- Where x, once in the list, makes `g` of what `view` shows, and the other elements change neither that nor what `out` shows, the fold
makes `g` of what was there first. -/
theorem foldl_view_once {out : γ → W} {g : V → W} {x : β} (hl : l.Nodup) (hx : x ∈ l) (hself : ∀ c, out (f c x) = g (view c))
    (hview : ∀ y ∈ l, y ≠ x → ∀ c, view (f c y) = view c) (hout : ∀ y ∈ l, y ≠ x → ∀ c, out (f c y) = out c) (c : γ) :
    out (l.foldl f c) = g (view c) := by
  obtain ⟨l₁, l₂, rfl⟩ := List.append_of_mem hx
  obtain ⟨h₁, h₂⟩ := not_or.1 (mt List.mem_append.2 (List.nodup_cons.1 (List.perm_middle.nodup_iff.1 hl)).1)
  rw [List.foldl_append, List.foldl_cons,
    foldl_view (fun y hy => hout y (List.mem_append_right _ (List.mem_cons_of_mem _ hy)) (ne_of_mem_of_not_mem hy h₂)), hself,
    foldl_view (fun y hy => hview y (List.mem_append_left _ hy) (ne_of_mem_of_not_mem hy h₁))]

theorem foldl_once {g : V → V} {x : β} (hl : l.Nodup) (hx : x ∈ l) (hself : ∀ c, view (f c x) = g (view c))
    (hview : ∀ y ∈ l, y ≠ x → ∀ c, view (f c y) = view c) (c : γ) : view (l.foldl f c) = g (view c) :=
  foldl_view_once hl hx hself hview hview c

end Folds

end Sys2Proof.Machine
end

section
/-! SUPPORT. How the work of a failed context ends: its sequencers stop, its queues are flushed and its collectives are forgotten (R173,
R188). -/

namespace Sys2Proof.Machine

theorem State.seqE_seqM (s : State) (c cl c' k : Nat) (g : SeqCtx → SeqCtx) :
    (s.seqM c cl g).seqE c' k = if 16 * c' + k = 16 * c + cl then g (s.seqE c cl) else s.seqE c' k :=
  tabGet_tabSet ..

/-- A sequencer of a context that fails: it stops, and its share ends with the failure's outcome, unless it has ended before (R173). -/
def SeqCtx.stopped (o : Outcm) (q : SeqCtx) : SeqCtx :=
  if q.run ≠ .idle ∧ q.run ≠ .faulted then { q with run := .faulted, ended := q.ended.or (some (o.status, 0, o)) } else q

/-- One sequencer of a context stops: the step of `State.stopSeqs`. -/
def State.stopSeq (s : State) (ctx : Nat) (o : Outcm) (cl : Nat) : State :=
  if (s.seqE ctx cl).run ≠ .idle ∧ (s.seqE ctx cl).run ≠ .faulted then
    s.seqM ctx cl fun q => { q with run := .faulted, ended := q.ended.or (some (o.status, 0, o)) }
  else s

theorem State.stopSeqs_eq (s : State) (ctx : Nat) (o : Outcm) :
    s.stopSeqs ctx o = (List.range 16).foldl (fun t k => t.stopSeq ctx o k) s := by
  unfold State.stopSeqs
  congr 1
  funext t k
  unfold State.stopSeq
  split
  · next h => simp [State.seqE, tabGet, h]
  · next q h =>
    have hq : t.seqE ctx k = q := by simp [State.seqE, tabGet, h]
    rw [hq]
    split
    · next hr => simp [hr]
    · next hr => simp [hr]
    · next hi hf => rw [if_pos ⟨hi, hf⟩]

theorem State.seqE_stopSeq (s : State) (ctx cl c k : Nat) (o : Outcm) :
    (s.stopSeq ctx o cl).seqE c k = if 16 * c + k = 16 * ctx + cl then (s.seqE c k).stopped o else s.seqE c k := by
  unfold State.stopSeq
  split
  · next hr =>
    rw [State.seqE_seqM]
    split
    · next h =>
      have hsame : s.seqE c k = s.seqE ctx cl := by simp only [State.seqE, h]
      rw [hsame, SeqCtx.stopped, if_pos hr]
    · rfl
  · next hr =>
    split
    · next h =>
      have hsame : s.seqE c k = s.seqE ctx cl := by simp only [State.seqE, h]
      rw [hsame, SeqCtx.stopped, if_neg hr]
    · rfl

theorem State.seqE_stopSeqs (s : State) (ctx c k : Nat) (o : Outcm) (hk : k < 16) :
    (s.stopSeqs ctx o).seqE c k = if c = ctx then (s.seqE c k).stopped o else s.seqE c k := by
  have hstep (j : Nat) (t : State) : (t.stopSeq ctx o j).seqE c k =
    if 16 * c + k = 16 * ctx + j then (t.seqE c k).stopped o else t.seqE c k := t.seqE_stopSeq ..
  rw [State.stopSeqs_eq]
  split
  · next hc =>
    refine foldl_once (view := fun t : State => t.seqE c k) (x := k) (g := SeqCtx.stopped o)
      List.nodup_range (List.mem_range.2 hk) (fun t => ?_) (fun j _ hj t => ?_) s
    · exact (hstep k t).trans (if_pos (by omega))
    · exact (hstep j t).trans (if_neg (by omega))
  · next hc =>
    refine foldl_view (view := fun t : State => t.seqE c k) (fun j hj t => ?_) s
    have := List.mem_range.1 hj
    exact (hstep j t).trans (if_neg (by omega))

/-- A state but for its sequencers. -/
def State.offSeqs (s : State) : State := { s with seqs := [] }

theorem State.eq_of_offSeqs {s t : State} (h : t.offSeqs = s.offSeqs) : t = { s with seqs := t.seqs } :=
  calc t = { t.offSeqs with seqs := t.seqs } := rfl
    _ = { s.offSeqs with seqs := t.seqs } := by rw [h]

theorem State.jobs_of_offSeqs {s t : State} (h : t.offSeqs = s.offSeqs) : t.jobs = s.jobs :=
  show t.offSeqs.jobs = s.offSeqs.jobs by rw [h]

theorem State.stopSeqs_offSeqs (s : State) (ctx : Nat) (o : Outcm) : (s.stopSeqs ctx o).offSeqs = s.offSeqs := by
  rw [State.stopSeqs_eq]
  refine foldl_view (view := State.offSeqs) (fun k _ t => ?_) s
  unfold State.stopSeq
  split <;> rfl

theorem State.tellStop_of_told {s : State} {ctx : Nat} (o : Outcm) (origin : Nat)
    (h : (s.jobs.any fun j => j.ctx == ctx && j.phase == .running && (uidFields j.unit).level == 4 && !j.told) = false) :
    s.tellStop ctx o origin = s := by
  unfold State.tellStop
  rw [List.find?_eq_none.2 (by simpa using h)]

theorem exec_sequencerStop {ctx : CtxId} {s : State} {f : FaultInfo} (hf : (s.runE ctx.toNat).fault = some f) :
    exec (.sequencerStop ctx) s =
      .next ((s.stopSeqs ctx.toNat (s.faultOut f).2).tellStop ctx.toNat (s.faultOut f).2 (s.faultOut f).1) := by
  refine congrArg Host.Outcome.next ?_
  dsimp only
  rw [hf]

/-- A queue keeps its core's count of stale completions. -/
theorem CoreCtx.setQueue_staleDone (k : CoreCtx) (q : Nat) (l : List QEntry) :
    { k.setQueue q l with staleDone := k.staleDone } = k.setQueue q l := by
  unfold CoreCtx.setQueue
  split <;> rfl

theorem State.dropColls_colls (s : State) (ctx : Nat) : ∀ k ∈ (s.dropColls ctx).colls, k.ctx ≠ ctx := by
  simp [State.dropColls]

theorem State.dropColls_joins (s : State) (ctx : Nat) : ∀ k ∈ (s.dropColls ctx).joins, k.ctx ≠ ctx := by
  simp [State.dropColls]

theorem State.coreE_of_recordsOf {s t : State} (h : s.RecordsOf t) (ctx n : Nat) : t.coreE ctx n = s.coreE ctx n := by
  obtain ⟨_, _, _, _, _, rfl⟩ := h
  rfl

theorem State.infoOther_recordsOf (s : State) (unit : BitVec 32) (ctx addr : Nat) (data : BitVec 64) :
    s.RecordsOf (s.infoOther unit ctx addr data) := State.raiseRec_recordsOf s _

/-- What a flush with an outcome leaves of a queue: the taken entries and those that have ended, the active ones with that outcome. -/
def flushQueue (o : Outcm) (l : List QEntry) : List QEntry :=
  (l.filter fun e => e.taken || e.result.isSome).map fun e => if e.result = none then { e with result := some o } else e

theorem State.coreE_flushCore (s : State) (ctx core : Nat) (o : Outcm) :
    ((s.flushCore ctx core o).1).coreE ctx core = { s.coreE ctx core with
      mxeQ := flushQueue o (s.coreE ctx core).mxeQ, vxeQ := flushQueue o (s.coreE ctx core).vxeQ,
      dxeQ := flushQueue o (s.coreE ctx core).dxeQ } := by
  simp [State.flushCore, CoreCtx.queue, CoreCtx.setQueue, flushQueue]

/-- A VXE instruction that is active when its context faults has ended, so that the flush leaves it its outcome (R188). -/
theorem flushQueue_ended (o : Outcm) (l : List QEntry) :
    flushQueue o (l.map fun e => if e.taken && e.result.isNone then { e with result := some {} } else e) = flushQueue {} l := by
  unfold flushQueue
  rw [List.filter_map, List.map_map]
  have hkept (e : QEntry) : ((fun e : QEntry => e.taken || e.result.isSome) ∘ fun e =>
      if e.taken && e.result.isNone then { e with result := some {} } else e) e = (e.taken || e.result.isSome) := by
    rw [Function.comp_apply]
    split
    · next h => simp [(Bool.and_eq_true_iff.1 h).1]
    · rfl
  rw [funext hkept]
  refine List.map_congr_left fun e he => ?_
  obtain hr | ⟨r, hr⟩ := Option.eq_none_or_eq_some e.result
  · have ht : e.taken = true := by simpa [hr] using (List.mem_filter.1 he).2
    simp [ht, hr]
  · simp [hr]

theorem State.coreE_faultCore (s : State) (ctx n : Nat) (o : Outcm) : (s.faultCore ctx n o).coreE ctx n = { s.coreE ctx n with
    mxeQ := flushQueue o (s.coreE ctx n).mxeQ, vxeQ := flushQueue {} (s.coreE ctx n).vxeQ,
    dxeQ := flushQueue o (s.coreE ctx n).dxeQ } := by
  unfold State.faultCore
  dsimp only
  rw [State.coreE_of_recordsOf (State.infoOther_recordsOf ..), State.coreE_flushCore, State.coreE_coreM_same, flushQueue_ended]

end Sys2Proof.Machine
end

section
/-! PROOF. An instruction completes with its signal; a faulted context ends its work. -/

namespace Sys2Proof.Machine

/-- An instruction completes, where its own outcome or that of a superseded placement asks for no failure token. -/
theorem exec_instructionComplete {c : CoreN} {q : Fin 3} {slot ctx : Nat} {s t u : State} {e : QEntry} {o o' : Outcm} {stale : Bool}
    (hctx : ctx = s.entryCtx c.val q.val slot) (he : s.entryE ctx c.val q.val slot = some e) (ho : e.result = some o)
    (hz : s.frozen = false) (hd : e.word.op ≠ some .dcow) (hstale : stale = (e.epoch != (s.ctxE ctx).epoch))
    (ho' : o' = if stale then { status := 0x17 } else o) (hend : stale = true ∨ o'.status = 0 ∨ o'.status = 1)
    (ht : t = (s.coreM ctx c.val fun k => { k.setQueue q.val ((k.queue q.val).filter fun x => x.slot != slot) with
        staleDone := k.staleDone + b2n stale }).seqM ctx e.cluster fun k =>
        { k with fence := k.fence ||| (if o'.status = 1 then BitVec.ofNat 4 (2 ^ e.word.engine) else 0),
                 flagged := k.flagged || o'.status = 1 })
    (hu : u = if (o'.status = 0 || o'.status = 1) && e.word.sigv then t.signalOf ctx e.word e.epoch [c.val] else t) :
    exec (.instructionComplete c q slot) s =
      .next ((if e.word.op = some .mmul ∨ e.word.op = some .mmula then u.physM c.val (fun p => (arrayList e.word).foldl (fun p a =>
          if tabGet p.arrState a 0 = 1 then { p with arrState := tabSet p.arrState a 2 } else p) p) else u).pump ctx e.cluster) := by
  subst hctx
  refine congrArg Host.Outcome.next ?_
  dsimp only
  rw [he]
  dsimp only
  rw [ho]
  dsimp only
  have hok : (decide (o'.status = 0) || decide (o'.status = 1) || stale) = true := by simpa [or_assoc, or_comm] using hend
  rw [if_neg (by simp [hz]), if_neg (show ¬(e.word.op == some .dcow) = true by simpa using hd), ← hstale, ← ho', ← ht, if_pos hok,
    ← hu]
  congr 1
  split
  · next h => rw [if_pos (.inl h)]
  · next h => rw [if_pos (.inr h)]
  · next hm ha => rw [if_neg (not_or.2 ⟨hm, ha⟩)]

/-- Settles O26: a completion by its own outcome and one by STALE_EPOCH are the two cases of `exec_instructionComplete`; the flush of a
core is `flushQueue` on each queue, and a stop of the sequencers touches nothing else. -/
theorem instructionsComplete : Obligations.InstructionsComplete := by
  refine ⟨fun c q slot ctx s e o hctx he ho hz hd => ⟨fun hep hst t u v ht hu hv => ?_, fun hep t v ht hv => ?_⟩,
    fun ctx s f hf => ⟨fun hfl => ?_, fun hfl => ⟨_, rfl, State.dropColls_colls _ _, State.dropColls_joins _ _, ?_⟩, fun t c n o _ => ?_⟩,
    fun ctx s f o hf ho ht => ?_⟩
  · subst hv
    refine exec_instructionComplete (stale := false) (o' := o) hctx he ho hz hd (by simpa using hep) rfl (.inr hst) (ht.trans ?_) (hu.trans ?_)
    · simp only [b2n, Bool.false_eq_true, if_false, Nat.add_zero, CoreCtx.setQueue_staleDone]
    · have hok : (decide (o.status = 0) || decide (o.status = 1)) = true := by simpa using hst
      rw [hok, Bool.true_and]
  · subst hv
    refine exec_instructionComplete (stale := true) hctx he ho hz hd (by simpa using hep) rfl (.inl rfl) (ht.trans ?_) ?_
    · simp [b2n]
    · simp
  · refine congrArg Host.Outcome.next ?_
    dsimp only
    rw [hf]
    exact if_pos hfl
  · refine congrArg Host.Outcome.next ?_
    dsimp only
    rw [hf]
    exact if_neg (by simp [hfl])
  · rw [State.coreE_faultCore]
    exact ⟨rfl, rfl⟩
  · subst ho
    have hoff := s.stopSeqs_offSeqs ctx.toNat (s.faultOut f).2
    refine ⟨_, exec_sequencerStop hf, ?_⟩
    rw [State.tellStop_of_told _ _ (by rw [State.jobs_of_offSeqs hoff]; exact ht)]
    refine ⟨State.eq_of_offSeqs hoff, fun c k hk => ?_⟩
    rw [State.seqE_stopSeqs _ _ _ _ _ hk, ite_and, SeqCtx.stopped]

end Sys2Proof.Machine
end

section
/-! SUPPORT. The arrays of an instruction's mask change one by one, each by its place in the mask (R76). -/

namespace Sys2Proof.Machine

theorem arrayList_nodup (t : TWord) : (arrayList t).Nodup := List.nodup_range.filter _

theorem nodup_zipIdx {α : Type} {l : List α} (h : l.Nodup) : l.zipIdx.Nodup :=
  .of_map Prod.fst (by simpa using h)

/-- An element of a list without repetitions has one place there. -/
theorem eq_of_mem_zipIdx_of_nodup {α : Type} {l : List α} (h : l.Nodup) {a : α} {i : Nat} (hi : l[i]? = some a) {y : α × Nat}
    (hy : y ∈ l.zipIdx) (ha : y.1 = a) : y = (a, i) := by
  have hy := List.mem_zipIdx_iff_getElem?.1 hy
  have hlt : y.2 < l.length := (List.getElem?_eq_some_iff.1 hy).1
  exact Prod.ext ha ((List.getElem?_inj hlt h).1 (hy.trans (ha ▸ hi.symm)))

theorem CoreCtx.arr_arrM (c : CoreCtx) (a b : Nat) (g : ArrCtx → ArrCtx) : (c.arrM a g).arr b = if b = a then g (c.arr a) else c.arr b :=
  tabGet_tabSet ..

theorem CoreCtx.arr_foldl_arrM {l : List Nat} (hl : l.Nodup) (g : Nat × Nat → ArrCtx → ArrCtx) (c : CoreCtx) (a : Nat) :
    (l.zipIdx.foldl (fun c aj => c.arrM aj.1 (g aj)) c).arr a = if a ∈ l then g (a, l.idxOf a) (c.arr a) else c.arr a := by
  have hother (y : Nat × Nat) (hy : y.1 ≠ a) (c : CoreCtx) : (c.arrM y.1 (g y)).arr a = c.arr a := by
    rw [CoreCtx.arr_arrM, if_neg (Ne.symm hy)]
  split
  · next ha =>
    have hplace := List.getElem?_idxOf ha
    refine foldl_once (view := fun c : CoreCtx => c.arr a) (x := (a, l.idxOf a)) (nodup_zipIdx hl)
      (List.mk_mem_zipIdx_iff_getElem?.2 hplace) (fun c => ?_)
      (fun y hy hne => hother y fun h => hne (eq_of_mem_zipIdx_of_nodup hl hplace hy h)) c
    rw [CoreCtx.arr_arrM, if_pos rfl]
  · next ha =>
    exact foldl_view (f := fun (c : CoreCtx) aj => c.arrM aj.1 (g aj)) (view := fun c => c.arr a)
      (fun y hy => hother y fun h => ha (h ▸ List.fst_mem_of_mem_zipIdx hy)) c

theorem CoreCtx.foldl_arrM (l : List (Nat × Nat)) (g : Nat × Nat → ArrCtx → ArrCtx) (c : CoreCtx) :
    l.foldl (fun c aj => c.arrM aj.1 (g aj)) c = { c with arrays := (l.foldl (fun c aj => c.arrM aj.1 (g aj)) c).arrays } := by
  induction l generalizing c with
  | nil => rfl
  | cons aj l ih => rw [List.foldl_cons, ih]; rfl

theorem State.coreM_foldl_coreM {β : Type} (ctx core : Nat) (f : β → CoreCtx → CoreCtx) (g : CoreCtx → CoreCtx) (l : List β) (s : State) :
    (l.foldl (fun s b => s.coreM ctx core (f b)) s).coreM ctx core g = s.coreM ctx core fun c => g (l.foldl (fun c b => f b c) c) := by
  induction l generalizing s with
  | nil => rfl
  | cons b l ih => rw [List.foldl_cons, ih, State.coreM_coreM]; rfl

theorem State.coreM_congr {s : State} {ctx core : Nat} {f g : CoreCtx → CoreCtx} (h : f (s.coreE ctx core) = g (s.coreE ctx core)) :
    s.coreM ctx core f = s.coreM ctx core g := by
  rw [State.coreM, State.coreM, h]

theorem State.doneEntry_mxe (s : State) (ctx core slot : Nat) : s.doneEntry ctx core 0 slot false = s.coreM ctx core fun k =>
    { k with mxeQ := updFirst (fun x => x.slot == slot) (fun x => { x with taken := true, result := some {} }) k.mxeQ } := rfl

/-- An MXE instruction that changes the arrays of its mask and ends with DONE. -/
theorem State.doneEntry_foldl_arrM {l : List Nat} (hl : l.Nodup) (g : Nat × Nat → ArrCtx → ArrCtx) (s : State) (ctx core slot : Nat) :
    ∃ arrs : List (Nat × ArrCtx),
      (.next ((l.zipIdx.foldl (fun s aj => s.coreM ctx core fun c => c.arrM aj.1 (g aj)) s).doneEntry ctx core 0 slot false) : Out) =
        .next (s.coreM ctx core fun k => { k with
          arrays := arrs,
          mxeQ := updFirst (fun x => x.slot == slot) (fun x => { x with taken := true, result := some {} }) k.mxeQ }) ∧
      ∀ a : Nat, tabGet arrs a {} =
        if a ∈ l then g (a, l.idxOf a) ((s.coreE ctx core).arr a) else (s.coreE ctx core).arr a := by
  refine ⟨_, congrArg Host.Outcome.next ?_, CoreCtx.arr_foldl_arrM hl g (s.coreE ctx core)⟩
  rw [State.doneEntry_mxe, State.coreM_foldl_coreM]
  refine State.coreM_congr ?_
  rw [CoreCtx.foldl_arrM]

theorem State.mxeStart_load {s : State} {ctx core l ready : Nat} {e : QEntry} {o : Op} {go : State → Int → State} (ha : e.word.arrays ≠ 0)
    (ho : o = .ldw ∨ o = .ldwt)
    (hs : slotFail e.word o l (issueCycle e.word (s.coreE ctx core) ready) (s.coreE ctx core) = none) :
    s.mxeStart ctx core e o l ready go =
      go (s.coreM ctx core fun k => { k with anchor := some (issueCycle e.word (s.coreE ctx core) ready) })
        (issueCycle e.word (s.coreE ctx core) ready) := by
  unfold State.mxeStart
  rcases ho with rfl | rfl
  · simp only [Int.add_zero]
    rw [if_neg ha, hs]
  · simp only [Int.add_zero]
    rw [if_neg ha, hs]

end Sys2Proof.Machine
end

section
/-! PROOF. LDW and LDWT fill the shadow sets; an idle array ramps down. -/

namespace Sys2Proof.Machine

theorem exec_load {cmd : Instr} {c : CoreN} {ready ctx : Nat} {s s' : State} {e : QEntry} {o : Op}
    (h : (cmd = .ldw c ready ∧ o = .ldw) ∨ (cmd = .ldwt c ready ∧ o = .ldwt))
    (hready : s.ready c.val 0 (· == o) (fun s ctx e o => mxeRest s c.val ctx e o) = some (s', ctx, e, o)) :
    exec cmd s = .next (runLoad c.val ready s' ctx e o) := by
  rcases h with ⟨rfl, rfl⟩ | ⟨rfl, rfl⟩
  · exact congrArg Host.Outcome.next (State.takeHead_ready hready)
  · exact congrArg Host.Outcome.next (State.takeHead_ready hready)

/-- Settles O15: a load that starts and reads its chunks changes the arrays of its mask one by one. -/
theorem loadFillsTheShadowSets : Obligations.LoadFillsTheShadowSets := by
  refine ⟨fun cmd c ready ctx s s1 s2 e o d st as places f hcmd hready ha hd hst hslot has hplaces hf => ?_, fun c a idle s => rfl⟩
  have hturn : (e.word.modeAs && !(o == .ldwt)) = as := by
    rcases hcmd with ⟨_, rfl⟩ | ⟨_, rfl⟩
    · exact has.symm
    · exact has.symm
  subst hd hst
  rw [exec_load hcmd hready]
  unfold runLoad
  dsimp only
  rw [State.mxeStart_load ha (hcmd.imp And.right And.right) hslot, hturn, ← hplaces, hf]
  exact State.doneEntry_foldl_arrM (arrayList_nodup e.word) _ s2 ctx c.val e.slot

end Sys2Proof.Machine
end

section
/-! SUPPORT. The LAs of a tile (R71, R80): their keys, and what clearing a tile and adding a pass to it make of each. -/

namespace Sys2Proof.Machine

theorem tile_lt (t : TWord) : t.tile < 2 := Nat.mod_lt _ (by decide)

theorem laKey_inj {a u m n b v i j : Nat} (hu : u < 2) (hm : m < 64) (hn : n < 64) (hv : v < 2) (hi : i < 64) (hj : j < 64) :
    laKey a u m n = laKey b v i j ↔ (a = b ∧ u = v) ∧ m = i ∧ n = j := by
  unfold laKey
  omega

theorem laKey_div {a u m n : Nat} (hm : m < 64) (hn : n < 64) : laKey a u m n / 4096 = 2 * a + u := by
  unfold laKey
  omega

@[simp] theorem CoreCtx.la_arrM (c : CoreCtx) (a ctx key : Nat) (g : ArrCtx → ArrCtx) : (c.arrM a g).la ctx key = c.la ctx key := rfl

theorem tabFind_filter {α : Type} (l : List (Nat × α)) (p : Nat → Bool) (k : Nat) :
    tabFind (l.filter fun q => p q.1) k = if p k then tabFind l k else none := by
  induction l with
  | nil => simp [tabFind]
  | cons q l ih =>
    obtain ⟨i, x⟩ := q
    rw [List.filter_cons]
    by_cases hi : i = k
    · subst hi
      cases hp : p i <;> simp [hp, tabFind, ih]
    · cases hp : p i <;> simp [tabFind, hi, ih]

theorem CoreCtx.la_clearTile (c : CoreCtx) (ctx a u b v : Nat) {m n : Nat} (hu : u < 2) (hv : v < 2) (hm : m < 64) (hn : n < 64) :
    (c.clearTile a u).la ctx (laKey b v m n) = if b = a ∧ v = u then laClear ctx else c.la ctx (laKey b v m n) := by
  have hkey : (laKey b v m n / 4096 != 2 * a + u) = !decide (b = a ∧ v = u) := by
    rw [laKey_div hm hn, bne, ← decide_eq_decide.2 (show 2 * b + v = 2 * a + u ↔ b = a ∧ v = u by omega)]
    rfl
  rw [CoreCtx.la, CoreCtx.clearTile, tabGet, tabFind_filter c.tiles (fun k => k / 4096 != 2 * a + u), hkey]
  by_cases h : b = a ∧ v = u
  · simp [h]
  · simp [h, CoreCtx.la, tabGet]

/-- One LA of a tile changed. -/
def CoreCtx.addAt (c : CoreCtx) (ctx key : Nat) (f : LA → LA) : CoreCtx := { c with tiles := tabSet c.tiles key (f (c.la ctx key)) }

/-- What a stream vector adds to row m of a tile: `add` at each column that holds an element. -/
def CoreCtx.addRow (ctx a u m : Nat) (add : List (Option El) → LA → LA) (col : Nat → List (Option El)) (c : CoreCtx) : CoreCtx :=
  (((List.range 64).map fun n => (n, col n)).filter fun q => q.2.any Option.isSome).foldl (fun c nc =>
    c.addAt ctx (laKey a u m nc.1) (add nc.2)) c

/-- What the stream vectors of a pass add to a tile: each that holds an element to its row. -/
def CoreCtx.addTile (ctx a u : Nat) (add : List (Option El) → List (Option El) → LA → LA) (vecs : List (List (Option El)))
    (col : Nat → List (Option El)) (c : CoreCtx) : CoreCtx :=
  (vecs.zipIdx.filter fun q => q.1.any Option.isSome).foldl (fun c vm => c.addRow ctx a u vm.2 (add vm.1) col) c

section Tile
variable {ctx a u b v m n i j : Nat} {col : Nat → List (Option El)}
variable (hu : u < 2) (hv : v < 2) (hm : m < 64) (hn : n < 64) (hi : i < 64) (hj : j < 64)

include hu hv hm hn hi hj in
theorem CoreCtx.la_addAt (f : LA → LA) (c : CoreCtx) : (c.addAt ctx (laKey a u m n) f).la ctx (laKey b v i j) =
    if (b = a ∧ v = u) ∧ i = m ∧ j = n then f (c.la ctx (laKey b v i j)) else c.la ctx (laKey b v i j) := by
  have hkey := laKey_inj (a := b) (b := a) hv hi hj hu hm hn
  rw [CoreCtx.la, CoreCtx.addAt, tabGet_tabSet]
  by_cases h : (b = a ∧ v = u) ∧ i = m ∧ j = n
  · rw [if_pos h, if_pos (hkey.2 h), hkey.2 h]
  · rw [if_neg h, if_neg (mt hkey.1 h)]
    rfl

include hu hv hm hi hj in
theorem CoreCtx.la_addRow (add : List (Option El) → LA → LA) (c : CoreCtx) :
    (c.addRow ctx a u m add col).la ctx (laKey b v i j) =
      if ((b = a ∧ v = u) ∧ i = m) ∧ (col j).any Option.isSome = true then add (col j) (c.la ctx (laKey b v i j))
      else c.la ctx (laKey b v i j) := by
  have hstep (n : Nat) (hn : n ∈ List.range 64) (c : CoreCtx) :
      (if (col n).any Option.isSome = true then c.addAt ctx (laKey a u m n) (add (col n)) else c).la ctx (laKey b v i j) =
        if ((b = a ∧ v = u) ∧ i = m ∧ j = n) ∧ (col n).any Option.isSome = true then add (col n) (c.la ctx (laKey b v i j))
        else c.la ctx (laKey b v i j) := by
    split
    · next h =>
      rw [CoreCtx.la_addAt hu hv hm (List.mem_range.1 hn) hi hj]
      simp [h]
    · next h => rw [if_neg fun hc => h hc.2]
  rw [CoreCtx.addRow, List.foldl_filter, List.foldl_map]
  by_cases hpos : (b = a ∧ v = u) ∧ i = m
  · have hmem := List.mem_range.2 hj
    refine foldl_once (view := fun c => c.la ctx (laKey b v i j)) (x := j)
      (g := fun l => if ((b = a ∧ v = u) ∧ i = m) ∧ (col j).any Option.isSome = true then add (col j) l else l)
      List.nodup_range hmem (fun c => ?_) (fun n hn hne c => (hstep n hn c).trans (if_neg fun h => hne h.1.2.2.symm)) c
    simpa [and_assoc] using hstep j hmem c
  · rw [if_neg fun h => hpos h.1]
    exact foldl_view (view := fun c => c.la ctx (laKey b v i j))
      (fun n hn c => (hstep n hn c).trans (if_neg fun h => hpos ⟨h.1.1, h.1.2.1⟩)) c

include hu hv hi hj in
theorem CoreCtx.la_addTile {vecs : List (List (Option El))} {vec : List (Option El)} (hlen : vecs.length = 64)
    (hvec : vecs[i]? = some vec) (add : List (Option El) → List (Option El) → LA → LA) (c : CoreCtx) :
    (c.addTile ctx a u add vecs col).la ctx (laKey b v i j) =
      if (b = a ∧ v = u) ∧ (vec.any Option.isSome && (col j).any Option.isSome) = true then
        add vec (col j) (c.la ctx (laKey b v i j))
      else c.la ctx (laKey b v i j) := by
  have hplace (y : List (Option El) × Nat) (hy : y ∈ vecs.zipIdx) : vecs[y.2]? = some y.1 := List.mem_zipIdx_iff_getElem?.1 hy
  have hstep (y : List (Option El) × Nat) (hy : y ∈ vecs.zipIdx) (c : CoreCtx) :
      (if y.1.any Option.isSome = true then c.addRow ctx a u y.2 (add y.1) col else c).la ctx (laKey b v i j) =
        if ((b = a ∧ v = u) ∧ i = y.2) ∧ (y.1.any Option.isSome && (col j).any Option.isSome) = true then
          add y.1 (col j) (c.la ctx (laKey b v i j))
        else c.la ctx (laKey b v i j) := by
    have hrow : y.2 < 64 := hlen ▸ (List.getElem?_eq_some_iff.1 (hplace y hy)).1
    split
    · next h => rw [CoreCtx.la_addRow hu hv hrow hi hj, h, Bool.true_and]
    · next h => simp [h]
  rw [CoreCtx.addTile, List.foldl_filter]
  by_cases hpos : b = a ∧ v = u
  · have hmem := List.mk_mem_zipIdx_iff_getElem?.2 hvec
    refine foldl_once (view := fun c => c.la ctx (laKey b v i j)) (x := (vec, i))
      (g := fun l => if (b = a ∧ v = u) ∧ (vec.any Option.isSome && (col j).any Option.isSome) = true then add vec (col j) l else l)
      (.of_map Prod.snd (by simpa using List.nodup_range')) hmem (fun c => ?_) (fun y hy hne c => ?_) c
    · simpa using hstep _ hmem c
    · refine (hstep y hy c).trans (if_neg ?_)
      rintro ⟨⟨_, rfl⟩, _⟩
      exact hne (Prod.ext (Option.some.inj ((hplace y hy).symm.trans hvec)) rfl)
  · rw [if_neg fun h => hpos h.1]
    exact foldl_view (view := fun c => c.la ctx (laKey b v i j)) (fun y hy c => (hstep y hy c).trans (if_neg fun h => hpos h.1.1)) c

end Tile

/-- What a change of one LA leaves alone, a pass leaves alone. -/
theorem CoreCtx.addTile_view {V : Type} {view : CoreCtx → V} (h : ∀ c ctx key f, view (CoreCtx.addAt c ctx key f) = view c)
    (ctx a u : Nat) (add : List (Option El) → List (Option El) → LA → LA) (vecs : List (List (Option El)))
    (col : Nat → List (Option El)) (c : CoreCtx) : view (c.addTile ctx a u add vecs col) = view c := by
  have hrow (m : Nat) (add : List (Option El) → LA → LA) (c : CoreCtx) : view (c.addRow ctx a u m add col) = view c := by
    unfold CoreCtx.addRow
    exact foldl_view (view := view) (fun nc _ c => h c ctx (laKey a u m nc.1) (add nc.2)) c
  unfold CoreCtx.addTile
  exact foldl_view (view := view) (fun vm _ c => hrow vm.2 (add vm.1) c) c

end Sys2Proof.Machine
end

section
/-! SUPPORT. What a pass leaves alone: the state outside the cores, and, of what the matrix engine works with, all that the opening of a
checked tile and a capture touch (R339, R341). -/

namespace Sys2Proof.Machine

/-- A state but for what contexts hold on cores, the cores' registers and what is counted of a context's run. -/
def State.offCores (s : State) : State := { s with cores := [], phys := [], runs := [] }

@[simp] theorem State.offCores_coreM (s : State) (c n : Nat) (g : CoreCtx → CoreCtx) : (s.coreM c n g).offCores = s.offCores := rfl
@[simp] theorem State.offCores_physM (s : State) (c : Nat) (g : CorePhys → CorePhys) : (s.physM c g).offCores = s.offCores := rfl
@[simp] theorem State.offCores_runM (s : State) (c : Nat) (g : CtxRun → CtxRun) : (s.runM c g).offCores = s.offCores := rfl

theorem State.eq_of_offCores {s t : State} (h : t.offCores = s.offCores) :
    t = { s with cores := t.cores, phys := t.phys, runs := t.runs } :=
  calc t = { t.offCores with cores := t.cores, phys := t.phys, runs := t.runs } := rfl
    _ = { s.offCores with cores := t.cores, phys := t.phys, runs := t.runs } := by rw [h]

@[simp] theorem State.offCores_capture (s : State) (ctx core a u n : Nat) (put : Shadow → Shadow) :
    (s.capture ctx core a u n put).offCores = s.offCores := by
  unfold State.capture
  dsimp only
  split
  · rfl
  · split <;> rfl

@[simp] theorem State.offCores_openTile (s : State) (ctx core a u : Nat) (step : BitVec 32) :
    (s.openTile ctx core a u step).offCores = s.offCores := by
  unfold State.openTile
  extract_lets
  split <;> rfl

/-- The queue, the stationary sets and the tiles that the matrix engine works with on a core are the same. -/
structure CoreCtx.SameMatrix (c d : CoreCtx) : Prop where
  mxeQ : d.mxeQ = c.mxeQ
  arrays : d.arrays = c.arrays
  tiles : d.tiles = c.tiles

theorem CoreCtx.SameMatrix.arr {c d : CoreCtx} (h : c.SameMatrix d) (a : Nat) : d.arr a = c.arr a := by
  rw [CoreCtx.arr, CoreCtx.arr, h.arrays]

theorem CoreCtx.SameMatrix.la {c d : CoreCtx} (h : c.SameMatrix d) (ctx key : Nat) : d.la ctx key = c.la ctx key := by
  rw [CoreCtx.la, CoreCtx.la, h.tiles]

theorem State.capture_sameMatrix (s : State) (ctx core a u n : Nat) (put : Shadow → Shadow) :
    (s.coreE ctx core).SameMatrix ((s.capture ctx core a u n put).coreE ctx core) := by
  unfold State.capture
  dsimp only
  split
  · exact ⟨rfl, rfl, rfl⟩
  · split
    · rw [State.physM_coreE, State.coreE_coreM_same]
      exact ⟨rfl, rfl, rfl⟩
    · rw [State.coreE_coreM_same]
      exact ⟨rfl, rfl, rfl⟩

/-- Opening a checked tile changes one array, but for its stationary sets. -/
theorem State.openTile_sameMatrix (s : State) (ctx core a u : Nat) (step : BitVec 32) : ∃ r : ArrCtx,
    r.active = ((s.coreE ctx core).arr a).active ∧ r.shadow = ((s.coreE ctx core).arr a).shadow ∧
    ((s.coreE ctx core).arrM a fun _ => r).SameMatrix ((s.openTile ctx core a u step).coreE ctx core) := by
  unfold State.openTile
  extract_lets r₀ r₁ c₀ r s'
  have h₁ : r₁.active = r₀.active ∧ r₁.shadow = r₀.shadow := by dsimp only [r₁]; split <;> exact ⟨rfl, rfl⟩
  have h : r.active = r₁.active ∧ r.shadow = r₁.shadow := by dsimp only [r]; split <;> exact ⟨rfl, rfl⟩
  have hs' : ((s.coreE ctx core).arrM a fun _ => r).SameMatrix (s'.coreE ctx core) := by
    rw [State.coreE_coreM_same]
    exact ⟨rfl, rfl, rfl⟩
  refine ⟨r, h.1.trans h₁.1, h.2.trans h₁.2, ?_⟩
  split
  · rw [State.coreE_coreM_same]
    exact ⟨hs'.mxeQ, hs'.arrays, hs'.tiles⟩
  · exact hs'

theorem State.mxeStart_pass {s : State} {ctx core ready : Nat} {st : Int} {e : QEntry} {o : Op} {go : State → Int → State}
    (ha : e.word.arrays ≠ 0) (ho : o = .mmul ∨ o = .mmula)
    (hst : st = issueCycle e.word (s.coreE ctx core) ready +
      rampOf e.word (s.coreE ctx core) (s.physE core) (issueCycle e.word (s.coreE ctx core) ready))
    (hs : slotFail e.word o 0 st (s.coreE ctx core) = none) :
    s.mxeStart ctx core e o 0 ready go = go (s.coreM ctx core fun k => { k with anchor := some st }) st := by
  subst hst
  unfold State.mxeStart
  rcases ho with rfl | rfl
  · dsimp only
    rw [if_neg ha, hs]
  · dsimp only
    rw [if_neg ha, hs]

end Sys2Proof.Machine
end

section
/-! SUPPORT. A pass over the arrays of its mask (R73, R79, R80): each LA of a tile gets its own products, once. -/

namespace Sys2Proof.Machine

/-- What a pass of t makes of one array a, where it adds to the LA at (m, n) of its tile by `add` from the stationary set in use: nothing
outside the core's matrix engine and its registers, and no LA of another array. -/
structure State.PassOn (ctx core : Nat) (t : TWord) (a : Nat) (add : StatSet → Nat → Nat → LA → LA) (s s' : State) : Prop where
  rest : s'.offCores = s.offCores
  mxeQ : (s'.coreE ctx core).mxeQ = (s.coreE ctx core).mxeQ
  arr : ∀ b ≠ a, (s'.coreE ctx core).arr b = (s.coreE ctx core).arr b
  la : ∀ b v m n, v < 2 → m < 64 → n < 64 → (s'.coreE ctx core).la ctx (laKey b v m n) =
    if b = a ∧ v = t.tile then add (passSet t ((s.coreE ctx core).arr a)) m n
      (if t.clearT then laClear ctx else (s.coreE ctx core).la ctx (laKey b v m n))
    else (s.coreE ctx core).la ctx (laKey b v m n)

/-- An LA after a stream vector and a column: their products added, where both hold an element. -/
def addProducts (add : List (Option El) → List (Option El) → LA → LA) (vec col : List (Option El)) (l : LA) : LA :=
  if vec.any Option.isSome && col.any Option.isSome then add vec col l else l

/-- The state in which a pass works on an array: with CLEAR, the tile is opened first (R80, R339). -/
theorem State.openTile_if {ctx core a : Nat} {t : TWord} {s sO : State} {step : BitVec 32}
    (h : sO = if t.clearT then s.openTile ctx core a t.tile step else s) :
    sO.offCores = s.offCores ∧ (sO.coreE ctx core).mxeQ = (s.coreE ctx core).mxeQ ∧
    (∀ key, (sO.coreE ctx core).la ctx key = (s.coreE ctx core).la ctx key) ∧
    (∀ b ≠ a, (sO.coreE ctx core).arr b = (s.coreE ctx core).arr b) ∧
    passSet t ((sO.coreE ctx core).arr a) = passSet t ((s.coreE ctx core).arr a) := by
  subst h
  split
  · obtain ⟨r, hactive, hshadow, hsame⟩ := s.openTile_sameMatrix ctx core a t.tile step
    refine ⟨State.offCores_openTile .., hsame.mxeQ, hsame.la ctx, fun b hb => ?_, ?_⟩
    · rw [hsame.arr, CoreCtx.arr_arrM, if_neg hb]
    · rw [hsame.arr, CoreCtx.arr_arrM, if_pos rfl, passSet, passSet, hactive, hshadow]
  · exact ⟨rfl, rfl, fun _ => rfl, fun _ _ => rfl, rfl⟩

/-- The step of a pass on one array: the tile opened and cleared where CLEAR says so, the sets as `x` has them, the products added, and what
they come to captured. -/
theorem State.passOn_array {ctx core a n : Nat} {t : TWord} {s sO : State} {x : ArrCtx} {step : BitVec 32} {put : Shadow → Shadow}
    {g : CorePhys → CorePhys} {add : StatSet → List (Option El) → List (Option El) → LA → LA} {col : StatSet → Nat → List (Option El)}
    {vecs : List (List (Option El))} {vec : Nat → List (Option El)} (hlen : vecs.length = 64) (hvec : ∀ m < 64, vecs[m]? = some (vec m))
    (hO : sO = if t.clearT then s.openTile ctx core a t.tile step else s) (hx : x.active = passSet t ((sO.coreE ctx core).arr a)) :
    s.PassOn ctx core t a (fun set m n => addProducts (add set) (vec m) (col set n))
      (((sO.coreM ctx core fun _ => CoreCtx.addTile ctx a t.tile (add x.active) vecs (col x.active)
        (if t.clearT then ((sO.coreE ctx core).arrM a fun _ => x).clearTile a t.tile else (sO.coreE ctx core).arrM a fun _ => x)).capture
          ctx core a t.tile n put).physM core g) := by
  obtain ⟨hrest, hmxeQ, hla, harr, hset⟩ := State.openTile_if hO
  rw [hset] at hx
  generalize hc : (if t.clearT then ((sO.coreE ctx core).arrM a fun _ => x).clearTile a t.tile
    else (sO.coreE ctx core).arrM a fun _ => x) = c
  have hcq : c.mxeQ = (sO.coreE ctx core).mxeQ ∧ c.arrays = ((sO.coreE ctx core).arrM a fun _ => x).arrays := by
    subst hc
    split <;> exact ⟨rfl, rfl⟩
  have hcla (b v m n : Nat) (hv : v < 2) (hm : m < 64) (hn : n < 64) : c.la ctx (laKey b v m n) =
      if b = a ∧ v = t.tile ∧ t.clearT then laClear ctx else (sO.coreE ctx core).la ctx (laKey b v m n) := by
    subst hc
    split
    · next h =>
      rw [CoreCtx.la_clearTile _ _ _ _ _ _ (tile_lt t) hv hm hn]
      simp [h]
    · next h => simp [h]
  have hsame := State.capture_sameMatrix (sO.coreM ctx core fun _ => c.addTile ctx a t.tile (add x.active) vecs (col x.active))
    ctx core a t.tile n put
  rw [State.coreE_coreM_same] at hsame
  refine ⟨?_, ?_, fun b hb => ?_, fun b v m n hv hm hn => ?_⟩
  · rw [State.offCores_physM, State.offCores_capture, State.offCores_coreM, hrest]
  · rw [State.physM_coreE, hsame.mxeQ, CoreCtx.addTile_view (view := CoreCtx.mxeQ) (fun _ _ _ _ => rfl), hcq.1, hmxeQ]
  · rw [State.physM_coreE, hsame.arr, CoreCtx.arr, CoreCtx.addTile_view (view := CoreCtx.arrays) (fun _ _ _ _ => rfl), hcq.2, ← harr b hb]
    exact tabGet_tabSet_ne _ _ _ _ _ hb
  · rw [State.physM_coreE, hsame.la, CoreCtx.la_addTile (tile_lt t) hv hm hn hlen (hvec m hm),
      hcla b v m n hv hm hn, hla, hx]
    by_cases h : b = a ∧ v = t.tile
    · simp [h, addProducts]
    · rw [if_neg (fun h' => h h'.1), if_neg h, if_neg (fun h' => h ⟨h'.1, h'.2.1⟩)]

/-- A pass over a mask of distinct arrays: each tile is added to once, from the set that its array had before the pass. -/
theorem State.passOn_foldl {l : List Nat} (hl : l.Nodup) {ctx core : Nat} {t : TWord} {add : Nat → StatSet → Nat → Nat → LA → LA}
    {f : State → Nat × Nat → State}
    (hf : ∀ (s : State) (a j : Nat), l[j]? = some a → s.PassOn ctx core t a (add j) (f s (a, j))) (s : State) :
    (l.zipIdx.foldl f s).offCores = s.offCores ∧
    ((l.zipIdx.foldl f s).coreE ctx core).mxeQ = (s.coreE ctx core).mxeQ ∧
    (∀ a ∉ l, ∀ v m n, v < 2 → m < 64 → n < 64 →
      ((l.zipIdx.foldl f s).coreE ctx core).la ctx (laKey a v m n) = (s.coreE ctx core).la ctx (laKey a v m n)) ∧
    ∀ j a, l[j]? = some a → ∀ m n, m < 64 → n < 64 →
      ((l.zipIdx.foldl f s).coreE ctx core).la ctx (laKey a t.tile m n) = add j (passSet t ((s.coreE ctx core).arr a)) m n
        (if t.clearT then laClear ctx else (s.coreE ctx core).la ctx (laKey a t.tile m n)) := by
  have hon (y : Nat × Nat) (hy : y ∈ l.zipIdx) (s : State) : s.PassOn ctx core t y.1 (add y.2) (f s y) :=
    hf s y.1 y.2 (List.mem_zipIdx_iff_getElem?.1 hy)
  refine ⟨foldl_view (view := State.offCores) (fun y hy s => (hon y hy s).rest) s,
    foldl_view (view := fun s : State => (s.coreE ctx core).mxeQ) (fun y hy s => (hon y hy s).mxeQ) s,
    fun a ha v m n hv hm hn => ?_, fun j a hj m n hm hn => ?_⟩
  · refine foldl_view (view := fun s : State => (s.coreE ctx core).la ctx (laKey a v m n)) (fun y hy s => ?_) s
    refine ((hon y hy s).la a v m n hv hm hn).trans (if_neg ?_)
    exact fun h => ha (h.1 ▸ List.fst_mem_of_mem_zipIdx hy)
  · have hmem := List.mk_mem_zipIdx_iff_getElem?.2 hj
    have hother (y : Nat × Nat) (hy : y ∈ l.zipIdx) (hne : y ≠ (a, j)) : a ≠ y.1 :=
      fun h => hne (eq_of_mem_zipIdx_of_nodup hl hj hy h.symm)
    have hla (y : Nat × Nat) (hy : y ∈ l.zipIdx) (hne : y ≠ (a, j)) (s : State) :
        ((f s y).coreE ctx core).la ctx (laKey a t.tile m n) = (s.coreE ctx core).la ctx (laKey a t.tile m n) :=
      ((hon y hy s).la a _ m n (tile_lt t) hm hn).trans (if_neg fun h => hother y hy hne h.1)
    exact foldl_view_once (view := fun s : State => ((s.coreE ctx core).arr a, (s.coreE ctx core).la ctx (laKey a t.tile m n)))
      (out := fun s : State => (s.coreE ctx core).la ctx (laKey a t.tile m n))
      (g := fun p => add j (passSet t p.1) m n (if t.clearT then laClear ctx else p.2)) (nodup_zipIdx hl) hmem
      (fun s => ((hon _ hmem s).la a _ m n (tile_lt t) hm hn).trans (if_pos ⟨rfl, rfl⟩))
      (fun y hy hne s => Prod.ext ((hon y hy s).arr a (hother y hy hne)) (hla y hy hne s)) hla s

end Sys2Proof.Machine
end

section
/-! PROOF. MMUL and MMULA add their products into the tiles. -/

namespace Sys2Proof.Machine

theorem exec_pass {cmd : Instr} {c : CoreN} {ready ctx : Nat} {s s' : State} {e : QEntry} {o : Op}
    (h : (cmd = .mmul c ready ∧ o = .mmul) ∨ (cmd = .mmula c ready ∧ o = .mmula))
    (hready : s.ready c.val 0 (· == o) (fun s ctx e o => mxeRest s c.val ctx e o) = some (s', ctx, e, o)) :
    exec cmd s = .next (runPass c.val ready s' ctx e o) := by
  rcases h with ⟨rfl, rfl⟩ | ⟨rfl, rfl⟩
  · exact congrArg Host.Outcome.next (State.takeHead_ready hready)
  · exact congrArg Host.Outcome.next (State.takeHead_ready hready)

/-- A stream vector, by k, from where its elements lie (R73, R76). -/
def passVec (d : Desc) (f : Fetched) (p : Nat) (row : List (Nat × List Nat)) : List (Option El) :=
  denseOf 0 (64 * p) (row.map fun q => (q.1, elAt d f q.2))

/-- P of the products on an array with that stationary set (R46, R192). -/
def passDepth (o : Op) (p : Nat) (set : StatSet) : Nat := if o == .mmula then pOf set.pcode.toNat else p

/-- What a pass adds to an LA of an array with that stationary set (R72 to R74). -/
def passAdd (o : Op) (d : Desc) (p : Nat) (set : StatSet) (vec col : List (Option El)) (l : LA) : LA :=
  laPass d.fmt set.fmt.toNat (if o == .mmula then fmtRate set.fmt.toNat else fmtRate d.fmt) (passDepth o p set) l vec col

/-- The 64 stream vectors of the array at mask position j: the same ones under AS, its own otherwise (R73). -/
theorem streamRows {α β : Type} {rows : List α} {as : Bool} {k j : Nat} (hlen : rows.length = if as then 64 else 64 * k) (hj : j < k)
    (g : α → β) (d : α) : (if as then rows.map g else ((rows.map g).drop (64 * j)).take 64).length = 64 ∧
    ∀ m < 64, (if as then rows.map g else ((rows.map g).drop (64 * j)).take 64)[m]? =
      some (g (rows.getD (if as then m else 64 * j + m) d)) := by
  have hget (i : Nat) (hi : i < rows.length) : (rows.map g)[i]? = some (g (rows.getD i d)) := by
    rw [List.getElem?_map, List.getD_eq_getElem?_getD, List.getElem?_eq_getElem hi, Option.map_some, Option.getD_some]
  cases as
  · simp only [Bool.false_eq_true, if_false] at hlen ⊢
    refine ⟨by rw [List.length_take, List.length_drop, List.length_map, hlen]; omega, fun m hm => ?_⟩
    rw [List.getElem?_take_of_lt hm, List.getElem?_drop, hget _ (by omega)]
  · simp only [if_true] at hlen ⊢
    exact ⟨by rw [List.length_map, hlen], fun m hm => hget m (hlen ▸ hm)⟩

section Pass
variable {core ready ctx p : Nat} {s s' : State} {e : QEntry} {o : Op} {d : Desc} {st : Int} {rows : List (List (Nat × List Nat))} {f : Fetched}

/-- A pass that is on time and reads its stream vectors: one step for each array of its mask, and DONE. -/
theorem runPass_eq_foldl (ha : e.word.arrays ≠ 0) (ho : o = .mmul ∨ o = .mmula) (hd : d = e.desc (e.word.td 0))
    (hst : st = issueCycle e.word (s.coreE ctx core) ready +
      rampOf e.word (s.coreE ctx core) (s.physE core) (issueCycle e.word (s.coreE ctx core) ready))
    (hs : slotFail e.word o 0 st (s.coreE ctx core) = none) (hp : p = passP e.word o (s.coreE ctx core) d)
    (hrows : rows = (List.range (if o == .mmula then 64 else 64 * (arrayList e.word).length)).map
      (fun m => vectorPlaces d (originOf d (e.word.off 0)) p m))
    (hf : (s.coreM ctx core fun k => { k with anchor := some st }).fetchAt (agentOf ctx core 2)
      (readAddrs d (rows.flatten.map Prod.snd)) = (s', .ok f)) :
    ∃ (step : State → Nat × Nat → State) (g : CtxRun → CtxRun),
      (∀ (t : State) (a j : Nat), (arrayList e.word)[j]? = some a → t.PassOn ctx core e.word a (fun set m n =>
        addProducts (passAdd o d p set) (passVec d f p (rows.getD (if o == .mmula then m else 64 * j + m) []))
          (column set n (passDepth o p set))) (step t (a, j))) ∧
      runPass core ready s ctx e o =
        (((arrayList e.word).zipIdx.foldl step s').runM ctx g).doneEntry ctx core 0 e.slot false := by
  have hp' : passP e.word o ((s.coreM ctx core fun k => { k with anchor := some st }).coreE ctx core) d = p := by
    rw [hp, State.coreE_coreM_same]
    rfl
  have hlen : rows.length = if o == .mmula then 64 else 64 * (arrayList e.word).length := by
    rw [hrows, List.length_map, List.length_range]
  subst hd
  unfold runPass
  extract_lets t d arrs u org as up
  rw [State.mxeStart_pass ha ho hst hs]
  extract_lets p₀ rows₀
  have hp₀ : p₀ = p := hp'
  have hrows₀ : rows₀ = rows := by
    dsimp only [rows₀]
    rw [hp₀, hrows]
  rw [hrows₀, hp₀, hf]
  refine ⟨_, _, fun q a j hj => ?_, rfl⟩
  obtain ⟨hvecs, hvec⟩ := streamRows hlen (List.getElem?_eq_some_iff.1 hj).1 (passVec d f p) []
  dsimp -zeta only
  extract_lets sO c x _ x₁ _ x₂ _ x₃ x₄
  have hactive : x₄.active = passSet t x := by
    have h₁ : x₁.active = passSet t x := by
      dsimp only [x₁, passSet]
      split <;> rfl
    have h₃ : x₃.active = x₁.active := by
      dsimp only [x₃]
      split <;> rfl
    rw [← h₁, ← h₃]
    dsimp only [x₄]
    split
    · rfl
    · split <;> rfl
  exact State.passOn_array (x := x₄) (add := passAdd o d p) (col := fun set n => column set n (passDepth o p set)) hvecs hvec rfl hactive

end Pass

/-- Settles O16: a pass that starts and reads its stream vectors is one step for each array of its mask (`runPass_eq_foldl`), which adds to
the array's own tile alone (`State.passOn_foldl`). -/
theorem passAddsIntoTheTiles : Obligations.PassAddsIntoTheTiles := by
  intro cmd c ready ctx p s s1 s2 e o d i rows f hcmd hready ha hd hi hslot hp hrows hf
  subst hi
  obtain ⟨step, g, hstep, hrun⟩ := runPass_eq_foldl ha (hcmd.imp And.right And.right) hd rfl hslot hp hrows hf
  obtain ⟨hrest, hmxeQ, hother, hla⟩ := State.passOn_foldl (arrayList_nodup e.word) hstep s2
  rw [exec_pass hcmd hready, hrun]
  refine ⟨_, rfl, State.eq_of_offCores ?_, ?_, ?_, ?_⟩
  · rw [State.doneEntry_mxe, State.offCores_coreM, State.offCores_runM, hrest]
  · rw [State.doneEntry_mxe, State.coreE_coreM_same, State.runM_coreE, hmxeQ]
  · intro a ha v m n hv hm hn
    rw [State.doneEntry_mxe, State.coreE_coreM_same]
    exact hother a ha v m n hv hm hn
  · intro j a set hj hset m n pa vec col base hm hn hpa hvec hcol hbase
    rw [State.doneEntry_mxe, State.coreE_coreM_same]
    refine (hla j a hj m n hm hn).trans ?_
    subst hset hpa hvec hcol hbase hd
    rfl

end Sys2Proof.Machine
end

section
/-! SUPPORT. The lehr on an element that is not zero, of a format that does not round on levels: the quotient of its mode is encoded, or
overflows (R97 to R99, R103). -/

namespace Sys2Proof.Machine

/-- What the lehr makes of q ulps of a format (R97, R103). -/
def latticeOut (f : Nat) (inf neg : Bool) (q : Nat) (ue : Int) : ElemOut :=
  if !(magLe q ue (fmax f).1 (fmax f).2) then overflowOut f inf neg else { code := encodeMag f neg q ue }

section Modes
variable {f s u m : Nat} {inf neg : Bool} {e x ue : Int} (g : Nat)
variable (hf : fmtIsLevel f = false) (hm : m ≠ 0) (hx : x = e + (127 - (s : Int)) + u) (hue : ue = ulpExp f (x + m.log2))
include hf hm hx hue

theorem lehrRound_sr : lehrRound f inf 1 (.val (.fin neg m e)) s u g =
    latticeOut f inf neg ((floorMag m (x - ue + 16) + g) / 2 ^ 16) ue := by
  subst hx hue
  simp only [lehrRound, hf, hm, Bool.false_eq_true, if_false, latticeOut]

theorem lehrRound_rtz : lehrRound f inf 2 (.val (.fin neg m e)) s u g =
    latticeOut f inf neg (floorMag m (x - ue + 16) / 2 ^ 16) ue := by
  subst hx hue
  simp only [lehrRound, hf, hm, Bool.false_eq_true, if_false, latticeOut]

end Modes

/-- A grain below n carries into the quotient exactly where it fills the remainder up to n. -/
theorem add_div_eq_succ_iff {a g n : Nat} (hg : g < n) : (a + g) / n = a / n + 1 ↔ n - a % n ≤ g := by
  have hn : 0 < n := by omega
  have hr := Nat.mod_lt a hn
  rw [Nat.add_div hn, Nat.div_eq_of_lt hg, Nat.mod_eq_of_lt hg]
  split <;> omega

theorem add_div_eq_or_succ {a g n : Nat} (hg : g < n) : (a + g) / n = a / n ∨ (a + g) / n = a / n + 1 := by
  rw [Nat.add_div (by omega), Nat.div_eq_of_lt hg]
  split
  · exact .inr rfl
  · exact .inl rfl

theorem length_filter_range_le (k n : Nat) : ((List.range n).filter fun g => k ≤ g).length = n - k := by
  rw [← List.Ico.zero_bot, List.Ico.filter_le, Nat.zero_max, List.Ico.length]

/-- As many of the grains below n carry as the remainder holds. -/
theorem length_filter_carries (a : Nat) {n : Nat} (hn : 0 < n) :
    ((List.range n).filter fun g => (a + g) / n == a / n + 1).length = a % n := by
  have hr := Nat.mod_lt a hn
  calc ((List.range n).filter fun g => (a + g) / n == a / n + 1).length
      = ((List.range n).filter fun g => n - a % n ≤ g).length := by
        refine congrArg List.length (List.filter_congr fun g hg => ?_)
        rw [beq_eq_decide, decide_eq_decide]
        exact add_div_eq_succ_iff (List.mem_range.1 hg)
    _ = n - (n - a % n) := length_filter_range_le _ _
    _ = a % n := by omega

end Sys2Proof.Machine
end

section
/-! PROOF. Stochastic rounding is unbiased. -/

namespace Sys2Proof.Machine

/-- Settles O7: stochastic rounding is the encoding of ⌊(A + g) ÷ 2^16⌋ (`lehrRound_sr`), and A mod 2^16 of the grains carry into that
quotient (`length_filter_carries`). -/
theorem stochasticRoundingIsUnbiased : Obligations.StochasticRoundingIsUnbiased := by
  intro f s u inf neg m a e x ue hf hm hx hue ha
  refine ⟨fun g q hq => ?_, fun h0 g hg => ?_, length_filter_carries a (by decide), fun g hg => add_div_eq_or_succ hg⟩
  · rw [lehrRound_sr g hf hm hx hue, ← ha, hq]
    rfl
  · have hq : (a + g) / 2 ^ 16 = a / 2 ^ 16 := by omega
    rw [lehrRound_sr g hf hm hx hue, lehrRound_rtz 0 hf hm hx hue, ← ha, hq]

end Sys2Proof.Machine
end

section
/-! PROOF. VEW, VCVT.CONVERT, VCVT.COMMIT and the norm instructions write their results. -/

namespace Sys2Proof.Machine

theorem runVnrmFlush_eq {core ctx : Nat} {s s' : State} {e : QEntry} {o : Op} {r : Option Outcm} (h : s.flushNorms ctx core = (s', r)) :
    runVnrmFlush core s ctx e o = s'.endEntry ctx core 1 e.slot (r.getD {}) := by
  unfold runVnrmFlush
  rw [h]
  cases r <;> rfl

/-- The two bytes of the scale entry of block j, as a commit leaves them (R113). -/
def commitBytes (d : Desc) (f : Fetched) (j : Nat) : List MByte :=
  [(entryAddr d j, 255, (commitEntry (BitVec.ofNat 8 (f.get (entryAddr d j))) (BitVec.ofNat 8 (f.get (entryAddr d j + 1)))).1.toNat),
   (entryAddr d j + 1, 255,
     (commitEntry (BitVec.ofNat 8 (f.get (entryAddr d j))) (BitVec.ofNat 8 (f.get (entryAddr d j + 1)))).2.toNat)]

theorem runCommit_ok {core ctx : Nat} {s s1 s2 : State} {e : QEntry} {o : Op} {f : Fetched}
    (hread : s.fetchAt (agentOf ctx core 2) ((((e.view 0).xs.map (blockNo (e.view 0).d)).eraseDups).flatMap fun j =>
      [entryAddr (e.view 0).d j, entryAddr (e.view 0).d j + 1]) = (s1, .ok f))
    (hwrite : s1.writeMasked (agentOf ctx core 2)
      ((((e.view 0).xs.map (blockNo (e.view 0).d)).eraseDups).flatMap (commitBytes (e.view 0).d f)) = (s2, none)) :
    runCommit core s ctx e o = s2.doneEntry ctx core 1 e.slot false := by
  unfold runCommit
  dsimp only
  rw [hread]
  unfold commitBytes at hwrite
  dsimp only
  rw [hwrite]

/-- Settles O18: each instruction is the way through its read, its conversion or its merges, and its write, on which nothing fails. -/
theorem elementwiseResultsAreWritten : Obligations.ElementwiseResultsAreWritten := by
  refine ⟨fun c ctx s s1 s2 s3 e ft out => ⟨fun fn fuse hready hread hwrite => ?vew, fun hready hread hwrite => ?vcvt⟩,
    fun c ctx s s1 s2 s3 e f r => ⟨fun hready hread => ?add, fun hready hflush => ?flush, fun hready hread hwrite => ?commit⟩⟩
  all_goals refine congrArg Host.Outcome.next ((State.takeHead_ready hready).trans ?_)
  case vew =>
    unfold runVew
    exact (State.vxeRead_ok hread).trans (State.vxeWrite_ok hwrite)
  case vcvt =>
    unfold runVcvt
    exact (State.vxeRead_ok hread).trans (State.vxeWrite_ok hwrite)
  case add =>
    unfold runVnrmAdd
    exact State.vxeRead_ok hread
  case flush => exact runVnrmFlush_eq hflush
  case commit => exact runCommit_ok hread hwrite

end Sys2Proof.Machine
end

section
/-! SUPPORT. Who takes part in a collective (R3, R220, R267) is read from few fields of the state; nothing that sends a part of a collective to
another module changes them. -/

namespace Sys2Proof.Machine

/-- What the participants of a collective are read from: the module's cores, its image, its jobs with the cores of each, and the span. -/
structure Membership where
  part : Part
  boot : Boot
  jobs : List Job
  span : Span
  jobCores : Nat → BitVec 64

def State.membership (s : State) : Membership := ⟨s.part, s.boot, s.jobs, s.span, fun c => (s.runE c).jobCores⟩

section Participants
variable {s t : State} (h : t.membership = s.membership)
include h

theorem State.partPeers_of_membership (ctx : Nat) (u : UnitF) : t.partPeers ctx u = s.partPeers ctx u := by
  obtain ⟨-, hboot, hjobs, hspan, -⟩ := Membership.mk.inj h
  unfold State.partPeers State.runsSpan State.spanMask State.modIdx State.inSpan
  rw [hboot, hjobs, hspan]

theorem State.partsOn_of_membership (ctx : Nat) (u : UnitF) (m : Nat) : t.partsOn ctx u m = s.partsOn ctx u m := by
  obtain ⟨hpart, hboot, -, hspan, hcores⟩ := Membership.mk.inj h
  have hcores : (t.runE ctx).jobCores = (s.runE ctx).jobCores := congrFun hcores ctx
  unfold State.partsOn State.parts State.jobCoreList State.coresUnder State.corePresent State.coresOfModule State.presentCores State.modIdx
    State.inSpan
  rw [hpart, hboot, hspan, hcores]

theorem State.partBase_of_membership (ctx : Nat) (u : UnitF) (m : Nat) : t.partBase ctx u m = s.partBase ctx u m := by
  have hon : t.partsOn ctx u = s.partsOn ctx u := funext (State.partsOn_of_membership h ctx u)
  obtain ⟨-, hboot, -, -, -⟩ := Membership.mk.inj h
  unfold State.partBase State.partModules State.modIdx State.inSpan
  rw [State.partPeers_of_membership h, hboot, hon]

end Participants

/-- A state that differs in what no membership is read from. -/
theorem State.membership_update (s : State) {pending ident health nvm led mem ctxs seqs cores clus phys dies funcs doms kdStat sigs tlb colls
    collHeld joins protect dig hcv ldgSel pwr procs mgmt crust rst panel harts sch out free} :
    State.membership ⟨pending, s.part, ident, s.boot, health, nvm, led, mem, ctxs, s.runs, seqs, cores, clus, phys, dies, funcs, doms,
      kdStat, s.jobs, sigs, tlb, colls, collHeld, joins, protect, dig, hcv, ldgSel, pwr, procs, mgmt, crust, rst, s.span, panel, harts, sch,
      out, free⟩ = s.membership := rfl

section Branches
variable {k : Membership} {c : Prop} [Decidable c]

theorem membership_ite {s t : State} (hs : s.membership = k) (ht : t.membership = k) : (if c then s else t).membership = k := by
  split
  · exact hs
  · exact ht

theorem membership_ite_fst {α : Type} {p q : State × α} (hp : p.1.membership = k) (hq : q.1.membership = k) :
    (if c then p else q).1.membership = k := by
  split
  · exact hp
  · exact hq

theorem membership_pair {α : Type} {a : α} {s : State} (h : s.membership = k) : ((s, a) : State × α).1.membership = k := h

end Branches

section Records
variable (s : State)

theorem State.raiseRec_membership (r : Rec) : (s.raiseRec r).membership = s.membership := by
  obtain ⟨_, _, _, _, _, h⟩ := State.raiseRec_recordsOf s r
  rw [h]
  exact State.membership_update s

theorem State.memRec_membership (code : Nat) (cls : BitVec 8) (a : Nat) (rq : Req) (pins : Option (BitVec 18)) :
    (s.memRec code cls a rq pins).membership = s.membership := State.raiseRec_membership s _

theorem State.failRec_membership (unit : BitVec 32) (ctx opcode status cause : Nat) (d : BitVec 64 × BitVec 64 × BitVec 64 × BitVec 64) :
    (s.failRec unit ctx opcode status cause d).membership = s.membership := State.raiseRec_membership s _

theorem State.emit_membership (e : OutEv) : (s.emit e).membership = s.membership := State.membership_update s

theorem State.chanM_membership (st ch : Nat) (g : Chan → Chan) : (s.chanM st ch g).membership = s.membership := State.membership_update s

theorem State.poisonLine_membership (line : Nat) : (s.poisonLine line).membership = s.membership := State.membership_update s

theorem State.freeWord64_membership : s.freeWord64.1.membership = s.membership := State.membership_update s

theorem State.freeBytes_membership (n : Nat) : (s.freeBytes n).1.membership = s.membership := State.membership_update s

theorem State.hostRead_membership (f a n : Nat) : (s.hostRead f a n).1.membership = s.membership := State.membership_update s

theorem State.endEntry_membership (ctx core q slot : Nat) (o : Outcm) : (s.endEntry ctx core q slot o).membership = s.membership :=
  State.membership_update s

theorem State.runM_membership {ctx : Nat} {g : CtxRun → CtxRun} (hg : (g (s.runE ctx)).jobCores = (s.runE ctx).jobCores) :
    (s.runM ctx g).membership = s.membership := by
  have hcores (c : Nat) : ((s.runM ctx g).runE c).jobCores = (s.runE c).jobCores := by
    by_cases hc : c = ctx
    · rw [hc, State.runE_runM_same, hg]
    · rw [State.runE_runM_ne _ _ _ _ hc]
  exact congrArg (Membership.mk s.part s.boot s.jobs s.span) (funext hcores)

theorem State.setFault_membership (ctx : Nat) (o : Outcm) (peer : Option Nat) : (s.setFault ctx o peer).membership = s.membership := by
  refine State.runM_membership s ?_
  split
  · split
    · rfl
    · rfl
  · rfl

theorem State.failEntry_membership (ctx core q : Nat) (e : QEntry) (status cause : Nat)
    (d : BitVec 64 × BitVec 64 × BitVec 64 × BitVec 64) : (s.failEntry ctx core q e status cause d).membership = s.membership := by
  have hended (o : Outcm) : ((s.failRec (s.coreUid core) ctx e.word.opcode status cause d).endEntry ctx core q e.slot o).membership =
      s.membership := (State.endEntry_membership ..).trans (State.failRec_membership ..)
  exact membership_ite (State.endEntry_membership ..) (membership_ite ((State.setFault_membership ..).trans (hended _)) (hended _))

theorem State.failAccess_membership (ctx core q : Nat) (e : QEntry) (err : AccErr) (write : Bool) (queue : Nat) :
    (s.failAccess ctx core q e err write queue).membership = s.membership := by
  unfold State.failAccess
  dsimp only
  split
  · exact State.failEntry_membership ..
  · exact State.failEntry_membership ..

end Records

section Reads
variable (s : State)

theorem State.readLine_membership (a : Nat) (rq : Req) (scrub : Bool) : (s.readLine a rq scrub).1.membership = s.membership := by
  unfold State.readLine
  extract_lets line l s₁ s₂ n _ t
  have h₁ : s₁.membership = s.membership := State.chanM_membership ..
  have h₂ : s₂.membership = s.membership := (State.chanM_membership ..).trans ((State.poisonLine_membership ..).trans h₁)
  have ht : t.membership = s.membership := (State.membership_update _).trans h₁
  clear_value s₁ s₂ t
  refine membership_ite_fst rfl (membership_ite_fst (membership_pair ((State.memRec_membership ..).trans h₁)) ?_)
  split
  · exact membership_pair ((State.memRec_membership ..).trans h₂)
  · extract_lets s₃ bad s₄
    have h₃ : s₃.membership = s.membership := by
      dsimp only [s₃]
      split
      · have hc (g : Chan → Chan) := (State.chanM_membership t l.stack l.chan g).trans ht
        exact membership_ite ((State.memRec_membership ..).trans (hc _)) (hc _)
      · exact h₁
    have h₄ : s₄.membership = s.membership := (State.chanM_membership ..).trans ((State.poisonLine_membership ..).trans h₃)
    clear_value s₃ s₄
    exact membership_ite_fst (membership_pair ((State.memRec_membership ..).trans h₄)) h₃

theorem State.stackRead_membership (a n : Nat) (rq : Req) : (s.stackRead a n rq).1.membership = s.membership := by
  unfold State.stackRead
  dsimp only
  split
  all_goals exact foldl_view (view := fun p : State × Option Nat => p.1.membership) (fun line _ p => State.readLine_membership ..) _

theorem State.readEntry_membership (g : Agent) (va level a : Nat) : (s.readEntry g va level a).1.membership = s.membership := by
  unfold State.readEntry
  dsimp only
  split
  · exact membership_ite_fst (State.hostRead_membership ..) rfl
  · split
    · rfl
    · split
      · rfl
      · split
        · exact State.stackRead_membership ..
        · exact State.stackRead_membership ..

theorem walkFrom_membership (g : Agent) (va level : Nat) (t : Nat) : (walkFrom g va level s t).1.membership = s.membership := by
  induction level generalizing s t with
  | zero =>
    unfold walkFrom
    have hr := State.readEntry_membership s g va 0 (t + 8 * fld va 20 16)
    generalize s.readEntry g va 0 (t + 8 * fld va 20 16) = p at hr ⊢
    dsimp only
    split
    · exact hr
    · exact membership_ite_fst hr (membership_ite_fst hr hr)
  | succ level ih =>
    unfold walkFrom
    extract_lets lv lo
    have hr := State.readEntry_membership s g va lv (t + 8 * fld va (lo + 8) lo)
    generalize s.readEntry g va lv (t + 8 * fld va (lo + 8) lo) = p at hr ⊢
    dsimp only
    split
    · exact hr
    · exact membership_ite_fst hr (membership_ite_fst (membership_ite_fst hr hr) (membership_ite_fst hr ((ih ..).trans hr)))

theorem State.cacheLeaf_membership (g : Agent) (va : Nat) (w : BitVec 64) (level : Nat) :
    (s.cacheLeaf g va w level).membership = s.membership := by
  unfold State.cacheLeaf
  dsimp only
  split
  · rfl
  · exact membership_ite rfl (State.membership_update s)

theorem State.leafOf_membership (g : Agent) (va : Nat) : (s.leafOf g va).1.membership = s.membership := by
  have hfresh (u : State) (r : Except AccErr (BitVec 64 × Nat)) (hu : u.membership = s.membership) :
      (match r with | .ok (w, level) => (u.cacheLeaf g va w level, r) | .error _ => (u, r)).1.membership = s.membership := by
    split
    · exact (State.cacheLeaf_membership ..).trans hu
    · exact hu
  unfold State.leafOf
  have hw := walkFrom_membership s g va 3 (bits (s.ctxE g.ctx).ptroot 51 12 * 4096)
  generalize walkFrom g va 3 s (bits (s.ctxE g.ctx).ptroot 51 12 * 4096) = p at hw ⊢
  have hfree := (State.freeWord64_membership p.1).trans hw
  dsimp only
  split
  · exact hfresh _ _ hw
  · exact membership_ite_fst hw (membership_ite_fst hfree (hfresh _ _ hfree))

theorem State.translate_membership (g : Agent) (va : Nat) (u : Use) (n : Nat) : (s.translate g va u n).1.membership = s.membership := by
  unfold State.translate
  have hl := State.leafOf_membership s g va
  generalize s.leafOf g va = p at hl ⊢
  dsimp only
  split
  · exact hl
  · refine membership_ite_fst hl (membership_ite_fst hl (membership_ite_fst hl (membership_ite_fst hl ?_)))
    split
    · exact hl
    · exact hl

/-- A read of physical memory is one of stack memory, or leaves the state alone. The kernel runs out of depth on the bounds of the physical
map where `State.physRead` stands applied, so its body is taken on at a variable. -/
theorem State.physRead_fst (a n : Nat) (rq : Req) : (s.physRead a n rq).1 = s ∨ (s.physRead a n rq).1 = (s.stackRead a n rq).1 := by
  obtain ⟨f, hf⟩ : ∃ f, f = State.physRead := ⟨_, rfl⟩
  rw [← hf]
  delta State.physRead at hf
  have hbody : f s a n rq = _ := congrFun (congrFun (congrFun (congrFun hf s) a) n) rq
  generalize f s a n rq = p, s.place a = q at hbody
  subst hbody
  cases q with
  | stack =>
    refine .inr ?_
    dsimp only
    split
    · rfl
    · rfl
  | _ => exact .inl rfl

theorem State.physRead_membership (a n : Nat) (rq : Req) : (s.physRead a n rq).1.membership = s.membership := by
  obtain h | h := State.physRead_fst s a n rq
  · rw [h]
  · rw [h, State.stackRead_membership]

theorem State.locRead_membership (g : Agent) (l : Loc) (n : Nat) : (s.locRead g l n).1.membership = s.membership := by
  unfold State.locRead
  dsimp only
  split
  · exact State.physRead_membership ..
  · exact State.hostRead_membership ..
  · exact membership_ite_fst rfl ((State.freeBytes_membership ..).trans (State.emit_membership ..))
  · rfl

theorem State.vaRead_membership (g : Agent) (va n : Nat) (u : Use) : (s.vaRead g va n u).1.membership = s.membership := by
  unfold State.vaRead
  refine foldl_view (view := fun p : State × Except AccErr (List (BitVec 8)) => p.1.membership) (fun piece _ p => ?_) _
  have ht := State.translate_membership p.1 g piece.1 u piece.2
  split
  · rfl
  · generalize p.1.translate g piece.1 u piece.2 = q at ht ⊢
    dsimp only
    split
    · exact ht
    · split
      · exact (State.locRead_membership ..).trans ht
      · exact (State.locRead_membership ..).trans ht

theorem State.fetchAt_membership (g : Agent) (as : List Nat) : (s.fetchAt g as).1.membership = s.membership := by
  unfold State.fetchAt
  refine foldl_view (view := fun p : State × Except AccErr Fetched => p.1.membership) (fun run _ p => ?_) _
  dsimp only
  split
  · rfl
  · split
    · exact State.vaRead_membership ..
    · exact State.vaRead_membership ..

theorem State.sendPart_membership (ctx : Nat) (unit : BitVec 32) (k m : Nat) (o : Op) (n q : Nat) (x : Nat × Nat × QEntry) :
    (s.sendPart ctx unit k m o n q x).membership = s.membership := by
  unfold State.sendPart
  dsimp only
  split
  · exact (State.failAccess_membership ..).trans (State.fetchAt_membership ..)
  · exact (State.emit_membership ..).trans (State.fetchAt_membership ..)

end Reads

/-- Two folds agree whose steps agree wherever what `view` shows is still what it was at first. -/
theorem foldl_congr_view {β γ V : Type} {f g : γ → β → γ} {view : γ → V} {c : γ} (hview : ∀ y c, view (f c y) = view c)
    (h : ∀ y d, view d = view c → f d y = g d y) (l : List β) : l.foldl f c = l.foldl g c := by
  have key (d : γ) (hd : view d = view c) : l.foldl f d = l.foldl g d := by
    induction l generalizing d with
    | nil => rfl
    | cons y l ih => rw [List.foldl_cons, List.foldl_cons, ← h y d hd, ih _ ((hview y d).trans hd)]
  exact key c rfl

/-- The parts of CBCS or CA2A that go to other modules: whom they go to is settled before any is sent (R220, R224). -/
theorem State.sendParts_settled (s : State) (ctx : Nat) (unit : BitVec 32) (k : Nat) (o : Op) (n : Nat) (v : UnitF) (peers : List Nat)
    (senders : List (Nat × Nat × QEntry)) :
    peers.foldl (fun (u : State) m => (List.range (u.partsOn ctx v m)).foldl (fun (u : State) i =>
      senders.foldl (fun (u : State) x => u.sendPart ctx unit k m o n (u.partBase ctx v m + i) x) u) u) s =
    peers.foldl (fun (u : State) m => (List.range (s.partsOn ctx v m)).foldl (fun (u : State) i =>
      senders.foldl (fun (u : State) x => u.sendPart ctx unit k m o n (s.partBase ctx v m + i) x) u) u) s := by
  have hsend (m i : Nat) (x : Nat × Nat × QEntry) (u : State) :
      (u.sendPart ctx unit k m o n (u.partBase ctx v m + i) x).membership = u.membership := State.sendPart_membership ..
  have hsends (m i : Nat) (u : State) :=
    foldl_view (view := State.membership) (l := senders) (fun x _ => hsend m i x) u
  have hall (m j : Nat) (u : State) :=
    foldl_view (view := State.membership) (l := List.range j) (fun i _ => hsends m i) u
  refine foldl_congr_view (view := State.membership) (fun m u => hall m _ u) (fun m u hu => ?_) peers
  rw [State.partsOn_of_membership hu]
  refine foldl_congr_view (view := State.membership) (fun i => hsends m i) (fun i w hw => ?_) _
  refine foldl_congr_view (view := State.membership) (fun x => hsend m i x) (fun x z hz => ?_) _
  rw [State.partBase_of_membership (hz.trans (hw.trans hu))]

end Sys2Proof.Machine
end

section
/-! SUPPORT. A CXE command on a core (R110, R221, R222, R231, R235): it joins where no instruction has joined, finishes the one whose
collective is whole, and a sum or a slot whose residues agree is written. -/

namespace Sys2Proof.Machine

section Take
variable {c : CoreN} {s : State}

theorem cxeTake_unjoined {sel : Op → Bool} (h : ∀ x ∈ (s.coreE (s.clusE (c.val / 4)).ctx c.val).dxeQ, x.joined = none) :
    cxeTake c sel s = s.takeHead c.val 2 sel (fun s ctx e o => cxeRest s c.val ctx e o) (joinColl c.val) := by
  unfold cxeTake
  dsimp only
  rw [List.findSome?_eq_none_iff.2 fun x hx => by rw [h x hx]]

theorem cxeTake_whole {ctx k : Nat} {e : QEntry} {r : List QEntry} {o : Op} {w : Coll} (hctx : ctx = (s.clusE (c.val / 4)).ctx)
    (h0 : ctx ≠ 0) (hrun : (s.runE ctx).running = true) (hq : (s.coreE ctx c.val).dxeQ = e :: r) (htaken : e.taken = true)
    (hres : e.result = none) (hjoined : e.joined = some k) (hop : e.word.op = some o)
    (hcoll : s.collE ctx e.word.imm k = some w) (hwhole : w.whole = true) :
    cxeTake c (· == o) s =
      ((if o == .credNorm then s.finishNorm ctx c.val e w else s.finishSum ctx c.val e w).progress c.val 3).collEnd ctx w.unit w.k := by
  subst hctx
  unfold cxeTake
  simp only [hq, List.findSome?_cons, hjoined, hop, htaken, hres, beq_self_eq_true, hcoll, hwhole, h0, hrun, Option.isNone_none,
    Bool.and_self, if_true, Bool.not_true, decide_false, Bool.or_self, Bool.false_eq_true, if_false, Option.some_beq_some]

end Take

section Finish
variable {s s' : State} {core ctx : Nat} {e : QEntry}

/-- A CRED or CRSC joins with the scale bytes that it takes, any other collective with none. -/
theorem joinColl_ok {o : Op} {f : Fetched}
    (h : if o == .cred || o == .crsc then s.takeScales (dmaOf ctx core 2 e.slot) (e.view 0).d (e.view 0).xs = (s', .ok f)
      else s' = s ∧ f = []) :
    joinColl core s ctx e o = ((s'.coreM ctx core fun x =>
      { x with collNo := tabSet x.collNo e.word.imm.toNat (tabGet (s.coreE ctx core).collNo e.word.imm.toNat 0 + 1) }).entryM ctx core 2 e.slot
        fun x => { x with joined := some (tabGet (s.coreE ctx core).collNo e.word.imm.toNat 0), scales := f }).announce ctx e.word.imm
          (tabGet (s.coreE ctx core).collNo e.word.imm.toNat 0) o := by
  unfold joinColl
  dsimp only
  split at h
  next hsum => rw [if_pos hsum, h]
  next hmove =>
    obtain ⟨rfl, rfl⟩ := h
    rw [if_neg hmove]

theorem State.finishSum_ok {w : Coll} {out : ConvOut}
    (hwait : s.bytesWait (s.dmaLate ctx core e) ((e.view 0).xs.flatMap fun x => codeBytes (e.view 0).d x 0) = false)
    (hres : ∀ x ∈ (e.view 0).xs, laMismatch (laResolve (tabGet w.elems (linearIdx (e.view 0).d x) (laClear ctx))) = false)
    (hconv : s.convertTo (s.dmaLate ctx core e) (e.view 0).d (s.convCtx ctx e false) ((e.view 0).xs.map fun x =>
      (x, laValue (laResolve (tabGet w.elems (linearIdx (e.view 0).d x) (laClear ctx))))) e.scales = (s', .ok out)) :
    s.finishSum ctx core e w =
      (if w.slowed then (s'.addFlagged ctx out.count).escRec ctx core w out.flagged else s'.addFlagged ctx out.count).doneEntry
        ctx core 2 e.slot (out.flagged || w.slowed) := by
  have hbad : ((e.view 0).xs.find? fun x =>
      laMismatch (laResolve (tabGet w.elems (linearIdx (e.view 0).d x) (laClear ctx)))) = none := by
    simpa only [List.find?_eq_none, Bool.not_eq_true] using hres
  have hgood : ((e.view 0).xs.takeWhile fun x =>
      !(laMismatch (laResolve (tabGet w.elems (linearIdx (e.view 0).d x) (laClear ctx))))) = (e.view 0).xs := by
    simpa only [List.takeWhile_eq_self_iff, Bool.not_eq_true'] using hres
  unfold State.finishSum
  dsimp only
  rw [hwait, if_neg Bool.false_ne_true, hbad, hgood, hconv]

theorem State.finishNorm_ok {w : Coll} {l : LA} (hl : l = laResolve ((w.slots.map Prod.snd).foldl laAddLA (laClear ctx)))
    (hres : laMismatch l = false)
    (hwrite : s.vaWrite (s.dmaLate ctx core e) (s.normAddr ctx (e.word.mod % 4 * 256 + e.word.tag)) (bytesOfSlot l) = (s', none)) :
    s.finishNorm ctx core e w = s'.doneEntry ctx core 2 e.slot false := by
  unfold State.finishNorm
  dsimp only
  rw [← hl, hres, if_neg Bool.false_ne_true, hwrite]

end Finish

end Sys2Proof.Machine
end

section
/-! SUPPORT. The start of a collective that every participant has joined (R221): those that disagree all fail, otherwise its operation
starts. -/

namespace Sys2Proof.Machine

theorem length_eraseDups_cons_eq_one {α : Type} [BEq α] [LawfulBEq α] {a : α} {l : List α} :
    (a :: l).eraseDups.length = 1 ↔ ∀ x ∈ l, x = a := by
  rw [List.eraseDups_cons, List.length_cons, Nat.add_eq_right, List.length_eq_zero_iff]
  constructor
  · intro h x hx
    by_contra hne
    have hmem : x ∈ (l.filter fun b => !b == a).eraseDups := List.mem_eraseDups.2 (List.mem_filter.2 ⟨hx, by simpa using hne⟩)
    exact absurd (h ▸ hmem) List.not_mem_nil
  · intro h
    rw [List.filter_eq_nil_iff.2 fun x hx => by simp [h x hx], List.eraseDups_nil]

/-- What a collective of an operation does as it starts (R222, R224, R235). -/
def State.startOp (s : State) (ctx : Nat) (unit : BitVec 32) (k : Nat) (ps : List (Nat × QEntry)) (peers : List Nat) (o : Op) : State :=
  match o with
  | .credNorm => s.startNorm ctx unit k ps peers
  | .cbcs => s.startMove ctx unit k ps .cbcs peers
  | .ca2a => s.startMove ctx unit k ps .ca2a peers
  | _ => s.startSum ctx unit k ps peers

theorem State.startOp_sum {s : State} {ctx k : Nat} {unit : BitVec 32} {ps : List (Nat × QEntry)} {peers : List Nat} {o : Op}
    (ho : o = .cred ∨ o = .crsc) : s.startOp ctx unit k ps peers o = s.startSum ctx unit k ps peers := by
  obtain rfl | rfl := ho <;> rfl

theorem State.startOp_move {s : State} {ctx k : Nat} {unit : BitVec 32} {ps : List (Nat × QEntry)} {peers : List Nat} {o : Op}
    (ho : o = .cbcs ∨ o = .ca2a) : s.startOp ctx unit k ps peers o = s.startMove ctx unit k ps o peers := by
  obtain rfl | rfl := ho <;> rfl

section Start
variable {ctx : CtxId} {unit : BitVec 32} {k n : Nat} {s : State} {ps r : List (Nat × QEntry)} {e : QEntry} {o : Op}
variable {peers : List Nat} {js : List Join}
variable (h0 : ctx.toNat ≠ 0) (hps : ps = s.joinedAll ctx.toNat unit k) (hall : ps.length = (s.parts ctx.toNat (uidFields unit)).length)
  (hpeers : peers = s.partPeers ctx.toNat (uidFields unit)) (hjs : js = peers.filterMap (fun m => s.joinOf ctx.toNat unit k m))
  (hsaid : js.length = peers.length) (hnew : s.collE ctx.toNat unit k = none) (hcons : ps = (n, e) :: r) (hop : e.word.op = some o)
include h0 hps hall hpeers hjs hsaid hnew hcons hop

theorem exec_collectiveStart_joined : exec (.collectiveStart ctx unit k) s = .next
    (if js.any Join.differ || !(((ps.map fun p => joinKey p.2) ++ js.map Join.key).eraseDups.length == 1) then
      (ps.foldl (fun t p => t.failEntry ctx.toNat p.1 2 p.2 0x10 9 (badWords (badRow 9) (issueWord p.2 2))) s).collOpen ctx.toNat unit k
    else (s.startOp ctx.toNat unit k ps peers o).collOpen ctx.toNat unit k) := by
  have hparts : s.parts ctx.toNat (uidFields unit) ≠ [] := by
    intro h
    simp [h, hcons] at hall
  have hhere : s.hereJoined ctx.toNat unit k = true := by
    simp [State.hereJoined, hparts, ← hps, hall]
  refine congrArg Host.Outcome.next ?_
  dsimp only
  rw [hhere, hnew, ← hpeers, ← hjs, ← hps, if_neg (by simp [h0, hsaid])]
  subst hcons
  refine if_congr Iff.rfl rfl ?_
  dsimp only
  rw [hop]
  cases o <;> rfl

theorem exec_collectiveStart_differ
    (h : js.any Join.differ = true ∨ ∃ x ∈ ps.map (fun p => joinKey p.2) ++ js.map Join.key, x ≠ joinKey e) :
    exec (.collectiveStart ctx unit k) s = .next ((ps.foldl (fun t p =>
      t.failEntry ctx.toNat p.1 2 p.2 0x10 9 (badWords (badRow 9) (issueWord p.2 2))) s).collOpen ctx.toNat unit k) := by
  rw [exec_collectiveStart_joined h0 hps hall hpeers hjs hsaid hnew hcons hop, if_pos]
  rw [Bool.or_eq_true]
  refine h.imp_right fun ⟨x, hx, hne⟩ => ?_
  rw [Bool.not_eq_true', beq_eq_false_iff_ne]
  intro hone
  rw [hcons, List.map_cons, List.cons_append] at hone hx
  exact hne ((List.mem_cons.1 hx).elim id (length_eraseDups_cons_eq_one.1 hone x))

theorem exec_collectiveStart_agree (hhere : ∀ p ∈ ps, joinKey p.2 = joinKey e) (hthere : ∀ j ∈ js, j.differ = false ∧ j.key = joinKey e) :
    exec (.collectiveStart ctx unit k) s = .next ((s.startOp ctx.toNat unit k ps peers o).collOpen ctx.toNat unit k) := by
  have hdiffer : js.any Join.differ = false := by
    simpa only [List.any_eq_false, Bool.not_eq_true] using fun j hj => (hthere j hj).1
  have hone : ((ps.map fun p => joinKey p.2) ++ js.map Join.key).eraseDups.length = 1 := by
    rw [hcons] at hhere ⊢
    rw [List.map_cons, List.cons_append, length_eraseDups_cons_eq_one]
    simp only [List.mem_append, List.mem_map]
    rintro x (⟨p, hp, rfl⟩ | ⟨j, hj, rfl⟩)
    · exact hhere p (List.mem_cons_of_mem _ hp)
    · exact (hthere j hj).2
  rw [exec_collectiveStart_joined h0 hps hall hpeers hjs hsaid hnew hcons hop, hdiffer, hone, if_neg (by decide)]

end Start

section Operations
variable {s s' t : State} {ctx k : Nat} {unit : BitVec 32} {ps : List (Nat × QEntry)} {peers : List Nat}

theorem State.startSum_ok {dies : List (Nat × List (Nat × LA))} {els : List (Nat × LA)} {away : List (Nat × List (Nat × LA × Blw))}
    (hsum : s.sumDies ctx ps = (s', .ok dies)) (hels : els = addDies ctx dies)
    (haway : away = peers.map (fun m => (m, streamWords (((s'.joinOf ctx unit k m).elim [] Join.wants).map fun i =>
      (i, tabGet els i (laClear ctx))))))
    (ht : t = away.foldl (fun u w => u.sendStream ctx unit k w.1 w.2) s') :
    ∃ esc tl, s.startSum ctx unit k ps peers = { t with
      colls := t.colls ++ [{ ctx := ctx, unit := unit, k := k, elems := els,
                             peers := if (t.wanted ctx unit k).isEmpty then [] else peers, escBound := esc, tlws := tl }] } := by
  subst hels haway ht
  unfold State.startSum
  rw [hsum]
  exact ⟨_, _, rfl⟩

theorem State.startNorm_ok {ls : List LA} (hslots : s.readSlots ctx ps = (s', .ok ls))
    (ht : t = peers.foldl (fun u m => ls.foldl (fun u l =>
      u.emit (.flit m .e (.tlw (BitVec.ofNat 12 ctx) unit k (tlwBytes (tlwOf (laResolve l)))))) u) s') :
    s.startNorm ctx unit k ps peers = { t with
      colls := t.colls ++ [{ ctx := ctx, unit := unit, k := k, peers := peers, slots := [(t.modIdx, ls.foldl laAddLA (laClear ctx))] }] } := by
  subst ht
  unfold State.startNorm
  rw [hslots]

end Operations

end Sys2Proof.Machine
end

section
/-! PROOF. Collectives join, start and finish. -/

namespace Sys2Proof.Machine

/-- The five collectives' commands are takes of their own operations. -/
theorem exec_cxe {c : CoreN} {i : Instr} {o : Op}
    (h : (i, o) ∈ [(.cred c, .cred), (.credNorm c, .credNorm), (.crsc c, .crsc), (.cbcs c, .cbcs), (.ca2a c, .ca2a)]) (s : State) :
    exec i s = .next (cxeTake c (· == o) s) := by
  simp only [List.mem_cons, Prod.mk.injEq, List.not_mem_nil, or_false] at h
  obtain ⟨rfl, rfl⟩ | ⟨rfl, rfl⟩ | ⟨rfl, rfl⟩ | ⟨rfl, rfl⟩ | ⟨rfl, rfl⟩ := h <;> rfl

theorem mem_cxe_of_mem_sums {c : CoreN} {i : Instr} {o : Op} (h : (i, o) ∈ [(Instr.cred c, Op.cred), (.crsc c, .crsc)]) :
    o ≠ .credNorm ∧ (i, o) ∈ [(.cred c, .cred), (.credNorm c, .credNorm), (.crsc c, .crsc), (.cbcs c, .cbcs), (.ca2a c, .ca2a)] := by
  simp only [List.mem_cons, Prod.mk.injEq, List.not_mem_nil, or_false] at h ⊢
  obtain ⟨rfl, rfl⟩ | ⟨rfl, rfl⟩ := h <;> simp

/-- Settles O24: a CXE command joins where none has joined (`cxeTake_unjoined`) and finishes the collective that is whole (`cxeTake_whole`);
a start depends on whether the participants agree (`exec_collectiveStart_differ`, `exec_collectiveStart_agree`), and the parts of a move that it
sends leave the positions of the participants as they are (`State.sendParts_settled`). -/
theorem collectivesJoinAndStart : Obligations.CollectivesJoinAndStart := by
  refine ⟨fun c ctx s s1 s2 e => ⟨?join, ?sum, ?norm⟩, fun ctx unit k n s s1 ps e r o peers js h0 hps hall hpeers hjs hsaid hnew hcons hop =>
    ⟨exec_collectiveStart_differ h0 hps hall hpeers hjs hsaid hnew hcons hop, fun hhere hthere => ?start⟩⟩
  case join =>
    intro i o f k hio hnone hready hscales hk
    subst hk
    rw [exec_cxe hio, cxeTake_unjoined hnone, State.takeHead_ready hready, joinColl_ok hscales]
  case sum =>
    intro i o k w r out hio hctx h0 hrun hq htaken hres hjoined hop hcoll hwhole hwait hsums hconv
    obtain ⟨hne, hio⟩ := mem_cxe_of_mem_sums hio
    rw [exec_cxe hio, cxeTake_whole hctx h0 hrun hq htaken hres hjoined hop hcoll hwhole, if_neg (by simpa using hne),
      State.finishSum_ok hwait hsums hconv]
  case norm =>
    intro k w l r hctx h0 hrun hq htaken hres hjoined hop hcoll hwhole hl hmatch hwrite
    rw [exec_cxe (c := c) (o := .credNorm) (by simp), cxeTake_whole hctx h0 hrun hq htaken hres hjoined hop hcoll hwhole, if_pos (beq_self_eq_true _),
      State.finishNorm_ok hl hmatch hwrite]
  case start =>
    rw [exec_collectiveStart_agree h0 hps hall hpeers hjs hsaid hnew hcons hop hhere hthere]
    refine ⟨fun dies els away t ho hsum hels haway ht => ?sums, fun ls t ho hslots ht => ?slots,
      fun count at_ senders form t due ho hcount hat hsenders hform ht hdue => ?moves⟩
    case sums =>
      obtain ⟨esc, tl, h⟩ := State.startSum_ok hsum hels haway ht
      exact ⟨esc, tl, by rw [State.startOp_sum ho, h]⟩
    case slots =>
      subst ho
      exact congrArg (fun u => Host.Outcome.next (u.collOpen ctx.toNat unit k)) (State.startNorm_ok hslots ht)
    case moves =>
      rw [State.startOp_move ho]
      have hroot : (ps.head?.map fun p => p.2.word.mod).getD 0 = e.word.mod := by rw [hcons]; rfl
      unfold State.startMove
      dsimp only
      rw [hroot, ← hjs, ← hcount, ← hat, ← hsenders, State.sendParts_settled, ← ht, ← hdue]
      subst hform
      rfl

end Sys2Proof.Machine
end

section
/-! SUPPORT. The way through a DMOV, a DGTH and a DSCT on which nothing waits or fails: its operands are read, its bytes land, and the check
units take its two streams (R140 to R143, R147, R149). -/

namespace Sys2Proof.Machine

section Moves
variable {core ctx : Nat} {s s1 s2 s3 : State} {e : QEntry} {o : Op}

theorem runDmov_ok {f : Fetched} {els : List (List Nat × List Nat)} {bytes : List MByte} (hels : els = dmovElems (e.view 0) (e.view 1))
    (hwait : s.bytesWait (dmaOf ctx core 2 e.slot) (moveBytes (e.view 0).d (els.map fun p => (p.2, ({ x := p.1 } : Bits)))) = false)
    (hread : s.fetchAt (dmaOf ctx core 2 e.slot) (copyAddrs (e.view 1).d (els.map Prod.fst) ++
      (if e.word.check then streamAddrs (e.view 1) else [])) = (s1, .ok f))
    (hbytes : bytes = moveBytes (e.view 0).d (els.map fun p => (p.2, bitsAt (e.view 1).d f p.1)))
    (hwrite : s1.writeMasked (dmaOf ctx core 2 e.slot) bytes = (s2, none)) :
    runDmov core s ctx e o =
      ((s2.broadcast (dmaOf ctx core 2 e.slot) core (e.word.imm.toNat % 16) bytes).checkStreams ctx core e (dmaOf ctx core 2 e.slot)
        (planeRanges (e.view 1)) (planeRanges (e.view 0)) (readStream (e.view 1) f) (writtenStream (e.view 0) bytes)).doneEntry
          ctx core 2 e.slot false := by
  subst hels hbytes
  unfold runDmov
  dsimp only
  rw [if_neg (by simp [hwait]), hread]
  dsimp only
  rw [hwrite]

theorem runDgth_ok {ms : List ((Option Agent × Nat) × Nat)} {fs : List (Nat × Fetched)}
    (hms : ms = (s.gatherMembers ctx core e.slot (uidFields e.word.imm)).zipIdx)
    (hwait : s.bytesWait (dmaOf ctx core 1 e.slot) (gatherShape e ms) = false)
    (hthere : ∀ m ∈ ms, m.1.1 = none → bit s.span.withdrawn m.1.2 = false)
    (hread : s.gatherRead (dmaOf ctx core 1 e.slot) e ms = (s1, .ok fs))
    (hwrite : s1.writeMasked (dmaOf ctx core 1 e.slot) (gatherBytes e fs) = (s2, none)) :
    runDgth core s ctx e o =
      (s2.checkStreams ctx core e (dmaOf ctx core 1 e.slot) (planeRanges (e.view 1)) (runsOf ((gatherBytes e fs).map fun b => b.1))
        (gatherRead e fs) (gatherWritten e fs)).doneEntry ctx core 2 e.slot false := by
  subst hms
  have hgone : ((s.gatherMembers ctx core e.slot (uidFields e.word.imm)).zipIdx.find? fun m =>
      m.1.1.isNone && bit s.span.withdrawn m.1.2) = none := by
    simpa only [List.find?_eq_none, Bool.and_eq_true, Option.isNone_iff_eq_none, not_and, Bool.not_eq_true] using hthere
  unfold runDgth
  dsimp only
  rw [if_neg (by simp [hwait]), hgone, hread]
  dsimp only
  rw [hwrite]

theorem runDsct_ok {fl f : Fetched} {idx : List Nat} {out : ConvOut}
    (hlist : s.fetchAt (dmaOf ctx core 2 e.slot) (listAddrs (e.view 2) ((e.view 1).e.getD 1 0)) = (s1, .ok fl))
    (hidx : idx = (List.range ((e.view 1).e.getD 1 0)).map (listIndex (e.view 2) fl)) (hdim : ∀ q ∈ idx, q < (e.view 0).d.dim 1)
    (hwait : s1.bytesWait (dmaOf ctx core 2 e.slot) ((dsctPlaces e idx).flatMap fun y => codeBytes (e.view 0).d y.2.2 0) = false)
    (hread : s1.fetchAt (dmaOf ctx core 2 e.slot) (dsctAddrs e idx) = (s2, .ok f))
    (hres : ∀ p ∈ dsctSums ctx e idx f, laMismatch p.2 = false)
    (hconv : s2.convertTo (dmaOf ctx core 2 e.slot) (e.view 0).d (s2.convCtx ctx e false)
      ((dsctSums ctx e idx f).map fun p => (p.1, laValue p.2)) = (s3, .ok out)) :
    runDsct core s ctx e o =
      ((s3.addFlagged ctx out.count).checkStreams ctx core e (dmaOf ctx core 2 e.slot) (planeRanges (dsctSrc e))
        (runsOf (out.bytes.map fun b => b.1)) (readStream (dsctSrc e) f) (dsctWritten e idx out.bytes)).doneEntry
          ctx core 2 e.slot out.flagged := by
  have hin : (idx.findIdx? fun q => (e.view 0).d.dim 1 ≤ q) = none := by
    simpa only [List.findIdx?_eq_none_iff, decide_eq_false_iff_not, not_le] using hdim
  have hbad : ((dsctSums ctx e idx f).find? fun p => laMismatch p.2) = none := by
    simpa only [List.find?_eq_none, Bool.not_eq_true] using hres
  have hgood : ((dsctSums ctx e idx f).takeWhile fun p => !(laMismatch p.2)) = dsctSums ctx e idx f := by
    simpa only [List.takeWhile_eq_self_iff, Bool.not_eq_true'] using hres
  unfold runDsct
  dsimp only
  rw [hlist]
  dsimp only
  rw [← hidx, hin]
  dsimp only
  rw [if_neg (by simp [hwait]), hread]
  dsimp only
  rw [hgood, hconv, hbad]

end Moves

end Sys2Proof.Machine
end

section
/-! PROOF. DMOV and DGTH copy their windows, and DSCT adds its rows. -/

namespace Sys2Proof.Machine

/-- Settles O21: each instruction that its engine takes is the way through its reads and its write on which nothing fails (`runDmov_ok`,
`runDgth_ok`, `runDsct_ok`). -/
theorem movesCopyTheirWindows : Obligations.MovesCopyTheirWindows := by
  refine ⟨fun c ctx s s1 s2 s3 e => ⟨fun flaws f els bytes hready hels hwait hread hbytes hwrite => ?dmov,
    fun ms fs hready hms hwait hthere hread hwrite => ?dgth⟩,
    fun c ctx s s1 s2 s3 s4 e fl f idx out hready hlist hidx hdim hwait hread hres hconv => ?dsct⟩
  all_goals refine congrArg Host.Outcome.next ((State.takeHead_ready hready).trans ?_)
  case dmov => exact runDmov_ok hels hwait hread hbytes hwrite
  case dgth => exact runDgth_ok hms hwait hthere hread hwrite
  case dsct => exact runDsct_ok hlist hidx hdim hwait hread hres hconv

end Sys2Proof.Machine
end

section
/-! SUPPORT. The issue path of a sequencer (R158): what a clear path is, what its moves are where one can be made, and that the path
rests where none can. -/

namespace Sys2Proof.Machine

theorem State.pathClear_iff {s : State} {ctx cl : Nat} : s.pathClear ctx cl = true ↔
    (s.runE ctx).fault = none ∧ (s.seqE ctx cl).sync = none ∧ (s.seqE ctx cl).stalled = [] ∧ (s.seqE ctx cl).replayPos = none := by
  simp [State.pathClear, and_assoc]

theorem State.seqM_congr {s : State} {ctx cl : Nat} {f g : SeqCtx → SeqCtx} (h : f (s.seqE ctx cl) = g (s.seqE ctx cl)) :
    s.seqM ctx cl f = s.seqM ctx cl g := by
  rw [State.seqM, State.seqM, h]

/-- What a sequencer's issue path holds: the SYNC instruction, what stalls for queue room, and the replay in progress. -/
def SeqCtx.issuePath (q : SeqCtx) : Option QEntry × List QEntry × Option (Nat × Nat) := (q.sync, q.stalled, q.replayPos)

/-- The processor is at the instruction at pc, running or waiting. -/
def SeqCtx.setRun (q : SeqCtx) (pc : BitVec 32) (wait : SeqRun) : SeqCtx := { q with pc := pc, run := wait }

/-- A sequencer that keeps its issue path, while its context keeps its fault, keeps a clear path. -/
theorem State.pathClear_of_issuePath {s t : State} {ctx cl : Nat} (hclear : s.pathClear ctx cl = true) (hruns : t.runs = s.runs)
    (hpath : (t.seqE ctx cl).issuePath = (s.seqE ctx cl).issuePath) : t.pathClear ctx cl = true := by
  obtain ⟨hsync, hrest⟩ := Prod.mk.inj hpath
  obtain ⟨hstalled, hreplay⟩ := Prod.mk.inj hrest
  rw [State.pathClear_iff, State.runE, hruns, hsync, hstalled, hreplay]
  exact State.pathClear_iff.1 hclear

theorem State.seqE_of_seqs {s t : State} {ctx cl : Nat} {g : SeqCtx → SeqCtx} (h : t.seqs = (s.seqM ctx cl g).seqs) :
    t.seqE ctx cl = g (s.seqE ctx cl) := by
  rw [State.seqE, h, State.seqM, tabGet_tabSet_same]

/-- A sequencer and a core change one by one, in either order. -/
theorem State.seqM_coreM_comm (s : State) (c k d n : Nat) (f : CoreCtx → CoreCtx) (g : SeqCtx → SeqCtx) :
    (s.coreM d n f).seqM c k g = (s.seqM c k g).coreM d n f := rfl

/-- Rewriting a sequencer that the state lists with what it holds changes nothing. -/
theorem State.seqM_id_of_listed {s t : State} {ctx cl : Nat} {g : SeqCtx → SeqCtx} (h : t.seqs = (s.seqM ctx cl g).seqs) :
    (t.seqM ctx cl fun q => q) = t := by
  have hs : tabSet t.seqs (16 * ctx + cl) (t.seqE ctx cl) = t.seqs := by rw [State.seqE_of_seqs h, h, State.seqM, tabSet_tabSet]
  unfold State.seqM
  rw [hs]

/-- The move that a processor's wait allows once nothing is before it in the issue path. -/
def State.waitMove (s : State) (ctx cl : Nat) (wait : SeqRun) : Option State :=
  match wait with
  | .waitReplay a => some ((s.seqM ctx cl fun q => { q with run := .run }).act ctx cl a)
  | .waitFence mask rd => if s.drained ctx cl mask then some (s.seqM ctx cl fun q => q.endFence mask rd) else none
  | .ending a0 => if s.drained ctx cl 0xF && !(s.unchecked ctx) then some (s.endShare ctx cl a0) else none
  | .stepWait => if s.unchecked ctx then none else some (s.seqM ctx cl fun q => { q with step := q.step + 1 }.retire q.pc)
  | _ => none

theorem State.waitMove_replay (s : State) (ctx cl : Nat) (a : IssueAct) :
    s.waitMove ctx cl (.waitReplay a) = some ((s.seqM ctx cl fun q => { q with run := .run }).act ctx cl a) := rfl

theorem State.waitMove_fence {s : State} {ctx cl : Nat} {mask : BitVec 4} {rd : Nat} (h : s.drained ctx cl mask = true) :
    s.waitMove ctx cl (.waitFence mask rd) = some (s.seqM ctx cl fun q => q.endFence mask rd) := if_pos h

theorem State.waitMove_ending {s : State} {ctx cl : Nat} {a0 : BitVec 32} (h : s.drained ctx cl 0xF = true)
    (hchecked : s.unchecked ctx = false) : s.waitMove ctx cl (.ending a0) = some (s.endShare ctx cl a0) :=
  if_pos (by rw [h, hchecked]; rfl)

/-- With a clear path, the only move is what the processor waits for. -/
theorem State.pumpOnce_of_pathClear {s : State} {ctx cl : Nat} {wait : SeqRun} (hclear : s.pathClear ctx cl = true)
    (hrun : (s.seqE ctx cl).run = wait) : s.pumpOnce ctx cl = s.waitMove ctx cl wait := by
  obtain ⟨hfault, hsync, hstalled, hreplay⟩ := State.pathClear_iff.1 hclear
  unfold State.pumpOnce
  dsimp only
  rw [if_neg (by simp [hfault, hsync]), hstalled, hreplay, hrun]
  cases wait <;> rfl

/-- The path rests: with nothing before it and a processor that runs or has ended, no move can be made. -/
theorem State.pumpN_rests {s t : State} {ctx cl : Nat} {g : SeqCtx → SeqCtx} (n : Nat) (hclear : s.pathClear ctx cl = true)
    (hseqs : t.seqs = (s.seqM ctx cl g).seqs) (hruns : t.runs = s.runs)
    (hpath : ∀ q, (g q).issuePath = q.issuePath ∧ ((g q).run = .run ∨ (g q).run = .idle)) : t.pumpN n ctx cl = t := by
  obtain ⟨hkeeps, hrun⟩ := hpath (s.seqE ctx cl)
  rw [← State.seqE_of_seqs hseqs] at hkeeps hrun
  have hrest := State.pathClear_of_issuePath hclear hruns hkeeps
  cases n with
  | zero => rfl
  | succ n =>
    have hnone : t.pumpOnce ctx cl = none := by
      obtain hrun | hrun := hrun <;> exact State.pumpOnce_of_pathClear hrest hrun
    rw [State.pumpN, hnone]
    refine (State.seqM_congr ?_).trans (State.seqM_id_of_listed hseqs)
    obtain hrun | hrun := hrun <;> rw [hrun]

/-- A processor that begins to wait behind a clear path makes the move that its wait allows. -/
theorem State.pumpN_wait {s t : State} {ctx cl : Nat} {f : SeqCtx → SeqCtx} {wait : SeqRun} (n : Nat) (hclear : s.pathClear ctx cl = true)
    (hwait : ∀ q, (f q).issuePath = q.issuePath ∧ (f q).run = wait) (hmove : (s.seqM ctx cl f).waitMove ctx cl wait = some t) :
    (s.seqM ctx cl f).pumpN (n + 1) ctx cl = t.pumpN n ctx cl := by
  obtain ⟨hpath, hrun⟩ := hwait (s.seqE ctx cl)
  rw [← State.seqE_seqM_same s ctx cl f] at hpath hrun
  have hstill : (s.seqM ctx cl f).pathClear ctx cl = true := State.pathClear_of_issuePath hclear rfl hpath
  rw [State.pumpN, State.pumpOnce_of_pathClear hstill hrun, hmove]

end Sys2Proof.Machine
end

section
/-! PROOF. Issue-class writes and counter-window stores take effect. -/

namespace Sys2Proof.Machine

section Actions
variable (s : State) (ctx cl : Nat)

theorem State.act_pmset (add : Bool) (pm : Nat) (v : BitVec 32) : s.act ctx cl (.pmset add pm v) =
    s.seqM ctx cl fun q => { q with pm := tabSet q.pm pm (if add then tabGet q.pm pm 0 + v else v) }.retire q.pc := rfl

theorem State.act_repStore (addr v : BitVec 32) : s.act ctx cl (.repStore addr v) =
    s.seqM ctx cl fun q => { q with replay := tabSet q.replay ((addr.toNat - 0x40000) / 4) v }.retire q.pc := rfl

theorem State.act_bmask (v : BitVec 32) : s.act ctx cl (.bmask v) =
    s.seqM ctx cl fun q => { q with bmask := BitVec.ofNat 4 (bits v 3 0) &&& q.job }.retire q.pc := rfl

variable {s ctx cl} in
theorem State.act_stepadv (h : s.unchecked ctx = false) : s.act ctx cl .stepadv =
    s.seqM ctx cl fun q => { q with step := q.step + 1 }.retire q.pc := if_neg (ne_true_of_eq_false h)

variable {s ctx cl} in
theorem State.act_ctrStore {addr v : BitVec 32} (h : s.corePresent (4 * cl + bits addr 9 8) = true) : s.act ctx cl (.ctrStore addr v) =
    (s.seqM ctx cl fun q => { q with
      ctrWrites := q.ctrWrites ++ [(4 * cl + bits addr 9 8, q.issueNo, bits addr 7 0, v)] }.retire q.pc).applyCtr ctx
        (4 * cl + bits addr 9 8) := if_pos h

end Actions

section Writes
variable {cl : Nat} {pc : BitVec 32} {s : State} {a : IssueAct} (hready : s.seqReady cl = true)
  (hclear : s.pathClear (s.ctxOn cl) cl = true)
include hready hclear

/-- With a clear path an issue-class action takes effect at once (R158). -/
theorem State.issueClass_of_pathClear :
    s.issueClass cl pc a =
      ((s.seqM (s.ctxOn cl) cl fun q => q.setRun pc .run).act (s.ctxOn cl) cl a).pumpN 2099 (s.ctxOn cl) cl := by
  have hmove : (s.seqM (s.ctxOn cl) cl fun q => q.setRun pc (.waitReplay a)).waitMove (s.ctxOn cl) cl (.waitReplay a) =
      some ((s.seqM (s.ctxOn cl) cl fun q => q.setRun pc .run).act (s.ctxOn cl) cl a) := by
    rw [State.waitMove_replay, State.seqM_seqM]
    rfl
  unfold State.issueClass
  dsimp only
  rw [if_neg (by simp [hready])]
  exact State.pumpN_wait 2099 hclear (fun q => ⟨rfl, rfl⟩) hmove

/-- An issue-class action that leaves the path clear and the processor running is all that happens. -/
theorem State.issueClass_settles {t : State} {g : SeqCtx → SeqCtx}
    (hact : (s.seqM (s.ctxOn cl) cl fun q => q.setRun pc .run).act (s.ctxOn cl) cl a = t)
    (hseqs : t.seqs = (s.seqM (s.ctxOn cl) cl g).seqs) (hruns : t.runs = s.runs)
    (hpath : ∀ q, (g q).issuePath = q.issuePath ∧ (g q).run = .run) : s.issueClass cl pc a = t := by
  rw [State.issueClass_of_pathClear hready hclear, hact]
  exact State.pumpN_rests 2099 hclear hseqs hruns fun q => ⟨(hpath q).1, .inl (hpath q).2⟩

/-- An issue-class action that only changes the sequencer's own registers. -/
theorem State.issueClass_seqM {f : SeqCtx → SeqCtx}
    (hact : (s.seqM (s.ctxOn cl) cl fun q => q.setRun pc .run).act (s.ctxOn cl) cl a =
      (s.seqM (s.ctxOn cl) cl fun q => q.setRun pc .run).seqM (s.ctxOn cl) cl f)
    (hpath : ∀ q, (f q).issuePath = q.issuePath ∧ (f q).run = .run) :
    s.issueClass cl pc a = s.seqM (s.ctxOn cl) cl fun q => f (q.setRun pc .run) :=
  State.issueClass_settles hready hclear (hact.trans (State.seqM_seqM ..)) rfl rfl fun q => hpath (q.setRun pc .run)

end Writes

theorem fld_lt (w hi lo : Nat) : fld w hi lo < 2 ^ (hi + 1 - lo) := Nat.mod_lt _ (Nat.two_pow_pos _)

theorem fld_bits_low (v : BitVec 32) : fld (bits v 7 0) 7 4 = bits v 7 4 := by
  simp only [bits, fld, Nat.shiftRight_eq_div_pow]
  omega

theorem State.applyCtr_one {s : State} {ctx core no addr : Nat} {v : BitVec 32}
    (hw : (s.seqE ctx (core / 4)).ctrWrites = [(core, no, addr, v)])
    (hearly : cmpEngine (s.coreE ctx core) (fld addr 7 4) = 3 ∨
      ∀ e ∈ (s.coreE ctx core).queue (cmpEngine (s.coreE ctx core) (fld addr 7 4)), e.taken = true ∨ e.result ≠ none ∨ no ≤ e.issueNo) :
    s.applyCtr ctx core = (s.seqM ctx (core / 4) fun q => { q with ctrWrites := [] }).coreM ctx core fun c => c.ctrStore addr v := by
  have hpast : (cmpEngine (s.coreE ctx core) (fld addr 7 4) != 3 &&
      ((s.coreE ctx core).queue (cmpEngine (s.coreE ctx core) (fld addr 7 4))).any
        fun e => !e.taken && e.result.isNone && decide (e.issueNo < no)) = false := by
    rw [Bool.and_eq_false_iff]
    refine hearly.imp (fun h => by simp [h]) fun h => ?_
    simp only [List.any_eq_false, Bool.and_eq_true, Bool.not_eq_true', Option.isNone_iff_eq_none, decide_eq_true_eq, not_and, not_lt]
    rintro e he ⟨htaken, hres⟩
    obtain h | h | h := h e he
    · exact absurd h (by simp [htaken])
    · exact absurd hres h
    · exact h
  rw [← State.seqM_coreM_comm]
  unfold State.applyCtr
  simp [hw, hpast]

/-- Settles O10: each write is an issue-class action that takes effect at once (`State.issueClass_seqM`); a counter store is the only one that
waits for its core, and no instruction before it holds it back (`State.applyCtr_one`). -/
theorem issueClassWritesTakeEffect : Obligations.IssueClassWritesTakeEffect := by
  constructor
  · intro cl pc s hready hclear
    refine ⟨fun pm v => ?_, fun pm v => ?_, fun addr v hlo hhi halign hext => ?_, fun v => ?_, fun v hchecked => ?_⟩
    all_goals refine congrArg Host.Outcome.next ?_
    · exact State.issueClass_seqM hready hclear (State.act_pmset ..) fun q => ⟨rfl, rfl⟩
    · exact State.issueClass_seqM hready hclear (State.act_pmset ..) fun q => ⟨rfl, rfl⟩
    · rw [if_neg (by simp only [hready]; simp; omega), if_neg (by omega), if_neg (by omega)]
      exact State.issueClass_seqM hready hclear (State.act_repStore ..) fun q => ⟨rfl, rfl⟩
    · exact State.issueClass_seqM hready hclear (State.act_bmask ..) fun q => ⟨rfl, rfl⟩
    · exact State.issueClass_seqM hready hclear (State.act_stepadv hchecked) fun q => ⟨rfl, rfl⟩
  · intro cl pc addr v s hready hclear hlo hhi halign hpresent hnone hpast
    have hcore : (4 * cl.val + bits addr 9 8) / 4 = cl.val := by
      have := fld_lt addr.toNat 9 8
      unfold bits
      omega
    refine congrArg Host.Outcome.next ?_
    rw [if_neg (by simp [hready]; omega), if_neg (by omega)]
    refine State.issueClass_settles hready hclear (g := fun q =>
      { q with pc := pc + 4, instret := q.instret + 1, run := .run, ctrWrites := [] }) ?_ rfl rfl fun q => ⟨rfl, rfl⟩
    refine (State.act_ctrStore (s := s.seqM _ _ _) hpresent).trans ?_
    rw [State.applyCtr_one (no := (s.seqE (s.ctxOn cl.val) cl.val).issueNo) (addr := bits addr 7 0) (v := v)]
    · rw [hcore]
      rw [State.seqM_seqM, State.seqM_seqM]
      rfl
    · rw [hcore]
      simp [SeqCtx.retire, SeqCtx.setRun, hnone]
    · rw [fld_bits_low]; exact hpast

end Sys2Proof.Machine
end

section
/-! SUPPORT. The end of a program's share where nothing is left of it (R119, R172). -/

namespace Sys2Proof.Machine

/-- A change of a core that leaves it as it is shows on no core. -/
theorem State.coreE_coreM_id {s : State} {c n : Nat} {g : CoreCtx → CoreCtx} (h : g (s.coreE c n) = s.coreE c n) (d k : Nat) :
    (s.coreM c n g).coreE d k = s.coreE d k := by
  rw [State.coreM, h, State.coreE, tabGet_tabSet]
  split
  · next hk => simp only [State.coreE, hk]
  · rfl

/-- Where no core of a list has a norm partial, there is none to merge, and no core shows a change (R119). -/
theorem State.flushNorms_foldl_none {ctx : Nat} (l : List Nat) (s : State) (h : ∀ n ∈ l, (s.coreE ctx n).norms = []) :
    ∃ cores, l.foldl (fun (p : State × Option Outcm) n => ((p.1.flushNorms ctx n).1, p.2.or (p.1.flushNorms ctx n).2)) (s, none) =
        ({ s with cores := cores }, none) ∧
      ∀ c n, ({ s with cores := cores } : State).coreE c n = s.coreE c n := by
  induction l generalizing s with
  | nil => exact ⟨s.cores, rfl, fun _ _ => rfl⟩
  | cons n l ih =>
    have hn : (s.coreE ctx n).norms = [] := h n List.mem_cons_self
    have hsame := State.coreE_coreM_id (s := s) (c := ctx) (n := n) (g := fun c => { c with norms := [] }) (by rw [← hn])
    have hflush : s.flushNorms ctx n = (s.coreM ctx n fun c => { c with norms := [] }, none) := by
      rw [State.flushNorms, hn]
      rfl
    obtain ⟨cores, hfold, hcores⟩ := ih (s.coreM ctx n fun c => { c with norms := [] }) fun k hk => by
      rw [hsame]
      exact h k (List.mem_cons_of_mem _ hk)
    refine ⟨cores, ?_, fun c k => (hcores c k).trans (hsame c k)⟩
    rw [List.foldl_cons, hflush]
    exact hfold

/-- A share that has no norm partial left ends with DONE, or DONE_FLAGGED, and the exit word (R172). -/
theorem State.endShare_done {s : State} {ctx cl : Nat} (a0 : BitVec 32) (h : ∀ n ∈ s.clusCores cl, (s.coreE ctx n).norms = []) :
    ∃ cores, s.endShare ctx cl a0 = { (s.seqM ctx cl fun q =>
        { q with run := .idle, ended := some (if q.flagged then 1 else 0, a0, {}) }) with cores := cores } ∧
      ∀ c n, ({ s with cores := cores } : State).coreE c n = s.coreE c n := by
  obtain ⟨cores, hfold, hcores⟩ := State.flushNorms_foldl_none (s.clusCores cl) s h
  refine ⟨cores, ?_, hcores⟩
  unfold State.endShare
  rw [hfold]
  rfl

end Sys2Proof.Machine
end

section
/-! PROOF. TFENCE, QCWAIT, QCSIG, TAWAIT, EBREAK and ECALL retire or end their share. -/

namespace Sys2Proof.Machine

theorem State.act_fence (s : State) (ctx cl : Nat) (pc : BitVec 32) (rd : Nat) (mask : BitVec 4) : s.act ctx cl (.fence pc rd mask) =
    s.seqM ctx cl fun q => { q with run := .waitFence (if mask = 0 then 0xF else mask) rd } := rfl

theorem State.act_qcsig {s : State} {ctx cl : Nat} {pc unit v : BitVec 32} (h : s.unitAt unit 0 1 = true) :
    s.act ctx cl (.qcsig pc unit v) = (s.seqM ctx cl fun q => q.retire q.pc).sendSignal
      { ctx := ctx, unit := unit, ctr := bits v 4 0, inc := BitVec.ofNat 16 (bits v 31 16), epoch := (s.ctxE ctx).epoch } :=
  if_neg (by simp [h])

/-- A signal to a unit of this module goes into flight and leaves the sequencers alone (R204). -/
theorem State.sendSignal_here {s : State} {g : Signal} (h : (uidFields g.unit).module = s.modIdx) :
    (s.sendSignal g).seqs = s.seqs ∧ (s.sendSignal g).runs = s.runs := by
  rw [State.sendSignal, if_pos h]
  exact ⟨rfl, rfl⟩

theorem SeqCtx.setX_issuePath (q : SeqCtx) (rd : Nat) (v : BitVec 32) : (q.setX rd v).issuePath = q.issuePath := by
  unfold SeqCtx.setX
  split <;> rfl

theorem SeqCtx.endFence_issuePath (q : SeqCtx) (mask : BitVec 4) (rd : Nat) : (q.endFence mask rd).issuePath = q.issuePath :=
  SeqCtx.setX_issuePath q rd _

theorem SeqCtx.endFence_setRun (q : SeqCtx) (pc : BitVec 32) (wait : SeqRun) (mask : BitVec 4) (rd : Nat) :
    (q.setRun pc wait).endFence mask rd = { q with pc := pc }.endFence mask rd := by
  unfold SeqCtx.endFence SeqCtx.setX
  split <;> rfl

section Ready
variable {cl : Cluster} {pc rs1 rs2 : BitVec 32} {rd : Fin 32} {s : State} (hready : s.seqReady cl.val = true)
include hready

theorem exec_tfence_drained {mask : BitVec 4}
    (hmask : mask = if BitVec.ofNat 4 (bits rs1 3 0) = 0 then 0xF else BitVec.ofNat 4 (bits rs1 3 0))
    (hclear : s.pathClear (s.ctxOn cl.val) cl.val = true) (hdrained : s.drained (s.ctxOn cl.val) cl.val mask = true) :
    exec (.tfence cl pc rd rs1) s = .next (s.seqM (s.ctxOn cl.val) cl.val fun q => ({ q with pc := pc }).endFence mask rd.val) := by
  have hact : (s.seqM (s.ctxOn cl.val) cl.val fun q => q.setRun pc .run).act (s.ctxOn cl.val) cl.val
      (.fence pc rd.val (BitVec.ofNat 4 (bits rs1 3 0))) =
      s.seqM (s.ctxOn cl.val) cl.val fun q => q.setRun pc (.waitFence mask rd.val) := by
    rw [State.act_fence, State.seqM_seqM, ← hmask]
    rfl
  have hmove : (s.seqM (s.ctxOn cl.val) cl.val fun q => q.setRun pc (.waitFence mask rd.val)).waitMove (s.ctxOn cl.val) cl.val
      (.waitFence mask rd.val) =
      some (s.seqM (s.ctxOn cl.val) cl.val fun q => (q.setRun pc (.waitFence mask rd.val)).endFence mask rd.val) := by
    rw [State.waitMove_fence (s := s.seqM _ _ _) hdrained, State.seqM_seqM]
  refine congrArg Host.Outcome.next ((State.issueClass_of_pathClear hready hclear).trans ?_)
  rw [hact, State.pumpN_wait 2098 hclear (f := fun q => q.setRun pc (.waitFence mask rd.val)) (fun q => ⟨rfl, rfl⟩) hmove]
  rw [State.pumpN_rests 2098 hclear (g := fun q => (q.setRun pc (.waitFence mask rd.val)).endFence mask rd.val) rfl rfl
    fun q => ⟨SeqCtx.endFence_issuePath .., .inl rfl⟩]
  exact State.seqM_congr (SeqCtx.endFence_setRun ..)

theorem exec_qcwait_reached
    (h : reached (tabGet (s.seqE (s.ctxOn cl.val) cl.val).qc (bits rs1 4 0) {}).value.toNat (bits rs2 15 0) = true) :
    exec (.qcwait cl pc rs1 rs2) s = .next (s.seqM (s.ctxOn cl.val) cl.val fun q => q.retire pc) := by
  have hthresh : (BitVec.ofNat 16 (bits rs2 15 0)).toNat = bits rs2 15 0 := Nat.mod_eq_of_lt (fld_lt ..)
  refine congrArg Host.Outcome.next ?_
  unfold State.seqQcwait
  dsimp only
  rw [if_neg (by simp [hready]), hthresh]
  exact State.seqM_congr (if_pos h)

theorem exec_qcsig_here (hclear : s.pathClear (s.ctxOn cl.val) cl.val = true) (hunit : s.unitAt rs1 0 1 = true)
    (hhere : (uidFields rs1).module = s.modIdx) :
    exec (.qcsig cl pc rs1 rs2) s = .next ((s.seqM (s.ctxOn cl.val) cl.val fun q => q.retire pc).sendSignal
      { ctx := s.ctxOn cl.val, unit := rs1, ctr := bits rs2 4 0, inc := BitVec.ofNat 16 (bits rs2 31 16),
        epoch := (s.ctxE (s.ctxOn cl.val)).epoch }) := by
  obtain ⟨hseqs, hruns⟩ := State.sendSignal_here (s := s.seqM (s.ctxOn cl.val) cl.val fun q => q.retire pc)
    (g := { ctx := s.ctxOn cl.val, unit := rs1, ctr := bits rs2 4 0, inc := BitVec.ofNat 16 (bits rs2 31 16),
            epoch := (s.ctxE (s.ctxOn cl.val)).epoch }) hhere
  refine congrArg Host.Outcome.next
    (State.issueClass_settles hready hclear (g := fun q => q.retire pc) ?_ hseqs hruns fun q => ⟨rfl, rfl⟩)
  rw [State.act_qcsig (s := s.seqM (s.ctxOn cl.val) cl.val fun q => q.setRun pc .run) hunit, State.seqM_seqM]
  rfl

theorem exec_tawait_filled {v : RetVal} {r : List RetVal}
    (hslot : tabGet (s.seqE (s.ctxOn cl.val) cl.val).slots (bits rs1 2 0) [] = v :: r) (hok : v.fail = none) :
    exec (.tawait cl pc rd rs1) s = .next (s.seqM (s.ctxOn cl.val) cl.val fun q =>
      ({ q with pc := pc, slots := tabSet q.slots (bits rs1 2 0) r }.setX rd.val v.bits).retire pc) := by
  refine congrArg Host.Outcome.next ?_
  unfold State.seqTawait
  dsimp only
  rw [if_neg (by simp [hready])]
  unfold State.takeScalar
  rw [State.seqE_seqM_same]
  dsimp only
  rw [hslot]
  dsimp only
  rw [hok]
  dsimp only
  rw [State.seqM_seqM, State.seqM_seqM]
  refine State.seqM_congr ?_
  simp only [SeqCtx.retire, SeqCtx.setX]
  split <;> rfl

theorem exec_ebreak_halts (h : (s.runE (s.ctxOn cl.val)).debug = true) :
    exec (.ebreak cl pc) s = .next (s.seqM (s.ctxOn cl.val) cl.val fun q => { q with pc := pc, run := .halted }) :=
  congrArg Host.Outcome.next ((if_neg (by simp [hready])).trans (if_pos h))

theorem exec_ebreak_traps (h : (s.runE (s.ctxOn cl.val)).debug = false) :
    exec (.ebreak cl pc) s = .next (s.seqExc (s.ctxOn cl.val) cl.val 3 pc pc) :=
  congrArg Host.Outcome.next ((if_neg (by simp [hready])).trans (if_neg (ne_true_of_eq_false h)))

theorem exec_ecall_ends {a0 : BitVec 32} (hclear : s.pathClear (s.ctxOn cl.val) cl.val = true)
    (hdrained : s.drained (s.ctxOn cl.val) cl.val 0xF = true) (hchecked : s.unchecked (s.ctxOn cl.val) = false)
    (hnorms : ∀ n ∈ s.clusCores cl.val, (s.coreE (s.ctxOn cl.val) n).norms = []) :
    ∃ cores, exec (.ecall cl pc 0 a0) s = .next { (s.seqM (s.ctxOn cl.val) cl.val fun q =>
        { q with pc := pc, run := .idle, ended := some (if q.flagged then 1 else 0, a0, {}) }) with cores := cores } ∧
      ∀ c n, ({ s with cores := cores } : State).coreE c n = s.coreE c n := by
  obtain ⟨cores, hend, hcores⟩ := State.endShare_done
    (s := s.seqM (s.ctxOn cl.val) cl.val fun q => q.setRun pc (.ending a0)) a0 hnorms
  have hmove := (State.waitMove_ending (s := s.seqM (s.ctxOn cl.val) cl.val fun q => q.setRun pc (.ending a0)) (a0 := a0)
    hdrained hchecked).trans (congrArg some hend)
  rw [State.seqM_seqM] at hmove
  refine ⟨cores, congrArg Host.Outcome.next ?_, hcores⟩
  unfold State.seqEcall
  dsimp only
  rw [if_neg (by simp [hready]), if_neg (by simp)]
  refine (State.pumpN_wait 2099 hclear (f := fun q => q.setRun pc (.ending a0)) (fun q => ⟨rfl, rfl⟩) hmove).trans ?_
  exact State.pumpN_rests 2099 hclear (g := fun q =>
    { q with pc := pc, run := .idle, ended := some (if q.flagged then 1 else 0, a0, {}) }) rfl rfl fun q => ⟨rfl, .inr rfl⟩

end Ready

/-- Settles O11: each instruction is the move or the branch that its condition allows, after which the issue path rests. -/
theorem sequencerInstructionsRetire : Obligations.SequencerInstructionsRetire := by
  refine ⟨fun cl pc rs1 rs2 rd s hready => ⟨exec_tfence_drained hready rfl, exec_qcwait_reached hready, exec_qcsig_here hready⟩,
    fun cl pc rs1 rd s v r hready => exec_tawait_filled hready, fun cl pc s hready => ⟨exec_ebreak_halts hready, exec_ebreak_traps hready⟩,
    fun cl pc a0 s hready hclear hdrained hchecked hnorms => ?_⟩
  obtain ⟨cores, hexec, hcores⟩ := exec_ecall_ends hready hclear hdrained hchecked hnorms
  exact ⟨_, hexec, rfl, fun c n _ => hcores c n⟩

end Sys2Proof.Machine
end

section
/-! PROOF. TISSUE enters its queues and TREPLAY issues its entries. -/

namespace Sys2Proof.Machine

theorem pmPatch_congr {q r : SeqCtx} (h : q.pm = r.pm) (t : TWord) : pmPatch q t = pmPatch r t := by
  unfold pmPatch
  rw [h]

theorem nodup_bsetCores (cl : Nat) (m : BitVec 4) : (bsetCores cl m).Nodup :=
  (List.nodup_range.filter _).map fun _ _ h => Nat.add_left_cancel h

theorem lt_of_mem_bsetCores {cl n : Nat} {m : BitVec 4} (hcl : cl < 16) (h : n ∈ bsetCores cl m) : n < 64 := by
  obtain ⟨j, hj, rfl⟩ := List.mem_map.1 h
  have := List.mem_range.1 (List.mem_filter.1 hj).1
  omega

/-- The entry that an instruction becomes on a core, in the first free slot of its queue. -/
def CoreCtx.enter (c : CoreCtx) (e : QEntry) : CoreCtx :=
  c.setQueue (engineQueue e.word.engine) (c.queue (engineQueue e.word.engine) ++
    [{ e with slot := freeSlot (c.queue (engineQueue e.word.engine)) }])

theorem State.deliver_eq (s : State) (ctx cl : Nat) (e : QEntry) :
    s.deliver ctx cl e = (bsetCores cl e.bset).foldl (fun t n => t.coreM ctx n fun c => c.enter e) s := rfl

theorem State.coreE_coreM (s : State) (c n d k : Nat) (g : CoreCtx → CoreCtx) :
    (s.coreM c n g).coreE d k = if 64 * d + k = 64 * c + n then g (s.coreE c n) else s.coreE d k :=
  tabGet_tabSet ..

/-- A delivered instruction is on every core of its broadcast set, once, and nothing else changes (R159, R160). -/
theorem State.coreE_deliver (s : State) {ctx cl : Nat} (e : QEntry) (c : Nat) {n : Nat} (hcl : cl < 16) (hn : n < 64) :
    (s.deliver ctx cl e).coreE c n =
      if c = ctx ∧ n ∈ bsetCores cl e.bset then (s.coreE c n).enter e else s.coreE c n := by
  rw [State.deliver_eq]
  have hstep (k : Nat) (t : State) : (t.coreM ctx k fun x => x.enter e).coreE c n =
    if 64 * c + n = 64 * ctx + k then (t.coreE ctx k).enter e else t.coreE c n := State.coreE_coreM ..
  split
  · next h =>
    obtain ⟨rfl, hmem⟩ := h
    exact foldl_once (view := fun t : State => t.coreE c n) (g := fun x => x.enter e) (nodup_bsetCores cl e.bset) hmem
      (fun t => (hstep n t).trans (if_pos rfl)) (fun k _ hne t => (hstep k t).trans (if_neg (by omega))) s
  · next h =>
    refine foldl_view (view := fun t : State => t.coreE c n) (fun k hk t => (hstep k t).trans (if_neg ?_)) s
    have hk64 := lt_of_mem_bsetCores hcl hk
    intro heq
    obtain ⟨rfl, rfl⟩ : c = ctx ∧ n = k := by omega
    exact h ⟨rfl, hk⟩

/-- A delivery touches the cores alone. -/
theorem State.deliver_cores (s : State) (ctx cl : Nat) (e : QEntry) :
    s.deliver ctx cl e = { s with cores := (s.deliver ctx cl e).cores } := by
  rw [State.deliver_eq]
  induction bsetCores cl e.bset generalizing s with
  | nil => rfl
  | cons n l ih => rw [List.foldl_cons, ih]; rfl

theorem State.deliver_seqs (s : State) (ctx cl : Nat) (e : QEntry) : (s.deliver ctx cl e).seqs = s.seqs := by rw [State.deliver_cores]

theorem State.deliver_runs (s : State) (ctx cl : Nat) (e : QEntry) : (s.deliver ctx cl e).runs = s.runs := by rw [State.deliver_cores]

/-- The descriptors that an instruction takes along (R182). -/
def TWord.tds (t : TWord) : List Nat := match t.op with | some o => copiedTds t o | none => []

theorem State.act_tissue {s : State} {ctx cl : Nat} {pc addr : BitVec 32} (halign : addr.toNat % 32 = 0)
    (hext : addr.toNat + 32 ≤ (s.seqE ctx cl).dataExt) : s.act ctx cl (.tissue pc addr) =
      (s.seqM ctx cl fun q => q.retire q.pc).issue ctx cl (twordOfBytes ((s.seqE ctx cl).dataBytes addr.toNat 32)) pc none addr :=
  (if_neg (by simpa using halign)).trans (if_neg (by simpa using hext))

theorem State.act_replay {s : State} {ctx cl : Nat} {pc first count : BitVec 32} (hlo : 1 ≤ count.toNat) (hhi : count.toNat ≤ 1024)
    (hext : first.toNat + count.toNat ≤ (s.seqE ctx cl).replayExt) : s.act ctx cl (.replay pc first count) =
      s.seqM ctx cl fun q => { q with replayPos := some (first.toNat, count.toNat), replayPc := pc }.retire q.pc := by
  have hne : count ≠ 0 := by
    rintro rfl
    simp at hlo
  refine if_neg ?_
  simp only [hne, decide_false, Bool.false_or, Bool.or_eq_true, decide_eq_true_eq]
  omega

/-- An instruction with room for it on every core of its broadcast set leaves the issue stage at once (R159 to R162, R182). -/
theorem State.issue_delivers {s : State} {ctx cl : Nat} {w t : TWord} {pc loc : BitVec 32} {q : SeqCtx} {e : QEntry}
    (hq : q = s.seqE ctx cl) (hw : w.engine < 5) (ht : t = pmPatch q w) (hengine : t.engine < 4)
    (htds : ∀ i ∈ t.tds, 64 * i + 64 ≤ q.dataExt)
    (he : e = { word := t, descs := t.tds.eraseDups.map fun i => (i, descOfBytes (q.dataBytes (64 * i) 64)), step := q.step,
                epoch := (s.ctxE ctx).epoch, cluster := cl, issueNo := q.issueNo, pc := pc, bset := q.bmask &&& s.presentMask cl })
    (hset : e.bset ≠ 0) (hroom : s.fullMask ctx cl t.engine e.bset = 0) :
    s.issue ctx cl w pc none loc = (s.seqM ctx cl fun q => { q with issueNo := q.issueNo + 1 }).deliver ctx cl e := by
  have hfind : (t.tds.find? fun i => decide (q.dataExt < 64 * i + 64)) = none := by
    simpa only [List.find?_eq_none, decide_eq_true_eq, not_lt] using htds
  subst hq he
  unfold State.issue
  dsimp only
  rw [if_neg (by omega), ← ht]
  split
  · next i hi => exact nomatch hfind.symm.trans hi
  · exact (if_neg hset).trans ((if_neg (by omega)).trans (if_pos hroom))

theorem exec_tissue_delivers {cl : Cluster} {pc rs1 : BitVec 32} {s : State} {q : SeqCtx} {t : TWord} {e : QEntry} (hready : s.seqReady cl.val = true)
    (hclear : s.pathClear (s.ctxOn cl.val) cl.val = true) (hq : q = s.seqE (s.ctxOn cl.val) cl.val) (halign : rs1.toNat % 32 = 0)
    (hext : rs1.toNat + 32 ≤ q.dataExt) (ht : t = pmPatch q (twordOfBytes (q.dataBytes rs1.toNat 32)))
    (hw : (twordOfBytes (q.dataBytes rs1.toNat 32)).engine < 5) (hengine : t.engine < 4) (htds : ∀ i ∈ t.tds, 64 * i + 64 ≤ q.dataExt)
    (he : e = { word := t, descs := t.tds.eraseDups.map fun i => (i, descOfBytes (q.dataBytes (64 * i) 64)), step := q.step,
                epoch := (s.ctxE (s.ctxOn cl.val)).epoch, cluster := cl.val, issueNo := q.issueNo, pc := pc,
                bset := q.bmask &&& s.presentMask cl.val })
    (hset : e.bset ≠ 0) (hroom : s.fullMask (s.ctxOn cl.val) cl.val t.engine e.bset = 0) :
    exec (.tissue cl pc rs1) s = .next ((s.seqM (s.ctxOn cl.val) cl.val fun q =>
      { q with pc := pc + 4, instret := q.instret + 1, run := .run, issueNo := q.issueNo + 1 }).deliver (s.ctxOn cl.val) cl.val e) := by
  have hissue := State.issue_delivers (s := s.seqM (s.ctxOn cl.val) cl.val fun q => (q.setRun pc .run).retire pc) (ctx := s.ctxOn cl.val)
    (cl := cl.val) (pc := pc) (loc := rs1) (q := (q.setRun pc .run).retire pc) (by rw [State.seqE_seqM_same, hq]) hw
    (ht.trans (pmPatch_congr (by rfl) _)) hengine htds he hset hroom
  rw [State.seqM_seqM] at hissue
  subst hq
  refine congrArg Host.Outcome.next (State.issueClass_settles hready hclear (g := fun q =>
    { q with pc := pc + 4, instret := q.instret + 1, run := .run, issueNo := q.issueNo + 1 }) ?_
    (State.deliver_seqs ..) (State.deliver_runs ..) fun q => ⟨rfl, rfl⟩)
  refine (State.act_tissue halign ?_).trans ?_
  · rw [State.seqE_seqM_same]
    exact hext
  · rw [State.seqE_seqM_same, State.seqM_seqM]
    exact hissue

/-- Settles O12: a TISSUE that every queue has room for leaves the issue stage at once (`State.issue_delivers`) and stands once in the queue of
each core of its set (`State.coreE_deliver`); a replay begins, and moves on, by one branch of the issue path. -/
theorem instructionsAreIssued : Obligations.InstructionsAreIssued := by
  refine ⟨fun cl pc rs1 s q t e hready hclear hq halign hext ht hw hengine htds he hset hroom => ?_,
    fun cl pc first count s hready hclear hlo hhi hext => ⟨?_, fun u c k i n hfault hsync hstalled hreplay => ?_⟩⟩
  · have htds' : ∀ i ∈ t.tds, 64 * i + 64 ≤ q.dataExt := by
      intro i hi
      unfold TWord.tds at hi
      split at hi
      · next o ho => exact htds o ho i hi
      · exact absurd hi List.not_mem_nil
    have hword : e.word = t := by rw [he]
    refine ⟨_, exec_tissue_delivers hready hclear hq halign hext ht hw hengine htds' he hset hroom, State.deliver_cores .., fun c n hn => ?_⟩
    rw [State.coreE_deliver _ e c cl.isLt hn, CoreCtx.enter, hword]
    rfl
  · refine congrArg Host.Outcome.next ((State.issueClass_of_pathClear hready hclear).trans ?_)
    rw [State.act_replay hlo hhi (by rw [State.seqE_seqM_same]; exact hext), State.seqM_seqM]
    rfl
  · unfold State.pumpOnce
    dsimp only
    rw [if_neg (by simp [hfault, hsync]), hstalled, hreplay]

end Sys2Proof.Machine
end

section
/-! PROOF. Loads, stores, LR, SC and AMOs of the data memory complete, and so does the step of the processor's own program. -/

namespace Sys2Proof.Machine

theorem SeqCtx.placeOf_data {q : SeqCtx} {a n : Nat} (h : a + n ≤ q.dataExt) : q.placeOf a n = .data a := if_pos h

section Accesses
variable {s : State} {ctx cl : Nat} {pc addr : BitVec 32} {len n rd : Nat}

theorem State.seqLoad_data {sg lr : Bool} (hn : n = 1 ∨ n = 2 ∨ n = 4) (halign : addr.toNat % n = 0)
    (hext : addr.toNat + n ≤ (s.seqE ctx cl).dataExt) : s.seqLoad ctx cl pc len addr n sg rd lr = s.seqM ctx cl fun q =>
      ((if lr then { q with resv := some addr } else q).setX rd (extend n sg (bytesNat (q.dataBytes addr.toNat n)))).retireBy pc len := by
  unfold State.seqLoad
  dsimp only
  rw [if_neg (by simp; omega), if_neg (by omega), SeqCtx.placeOf_data hext]
  dsimp only
  cases lr with
  | false => exact State.seqM_congr rfl
  | true =>
    rw [if_pos rfl, State.seqM_seqM]
    exact State.seqM_congr rfl

theorem State.seqLoad_misaligned {sg lr : Bool} (hn : n = 2 ∨ n = 4) (halign : addr.toNat % n ≠ 0) :
    s.seqLoad ctx cl pc len addr n sg rd lr = s.seqExc ctx cl 4 addr pc := by
  unfold State.seqLoad
  dsimp only
  rw [if_neg (by simp; omega), if_pos halign]

theorem State.seqStore_data {v : BitVec 32} (hn : n = 1 ∨ n = 2 ∨ n = 4) (halign : addr.toNat % n = 0)
    (hext : addr.toNat + n ≤ (s.seqE ctx cl).dataExt) : s.seqStore ctx cl pc len addr n v = s.seqM ctx cl fun q =>
      { q with dmem := cellsPut q.dmem addr.toNat (natBytes n v.toNat) }.retireBy pc len := by
  unfold State.seqStore
  dsimp only
  rw [if_neg (by simp; omega), if_neg (by omega), SeqCtx.placeOf_data hext]
  exact State.seqM_seqM ..

section Atomics
variable {v : BitVec 32} (halign : addr.toNat % 4 = 0) (hext : addr.toNat + 4 ≤ (s.seqE ctx cl).dataExt)
include halign hext

theorem State.seqAtomic_sc : s.seqAtomic ctx cl pc len addr v rd none = s.seqM ctx cl fun q =>
    ({ q with resv := none,
              dmem := if q.resv = some addr then cellsPut q.dmem addr.toNat (natBytes 4 v.toNat) else q.dmem }.setX rd
      (if q.resv = some addr then 0 else 1)).retireBy pc len := by
  unfold State.seqAtomic
  dsimp only
  rw [if_neg (by omega), SeqCtx.placeOf_data hext]
  simp only [beq_iff_eq]

theorem State.seqAtomic_amo (op : AmoOp) : s.seqAtomic ctx cl pc len addr v rd (some op) = s.seqM ctx cl fun q =>
    ({ q with dmem := cellsPut q.dmem addr.toNat (natBytes 4
        (amoResult op (BitVec.ofNat 32 (bytesNat (q.dataBytes addr.toNat 4))) v).toNat) }.setX rd
      (BitVec.ofNat 32 (bytesNat (q.dataBytes addr.toNat 4)))).retireBy pc len := by
  unfold State.seqAtomic
  dsimp only
  rw [if_neg (by omega), SeqCtx.placeOf_data hext]
  exact State.seqM_congr rfl

end Atomics

/-- A read of SQ_CTX answers the context (Table 7-3). -/
theorem State.seqCsr_ctx (word : BitVec 32) : s.seqCsr ctx cl pc len 0xCC3 rd none word =
    s.seqM ctx cl fun q => (q.setX rd (BitVec.ofNat 32 ctx)).retireBy pc len := rfl

/-- What a fetched instruction asks the processor to do, once it was fetched whole (R154). -/
theorem State.seqStep_fetched {q : SeqCtx} {s1 s2 : State} {lo w : BitVec 32} {long : Bool} (hq : q = s.seqE ctx cl)
    (hlo : s.seqFetch ctx cl q.pc 2 q.pc = (s1, some lo)) (hlong : long = true ↔ bits lo 1 0 = 3)
    (hwhole : long = true → s1.seqFetch ctx cl q.pc 4 q.pc = (s2, some w))
    (hhalf : long = false → s2 = s1 ∧ rvExpand (lo.setWidth 16) = some w) :
    (∀ rd v next, rvAct w q.pc (if long then 4 else 2) q.getX = .put rd v next → s.seqStep ctx cl = s2.seqM ctx cl fun q' =>
      { (q'.setX rd v).retireBy q.pc (if long then 4 else 2) with pc := next }) ∧
    (rvAct w q.pc (if long then 4 else 2) q.getX = .illegal →
      s.seqStep ctx cl = s2.seqExc ctx cl 2 (if long then w else lo) q.pc) := by
  subst hq
  obtain rfl : long = decide (bits lo 1 0 = 3) := Bool.eq_iff_iff.2 (by simpa using hlong)
  simp only [decide_eq_true_eq, decide_eq_false_iff_not] at *
  unfold State.seqStep
  dsimp only
  rw [hlo]
  dsimp only
  by_cases h : bits lo 1 0 = 3
  · simp only [h, ↓reduceIte, hwhole h]
    exact ⟨fun rd v next hact => by rw [hact]; rfl, fun hact => by rw [hact]⟩
  · obtain ⟨rfl, hw⟩ := hhalf h
    simp only [h, ↓reduceIte, hw]
    exact ⟨fun rd v next hact => by rw [hact]; rfl, fun hact => by rw [hact]⟩

end Accesses

theorem exec_sequencerLoadStore {cl : Cluster} {pc : BitVec 32} {len : Nat} {acc : SeqAccess} {s : State} (hready : s.seqReady cl.val = true)
    (hacc : acc ≠ .step) : exec (.sequencerLoadStore cl pc len acc) s = .next (s.seqAccess (s.ctxOn cl.val) cl.val pc len acc) := by
  refine congrArg Host.Outcome.next ((if_neg (by simp [hready])).trans ?_)
  cases acc with
  | step => exact absurd rfl hacc
  | _ => rfl

theorem exec_sequencerStep {cl : Cluster} {pc : BitVec 32} {len : Nat} {s : State} (hready : s.seqReady cl.val = true) :
    exec (.sequencerLoadStore cl pc len .step) s = .next (s.seqStep (s.ctxOn cl.val) cl.val) :=
  congrArg Host.Outcome.next (if_neg (by simp [hready]))

/-- Settles O14: an access of the data memory is one change of the sequencer (`State.seqLoad_data`, `State.seqStore_data`,
`State.seqAtomic_sc`, `State.seqAtomic_amo`), and a step does what the fetched word asks for (`State.seqStep_fetched`). -/
theorem dataMemoryAccessesComplete : Obligations.DataMemoryAccessesComplete := by
  intro cl pc len s hready
  refine ⟨fun a n sg rd hn halign hext => ?load, fun a n sg rd hn halign => ?misaligned, fun a n v hn halign hext => ?store,
    fun a v rd halign hext => ⟨?lr, ?sc, fun op => ?amo⟩, fun rd => ?csr, fun q s1 s2 lo w long hq hlo hlong hwhole hhalf => ?step⟩
  case step =>
    obtain ⟨hput, hillegal⟩ := State.seqStep_fetched hq hlo hlong hwhole hhalf
    exact ⟨fun rd v next hact => (exec_sequencerStep hready).trans (congrArg Host.Outcome.next (hput rd v next hact)),
      fun hact => (exec_sequencerStep hready).trans (congrArg Host.Outcome.next (hillegal hact))⟩
  all_goals refine (exec_sequencerLoadStore hready (by simp)).trans (congrArg Host.Outcome.next ?_)
  case load => exact State.seqLoad_data hn halign hext
  case misaligned => exact State.seqLoad_misaligned hn halign
  case store => exact State.seqStore_data hn halign hext
  case lr => exact State.seqLoad_data (by simp) halign hext
  case sc => exact State.seqAtomic_sc halign hext
  case amo => exact State.seqAtomic_amo halign hext op
  case csr => exact State.seqCsr_ctx (csrWord 0xCC3 rd.val 0 2)

end Sys2Proof.Machine
end

section
/-! PROOF. Jobs are fetched and judged; a job whose shares ended completes. -/

namespace Sys2Proof.Machine

section Fetch
variable {f : FuncN} {slot : SlotN} {ring : Fin 4} {line : Line} {agree busy : Bool} {k a : Nat} {cfg : BitVec 64} {d : Nat → BitVec 64}
  {s t : State} {j : Job}
  (hk : k = ringKey slot.val ring.val) (hcfg : cfg = tabGet (s.funcE f.val).jrCfg k 0) (hon : (s.funcE f.val).jrEnable.contains k = true)
  (hmore : tabGet (s.funcE f.val).jrHead k 0 ≠ tabGet (s.funcE f.val).jrTail k 0) (hdis : (s.funcE f.val).disable = false)
  (hcancel : (s.funcE f.val).cancelling = false) (hmaster : (s.funcE f.val).busMaster = true) (hserving : s.serving = true)
  (hroom : (s.jobs.filter fun j => j.master.isNone).length < 16384) (hhost : bit cfg 61 = false) (hlink : s.sch.hostLink = true)
  (ha : a = bits (tabGet (s.funcE f.val).jrBase k 0) 63 6 * 64 + 64 * ((tabGet (s.funcE f.val).jrHead k 0).toNat % ringN cfg))
  (hwin : s.inHostWin f.val a 64 = true) (hats : s.atsFails f.val a 64 = false) (hd : ∀ i, d i = line.getD i 0)
  (hj : j = {
    id := s.sch.jobNo, func := f.val, unit := s.slotUnit slot.val, ring := ring.val, idx := tabGet (s.funcE f.val).jrHead k 0,
    cq := bits cfg 52 48, ctx := bits (d 0) 11 0, op := BitVec.ofNat 8 (bits (d 0) 23 16), irq := bit (d 0) 24, order := bit (d 0) 25,
    arg := BitVec.ofNat 32 (bits (d 0) 63 32), image := d 1, cookie := d 2 })
  (ht : t = { s.funcM f.val fun e => { e with jrHead := tabSet e.jrHead k (tabGet (s.funcE f.val).jrHead k 0 + 1) } with
    jobs := s.jobs ++ [j], sch := { s.sch with jobNo := s.sch.jobNo + 1 } })
include hk hcfg hon hmore hdis hcancel hmaster hserving hroom hhost hlink ha hwin hats hd hj ht

/-- The record at HEAD of a ring in host memory is fetched: its job fails where the record is malformed or its unit is not valid, and is
judged otherwise. -/
theorem exec_jobFetch_host : exec (.jobFetch f slot ring (some line) agree busy) s = .next
    (if (bits (d 0) 15 12 != 0 || bits (d 0) 31 26 != 0 || bits (d 1) 63 48 != 0 || d 3 != 0 || d 4 != 0 || d 5 != 0 || d 6 != 0 ||
      d 7 != 0) || (j.op != 1 && j.op != 2) then t.jobFail j 0x10 0x28
    else if !(t.unitValid j.unit) then t.jobFail j 0x13 0
    else t.judgeJob j (some (agree, busy))) := by
  have hread : s.ringRead f.val (bit cfg 61) a 64 = (s, .ok []) := by
    unfold State.ringRead
    dsimp only
    rw [hhost, if_neg Bool.false_ne_true, if_neg (by simp [hwin]), if_neg (by simp [hats])]
  obtain rfl : d = fun i => line.getD i 0 := funext hd
  subst hj ht ha hcfg hk
  refine congrArg Host.Outcome.next ?_
  dsimp only
  rw [if_neg, hread]
  · dsimp only
    rw [if_neg (by simp), hhost]
    rfl
  · simp only [hon, decide_eq_false hmore, hdis, hcancel, hmaster, hserving, decide_eq_false (Nat.not_le.2 hroom), hhost, hlink]
    decide

end Fetch

section Judge
variable {s : State} {j : Job} {far : Option (Bool × Bool)}

/-- A job of an idle context of its function, with no other job of that context before it, is queued (Table 13-8). -/
theorem State.judgeJob_accepts (hctx : j.ctx ≠ 0) (hown : s.owner j.ctx = some j.func) (hidle : (s.ctxE j.ctx).state = .idle) (hop : j.op = 1)
    (hspans : j.spans = false) (hfirst : ∀ x ∈ s.jobs, x.ctx = j.ctx → ¬x.id < j.id) : s.judgeJob j far =
      (s.jobM j.id fun x => { x with phase := .queued, accepted := true, rowOne := false }).ctxM j.ctx fun e => { e with state := .queued } := by
  have hbefore : (s.jobs.any fun k => decide (k.id < j.id) && k.ctx == j.ctx && k.op == 1 && k.phase != .ended) = false := by
    simp only [List.any_eq_false, Bool.and_eq_true, decide_eq_true_eq, beq_iff_eq]
    rintro x hx ⟨⟨⟨hid, hc⟩, -⟩, -⟩
    exact hfirst x hx hc hid
  unfold State.judgeJob
  dsimp only
  rw [hown, hidle, hbefore, if_neg (by simp [hctx]), if_neg (by decide), if_neg (by decide), if_neg (by rw [hop]; decide),
    if_neg (by simp), if_pos (by simp [hspans])]

/-- A job of a context of another function fails with CAUSE 0x29 (Table 13-8). -/
theorem State.judgeJob_foreign {g : Nat} (hown : s.owner j.ctx = some g) (hg : g ≠ j.func) : s.judgeJob j far = s.jobFail j 0x10 0x29 :=
  if_pos (by simp [hown, hg])

end Judge

section Complete
variable {s t : State} {j : Job} {o : Outcm} {x : BitVec 32} {job : Nat}

/-- A job that ran on this module alone and whose shares have ended completes (R172, R291). -/
theorem exec_jobComplete_running (hfind : s.jobs.find? (fun j => j.id == job) = some j) (hmaster : j.master = none) (hspans : j.spans = false)
    (hrun : j.phase = .running) (hended : s.sharesEnded j = true) (ho : o = s.jobStatus j)
    (hx : x = (if o.status = 0 ∨ o.status = 1 then match j.shares.head? with
      | some k => ((s.seqE j.ctx k).ended.elim 0 fun e => e.2.1) | none => 0 else 0)) :
    exec (.jobComplete job none) s = .next (((s.finishJob j o x).endCtxJob j o.status.toNat none).promote) := by
  have hrank : s.rankElsewhere j = false := by rw [State.rankElsewhere, hspans]; rfl
  subst ho hx
  refine congrArg Host.Outcome.next ?_
  rw [hfind]
  dsimp only
  rw [hrun]
  dsimp only
  rw [hended, hrank, hmaster]
  simp only [Bool.or_eq_true, decide_eq_true_eq, Bool.not_true, Bool.false_and, Bool.false_eq_true, or_self, ↓reduceIte, Option.map_none,
    Option.getD_none, Option.isSome_none] <;> rfl

/-- A job that ended without starting gets its record (R288, R291). -/
theorem exec_jobComplete_unstarted (hfind : s.jobs.find? (fun j => j.id == job) = some j) (hmaster : j.master = none) (hended : j.phase = .ended)
    (hheld : j.held = none) (hacc : j.accepted = false) :
    exec (.jobComplete job none) s = .next ((s.finishJob j (j.res.getD {}) 0).promote) := by
  refine congrArg Host.Outcome.next ?_
  rw [hfind]
  dsimp only
  rw [hended]
  dsimp only
  rw [hheld, hmaster, hacc]
  simp

/-- A finished job whose completion ring takes its record is gone (R291, R292). -/
theorem State.finishJob_written (hdiscard : j.discard = false) (hflr : j.flr = false) (hheld : ∀ k ∈ s.jobs, k.held = none)
    (hwrite : s.crWrite j.func j.cq j.irq (s.jobRecord j o x) = (t, true)) (hcancel : (t.funcE j.func).cancelling = false) :
    s.finishJob j o x = { t with jobs := t.jobs.filter fun k => k.id != j.id } := by
  have hnone : (s.jobs.any fun k => k.func == j.func && k.cq == j.cq && k.held.isSome) = false := by
    simp only [List.any_eq_false, Bool.and_eq_true, not_and]
    intro k hk _
    simp [hheld k hk]
  unfold State.finishJob
  dsimp only
  rw [hdiscard, hflr, hnone, hwrite]
  simp only [Bool.false_and, Bool.or_self, Bool.false_eq_true, ↓reduceIte]
  refine if_neg ?_
  simp [show (({ t with jobs := t.jobs.filter fun k => k.id != j.id } : State).funcE j.func).cancelling = false from hcancel]

end Complete

/-- Settles O36: a fetched job is judged by the row of Table 13-8 that it meets (`State.judgeJob_accepts`, `State.judgeJob_foreign`), and a
job completes by the branch of its phase. -/
theorem jobsAreFetchedAndComplete : Obligations.JobsAreFetchedAndComplete := by
  refine ⟨fun f slot ring line agree busy k cfg d s t j hk hcfg hon hmore hdis hcancel hmaster hserving hroom hhost hlink hwin hats hd hj ht => ?_,
    fun job s j o x hfind hmaster hspans => ⟨fun hrun hended ho hx => exec_jobComplete_running hfind hmaster hspans hrun hended ho hx,
      exec_jobComplete_unstarted hfind hmaster, fun t hdiscard hflr hheld _ => State.finishJob_written hdiscard hflr hheld⟩⟩
  have hexec := exec_jobFetch_host (agree := agree) (busy := busy) hk hcfg hon hmore hdis hcancel hmaster hserving hroom hhost hlink rfl
    hwin hats hd hj ht
  have hjobs : t.jobs = s.jobs ++ [j] := by rw [ht]
  have howner : t.owner j.ctx = s.owner j.ctx := by rw [ht]; rfl
  have hctx : t.ctxE j.ctx = s.ctxE j.ctx := by rw [ht]; rfl
  have hunit : t.unitValid j.unit = s.unitValid j.unit := by rw [ht]; rfl
  have hfunc : j.func = f.val := by rw [hj]
  refine ⟨fun hbad => ?malformed, fun h1 h2 h3 h4 hop hvalid => ?_⟩
  case malformed =>
    rw [hexec, if_pos]
    simp at hbad ⊢
    tauto
  have hgood : ¬((bits (d 0) 15 12 != 0 || bits (d 0) 31 26 != 0 || bits (d 1) 63 48 != 0 || d 3 != 0 || d 4 != 0 || d 5 != 0 || d 6 != 0 ||
      d 7 != 0) || (j.op != 1 && j.op != 2)) = true := by
    simp at h4
    simp [h1, h2, h3, h4, hop]
  rw [hexec, if_neg hgood, if_neg (by simp [hunit, hvalid])]
  refine ⟨fun hne hown hidle hlevel hother => ?accepted, fun g hown hg => ?foreign⟩
  case accepted =>
    refine congrArg Host.Outcome.next (State.judgeJob_accepts hne (by rw [howner, hown, hfunc]) (by rw [hctx, hidle]) hop
      (by simp [Job.spans, hlevel]) fun x hx hc => ?_)
    rw [hjobs, List.mem_append, List.mem_singleton] at hx
    obtain hx | rfl := hx
    · exact absurd hc (hother x hx)
    · exact lt_irrefl _
  case foreign => exact congrArg Host.Outcome.next (State.judgeJob_foreign (howner.trans hown) (hfunc ▸ hg))

end Sys2Proof.Machine
end

section
/-! SUPPORT. The start of a share: the state of Table 7-5. -/

namespace Sys2Proof.Machine

/-- A table that gives every key of a list one value shows it at each of them. -/
theorem tabGet_map_const {α : Type} {l : List Nat} {k : Nat} (h : k ∈ l) (v d : α) : tabGet (l.map fun i => (i, v)) k d = v := by
  induction l with
  | nil => simp at h
  | cons i l ih =>
    by_cases hi : i = k
    · simp [tabGet, tabFind, hi]
    · simpa [tabGet, tabFind, hi] using ih ((List.mem_cons.1 h).resolve_left (Ne.symm hi))

/-- The counters of a share that starts: each is 0 at the epoch of its context. -/
theorem startCtrs_fields (n : Nat) (epoch : BitVec 4) {i : Nat} (hi : i < n) :
    (tabGet (if epoch = 0 then [] else (List.range n).map fun i => (i, ({ epoch := epoch } : Ctr))) i {}).value = 0 ∧
    (tabGet (if epoch = 0 then [] else (List.range n).map fun i => (i, ({ epoch := epoch } : Ctr))) i {}).epoch = epoch := by
  by_cases h : epoch = 0
  · rw [if_pos h, h]
    exact ⟨rfl, rfl⟩
  · rw [if_neg h, tabGet_map_const (List.mem_range.2 hi)]
    exact ⟨rfl, rfl⟩

theorem State.otherModules_of_not_spans {s : State} {j : Job} (h : j.spans = false) : s.otherModules j = [] := by
  simp [State.otherModules, h]

theorem State.ranksBefore_of_not_spans {s : State} {j : Job} (h : j.spans = false) : s.ranksBefore j = (0, 0) := by
  simp [State.ranksBefore, State.otherModules_of_not_spans h]

theorem State.orderShares_of_not_spans {s : State} {j : Job} (h : j.spans = false) : s.orderShares j = s := by
  simp [State.orderShares, State.otherModules_of_not_spans h]

end Sys2Proof.Machine
end

section
/-! PROOF. A queued job starts a share on each of its clusters. -/

namespace Sys2Proof.Machine

section Start
variable {s s0 s1 s2 s3 t u : State} {job : Nat} {j : Job} {h : Header} {cores cls : List Nat} {g : Agent} {data rep : List (BitVec 8)}

/-- A job of this module that passes every check of R168, R271 and R318 starts a share on each of its clusters. -/
theorem State.startJob_starts (hfind : s.jobs.find? (fun j => j.id == job) = some j) (hcores : cores = s.jobCoresOf j.unit)
    (hcls : cls = clustersOf cores) (hqueued : j.phase = .queued) (horder : s.orderMet j = true) (hserving : s.serving = true)
    (hsch : s.schUp = true) (hcfc : cls.all s.cfcUp = true) (hspans : j.spans = false) (hread : s.readCtxLines j.ctx = (s0, true))
    (hg : g = { ctx := j.ctx, core := none, cluster := cls.headD 0, cls := 0 }) (hcheck : s0.checkImage g j.image.toNat = (s1, .ok h))
    (hmin : ∀ k ∈ cls, h.minCores ≤ (s1.clusCores k).length) (hearly : (s0.ctxE j.ctx).early = false)
    (harea : (s0.ctxE j.ctx).saveBase.toNat + saveSize h.storeBytes h.poolBytes cores.length cls.length ≤
      (s1.funcE (s0.ctxE j.ctx).func.toNat).base + (s1.funcE (s0.ctxE j.ctx).func.toNat).size)
    (hstore : storeNeed h.storeBytes (s0.ctxE j.ctx).checkf ≤ 8 * 2 ^ 20) (hpool : poolNeed h ≤ 16 * 2 ^ 20)
    (hres : (s1.runE j.ctx).resident = true) (hev : (s1.runE j.ctx).evicted = false) (hlist : s1.jobCoreList j.ctx = cores)
    (hsb : (s1.runE j.ctx).storeBytes = h.storeBytes) (hpb : (s1.runE j.ctx).poolBytes = h.poolBytes)
    (hsl : (s1.runE j.ctx).storeLen = storeNeed h.storeBytes (s0.ctxE j.ctx).checkf) (hpl : (s1.runE j.ctx).poolLen = poolNeed h)
    (hfence : ∀ f, (s1.runE j.ctx).fence = some f → ∀ n ∈ cores, f.cores.getLsbD n = false)
    (hawake : s1.asleep (s1.ctxDomains j.ctx) = false) (hdata : s1.vaRead g (j.image.toNat + h.dataOff) h.dataSize = (s2, .ok data))
    (hrep : s2.vaRead g (j.image.toNat + h.replayOff) (32 * h.replayCount) = (s3, .ok rep))
    (ht : t = cls.zipIdx.foldl (fun t p => t.startShare j h p.1 p.2 cls.length data rep) (s3.runM j.ctx fun r => { r with fault := none }))
    (hu : u = (t.ctxM j.ctx fun e => { e with state := .running }).jobM j.id
      (fun k => { k with phase := .running, shares := cls, peers := [] })) :
    s.startJob job = if u.mayRun j.ctx 0 then u.switchIn j.ctx else u := by
  have hcoresNeeded : (cls.any fun k => (s1.clusCores k).length < h.minCores) = false := by simpa using hmin
  have hfenced : ((s1.runE j.ctx).fence.any fun f => cores.any fun n => f.cores.getLsbD n) = false := by
    cases hf : (s1.runE j.ctx).fence with
    | none => rfl
    | some f => simpa using hfence f hf
  subst hu ht hg hcls hcores
  unfold State.startJob
  rw [hfind]
  dsimp only
  rw [hqueued, horder, hserving, hsch, hcfc, hspans, if_neg (by simp), hread]
  dsimp only
  rw [if_neg (by decide), hcheck]
  dsimp only
  rw [State.otherModules_of_not_spans hspans, hcoresNeeded, if_neg (by simp), hearly, if_neg Bool.false_ne_true,
    if_neg (by simpa using ⟨⟨harea, hstore⟩, hpool⟩), hres, hev, hlist, hsb, hpb, hsl, hpl, hfenced, if_neg (by simp [hawake]), hdata]
  dsimp only
  rw [hrep]
  dsimp only
  rw [State.ranksBefore_of_not_spans hspans]
  simp only [State.otherModules_of_not_spans hspans, State.orderShares_of_not_spans hspans, Nat.zero_add, Nat.add_zero, ite_self]

/-- A member takes the order to start its share of a span job (R170, R305). -/
theorem State.takeOrder_takes {ctx : Nat} {image : BitVec 64} {arg : BitVec 32} (hmaster : s.isMaster = false) (hout : s.span.selfOut = false)
    (hnew : ∀ j ∈ s.jobs, j.master ≠ some job) (hstate : (s.ctxE ctx).state = .idle ∨ (s.ctxE ctx).state = .queued)
    (hfree : ∀ j ∈ s.jobs, j.ctx = ctx → j.accepted = false ∨ j.phase = .ended) :
    s.takeOrder job ctx image arg = ({ s with
      jobs := s.jobs ++ [{
        id := s.sch.jobNo, func := (s.ctxE ctx).func.toNat, unit := spanUid, ctx := ctx, op := 1, arg := arg, image := image,
        phase := .queued, accepted := true, master := some job }]
      sch := { s.sch with jobNo := s.sch.jobNo + 1 } } : State).ctxM ctx fun e => { e with state := .queued } := by
  have hnone : (s.jobs.any fun j => j.master == some job) = false := by simpa using hnew
  have hidle : (s.jobs.any fun j => j.ctx == ctx && j.accepted && j.phase != .ended) = false := by
    simp only [List.any_eq_false, Bool.and_eq_true, beq_iff_eq, bne_iff_ne]
    rintro j hj ⟨⟨hc, hacc⟩, hphase⟩
    exact (hfree j hj hc).elim (by simp [hacc]) hphase
  unfold State.takeOrder
  exact if_neg (by obtain h | h := hstate <;> simp [hmaster, hout, hnone, hidle, h])

end Start

/-- The sequencer of a share that starts, in the state of Table 7-5. -/
theorem State.seqE_startShare (v : State) (j : Job) (h : Header) (cl rank count : Nat) (data rep : List (BitVec 8)) :
    ∃ q, (v.startShare j h cl rank count data rep).seqE j.ctx cl = q ∧
      q.pc = BitVec.ofNat 32 (0x10000000 + h.entry) ∧ q.run = .run ∧ q.step = (v.ctxE j.ctx).step ∧ q.bmask = q.job ∧
      q.x = ((List.replicate 32 (0 : BitVec 32)).set 10 j.arg).set 11 (BitVec.ofNat 32 (packFields [(count, 16, 16), (rank, 0, 16)])) ∧
      q.fence = 0 ∧ q.pm = [] ∧ q.slots = [] ∧
      q.qc = if (v.ctxE j.ctx).epoch = 0 then [] else (List.range 32).map fun i => (i, ({ epoch := (v.ctxE j.ctx).epoch } : Ctr)) :=
  ⟨_, (State.seqE_foldl_coreM _ j.ctx cl _ _).trans (State.seqE_seqM_same _ _ _ _), rfl, rfl, rfl, rfl, rfl, rfl, rfl, rfl, rfl⟩

/-- Settles O37: a job that passes every check is started by `State.startJob_starts`, a member's share is queued by
`State.takeOrder_takes`, and a share's sequencer is that of `State.seqE_startShare`. -/
theorem sharesStart : Obligations.SharesStart := by
  intro job agree busy s s0 s1 s2 s3 t u j h cores cls g data rep
  refine ⟨fun hfind hheld hcores hcls hqueued horder hserving hsch hcfc hspans hread hg hcheck hmin hearly harea hstore hpool hres hev hlist
    hsb hpb hsl hpl hfence hawake hdata hrep ht hu => ?own, fun ctx image arg hmaster hout hnew hstate hfree => ?ordered,
    fun v cl rank count q _ hq => ?table⟩
  case own =>
    refine congrArg Host.Outcome.next ?_
    dsimp only
    rw [hheld]
    exact State.startJob_starts hfind hcores hcls hqueued horder hserving hsch hcfc hspans hread hg hcheck hmin hearly harea hstore hpool
      hres hev hlist hsb hpb hsl hpl hfence hawake hdata hrep ht hu
  case ordered =>
    have hnone : (s.jobs.find? fun j => j.master == some job) = none := by simpa using hnew
    refine congrArg Host.Outcome.next ?_
    dsimp only
    rw [hnone]
    exact State.takeOrder_takes hmaster hout hnew hstate hfree
  case table =>
    obtain ⟨q', hq', hpc, hrun, hstep, hbmask, hx, hfence, hpm, hslots, hqc⟩ := State.seqE_startShare v j h cl rank count data rep
    obtain rfl : q = q' := hq.trans hq'
    exact ⟨hpc, hrun, hstep, hbmask, hx, hfence, hpm, hslots, fun i hi => hqc ▸ startCtrs_fields 32 (v.ctxE j.ctx).epoch hi⟩

end Sys2Proof.Machine
end

section
/-! PROOF. Members come and go: a share's end that finds another share of the same number. -/

namespace Sys2Proof.Machine

/-- Where the first share that bears a job's number does not run, a failure of that job on another module stops nothing here. -/
theorem State.stopIn_of_first_not_running {s : State} {job : Nat} {j : Job} (o : Outcm) (origin : Nat)
    (hfirst : s.jobs.find? (fun j => if j.master.isNone then s.leads && j.id == job else j.master == some job) = some j)
    (hphase : j.phase ≠ .running) : s.stopIn job o origin = s := by
  unfold State.stopIn
  rw [hfirst]
  exact if_pos (by simp [hphase])

/-- A member's report to the module that acts for the master takes it out of those the job waits for, and its failure, if any, stops the
job's shares here (R173, R309). -/
theorem exec_shareEndNotice_running {s : State} {m : ModN} {job : Nat} {e : ShareEnd} {flagged : Bool} {j : Job} (hleads : s.leads = true)
    (hfind : s.jobs.find? (fun j => j.master.isNone && j.id == job) = some j) (hspans : j.spans = true) (hrun : j.phase = .running) :
    exec (.shareEndNotice m job e flagged) s = .next
      ((s.jobM j.id fun k => { k with peers := k.peers.filter (· != m.val), flagged := k.flagged || flagged }).stopIn job
        { status := e.status, cause := e.cause, esn := e.esn } m.val) := by
  refine congrArg Host.Outcome.next ((if_pos hleads).trans ?_)
  unfold State.shareEndIn
  rw [hfind]
  exact if_neg (by simp [hspans, hrun])

/-- This module's ended share of job 5 of a master that has withdrawn since (R314). -/
def endedShare : Job := { id := 0, unit := spanUid, ctx := 2, op := 1, phase := .ended, accepted := true, master := some 5 }

/-- Job 5 of this module, which runs on the span. -/
def ownSpanJob : Job := { id := 5, unit := spanUid, ctx := 1, op := 1, phase := .running, accepted := true, peers := [2] }

/-- Module 1 of a span of three whose master, module 0, has withdrawn: module 1 acts for it. -/
def actingMember : State := { State.reset with
  boot := { State.reset.boot with image := { State.reset.boot.image with members := 7, index := 1, master := 0 } }
  span := { State.reset.span with admitted := 6, withdrawn := 1 }
  jobs := [endedShare, ownSpanJob] }

/-- `actingMember` once module 2 is out of those that job 5 waits for. -/
def actingMemberReported : State :=
  actingMember.jobM ownSpanJob.id fun k => { k with peers := k.peers.filter (· != 2), flagged := k.flagged || false }

/-- The failure of job 5 on module 2 is looked for at `endedShare`, and stops nothing. -/
theorem actingMemberReported_stopIn (o : Outcm) : actingMemberReported.stopIn 5 o 2 = actingMemberReported :=
  State.stopIn_of_first_not_running (j := endedShare) o 2 rfl (by decide)

/-- The context of job 5 has no fault after the report. -/
theorem actingMemberReported_fault : (actingMemberReported.runE ownSpanJob.ctx).fault = none := rfl

/-- Refutes O58: a failure that a member reports for a job of the module that acts for the master is looked for by the job's number among
the shares taken from a master too, and is lost where such a share, ended, is the first: in `actingMember`, job 5 has no fault after it. -/
theorem not_membersComeAndGo : ¬ Obligations.MembersComeAndGo := by
  rintro ⟨-, hends⟩
  have hleads : actingMember.leads = true := by decide
  obtain ⟨t, hexec, hfault⟩ := (hends actingMember 2 5 0x10 0 0 false ownSpanJob hleads rfl rfl rfl).2 (by decide) rfl rfl
  rw [exec_shareEndNotice_running hleads (j := ownSpanJob) rfl rfl rfl] at hexec
  obtain rfl : actingMemberReported = t := (actingMemberReported_stopIn _).symm.trans (Host.Outcome.next.inj hexec)
  exact absurd (actingMemberReported_fault.symm.trans hfault) (by simp)

end Sys2Proof.Machine
end

section
/-! SUPPORT. What the crust writer does to a dump, command by command. -/

namespace Sys2Proof.Machine

/-- Where all entries that answer `p` are one value, that value is the entry changed. -/
theorem mem_updFirst_of_unique {α : Type} {p : α → Bool} {f : α → α} {l : List α} {e : α} (he : e ∈ l) (hp : p e = true)
    (hunique : ∀ a ∈ l, p a = true → a = e) : f e ∈ updFirst p f l := by
  induction l with
  | nil => cases he
  | cons a r ih =>
    by_cases ha : p a = true
    · simp [updFirst, hunique a List.mem_cons_self ha, hp]
    · have her : e ∈ r := (List.mem_cons.1 he).resolve_left fun h => ha (h ▸ hp)
      simp [updFirst, ha, ih her fun b hb => hunique b (List.mem_cons_of_mem a hb)]

/-- Numbers put into a set one after the other are in it, and nothing else is new. -/
theorem mem_forN_setIns (k n : Nat) : ∀ (lo : Nat) (l : List Nat),
    k ∈ forN lo n (fun i l => setIns l i) l ↔ (lo ≤ k ∧ k < lo + n) ∨ k ∈ l := by
  induction n with
  | zero => intro lo l; simp [forN]
  | succ n ih =>
    intro lo l
    have hrange : (lo + 1 ≤ k ∧ k < lo + 1 + n) ∨ k = lo ↔ lo ≤ k ∧ k < lo + (n + 1) := by omega
    rw [forN, ih, mem_setIns, ← or_assoc, hrange]

/-- Words in a row that timed out, once `word` has too (R375). -/
def Dump.badRun (d : Dump) (word : Nat) : Nat := if 0 < word && d.badWords.contains (word - 1) then d.consec + 1 else 1

/-- A dump once its word `word`, of a unit whose section ends at `unitEnd`, has timed out (R375). -/
def Dump.wordTimedOut (word unitEnd : Nat) (d : Dump) : Dump :=
  if 64 ≤ d.badRun word then
    { d with badWords := forN (word + 1) (unitEnd - (word + 1)) (fun i l => setIns l i) (setIns d.badWords word), consec := 0 }
  else { d with badWords := setIns d.badWords word, consec := d.badRun word }

theorem exec_dumpWordTimeout (index word unitEnd : Nat) (s : State) : exec (.dumpWordTimeout index word unitEnd) s =
    .next { s with crust := { s.crust with
      dumps := updFirst (fun d => d.open_ && d.index == index) (Dump.wordTimedOut word unitEnd) s.crust.dumps } } := rfl

theorem Dump.wordTimedOut_frame (d : Dump) (word unitEnd : Nat) : d.wordTimedOut word unitEnd =
    { d with badWords := (d.wordTimedOut word unitEnd).badWords, consec := (d.wordTimedOut word unitEnd).consec } := by
  unfold Dump.wordTimedOut
  split <;> rfl

theorem Dump.mem_badWords_wordTimedOut (d : Dump) (word unitEnd k : Nat) : k ∈ (d.wordTimedOut word unitEnd).badWords ↔
    (64 ≤ d.badRun word ∧ word < k ∧ k < unitEnd) ∨ k = word ∨ k ∈ d.badWords := by
  unfold Dump.wordTimedOut
  split
  case isTrue hrun =>
    have hrange : word + 1 ≤ k ∧ k < word + 1 + (unitEnd - (word + 1)) ↔ word < k ∧ k < unitEnd := by omega
    simp only [mem_forN_setIns, mem_setIns, hrange, hrun, true_and]
  case isFalse hrun => simp only [mem_setIns, hrun, false_and, false_or]

/-- The 64th word in a row is one after a bad word with 63 counted. -/
theorem Dump.badRun_after_63 {d : Dump} {word : Nat} (hconsec : d.consec = 63) (hword : 0 < word)
    (hbad : d.badWords.contains (word - 1) = true) : d.badRun word = 64 := by
  rw [Dump.badRun, if_pos (by rw [hbad, decide_eq_true hword]; rfl), hconsec]

/-- A reset within one whose dump is complete: its own dump is cut short, and it is no longer in progress (R373). -/
def State.cutReset (s : State) (p : BitVec 4 × Nat) : State :=
  let s := match s.dumpOf p.1.toNat (s.resetUnit p.1.toNat p.2) with
    | some e => s.closeDump e.index true
    | none => s
  { s with rst := { s.rst with active := s.rst.active.filter fun q => q != p } }

/-- A complete dump of a core cuts short those of the resets in it, and the core's reset takes effect (R373). -/
theorem exec_crustDump_core {s : State} {unit : BitVec 32} {index : Nat} {d : Dump} (hdump : s.dumpAt 0 unit index = some d) :
    exec (.crustDump 0 unit index) s = .next
      ((((s.rst.active.filter fun p => !(p.1 == (0 : BitVec 4) && p.2 == (uidFields unit).coreN) &&
        takesIn [((0 : BitVec 4), (uidFields unit).coreN)] p.1.toNat p.2).foldl State.cutReset s).closeDump d.index false).unitReset
          0 (uidFields unit).coreN) := by
  show execCrustDump 0 unit index s = _
  unfold execCrustDump
  rw [show s.dumpAt (0 : BitVec 4).toNat unit index = some d from hdump]
  rfl

/-- No dump is cut short by that of a core which no other reset lies in. -/
theorem exec_crustDump_core_alone {s : State} {unit : BitVec 32} {index : Nat} {d : Dump} (hdump : s.dumpAt 0 unit index = some d)
    (halone : ∀ p ∈ s.rst.active, takesIn [((0 : BitVec 4), (uidFields unit).coreN)] p.1.toNat p.2 = true →
      p = (0, (uidFields unit).coreN)) :
    exec (.crustDump 0 unit index) s = .next ((s.closeDump d.index false).unitReset 0 (uidFields unit).coreN) := by
  rw [exec_crustDump_core hdump, List.filter_eq_nil_iff.2, List.foldl_nil]
  intro p hp hin
  obtain ⟨hother, htakes⟩ := Bool.and_eq_true_iff.1 hin
  simp [halone p hp htakes] at hother

/-- A completed dump is committed, and the NVM log's oldest unpinned dumps give way to it (R376). -/
theorem exec_dumpCommit_completed {s : State} {index : Nat} {d : Dump}
    (hfind : s.crust.dumps.find? (fun d => d.index == index && !d.open_ && !d.committed) = some d) :
    exec (.dumpCommit index) s = .next ({ s with crust := { s.crust with
      dumps := updFirst (fun e => e.index == index && !e.open_) (fun _ => { d with committed := true }) s.crust.dumps
      nvmDumps := dropOldest (logBytes - ({ d with committed := true } : Dump).size) s.crust.nvmDumps ++
        [{ d with committed := true }] } } : State).nvmCommit := by
  show execDumpCommit index s = _
  unfold execDumpCommit
  rw [hfind]

end Sys2Proof.Machine
end

section
/-! PROOF. Hung engines are reset; dumps are made and committed. -/

namespace Sys2Proof.Machine

/-- The record of code 0xA4 that names a hung instruction of engine `e` of core `n`, and the dump to come (R369, R370). -/
def State.hangRec (s : State) (n e slot ctx : Nat) (x : QEntry) : Rec where
  unit := s.coreUid n
  cls := 1
  code := 0xA4
  ctx := BitVec.ofNat 12 ctx
  opcode := BitVec.ofNat 8 x.word.opcode
  cause := 0x2C
  status := 0x10
  d0 := reg [(slot, 0, 8)]
  d1 := reg [(s.limitOf ctx 15, 32, 32), (e, 0, 4)]
  d2 := BitVec.ofNat 64 (tabGet (s.physE n).prog e 0)
  d3 := reg [(s.nextDump, 0, 16)]

/-- What a hang leaves, its record raised: the instruction's outcome, the context's fault, and the core's reset asked for (R370). -/
def State.hung (t : State) (ctx n q slot : Nat) : State :=
  (((t.endEntry ctx n q slot { status := 0x10, cause := 0x2C, esn := t.lastEsn }).setFault ctx
    { status := 0x10, cause := 0x2C, esn := t.lastEsn }).askReset 0 n t.lastEsn [3 + n / 4]).1

/-- The hang of an instruction that its engine has taken and that has no outcome takes effect (R369, R370). -/
theorem exec_engineHang_taken {c : CoreN} {e : Fin 4} {slot q : Nat} {s : State} {x : QEntry} (he : e.val ≠ 0)
    (hq : q = if e.val = 1 then 1 else 2) (hup : s.cfcUp (c.val / 4) = true) (htakes : s.takes (s.ctxOn (c.val / 4)) c.val = true)
    (hentry : s.entryE (s.ctxOn (c.val / 4)) c.val q slot = some x) (htaken : x.taken = true) (hresult : x.result = none)
    (hengine : q = 2 → (3 ≤ x.word.engine ↔ e.val = 3)) :
    exec (.engineHang c e slot) s = .next
      ((s.raiseRec (s.hangRec c.val e.val slot (s.ctxOn (c.val / 4)) x)).hung (s.ctxOn (c.val / 4)) c.val q slot) := by
  subst hq
  refine congrArg Host.Outcome.next ((if_neg (by simp [he, hup, htakes])).trans ?_)
  rw [hentry]
  refine if_neg ?_
  simp only [htaken, hresult, Bool.not_true, Option.isSome_none, Bool.false_or, Bool.and_eq_true, beq_iff_eq, bne_iff_ne, not_and, not_not]
  exact fun h2 => decide_eq_decide.2 (hengine h2)

/-- Settles O49: each command takes the one branch that its hypotheses leave, and the 64th word in a row is the one whose run reaches the
limit. -/
theorem hungEnginesAreReset : Obligations.HungEnginesAreReset := by
  unfold Obligations.HungEnginesAreReset
  refine ⟨?hang, fun s t u d => ⟨?word, ?frame, ?dump, ?commit⟩⟩
  case hang =>
    rintro c e slot _ q s _ x rfl he hq hup htakes hentry htaken hresult hengine rfl
    exact exec_engineHang_taken he hq hup htakes hentry htaken hresult hengine
  case word =>
    intro index word unitEnd hexec e he hopen hindex hunique _
    obtain rfl := Host.Outcome.next.inj ((exec_dumpWordTimeout index word unitEnd s).symm.trans hexec)
    refine ⟨e.wordTimedOut word unitEnd, mem_updFirst_of_unique he (by simp [hopen, hindex]) fun f hf hsel => ?_,
      e.wordTimedOut_frame word unitEnd, (e.mem_badWords_wordTimedOut word unitEnd word).2 (.inr (.inl rfl)),
      fun hconsec hword hbad k hlo hhi => (e.mem_badWords_wordTimedOut word unitEnd k).2
        (.inl ⟨(Dump.badRun_after_63 hconsec hword hbad).ge, hlo, hhi⟩)⟩
    obtain ⟨hfopen, hfindex⟩ := Bool.and_eq_true_iff.1 hsel
    exact hunique f hf hfopen (beq_iff_eq.1 hfindex)
  case frame => exact fun index word unitEnd => ⟨_, exec_dumpWordTimeout index word unitEnd s, rfl⟩
  case dump => exact fun unit index hdump halone => exec_crustDump_core_alone hdump halone
  case commit =>
    rintro index hfind rfl
    exact exec_dumpCommit_completed hfind

end Sys2Proof.Machine
end

section
/-! PROOF. Waits that time out: the wait that a reference names is judged once more, and one that is still open fails (R203, R208, R209). -/

namespace Sys2Proof.Machine

/-- The record of a wait of a sequencer that times out (R208, Table 9-4). -/
def State.seqTimeout (s : State) (ctx cl opcode : Nat) (d0 : BitVec 64) (tclass thresh : Nat) (d2 : BitVec 64) : State :=
  s.failRec (s.clusUid cl) ctx opcode 0x15 0 (timeoutWords d0 (s.limitOf ctx tclass) tclass thresh d2 (s.clusUid cl))

/-- The word that names the instruction at which a sequencer's program waits (Table 9-4). -/
def SeqCtx.waitWord (q : SeqCtx) : BitVec 64 := reg [(q.pc.toNat, 32, 32), (4, 0, 4)]

section Pending
variable {s : State} {cl : Cluster} {ctx : Nat} {q : SeqCtx}

/-- The timeout of a pending wait at a queue head asks the counter once more: a satisfied wait stays, another fails (R203, R208). -/
theorem exec_waitTimeout_engine {c : CoreN} {k : Fin 3} {e : QEntry} (hctx : ctx = s.ctxOn (c.val / 4)) (htakes : s.takes ctx c.val = true)
    (hhead : (s.coreE ctx c.val).head k.val = some e) (hwaiting : e.waiting = true) (hdone : e.waitDone = false) :
    exec (.waitTimeout (.engine c k)) s = .next (
      if reached (s.waitCtr ctx c.val e).value.toNat e.word.wthresh then s
      else s.failEntry ctx c.val k.val e 0x15 0 (timeoutWords
        (timeoutCtr (s.waitCtr ctx c.val e) (s.ctxE ctx).epoch e.word.wscope e.word.wctr
          (if e.word.wscope then s.clusUid e.cluster else s.coreUid c.val))
        (s.limitOf ctx e.word.tclass) e.word.tclass e.word.wthresh (issueWord e k.val) (s.coreUid c.val))) := by
  subst hctx
  refine congrArg Host.Outcome.next ?_
  dsimp only
  rw [hhead]
  simp only [htakes, hwaiting, hdone, Bool.not_true, Bool.false_or]

section Sequencer
variable (hctx : ctx = s.ctxOn cl.val) (hq : q = s.seqE ctx cl.val) (hlive : s.seqLive cl.val = true)
include hctx hq hlive

/-- The timeout of a cluster wait of the SYNC instruction at the issue stage that some position has not satisfied (R199, R208). -/
theorem exec_waitTimeout_issue_cluster {e : QEntry} (hsync : q.sync = some e) (hwait : q.syncWait = true) (hscope : e.word.wscope = true)
    (hopen : q.syncDone &&& e.bset ≠ e.bset) :
    ∃ u : State, u = s.seqTimeout ctx cl.val e.word.opcode
        (timeoutCtr (s.ctrE ctx (uidFields (s.clusUid cl.val)) e.word.wctr) (s.ctxE ctx).epoch true e.word.wctr
          (uid (uidFields (s.clusUid cl.val)))) e.word.tclass e.word.wthresh (issueWord e 3) ∧
      exec (.waitTimeout (.issue cl)) s =
        .next ((u.seqM ctx cl.val SeqCtx.leaveSync).setFault ctx { status := 0x15, esn := u.lastEsn }) := by
  subst hctx hq
  refine ⟨_, rfl, congrArg Host.Outcome.next ?_⟩
  dsimp only
  rw [hsync]
  refine (if_neg ?_).trans ?_
  · simp [hlive, hwait, hopen]
  · rw [hscope]
    rfl

/-- The timeout of a QCWAIT (R203, R209). -/
theorem exec_waitTimeout_qcwait {i tc : Nat} {t : BitVec 16} (hrun : q.run = .waitQc i t tc) :
    ∃ u : State, u = s.seqTimeout ctx cl.val 0 (timeoutCtr (tabGet q.qc i {}) (s.ctxE ctx).epoch true i (s.clusUid cl.val)) tc t.toNat
        q.waitWord ∧
      exec (.waitTimeout (.proc cl)) s = .next (u.seqFail ctx cl.val { status := 0x15, esn := u.lastEsn }) := by
  subst hctx hq
  refine ⟨_, rfl, congrArg Host.Outcome.next ?_⟩
  dsimp only
  rw [hlive, hrun]
  rfl

/-- The timeout of a TAWAIT (R203, R209). -/
theorem exec_waitTimeout_tawait {slot rd tc : Nat} (hrun : q.run = .waitScalar slot rd tc) :
    ∃ u : State, u = s.seqTimeout ctx cl.val 0 (reg [(slot, 0, 3)]) tc 0 q.waitWord ∧
      exec (.waitTimeout (.proc cl)) s = .next (u.seqFail ctx cl.val { status := 0x15, esn := u.lastEsn }) := by
  subst hctx hq
  refine ⟨_, rfl, congrArg Host.Outcome.next ?_⟩
  dsimp only
  rw [hlive, hrun]
  rfl

end Sequencer

end Pending

/-- Settles O27: the wait that each reference names is there and pending, so its timeout runs the branch of that wait. -/
theorem waitsTimeOut : Obligations.WaitsTimeOut := by
  unfold Obligations.WaitsTimeOut
  intro s cl ctx q hctx hq hlive
  refine ⟨?engine, fun e => exec_waitTimeout_issue_cluster hctx hq hlive, fun i t tc => exec_waitTimeout_qcwait hctx hq hlive,
    fun slot rd tc => exec_waitTimeout_tawait hctx hq hlive⟩
  case engine =>
    intro c k e hcl htakes hhead hwaiting hdone
    have hexec := exec_waitTimeout_engine (hctx.trans (by rw [hcl])) htakes hhead hwaiting hdone
    constructor
    · intro hreached
      rw [hexec, if_pos hreached]
    · intro hreached
      rw [hexec, if_neg (by simp [hreached])]

end Sys2Proof.Machine
end

section
/-! SUPPORT. A counter that takes a signal's increment: what it and the others show, and that the cores and the sequencers are all that
changes (R201, R202). -/

namespace Sys2Proof.Machine

/-- An increment adds to its counter, modulo 2^16, and to no other (R201). -/
theorem State.ctrE_increment (s : State) (ctx : Nat) (u : UnitF) (i inc k : Nat) :
    (s.increment ctx u i inc).ctrE ctx u k =
      if k = i then { s.ctrE ctx u k with value := (s.ctrE ctx u k).value + BitVec.ofNat 16 inc } else s.ctrE ctx u k := by
  rw [State.increment, State.ctrE_wake, State.ctrE_ctrPut]
  split
  · next hk => rw [hk]
  · rfl

/-- A state but for its cores and its sequencers. -/
def State.offUnits (s : State) : State := { s with cores := [], seqs := [] }

theorem State.eq_of_offUnits {s t : State} (h : t.offUnits = s.offUnits) : t = { s with cores := t.cores, seqs := t.seqs } :=
  calc t = { t.offUnits with cores := t.cores, seqs := t.seqs } := rfl
    _ = { s.offUnits with cores := t.cores, seqs := t.seqs } := by rw [h]

@[simp] theorem State.coreM_offUnits (s : State) (ctx n : Nat) (g : CoreCtx → CoreCtx) : (s.coreM ctx n g).offUnits = s.offUnits := rfl
@[simp] theorem State.seqM_offUnits (s : State) (ctx cl : Nat) (g : SeqCtx → SeqCtx) : (s.seqM ctx cl g).offUnits = s.offUnits := rfl

theorem State.ctrPut_offUnits (s : State) (ctx : Nat) (u : UnitF) (i : Nat) (c : Ctr) : (s.ctrPut ctx u i c).offUnits = s.offUnits := by
  unfold State.ctrPut
  split <;> rfl

theorem State.wake_offUnits (s : State) (ctx : Nat) (u : UnitF) (i : Nat) (sat : Nat → Bool) : (s.wake ctx u i sat).offUnits = s.offUnits := by
  unfold State.wake
  split
  · rfl
  · exact (State.seqM_offUnits ..).trans (foldl_view (view := State.offUnits) (fun _ _ t => t.coreM_offUnits ..) s)

theorem State.increment_offUnits (s : State) (ctx : Nat) (u : UnitF) (i inc : Nat) : (s.increment ctx u i inc).offUnits = s.offUnits :=
  (State.wake_offUnits ..).trans (State.ctrPut_offUnits ..)

end Sys2Proof.Machine
end

section
/-! PROOF. Signals: their arrival, the SYNC instructions that send them, and SYNC_SIGNAL. -/

namespace Sys2Proof.Machine

section Arrival
variable {s : State} {g : Signal}

theorem exec_signalArrival {n : Nat} (hg : s.sigs[n]? = some g) :
    exec (.signalArrival n) s = .next (({ s with sigs := s.sigs.eraseIdx n } : State).arrive g) := by
  refine congrArg Host.Outcome.next ?_
  rw [hg]

/-- A signal of its counter's epoch is applied (R201, R205). -/
theorem State.arrive_taken (hholds : s.holdsCtrs g.ctx (uidFields g.unit) = true) (hfree : (s.ctxE g.ctx).state ≠ .free)
    (hscrub : (s.ctxE g.ctx).state ≠ .scrubbing) (hepoch : g.epoch = (s.ctrE g.ctx (uidFields g.unit) g.ctr).epoch)
    (hctr : g.ctr < ctrCount (uidFields g.unit)) : s.arrive g = s.increment g.ctx (uidFields g.unit) g.ctr g.inc.toNat := by
  refine (if_neg ?_).trans (if_pos ?_)
  · simp [hfree, hscrub, ← hepoch]
  · simp [hholds, hctr]

/-- A signal of another epoch is dropped and counted (R213). -/
theorem State.arrive_stale (hholds : s.holdsCtrs g.ctx (uidFields g.unit) = true)
    (hepoch : g.epoch ≠ (s.ctrE g.ctx (uidFields g.unit) g.ctr).epoch) : s.arrive g = s.countStale (uidFields g.unit) := by
  refine if_pos ?_
  simp [hholds, hepoch.symm]

end Arrival

section IssueStage
variable {s : State} {cl : Nat} {sel : Op → Bool} {e : QEntry} {o : Op}

/-- The cluster positions at which the wait of a SYNC instruction is satisfied now (R199, R202). -/
def State.syncNow (s : State) (cl : Nat) (e : QEntry) : BitVec 4 :=
  if e.word.wscope then
    (if reached (tabGet (s.seqE (s.ctxOn cl) cl).qc e.word.wctr {}).value.toNat e.word.wthresh then 0xF else 0)
  else BitVec.ofNat 4 (listMask ((maskList 4 e.bset.toNat).filter fun j =>
    reached (tabGet (s.coreE (s.ctxOn cl) (4 * cl + j)).sc e.word.wctr {}).value.toNat e.word.wthresh))

/-- The effect of a SYNC instruction that the issue stage carries out (R199). -/
def State.syncEffect (s : State) (ctx cl : Nat) (e : QEntry) : State :=
  match e.word.op with
  | some .scset => s.scsetAll ctx cl e
  | _ => if e.word.sigv then s.signalOf ctx e.word e.epoch (bsetCores cl e.bset) else s

/-- The issue stage carries out the SYNC instruction it holds, is free again, and the issue path moves on (R181, R199, R202). -/
theorem State.syncRun_done (hlive : s.seqLive cl = true) (hfault : (s.runE (s.ctxOn cl)).fault = none)
    (hsync : (s.seqE (s.ctxOn cl) cl).sync = some e) (hop : e.word.op = some o) (hsel : sel o = true)
    (hbad : s.syncBad (s.ctxOn cl) e.word = none)
    (hwait : e.word.waitv = true → ((s.seqE (s.ctxOn cl) cl).syncDone ||| s.syncNow cl e) &&& e.bset = e.bset) :
    s.syncRun cl sel =
      ((s.seqM (s.ctxOn cl) cl SeqCtx.leaveSync).syncEffect (s.ctxOn cl) cl e).pump (s.ctxOn cl) cl := by
  unfold State.syncRun State.syncEffect
  extract_lets ctx q
  rw [if_neg (by simp [hlive, ctx, hfault])]
  simp only [q, ctx, hsync, hop, hsel, hbad, Option.map_some, Option.getD_some, Bool.not_true, Bool.false_eq_true, if_false]
  refine if_neg ?_
  rw [Bool.and_eq_true, bne_iff_ne]
  exact fun ⟨hwaitv, hopen⟩ => hopen (hwait hwaitv)

end IssueStage

section Window
variable {s : State} {w : Writer} {unit : BitVec 32} {v : BitVec 64}

theorem exec_syncSignal_sends (hunit : s.unitValid unit = true) (hmodule : (uidFields unit).module = s.modIdx)
    (hlevel : (uidFields unit).level ≤ 1) (hw : s.signalsCtx w (bits v 63 52) = true) (hctr : bits v 37 32 < ctrCount (uidFields unit)) :
    exec (.syncSignal w unit v) s = .next { s with
      sigs := s.sigs ++ [{
        ctx := bits v 63 52, unit := unit, ctr := bits v 37 32,
        inc := BitVec.ofNat 16 (bits v 31 16), epoch := (s.ctxE (bits v 63 52)).epoch }] } := by
  refine congrArg Host.Outcome.next ((if_neg ?_).trans ((if_neg (Nat.not_le.2 hctr)).trans (if_pos hmodule)))
  simp [hunit, hmodule, hlevel, hw]

theorem exec_syncSignal_refused (hw : s.signalsCtx w (bits v 63 52) = false) :
    exec (.syncSignal w unit v) s = .next (s.infoAccess w unit 0x1018 v) := by
  refine congrArg Host.Outcome.next (if_pos ?_)
  simp [hw]

/-- Neither the management port nor firmware may signal a context's counters (R212). -/
theorem State.signalsCtx_of_agent (s : State) (ctx : Nat) (hw : isMgmt w = true ∨ isFirm w = true) : s.signalsCtx w ctx = false := by
  cases w with
  | mgmt i => rfl
  | firmware p => rfl
  | _ => simp [isMgmt, isFirm] at hw

end Window

/-- Settles O13: an arrival is `State.increment` or a count, the issue stage does what `State.syncRun_done` says, and a write of SYNC_SIGNAL
is sent or recorded by whether its agent may signal the context. -/
theorem signalsAreSentAndArrive : Obligations.SignalsAreSentAndArrive := by
  unfold Obligations.SignalsAreSentAndArrive
  refine ⟨?arrival, ?issue, ?window⟩
  case arrival =>
    rintro n s g _ hg rfl hholds hfree hscrub
    refine ⟨fun hepoch hctr => ⟨_, (exec_signalArrival hg).trans (congrArg _ (State.arrive_taken hholds hfree hscrub hepoch hctr)), ?_⟩,
      fun hepoch => (exec_signalArrival hg).trans (congrArg _ (State.arrive_stale hholds hepoch))⟩
    have hframe := State.eq_of_offUnits (State.increment_offUnits { s with sigs := s.sigs.eraseIdx n } g.ctx (uidFields g.unit) g.ctr g.inc.toNat)
    refine ⟨by rw [hframe], fun i => (State.ctrE_increment ..).trans ?_, hframe⟩
    rw [BitVec.ofNat_toNat, BitVec.setWidth_eq]
    rfl
  case issue =>
    rintro cl s e o _ hlive hfault hsync hop hbad rfl hwait
    have hrun (sel : Op → Bool) (hsel : sel o = true) := State.syncRun_done hlive hfault hsync hop hsel hbad hwait
    unfold State.syncEffect at hrun
    rw [hop] at hrun
    refine ⟨fun ho => ?_, fun ho => ?_, fun ho => ?_⟩
    all_goals
      subst ho
      exact congrArg Host.Outcome.next (hrun _ rfl)
  case window =>
    rintro w unit v s _ rfl
    exact ⟨exec_syncSignal_sends, exec_syncSignal_refused, fun hw => exec_syncSignal_refused (s.signalsCtx_of_agent _ hw)⟩

end Sys2Proof.Machine
end

section
/-! SUPPORT. What fencing and moving a context leave alone: an order is messages alone, and a record asks for no scrub (R216, R266, R306). -/

namespace Sys2Proof.Machine

theorem State.orderEpoch_out (s : State) (ctx : Nat) (ep : BitVec 4) (forced : Bool) :
    ∃ out, s.orderEpoch ctx ep forced = { s with out := out } := by
  unfold State.orderEpoch
  split
  · exact ⟨_, rfl⟩
  · next hspan =>
    clear hspan
    generalize maskList 16 s.span.admitted.toNat = l
    induction l generalizing s with
    | nil => exact ⟨_, rfl⟩
    | cons m l ih =>
      rw [List.foldl_cons]
      split
      · exact ih s
      · exact ih (s.emit _)

@[simp] theorem State.orderEpoch_led (s : State) (ctx : Nat) (ep : BitVec 4) (forced : Bool) : (s.orderEpoch ctx ep forced).led = s.led := by
  obtain ⟨out, h⟩ := s.orderEpoch_out ctx ep forced
  rw [h]
@[simp] theorem State.orderEpoch_runE (s : State) (ctx : Nat) (ep : BitVec 4) (forced : Bool) (c : Nat) :
    (s.orderEpoch ctx ep forced).runE c = s.runE c := by
  obtain ⟨out, h⟩ := s.orderEpoch_out ctx ep forced
  rw [h]
  rfl
@[simp] theorem State.orderEpoch_ctxE (s : State) (ctx : Nat) (ep : BitVec 4) (forced : Bool) (c : Nat) :
    (s.orderEpoch ctx ep forced).ctxE c = s.ctxE c := by
  obtain ⟨out, h⟩ := s.orderEpoch_out ctx ep forced
  rw [h]
  rfl

/-- Nothing asks for the scrub of a context: no function's command names it, nor the management port's, and its function scrubs none
(R266, R275, R293). -/
structure State.Unasked (s : State) (c : CtxId) : Prop where
  funcs : ∀ p ∈ s.funcs, (p.2.ctxBusy && p.2.ctxCmd == c) = false
  mgmt : (s.mgmt.ctxCmd.ctxBusy && s.mgmt.ctxCmd.ctxCmd == c) = false
  scrub : (s.funcE (s.ctxE c.toNat).func.toNat).scrubAll = false

namespace State.Unasked
variable {s : State} {c : CtxId} (h : s.Unasked c)
include h

/-- Only the functions, the management port's command and the context table are asked. -/
theorem of_eq {t : State} (hfuncs : t.funcs = s.funcs) (hcmd : t.mgmt.ctxCmd = s.mgmt.ctxCmd) (hctxs : t.ctxs = s.ctxs) : t.Unasked c := by
  refine ⟨?_, ?_, ?_⟩
  · rw [hfuncs]
    exact h.funcs
  · rw [hcmd]
    exact h.mgmt
  · unfold State.funcE State.ctxE
    rw [hfuncs, hctxs]
    exact h.scrub

theorem foldl {α : Type} {f : State → α → State} (hf : ∀ (t : State) (a : α), t.Unasked c → (f t a).Unasked c) (l : List α) :
    (l.foldl f s).Unasked c := by
  induction l generalizing s with
  | nil => exact h
  | cons a l ih => exact ih (hf s a h)

theorem funcM (f : Nat) {g : Func → Func} (hg : ∀ e, ((g e).ctxBusy, (g e).ctxCmd, (g e).scrubAll) = (e.ctxBusy, e.ctxCmd, e.scrubAll)) :
    (s.funcM f g).Unasked c := by
  have hbusy (e : Func) : (g e).ctxBusy = e.ctxBusy := congrArg Prod.fst (hg e)
  have hcmd (e : Func) : (g e).ctxCmd = e.ctxCmd := congrArg (fun x => x.2.1) (hg e)
  have hscrub (e : Func) : (g e).scrubAll = e.scrubAll := congrArg (fun x => x.2.2) (hg e)
  refine ⟨fun p hp => ?_, h.mgmt, ?_⟩
  · obtain rfl | hold := mem_tabSet hp
    · rw [hbusy, hcmd]
      exact tabGet_of_all (P := fun e : Func => (e.ctxBusy && e.ctxCmd == c) = false) h.funcs rfl f
    · exact h.funcs p hold
  · rw [State.funcM_ctxE]
    by_cases hf : (s.ctxE c.toNat).func.toNat = f
    · rw [hf, State.funcE_funcM_same, hscrub, ← hf]
      exact h.scrub
    · rw [State.funcE_funcM_ne _ _ _ _ hf]
      exact h.scrub

theorem msix (f v : Nat) : (s.msix f v).Unasked c := by
  unfold State.msix
  extract_lets fe
  split
  · exact h
  · split
    · exact h.funcM f fun _ => rfl
    · exact h.of_eq rfl rfl rfl

theorem copyRec (r : Rec) (stored : Bool) (f : Nat) : (s.copyRec r stored f).Unasked c := by
  have hled (led : Ledger) : ({ s with led := led } : State).Unasked c := h.of_eq rfl rfl rfl
  have hhost (a : Nat) (bs : List (BitVec 8)) : (s.hostWrite f a bs).Unasked c := h.of_eq rfl rfl rfl
  unfold State.copyRec
  split
  · exact h
  · dsimp only
    split
    · split
      · refine ((hhost _ _).funcM f ?_).msix f 0
        exact fun _ => rfl
      · split
        · exact h.msix f 0
        · exact h
    · split
      · exact (hled _).msix f 0
      · exact hled _

theorem raiseRec (r : Rec) : (s.raiseRec r).Unasked c := by
  unfold State.raiseRec
  extract_lets r cls stored _ led₁ led₂ s₁ s₂
  have h₁ : s₁.Unasked c := h.of_eq rfl rfl rfl
  have h₂ : s₂.Unasked c := h₁.foldl (fun _ f ht => ht.copyRec r stored f) _
  clear_value s₂
  split
  · split
    · exact h₂.of_eq rfl rfl rfl
    · exact h₂
  · exact h₂

theorem scrubIfAsked : s.scrubIfAsked c.toNat = s := by
  have hmine (e : Func) : (e.ctxBusy && e.ctxCmd.toNat == c.toNat) = (e.ctxBusy && e.ctxCmd == c) := by
    congr 1
    rw [Bool.eq_iff_iff, beq_iff_eq, beq_iff_eq, BitVec.toNat_inj]
  have hfuncs : (s.funcs.any fun p => p.2.ctxBusy && p.2.ctxCmd == c) = false := List.any_eq_false.2 fun p hp => by simp [h.funcs p hp]
  unfold State.scrubIfAsked
  simp only [hmine, hfuncs, h.mgmt, h.scrub]
  rfl

end State.Unasked

end Sys2Proof.Machine
end

section
/-! PROOF. Moves of contexts: clean moves, forced moves and the fences over old placements (R214, R215, R216, R306). -/

namespace Sys2Proof.Machine

section CleanMove
variable {ctx : CtxId} {place : BitVec 16} {so po : Nat} {s : State}

/-- Where a clean move of a context to a set of clusters takes a cluster of its own (R214). -/
def State.moveTo (s : State) (c : Nat) (place : BitVec 16) (k : Nat) : Nat :=
  (((s.jobClusters c).zip (maskList 16 place.toNat)).find? fun p => p.1 == k).elim k Prod.snd

/-- The cores of a context on the clusters that a clean move takes it to. -/
def State.movedCores (s : State) (c : Nat) (place : BitVec 16) : List Nat :=
  (s.jobCoreList c).map fun n => 4 * s.moveTo c place (n / 4) + n % 4

/-- A context may make a clean move to a set of clusters, its allocations at these offsets there (R214, R216). -/
structure State.MayMove (s : State) (c : Nat) (place : BitVec 16) (so po : Nat) : Prop where
  quiet : s.quietCtx c = true
  length : (s.jobClusters c).length = (maskList 16 place.toNat).length
  shape : ∀ p ∈ (s.jobClusters c).zip (maskList 16 place.toNat), s.presentMask p.1 = s.presentMask p.2 ∧ (s.clusE p.2).inReset = false ∧
    (s.clusE p.2).removed = false ∧ (s.dieE (p.2 / 4)).inReset = false
  slots : ∀ k ∈ maskList 16 place.toNat, ((s.residents k).filter (· != c)).length < 8
  fits : s.allocFits c (s.movedCores c place) so (s.storeLen c) po (s.poolLen c) = true

/-- The context takes its next epoch, the other modules of its span hearing of it; a member of a span has taken it from the master before
(R214, R306). -/
def State.moveEpoch (s : State) (c : Nat) : State :=
  if s.runsSpan c && !s.leads then s else (s.newEpoch c ((s.ctxE c).epoch + 1) true).orderEpoch c ((s.ctxE c).epoch + 1) false

/-- The jobs of a context have their shares on the clusters that it has moved to. -/
def State.moveShares (t : State) (c : Nat) (mv : Nat → Nat) : State :=
  { t with jobs := t.jobs.map fun (j : Job) => if j.ctx = c then { j with shares := j.shares.map mv } else j }

/-- A clean move once its context has its epoch: allocations, units, shares and place (R214, R216). -/
def State.moveContext (t s : State) (c : Nat) (place : BitVec 16) (so po : Nat) : State :=
  ((((t.moveAllocs c (s.moveTo c place) so po).moveUnits c (s.moveTo c place)).runM c fun r =>
      { r with storeOff := so, poolOff := po, jobCores := BitVec.ofNat 64 (listMask (s.movedCores c place)), epochDue := false }).moveShares c
    (s.moveTo c place)).ctxM c fun e => { e with place := place }

theorem exec_cleanMove (h : s.MayMove ctx.toNat place so po) : exec (.cleanMove ctx place so po) s = .next (
    if s.runsSpan ctx.toNat && !s.leads && !(s.runE ctx.toNat).epochDue then s.emit (.flit s.leader .c (.moveAsk ctx false))
    else (s.moveEpoch ctx.toNat).moveContext s ctx.toNat place so po) := by
  refine congrArg Host.Outcome.next (if_neg ?_)
  simp only [Bool.not_eq_false, Bool.and_eq_true, Bool.not_eq_eq_eq_not, Bool.not_true, beq_iff_eq, List.all_eq_true,
    decide_eq_true_eq, and_assoc]
  exact ⟨h.quiet, h.length, h.shape, h.slots, h.fits⟩

end CleanMove

section ForcedMove
variable {ctx : CtxId} {s : State}

/-- The fence over the placement that a resident context leaves (R216). -/
def State.oldPlace (s : State) (c : Nat) : Fence :=
  { place := (s.ctxE c).place, cores := (s.runE c).jobCores, epoch := (s.ctxE c).epoch, forced := true, storeOff := (s.runE c).storeOff
    poolOff := (s.runE c).poolOff, storeLen := s.storeLen c, poolLen := s.poolLen c }

theorem State.openMove_eq (c : Nat) (ep : BitVec 4) (hres : (s.runE c).resident = true) :
    s.openMove c ep = (s.runM c fun r => { r with fence := some (s.oldPlace c) }).ctxM c fun e => { e with epoch := ep } := by
  unfold State.openMove State.oldPlace
  dsimp only
  rw [hres]
  rfl

theorem exec_switchOutTimeout (hup : s.schUp = true) (hrun : (s.runE ctx.toNat).running = true) (hfence : (s.runE ctx.toNat).fence = none) :
    exec (.switchOutTimeout ctx) s = .next ((s.failRec s.modUid ctx.toNat 0 0x10 0 (0, 0, 0, 0)).forcedMove ctx.toNat
      { status := 0x10, esn := (s.failRec s.modUid ctx.toNat 0 0x10 0 (0, 0, 0, 0)).lastEsn }) := by
  refine congrArg Host.Outcome.next (if_neg ?_)
  simp [hup, hrun, hfence]

/-- The first failure of a context is its fault. -/
theorem State.setFault_first (c : Nat) (o : Outcm) (h : (s.runE c).fault = none) :
    s.setFault c o = s.runM c fun r => { r with fault := some { status := o.status, cause := o.cause, esn := o.esn } } := by
  unfold State.setFault State.runM
  dsimp only
  rw [h]

/-- This module can put the placement of a context behind a fence now: SCH serves, the module acts for the context's span, and the context is
resident with no fence open (R216, R306). -/
structure State.CanFence (s : State) (c : Nat) : Prop where
  up : s.schUp = true
  lead : s.runsSpan c = false ∨ s.leads = true
  resident : (s.runE c).resident = true
  unfenced : (s.runE c).fence = none

/-- After a forced move of a context of s: its fault, the fence over the place that it had, and its next epoch (R215, R216). -/
structure State.Forced (s : State) (c : Nat) (fault : Option FaultInfo) (t : State) : Prop where
  run : t.runE c = { s.runE c with fault := fault, fence := some (s.oldPlace c) }
  ctx : t.ctxE c = { s.ctxE c with epoch := (s.ctxE c).epoch + 1 }

theorem State.moveAway_forced {c : Nat} (h : s.CanFence c) :
    s.Forced c (s.runE c).fault (s.moveAway c) ∧ (s.moveAway c).led = s.led := by
  have hmember : (s.runsSpan c && !s.leads) = false := by
    obtain hspan | hleads := h.lead
    · rw [hspan, Bool.false_and]
    · rw [hleads, Bool.not_true, Bool.and_false]
  have hmove : s.moveAway c = (s.openMove c ((s.ctxE c).epoch + 1)).orderEpoch c ((s.ctxE c).epoch + 1) true := by
    unfold State.moveAway
    rw [h.up, hmember, h.unfenced]
    rfl
  rw [hmove, State.openMove_eq _ _ h.resident]
  exact ⟨⟨by simp, by simp⟩, by simp⟩

theorem State.forcedMove_forced {c : Nat} (o : Outcm) (h : s.CanFence c) (hfault : (s.runE c).fault = none) :
    s.Forced c (some { status := o.status, cause := o.cause, esn := o.esn }) (s.forcedMove c o) ∧ (s.forcedMove c o).led = s.led := by
  have hrun : (s.setFault c o).runE c = { s.runE c with fault := some { status := o.status, cause := o.cause, esn := o.esn } } := by
    rw [State.setFault_first c o hfault, State.runE_runM_same]
  have hplace : (s.setFault c o).oldPlace c = s.oldPlace c := by
    simp only [State.oldPlace, State.storeLen, State.poolLen, hrun]
    rfl
  obtain ⟨hmoved, hled⟩ := State.moveAway_forced (s := s.setFault c o) (c := c)
    ⟨h.up, h.lead, by rw [hrun, h.resident], by rw [hrun, h.unfenced]⟩
  have hmovedRun := hmoved.run
  rw [hrun, hplace] at hmovedRun
  exact ⟨⟨hmovedRun, hmoved.ctx⟩, hled⟩

/-- The record of the failure, raised first, changes nothing of a forced move. -/
theorem State.forcedMove_recorded {t : State} {c : Nat} (hrec : s.RecordsOf t) (o : Outcm) (h : s.CanFence c)
    (hfault : (s.runE c).fault = none) :
    s.Forced c (some { status := o.status, cause := o.cause, esn := o.esn }) (t.forcedMove c o) ∧ (t.forcedMove c o).led = t.led := by
  obtain ⟨led, mem, funcs, mgmt, out, rfl⟩ := hrec
  obtain ⟨hforced, hled⟩ := State.forcedMove_forced (s := { s with led := led, mem := mem, funcs := funcs, mgmt := mgmt, out := out }) o
    ⟨h.up, h.lead, h.resident, h.unfenced⟩ hfault
  exact ⟨⟨hforced.run, hforced.ctx⟩, hled⟩

theorem State.failRec_recordsOf (s : State) (unit : BitVec 32) (ctx opcode status cause : Nat)
    (d : BitVec 64 × BitVec 64 × BitVec 64 × BitVec 64) : s.RecordsOf (s.failRec unit ctx opcode status cause d) :=
  State.raiseRec_recordsOf s _

end ForcedMove

section FenceEnd
variable {ctx : CtxId} {s : State} {f : Fence}

/-- The count of stale completions of a core of an old placement is recorded and starts anew (R215). -/
def State.recordStale (t : State) (c n : Nat) : State :=
  if (t.coreE c n).staleDone = 0 then t
  else (t.infoOther (t.coreUid n) c 0 (BitVec.ofNat 64 (t.coreE c n).staleDone)).coreM c n fun x => { x with staleDone := 0 }

theorem State.Unasked.recordStale (h : s.Unasked ctx) (c n : Nat) : (s.recordStale c n).Unasked ctx := by
  unfold State.recordStale
  split
  · exact h
  · exact (h.raiseRec _).of_eq rfl rfl rfl

theorem State.Unasked.scrubUnits (h : s.Unasked ctx) (cores : List Nat) (so sl po pl : Nat) :
    (s.scrubUnits cores so sl po pl).Unasked ctx := by
  have hzero (t : State) (a n : Nat) (ht : t.Unasked ctx) : (t.zeroBytes a n).Unasked ctx := ht.of_eq rfl rfl rfl
  exact (h.foldl (fun t n ht => hzero t _ _ ht) cores).foldl (fun t n ht => hzero t _ _ ht) _

theorem State.scrubUnits_runE (t : State) (cores : List Nat) (so sl po pl c : Nat) : (t.scrubUnits cores so sl po pl).runE c = t.runE c := by
  have hzero (a : Nat → Nat) (n : Nat) (l : List Nat) (u : State) :
      (l.foldl (fun v k => v.zeroBytes (a k) n) u).runE c = u.runE c :=
    foldl_view (f := fun (v : State) k => v.zeroBytes (a k) n) (view := fun v : State => v.runE c) (fun _ _ _ => rfl) u
  exact (hzero _ _ _ _).trans (hzero _ _ _ _)

/-- The fence is gone, and after a forced move that found no new place the context is no longer resident (R216). -/
def State.dropFence (t : State) (c : Nat) (f : Fence) : State :=
  t.runM c fun r => { r with fence := none, resident := r.resident && !(f.forced && (t.runE c).jobCores = f.cores) }

/-- Nothing of a fence's epoch is left of a context: no instruction on the cores of the old placement and no signal (R215, R216). -/
structure State.FenceQuiet (s : State) (c : Nat) (f : Fence) : Prop where
  queues : ∀ n ∈ maskList 64 f.cores.toNat, ∀ e ∈ (s.coreE c n).mxeQ ++ (s.coreE c n).vxeQ ++ (s.coreE c n).dxeQ, e.epoch ≠ f.epoch
  sigs : ∀ g ∈ s.sigs, g.ctx = c → g.epoch ≠ f.epoch

/-- A fence closes once nothing of its epoch is left and nothing asks for a scrub (R215, R216). -/
theorem exec_fenceClose (hup : s.schUp = true) (hf : (s.runE ctx.toNat).fence = some f) (hquiet : s.FenceQuiet ctx.toNat f)
    (hask : s.Unasked ctx) :
    exec (.fenceClose ctx) s = .next ((((maskList 64 f.cores.toNat).foldl (fun t n => t.recordStale ctx.toNat n) s).scrubUnits
      (maskList 64 f.cores.toNat) f.storeOff f.storeLen f.poolOff f.poolLen).dropFence ctx.toNat f) := by
  have hrecorded := hask.foldl (fun _ n h => h.recordStale ctx.toNat n) (maskList 64 f.cores.toNat)
  have hscrubbed := hrecorded.scrubUnits (maskList 64 f.cores.toNat) f.storeOff f.storeLen f.poolOff f.poolLen
  have hdropped : (State.dropFence _ ctx.toNat f).Unasked ctx := hscrubbed.of_eq rfl rfl rfl
  refine congrArg Host.Outcome.next ?_
  rw [hf]
  refine (if_neg ?_).trans hdropped.scrubIfAsked
  simpa [hup, or_imp, forall_and] using And.intro hquiet.queues hquiet.sigs

theorem exec_fenceTimeout (hup : s.schUp = true) (hf : (s.runE ctx.toNat).fence = some f) (hforced : f.forced = true) :
    exec (.fenceTimeout ctx) s = .next (((maskList 64 f.cores.toNat).filter fun n =>
      ((s.coreE ctx.toNat n).mxeQ ++ (s.coreE ctx.toNat n).vxeQ ++ (s.coreE ctx.toNat n).dxeQ).any fun e => e.epoch == f.epoch).foldl
        (fun t n => (t.askReset 0 n 0 [2]).1) s) := by
  refine congrArg Host.Outcome.next ?_
  dsimp only
  rw [hf]
  exact if_neg (by simp [hforced, hup])

end FenceEnd

/-- Settles O33: each command runs the branch that its hypotheses leave; a fence closes without a scrub because the records of its stale
completions ask for none (`State.Unasked.raiseRec`). -/
theorem movesAdvanceTheEpoch : Obligations.MovesAdvanceTheEpoch := by
  unfold Obligations.MovesAdvanceTheEpoch
  refine ⟨?clean, fun ctx s t hup => ⟨?forced, fun f hf => ⟨?close, fun hforced => exec_fenceTimeout hup hf hforced⟩⟩⟩
  case clean =>
    rintro ctx place so po s t0 t _ _ mv rfl rfl hmv hup hres hrun hstate hfence hfault hlength hshape hsigs hslots hfits
    obtain rfl : mv = s.moveTo ctx.toNat place := funext hmv
    have hquiet : s.quietCtx ctx.toNat = true := by
      simp only [State.quietCtx, hup, hres, hrun, hstate, hfence, hfault]
      simpa using hsigs
    have hexec := exec_cleanMove (ctx := ctx) ⟨hquiet, hlength, hshape, hslots, hfits⟩
    constructor
    · intro hspan hlead hdue
      rw [hexec, hspan, hlead, hdue]
      rfl
    · rintro hmove rfl rfl
      rw [hexec, if_neg]
      · rfl
      · simp only [Bool.and_eq_true, Bool.not_eq_true', not_and, Bool.not_eq_false]
        rintro ⟨hspan, hlead⟩
        simpa [hspan, hlead] using hmove
  case forced =>
    rintro hrun hres hfence hfault hlead rfl
    refine ⟨_, exec_switchOutTimeout hup hrun hfence, ?_⟩
    obtain ⟨hforced, hled⟩ := State.forcedMove_recorded (s.failRec_recordsOf ..) _ ⟨hup, hlead, hres, hfence⟩ hfault
    refine ⟨?_, ?_, ?_, hled⟩
    · rw [hforced.run]
      simp
    · rw [hforced.ctx]
    · rw [hforced.run]
      rfl
  case close =>
    rintro hqueues hsigs hfuncs hmgmt hscrub rfl
    have hask : s.Unasked ctx := ⟨fun p hp => by simpa using List.any_eq_false.1 hfuncs p hp, hmgmt, hscrub⟩
    rw [exec_fenceClose hup hf ⟨hqueues, hsigs⟩ hask, State.dropFence, State.scrubUnits_runE]
    rfl

end Sys2Proof.Machine
end

section
/-! PROOF. VOPT (R236 to R239, R345), VHRV (R232, R233) and VSGN (R234) write their outputs. -/

namespace Sys2Proof.Machine

/-- In a list of things with what their keys give, the one found by a key holds what that key gives. -/
theorem snd_snd_of_find?_keyed {α β γ κ : Type} [BEq κ] [LawfulBEq κ] {l : List α} {key : α → κ} {old : α → β} {val : κ → γ}
    {q : α × β × γ} {i : κ} (h : (l.map fun p => (p, old p, val (key p))).find? (fun q => key q.1 == i) = some q) : q.2.2 = val i := by
  obtain ⟨p, -, rfl⟩ := List.mem_map.1 (List.mem_of_find?_eq_some h)
  have hkey := List.find?_some h
  exact congrArg val (eq_of_beq hkey)

section Run
variable {core ctx : Nat} {s s2 s3 s4 s5 s6 s7 : State} {e : QEntry} {f : Fetched}

/-- The model keeps each weight's step from its first use on; what it finds again for a state plane or a norm (R238) is the step of that
index. -/
theorem runVopt_ok {alg : Nat} {gamma : Val} {ow om : ConvOut} {n0 n2 : Option Outcm} {step : List Nat → Val × Val × Val}
    (hgamma : s.clipGamma ctx core (optRec (e.desc e.word.opx)) = (s2, .ok gamma))
    (hread : s2.fetchAt (agentOf ctx core 2) ([e.view 0, e.view 1, e.view 2].flatMap fun v => readAddrs v.d v.xs) = (s3, .ok f))
    (hstep : ∀ i, step i = optElem alg (optRec (e.desc e.word.opx)) gamma ((e.view 0).at f i) ((e.view 1).at f i) ((e.view 2).at f i)
      (if optPlanes alg = 2 then (e.view 2).at f (i.set (e.view 0).d.rank 1) else vZero))
    (hw : s3.convertTo (agentOf ctx core 2) (e.view 0).d (s3.convCtx ctx e true) ((e.view 0).present.map fun p =>
      (p.2, resOf (((e.view 0).at f p.1).add (step p.1).1.negate))) = (s4, .ok ow))
    (hm : (s4.addFlagged ctx ow.count).convertTo (agentOf ctx core 2) (e.view 2).d ((s4.addFlagged ctx ow.count).convCtx ctx e true)
      ((e.view 2).present.map fun p => (p.2, resOf (if p.1.getD (e.view 0).d.rank 0 = 0 then (step (p.1.set (e.view 0).d.rank 0)).2.1
        else (step (p.1.set (e.view 0).d.rank 0)).2.2))) = (s5, .ok om))
    (hn0 : (s6, n0) = (if e.word.tag = 0 then (s5.addFlagged ctx om.count, none)
      else (s5.addFlagged ctx om.count).normAdd ctx core e.word.tag (ow.written.map fun p => p.2.sq)))
    (hn2 : (s7, n2) = (if e.word.tag = 0 then (s6, none) else s6.normAdd ctx core (512 + e.word.tag)
        (ow.written.map fun p => match (e.view 0).present.find? fun q => q.2 == p.1 with
          | some q => (p.2.add ((e.view 0).at f q.1).negate).sq
          | none => vZero))) :
    runVopt core s ctx e (.vopt alg) = endAfterNorm
      (s7.sendDigest ctx e (e.view 0) (BitVec.ofNat 64 (crcOf 2 (elemStream (e.view 0) ow.bytes))), n0.or n2)
      ctx core 1 e.slot (ow.flagged || om.flagged) := by
  unfold runVopt
  dsimp only
  rw [hgamma]
  refine (State.vxeRead_ok hread).trans ?_
  simp only [← hstep]
  refine (State.vxeWrite_ok (s' := s4) (out := ow) (by rw [List.map_map]; exact hw)).trans ?_
  refine (State.vxeWrite_ok (s' := s5) (out := om) ?states).trans ?norms
  case states =>
    rw [← hm]
    refine congrArg (State.convertTo _ _ _ _ · []) (List.map_congr_left fun p _ => ?_)
    refine congrArg (fun u : Val × Val × Val => (p.2, resOf (if p.1.getD (e.view 0).d.rank 0 = 0 then u.2.1 else u.2.2))) ?_
    split
    next q hq => exact snd_snd_of_find?_keyed hq
    next => rw [hstep, List.set_set]
  case norms =>
    rw [← hn0]
    refine congrArg (fun r : State × Option Outcm => endAfterNorm (r.1.sendDigest ctx e (e.view 0) _, n0.or r.2) ctx core 1 e.slot _)
      (Eq.trans ?_ hn2.symm)
    refine congrArg (fun upd => if e.word.tag = 0 then (s6, none) else s6.normAdd ctx core (512 + e.word.tag) upd)
      (List.map_congr_left fun p _ => ?_)
    simp only [List.find?_map, Function.comp_def]
    cases (e.view 0).present.find? fun q => q.2 == p.1 <;> rfl

theorem runVhrv_ok {o : Op} {o1 o2 : ConvOut}
    (hread : s.fetchAt (agentOf ctx core 2) ([e.view 1, e.view 2].flatMap fun v => readAddrs v.d v.xs) = (s2, .ok f))
    (hout : s2.convertTo (agentOf ctx core 2) (e.view 0).d (s2.convCtx ctx e true) (vhrvValues e f) = (s3, .ok o1))
    (hres : (s3.addFlagged ctx o1.count).convertTo (agentOf ctx core 2) (e.view 2).d ((s3.addFlagged ctx o1.count).convCtx ctx e true)
      (vhrvResidual e f o1.written) = (s4, .ok o2))
    (hlist : (s4.addFlagged ctx o2.count).writeMasked (agentOf ctx core 2) (vhrvList e f) = (s5, none)) :
    runVhrv core s ctx e o = s5.doneEntry ctx core 1 e.slot (o1.flagged || o2.flagged) := by
  unfold runVhrv
  rw [State.vxeRead_ok hread, State.vxeWrite_ok hout, State.vxeWrite_ok hres, hlist]

theorem runVsgn_ok {o : Op} {o1 o2 : ConvOut} {blocks : List (Nat × (Nat × Bool) × List (List Nat × Val))} {old : Fetched}
    (hread : s.fetchAt (agentOf ctx core 2) ([e.view 1, e.view 2].flatMap fun v => readAddrs v.d v.xs) = (s2, .ok f))
    (hblocks : blocks = vsgnBlocks e (s.convCtx ctx e true) f)
    (hold : s2.fetchAt (agentOf ctx core 2) (if (e.view 0).d.ledger then
      blocks.flatMap fun b => [entryAddr (e.view 0).d b.1, entryAddr (e.view 0).d b.1 + 1] else []) = (s3, .ok old))
    (hsigns : s3.writeMasked (agentOf ctx core 2) (vsgnBytes e blocks) = (s4, none))
    (hres : (s4.addFlagged ctx (vsgnCount (e.view 0).d old blocks)).convertTo (agentOf ctx core 2) (e.view 2).d
      ((s4.addFlagged ctx (vsgnCount (e.view 0).d old blocks)).convCtx ctx e true) (vsgnResidual e blocks f) = (s5, .ok o1))
    (hmags : (s5.addFlagged ctx o1.count).convertTo (agentOf ctx core 2) (e.desc e.word.opx)
      ((s5.addFlagged ctx o1.count).convCtx ctx e true) (vsgnMags e blocks) = (s6, .ok o2)) :
    runVsgn core s ctx e o =
      (s6.addFlagged ctx o2.count).doneEntry ctx core 1 e.slot ((blocks.any fun b => b.2.1.2) || o1.flagged || o2.flagged) := by
  subst hblocks
  unfold runVsgn
  dsimp only
  rw [State.vxeRead_ok hread, hold]
  dsimp only
  rw [hsigns]
  exact (State.vxeWrite_ok hres).trans (State.vxeWrite_ok hmags)

end Run

/-- Settles O20: each instruction that its engine takes is the way through its reads, its conversions and its writes on which nothing fails
(`runVopt_ok`, `runVhrv_ok`, `runVsgn_ok`). -/
theorem optimizerStepIsWritten : Obligations.OptimizerStepIsWritten := by
  refine ⟨fun c ctx alg s s1 s2 s3 s4 s5 s6 s7 e f gamma ow om n0 n2 step hready hgamma hread hstep hw hm hn0 hn2 => ?vopt,
    fun c ctx s s1 s2 s2o s3 s4 s5 e f o1 o2 => ⟨fun hready hread hout hres hlist => ?vhrv,
      fun blocks old hready hread hblocks hold hsigns hres hmags => ?vsgn⟩⟩
  all_goals refine congrArg Host.Outcome.next ((State.takeHead_ready hready).trans ?_)
  case vopt => exact runVopt_ok hgamma hread hstep hw hm hn0 hn2
  case vhrv => exact runVhrv_ok hread hout hres hlist
  case vsgn => exact runVsgn_ok hread hblocks hold hsigns hres hmags

end Sys2Proof.Machine
end

section
/-! PROOF. Words of a collective that come from another module (R221, R225 to R230, R235). -/

namespace Sys2Proof.Machine

/-- Giving the words of a chunk their elements leaves the words. -/
theorem map_snd_zipIdx_map {α β γ : Type} (place : (α × β) × Nat → γ) (ws : List (α × β)) :
    (ws.zipIdx.map fun p => (place p, p.1.2)).map Prod.snd = ws.map Prod.snd := by
  rw [List.map_map]
  calc ws.zipIdx.map (fun p => p.1.2) = (ws.zipIdx.map Prod.fst).map Prod.snd := List.map_map.symm
    _ = ws.map Prod.snd := congrArg _ (List.zipIdx_map_fst 0 ws)

section Chunk
variable {s : State} {ctx k m : Nat} {unit : BitVec 32} {bytes : List (BitVec 8)} {last : Bool} {listed : List (Nat × Blw)} {range : List Nat}

/-- Where no word is undefined or escaped and the residues agree, no test of a chunk diverts it (R227, R229, R230): its sums leave no word
out, and it adds no escape. -/
theorem State.chunkIn_unescaped (hrange : range = ((s.wanted ctx unit k).drop (256 * (chunkHdrOf bytes).chunk)).take 256)
    (hlisted : listed = (chunkWords (chunkHdrOf bytes) bytes).zipIdx.map (fun p => (p.1.1.getD (range.getD p.2 0), p.1.2)))
    (hlegal : ∀ p ∈ listed, blwPosOk p.2.pos = true ∧ p.2.pos ≠ 0xFF)
    (hsum : (listed.map fun p => wordResidue p.2.w).sum % 255 = (chunkHdrOf bytes).resSum % 255) :
    s.chunkIn ctx unit k m bytes last = s.collM ctx unit k fun c =>
      { (c.lane m (16 * (chunkHdrOf bytes).count) 0) with
        elems := (if (chunkHdrOf bytes).sparse then range.filter fun i => !(listed.any fun p => p.1 == i) else []).foldl
          (fun l i => tabSet l i (laMark (tabGet l i (laClear ctx)) { any := true, nzero := false } 0))
          (listed.foldl (fun l p => tabSet l p.1 (laAddBlw (tabGet l p.1 (laClear ctx)) p.2)) c.elems),
        peers := if last then setDel c.peers m else c.peers } := by
  have hlegalWords : ((chunkWords (chunkHdrOf bytes) bytes).any fun p => !(blwPosOk p.2.pos)) = false := by
    have hwords : listed.map Prod.snd = (chunkWords (chunkHdrOf bytes) bytes).map Prod.snd := hlisted ▸ map_snd_zipIdx_map _ _
    simp only [List.any_eq_false, Bool.not_eq_true', Bool.not_eq_false]
    intro p hp
    obtain ⟨q, hq, hqp⟩ := List.mem_map.1 (hwords ▸ List.mem_map_of_mem hp)
    exact hqp ▸ (hlegal q hq).1
  have hescaped : (listed.filter fun p => p.2.pos == 0xFF) = [] := by
    simpa using fun a b h => (hlegal (a, b) h).2
  have hres : (listed.map fun p => if p.2.pos = 0xFF then 0 else wordResidue p.2.w) = listed.map fun p => wordResidue p.2.w :=
    List.map_congr_left fun p hp => if_neg (hlegal p hp).2
  have hadd (els : List (Nat × LA)) : (listed.foldl (fun (l : List (Nat × LA)) p =>
      if p.2.pos = 0xFF then l else tabSet l p.1 (laAddBlw (tabGet l p.1 (laClear ctx)) p.2)) els) =
      listed.foldl (fun l p => tabSet l p.1 (laAddBlw (tabGet l p.1 (laClear ctx)) p.2)) els :=
    List.foldl_ext _ _ _ fun l p hp => if_neg (hlegal p hp).2
  unfold State.chunkIn
  dsimp only
  rw [hlegalWords, ← hrange, ← hlisted, hescaped, hres, hsum]
  simp only [hadd]
  rw [if_neg Bool.false_ne_true, if_neg (by simp)]
  refine congrArg _ (funext fun c => ?_)
  cases (chunkHdrOf bytes).sparse <;> simp [Coll.lane]

end Chunk

section Tlw
variable {s : State} {ctx k m : Nat} {unit : BitVec 32} {w : Coll} {t : Tlw}

/-- A TLW of a norm collective (R235). -/
theorem State.tlwIn_slot (hslots : w.slots ≠ []) : s.tlwIn ctx unit k m w t = s.collM ctx unit k fun c =>
    { (c.lane m 0 1) with
      slots := tabSet c.slots m (laAddTlw (tabGet c.slots m (laClear ctx)) t),
      peers := if s.partsOn ctx (uidFields unit) m ≤ ((tabFind w.laneIn m).getD (0, 0)).2 + 1 then setDel c.peers m else c.peers } := by
  unfold State.tlwIn
  rw [if_pos (by simpa using hslots)]

/-- A TLW of a sum, for an element that its sender has escaped (R226, R229, R230). -/
theorem State.tlwIn_escaped {i n chunk want sum left : Nat} (hslots : w.slots = [])
    (hnext : w.escapes.find? (fun p => p.1 == m) = some (n, i))
    (hchunk : w.resWant.find? (fun p => p.1 == m) = some (n, chunk, want, sum, left))
    (hres : left = 1 → (sum + wordResidue t.z) % 255 = want) :
    s.tlwIn ctx unit k m w t = s.collM ctx unit k fun c =>
      { (c.lane m 0 (8 + 8 * t.count)) with
        elems := tabSet c.elems i (laAddTlw (tabGet c.elems i (laClear ctx)) t), escapes := c.escapes.erase (m, i),
        resWant := (updFirst (fun (p : Nat × Nat × Nat × Nat × Nat) => p.1 == m)
          (fun _ => (m, chunk, want, (sum + wordResidue t.z) % 255, left - 1)) c.resWant).filter
            fun (p : Nat × Nat × Nat × Nat × Nat) => p.2.2.2.2 != 0 } := by
  unfold State.tlwIn
  rw [if_neg (by simp [hslots]), hnext, hchunk]
  dsimp only
  rw [if_neg (by simpa using hres)]

end Tlw

section Word
variable {s : State} {ctx : CtxId} {unit : BitVec 32} {k m : Nat} {bytes : List (BitVec 8)} {last : Bool}

theorem State.collWord_held {f : FlitLoad} (hf : f = .chunk ctx unit k bytes last ∨ f = .tlw ctx unit k bytes)
    (hnone : s.collE ctx.toNat unit k = none) (hpeer : (s.partPeers ctx.toNat (uidFields unit)).contains m = true) :
    s.collWord m f = { s with collHeld := s.collHeld ++ [(m, f)] } := by
  unfold State.collWord
  obtain rfl | rfl := hf <;> simp only [hnone, hpeer, if_true]

variable {w : Coll} (hcoll : s.collE ctx.toNat unit k = some w)
include hcoll

theorem State.collWord_chunk_started (hpeer : w.peers.contains m = true) :
    s.collWord m (.chunk ctx unit k bytes last) = s.chunkIn ctx.toNat unit k m bytes last := by
  unfold State.collWord
  simp only [hcoll, hpeer, if_true]

theorem State.collWord_tlw_started {t : Tlw} (ht : tlwOfBytes bytes = some t) :
    s.collWord m (.tlw ctx unit k bytes) = s.tlwIn ctx.toNat unit k m w t := by
  unfold State.collWord
  simp only [hcoll, ht]

theorem State.collWord_tlw_undefined (ht : tlwOfBytes bytes = none) :
    s.collWord m (.tlw ctx unit k bytes) = s.wireFault ctx.toNat unit k m := by
  unfold State.collWord
  simp only [hcoll, ht]

end Word

/-- Settles O25: a command hands its word to `State.collWord`, which holds it where its collective has not started, and otherwise takes the
chunk (`State.chunkIn_unescaped`) or the TLW (`State.tlwIn_slot`, `State.tlwIn_escaped`), or faults on an undefined one. -/
theorem arrivalsJoinTheSums : Obligations.ArrivalsJoinTheSums := by
  intro ctx unit k m bytes s
  refine ⟨fun hnone hpeer => ⟨fun last => ?chunkHeld, ?tlwHeld⟩,
    fun w hcoll => ⟨fun last h range listed hpeer hh hrange hlisted hlegal hsum => ?chunk,
      fun t ht => ⟨fun hslots => ?slot, fun i n chunk want sum left hslots hnext hchunk hres => ?escaped⟩,
      fun ht => ?undefined⟩⟩
  all_goals refine congrArg Host.Outcome.next ?_
  case chunkHeld => exact State.collWord_held (.inl rfl) hnone hpeer
  case tlwHeld => exact State.collWord_held (last := false) (.inr rfl) hnone hpeer
  case chunk =>
    subst hh
    exact (State.collWord_chunk_started hcoll hpeer).trans (State.chunkIn_unescaped hrange hlisted hlegal hsum)
  case slot => exact (State.collWord_tlw_started hcoll ht).trans (State.tlwIn_slot hslots)
  case escaped => exact (State.collWord_tlw_started hcoll ht).trans (State.tlwIn_escaped hslots hnext hchunk hres)
  case undefined => exact State.collWord_tlw_undefined hcoll ht

end Sys2Proof.Machine
end

section
/-! SUPPORT. What a record leaves of the ledger and of memory: it takes the next ESN, and its copies go to host memory (R28, R285, R334,
R336). -/

namespace Sys2Proof.Machine

/-- The state t is s but for what the copies of records touch: host memory with its translations, the counts of lost copies, the functions
and the messages out. -/
def State.CopiesOf (s t : State) : Prop :=
  ∃ hostMem atc copies funcs out, t = { s with
    mem := { s.mem with hostMem := hostMem, atc := atc }, led := { s.led with copies := copies }, funcs := funcs, out := out }

theorem State.CopiesOf.refl (s : State) : s.CopiesOf s := ⟨_, _, _, _, _, rfl⟩

theorem State.CopiesOf.trans {s t u : State} (h : s.CopiesOf t) (h' : t.CopiesOf u) : s.CopiesOf u := by
  obtain ⟨_, _, _, _, _, rfl⟩ := h
  obtain ⟨_, _, _, _, _, rfl⟩ := h'
  exact ⟨_, _, _, _, _, rfl⟩

theorem State.msix_copiesOf (s : State) (f v : Nat) : s.CopiesOf (s.msix f v) := by
  unfold State.msix
  extract_lets fe
  split
  · exact .refl s
  · split
    · exact ⟨_, _, _, _, _, rfl⟩
    · exact ⟨_, _, _, _, _, rfl⟩

theorem State.copyRec_copiesOf (s : State) (r : Rec) (stored : Bool) (f : Nat) : s.CopiesOf (s.copyRec r stored f) := by
  have hwritten (a : Nat) (bs : List (BitVec 8)) (g : Func → Func) : s.CopiesOf ((s.hostWrite f a bs).funcM f g) := ⟨_, _, _, _, _, rfl⟩
  have hlost (copies : List (Nat × Nat)) : s.CopiesOf { s with led := { s.led with copies := copies } } := ⟨_, _, _, _, _, rfl⟩
  unfold State.copyRec
  split
  · exact .refl s
  · dsimp only
    split
    · split
      · exact (hwritten _ _ _).trans (State.msix_copiesOf _ _ _)
      · split
        · exact State.msix_copiesOf s _ _
        · exact .refl s
    · split
      · exact (hlost _).trans (State.msix_copiesOf _ _ _)
      · exact hlost _

theorem State.copyRecs_copiesOf (r : Rec) (stored : Bool) (l : List Nat) (s : State) :
    s.CopiesOf (l.foldl (fun s f => s.copyRec r stored f) s) := by
  induction l generalizing s with
  | nil => exact .refl s
  | cons f l ih => exact (State.copyRec_copiesOf s r stored f).trans (ih _)

/-- All that a record does: the ledger changes and has the next ESN, the copies go out, and the stream counts what its session was sent. -/
theorem State.raiseRec_copiesOf (s : State) (r : Rec) :
    ∃ led u sessions out, led.esn = s.led.esn + 1 ∧ State.CopiesOf { s with led := led } u ∧
      s.raiseRec r = { u with mgmt := { u.mgmt with sessions := sessions }, out := out } := by
  unfold State.raiseRec
  extract_lets r cls stored _ led₁ led₂ s₁ s₂
  have hesn : led₂.esn = s.led.esn + 1 := by
    simp only [led₂]
    split
    · rfl
    · clear_value cls
      split <;> rfl
  have hcopies : s₁.CopiesOf s₂ := State.copyRecs_copiesOf r stored _ s₁
  refine ⟨led₂, s₂, ?_⟩
  split
  · split
    · exact ⟨_, _, hesn, hcopies, rfl⟩
    · exact ⟨_, _, hesn, hcopies, rfl⟩
  · exact ⟨_, _, hesn, hcopies, rfl⟩

@[simp] theorem State.heldRec_cls (s : State) (r : Rec) : (s.heldRec r).cls = r.cls := rfl
@[simp] theorem State.heldRec_unit (s : State) (r : Rec) : (s.heldRec r).unit = r.unit := rfl

@[simp] theorem State.raiseRec_led_esn (s : State) (r : Rec) : (s.raiseRec r).led.esn = s.led.esn + 1 := by
  obtain ⟨_, _, _, _, hesn, ⟨_, _, _, _, _, rfl⟩, h⟩ := s.raiseRec_copiesOf r
  rw [h]
  exact hesn

theorem State.raiseRec_mem (s : State) (r : Rec) :
    ∃ hostMem atc, (s.raiseRec r).mem = { s.mem with hostMem := hostMem, atc := atc } := by
  obtain ⟨_, _, _, _, -, ⟨_, _, _, _, _, rfl⟩, h⟩ := s.raiseRec_copiesOf r
  rw [h]
  exact ⟨_, _, rfl⟩

@[simp] theorem State.raiseRec_fuseF (s : State) (r : Rec) : (s.raiseRec r).mgmt.fuseF = s.mgmt.fuseF := by
  obtain ⟨_, _, _, _, -, ⟨_, _, _, _, _, rfl⟩, h⟩ := s.raiseRec_copiesOf r
  rw [h]

@[simp] theorem State.raiseRec_nvm (s : State) (r : Rec) : (s.raiseRec r).nvm = s.nvm := by
  obtain ⟨_, _, _, _, _, h⟩ := s.raiseRec_recordsOf r
  rw [h]

@[simp] theorem State.info_led_esn (s : State) (unit : BitVec 32) (code ctx d0 d1 : Nat) :
    (s.info unit code ctx d0 d1).led.esn = s.led.esn + 1 := State.raiseRec_led_esn s _
@[simp] theorem State.info_nvm (s : State) (unit : BitVec 32) (code ctx d0 d1 : Nat) : (s.info unit code ctx d0 d1).nvm = s.nvm :=
  State.raiseRec_nvm s _
@[simp] theorem State.info_fuseF (s : State) (unit : BitVec 32) (code ctx d0 d1 : Nat) :
    (s.info unit code ctx d0 d1).mgmt.fuseF = s.mgmt.fuseF := State.raiseRec_fuseF s _

end Sys2Proof.Machine
end

section
/-! SUPPORT. A line that is read, case by case (R253, R255, R256). -/

namespace Sys2Proof.Machine

/-- A record of a memory event leaves the lines as they are: their errors, their keys and their channels. -/
theorem State.memRec_mem (s : State) (code : Nat) (cls : BitVec 8) (a : Nat) (rq : Req) (pins : Option (BitVec 18)) :
    ∃ hostMem atc, (s.memRec code cls a rq pins).mem = { s.mem with hostMem := hostMem, atc := atc } := State.raiseRec_mem s _

@[simp] theorem State.memRec_flaws (s : State) (code : Nat) (cls : BitVec 8) (a : Nat) (rq : Req) (pins : Option (BitVec 18)) :
    (s.memRec code cls a rq pins).mem.flaws = s.mem.flaws := by
  obtain ⟨_, _, h⟩ := s.memRec_mem code cls a rq pins
  rw [h]

@[simp] theorem State.memRec_chanE (s : State) (code : Nat) (cls : BitVec 8) (a : Nat) (rq : Req) (pins : Option (BitVec 18)) (st ch : Nat) :
    (s.memRec code cls a rq pins).chanE st ch = s.chanE st ch := by
  obtain ⟨_, _, h⟩ := s.memRec_mem code cls a rq pins
  unfold State.chanE
  rw [h]

@[simp] theorem State.memRec_keyFits (s : State) (code : Nat) (cls : BitVec 8) (a : Nat) (rq : Req) (pins : Option (BitVec 18))
    (line dom : Nat) : (s.memRec code cls a rq pins).keyFits line dom = s.keyFits line dom := by
  obtain ⟨_, _, hmem⟩ := s.memRec_mem code cls a rq pins
  obtain ⟨_, _, _, _, _, hrec⟩ : s.RecordsOf (s.memRec code cls a rq pins) := State.raiseRec_recordsOf s _
  have hdoms : (s.memRec code cls a rq pins).doms = s.doms := by rw [hrec]
  unfold State.keyFits State.lineKey State.keyOf State.domE
  rw [hmem, hdoms]

theorem State.keyFits_not_any {s : State} {line dom : Nat} (h : s.keyFits line dom = false) :
    (s.lineKey line).any (· != s.keyOf dom) = true := by
  unfold State.keyFits at h
  cases hk : s.lineKey line with
  | none => simp [hk] at h
  | some k => simpa [hk, Option.any] using h

theorem Chan.served_corr (c : Chan) (k : Nat) : (c.served k).corr = c.corr := by
  unfold Chan.served
  split <;> rfl

@[simp] theorem State.chanE_chanM_same (s : State) (st ch : Nat) (g : Chan → Chan) : (s.chanM st ch g).chanE st ch = g (s.chanE st ch) :=
  tabGet_tabSet_same ..

/-- A line whose error was corrected, on its channel at l (R255). -/
def State.correctLine (s : State) (line : Nat) (l : LineAt) (pins : BitVec 18) : State :=
  ({ s with mem := { s.mem with flaws := tabDel s.mem.flaws line } } : State).chanM l.stack l.chan fun c =>
    { c.served 3 with corr := satAdd 0xFFFFFFFF (s.chanE l.stack l.chan).corr 1, lane := c.lane ||| pins }

theorem State.correctLine_flaws (s : State) (line : Nat) (l : LineAt) (pins : BitVec 18) :
    tabFind (s.correctLine line l pins).mem.flaws line = none := (tabFind_tabDel ..).trans (if_pos rfl)

theorem State.correctLine_corr (s : State) (line : Nat) (l : LineAt) (pins : BitVec 18) :
    ((s.correctLine line l pins).chanE l.stack l.chan).corr = satAdd 0xFFFFFFFF (s.chanE l.stack l.chan).corr 1 :=
  congrArg Chan.corr (State.chanE_chanM_same ..)

@[simp] theorem State.chanM_poison (s : State) (st ch : Nat) (g : Chan → Chan) : (s.chanM st ch g).mem.poison = s.mem.poison := rfl
@[simp] theorem State.chanM_flaws (s : State) (st ch : Nat) (g : Chan → Chan) : (s.chanM st ch g).mem.flaws = s.mem.flaws := rfl

/-- A line that counts as served is no more poison than before. -/
theorem State.not_poison_of_served {s t : State} {a st ch : Nat} {l : LineAt} {g : Chan → Chan} (ht : t = s.chanM st ch g)
    (hp : s.mem.poison.contains (a / 64) = false) (hlost : t.lineLost (64 * (a / 64)) l = false) :
    ¬ (t.mem.poison.contains (a / 64) || t.lineLost (64 * (a / 64)) l) = true := by
  rw [hlost, ht, State.chanM_poison, hp]
  decide

section Read
variable {s t : State} {a : Nat} {rq : Req} (hup : s.chanUp (s.lineAt a) = true)
  (ht : t = s.chanM (s.lineAt a).stack (s.lineAt a).chan (fun c => c.served rq.cls))
include hup ht

theorem State.readLine_poison (hp : s.mem.poison.contains (a / 64) = true) : s.readLine a rq = (t.memRec 0x42 1 a rq none, false) := by
  subst ht
  refine (if_neg (by simp [hup])).trans (if_pos ?_)
  rw [State.chanM_poison, hp, Bool.true_or]

variable (hp : s.mem.poison.contains (a / 64) = false) (hlost : t.lineLost (64 * (a / 64)) (s.lineAt a) = false)
include hp hlost

theorem State.readLine_uncorrectable (hf : tabFind s.mem.flaws (a / 64) = some .uncorrectable) : s.readLine a rq =
    (((t.poisonLine (a / 64)).chanM (s.lineAt a).stack (s.lineAt a).chan fun c => { c with uncorr := satAdd 0xFFFFFFFF c.uncorr 1 }).memRec
      0x40 1 a rq none, false) := by
  have hflaw : tabFind t.mem.flaws (a / 64) = some .uncorrectable := by rw [ht, State.chanM_flaws, hf]
  unfold State.readLine
  dsimp only
  rw [if_neg (by simp [hup]), ← ht, if_neg (State.not_poison_of_served ht hp hlost), hflaw]
  rfl

theorem State.readLine_foreign (hf : tabFind s.mem.flaws (a / 64) = some .tag ∨
    tabFind s.mem.flaws (a / 64) = none ∧ s.keyFits (a / 64) rq.dom = false) : s.readLine a rq =
    (((t.poisonLine (a / 64)).chanM (s.lineAt a).stack (s.lineAt a).chan fun c => { c with uncorr := satAdd 0xFFFFFFFF c.uncorr 1 }).memRec
      0x41 1 a rq none, false) := by
  have hflaws : t.mem.flaws = s.mem.flaws := by rw [ht, State.chanM_flaws]
  unfold State.readLine
  dsimp only
  rw [if_neg (by simp [hup]), ← ht, if_neg (State.not_poison_of_served ht hp hlost), hflaws]
  obtain hf | ⟨hf, hkey⟩ := hf
  · rw [hf]
    rfl
  · have hother : (t.lineKey (a / 64)).any (· != t.keyOf rq.dom) = true := by
      rw [ht]
      exact State.keyFits_not_any hkey
    rw [hf]
    dsimp only
    rw [hother]
    rfl

variable (hkey : s.keyFits (a / 64) rq.dom = true)
include hkey

theorem State.readLine_good (hf : tabFind s.mem.flaws (a / 64) = none) : s.readLine a rq = (t, true) := by
  have hflaw : tabFind t.mem.flaws (a / 64) = none := by rw [ht, State.chanM_flaws, hf]
  have hown : (t.lineKey (a / 64)).any (· != t.keyOf rq.dom) = false := by
    rw [ht]
    exact State.keyFits_any hkey
  unfold State.readLine
  dsimp only
  rw [if_neg (by simp [hup]), ← ht, if_neg (State.not_poison_of_served ht hp hlost), hflaw]
  dsimp only
  rw [hown]
  rfl

theorem State.readLine_correctable {pins : BitVec 18} (hf : tabFind s.mem.flaws (a / 64) = some (.correctable pins)) :
    ∃ u, s.readLine a rq = (u, true) ∧ (u = t.correctLine (a / 64) (s.lineAt a) pins ∨
      u = (t.correctLine (a / 64) (s.lineAt a) pins).memRec 0x48 0 a rq (some pins)) := by
  have hflaw : tabFind t.mem.flaws (a / 64) = some (.correctable pins) := by rw [ht, State.chanM_flaws, hf]
  have hcorrected : (t.correctLine (a / 64) (s.lineAt a) pins).keyFits (a / 64) rq.dom = true := by rw [ht]; exact hkey
  have hrecorded := State.memRec_keyFits (t.correctLine (a / 64) (s.lineAt a) pins) 0x48 0 a rq (some pins) (a / 64) rq.dom
  unfold State.readLine
  dsimp only
  rw [if_neg (by simp [hup]), ← ht, if_neg (State.not_poison_of_served ht hp hlost), hflaw]
  dsimp only
  split
  · refine ⟨_, if_neg ?_, .inr rfl⟩
    simp only [Bool.false_or, Bool.not_false, Bool.and_true, Bool.not_eq_true]
    exact State.keyFits_any (hrecorded.trans hcorrected)
  · refine ⟨_, if_neg ?_, .inl rfl⟩
    simp only [Bool.false_or, Bool.not_false, Bool.and_true, Bool.not_eq_true]
    exact State.keyFits_any hcorrected

end Read

end Sys2Proof.Machine
end

section
/-! PROOF. Stack memory is maintained: the cullet list and PERSIST, the patrol, refresh, a lost channel, and a read of a line (R242, R243,
R253, R255, R256, R258 to R260). -/

namespace Sys2Proof.Machine

section Cullet
variable {s : State} {w : Writer} {v : BitVec 64}

theorem exec_memCulladd_refused (h : s.pf0OrMgmt w = false ∨ s.stackCap ≤ bits v 24 0 * 65536) :
    exec (.memCulladd w v) s = .next (s.infoAccess w s.modUid 0x200 v) := by
  refine congrArg Host.Outcome.next (if_pos ?_)
  obtain h | h := h
  · simp [h]
  · simp [h]

section Admitted
variable (hw : s.pf0OrMgmt w = true) (hp : bits v 24 0 * 65536 < s.stackCap)
include hw hp

theorem memCulladd_admitted : ¬ (!(s.pf0OrMgmt w) || decide (s.stackCap ≤ bits v 24 0 * 65536)) = true := by
  simp [hw, hp]

theorem exec_memCulladd_listed (hl : s.mem.cullet.contains (bits v 24 0) = true) : exec (.memCulladd w v) s = .next s :=
  congrArg Host.Outcome.next ((if_neg (memCulladd_admitted hw hp)).trans (if_pos hl))

variable (hl : s.mem.cullet.contains (bits v 24 0) = false)
include hl

theorem exec_memCulladd_retires (hroom : s.mem.cullet.length < 4096) : exec (.memCulladd w v) s =
    .next { s with mem := { s.mem with cullet := s.mem.cullet ++ [bits v 24 0] } } :=
  congrArg Host.Outcome.next ((if_neg (memCulladd_admitted hw hp)).trans
    ((if_neg (by simp only [hl]; decide)).trans (if_neg (Nat.not_le.2 hroom))))

theorem exec_memCulladd_full (hfull : 4096 ≤ s.mem.cullet.length) : exec (.memCulladd w v) s =
    .next (({ s with mem := { s.mem with cullFull := true } } : State).infoAccess w s.modUid 0x200 v) :=
  congrArg Host.Outcome.next ((if_neg (memCulladd_admitted hw hp)).trans
    ((if_neg (by simp only [hl]; decide)).trans (if_pos hfull)))

end Admitted

theorem exec_persist_starts (hw : s.pf0OrMgmt w = true) (hb : s.mem.persistBusy = false) (he : s.pwr.emerg = false) :
    exec (.persist w) s = .next { s with mem := { s.mem with persistBusy := true } } :=
  congrArg Host.Outcome.next ((if_neg (by simp [hw])).trans ((if_neg (by simp [hb])).trans (if_neg (by simp [he]))))

section Persist
variable (hb : s.mem.persistBusy = true) (hd : s.pwr.deferred.contains .persist = false)
include hb hd

theorem persistDone_ends : ¬ (!s.mem.persistBusy || s.pwr.deferred.contains .persist) = true := by
  rw [hb, hd]
  decide

theorem exec_persistDone_written {t : State} (ht : t = s.writeImage (fun c => { c with cull := s.mem.cullet })) :
    exec (.persistDone true) s = .next { t with
      mem := { t.mem with persistBusy := false, persistErr := false, persisted := s.mem.cullet.length } } := by
  have hcullet : t.mem.cullet = s.mem.cullet := by
    obtain ⟨_, _, h⟩ : ∃ hostMem atc, t.mem = { s.mem with hostMem := hostMem, atc := atc } := ht ▸ State.raiseRec_mem _ _
    rw [h]
  rw [← hcullet]
  subst ht
  exact congrArg Host.Outcome.next ((if_neg (persistDone_ends hb hd)).trans (if_pos rfl))

/-- The state after a write of the list to NVM that failed, and its record, whose code the spec leaves open (R260). -/
def State.persistFailed (s : State) : State :=
  { s with free := s.free + 1, mem := { s.mem with persistBusy := false, persistErr := true } }
def State.persistRec (s : State) : Rec := { unit := s.modUid, cls := 1, code := (Config.freeWord s.free).setWidth 8 }

theorem exec_persistDone_failed : exec (.persistDone false) s = .next (s.persistFailed.raiseRec s.persistRec) := by
  change execPersistDone false s = _
  unfold execPersistDone
  rw [if_neg (persistDone_ends hb hd), if_neg Bool.false_ne_true]
  rfl

theorem completes_persistDone_failed : Completes (.persistDone false) s fun t => t.nvm = s.nvm ∧ t.mem.cells = s.mem.cells ∧
    t.mem.cullet = s.mem.cullet ∧ t.mem.persisted = s.mem.persisted ∧ t.mem.persistBusy = false ∧ t.mem.persistErr = true ∧
    t.led.tail.getLast?.any (fun r => r.cls == 1 && r.unit == s.modUid) = true := by
  refine ⟨_, exec_persistDone_failed hb hd, ?_⟩
  have hnvm := s.persistFailed.raiseRec_nvm s.persistRec
  have htail := s.persistFailed.raiseRec_led_tail s.persistRec
  obtain ⟨_, _, hmem⟩ := s.persistFailed.raiseRec_mem s.persistRec
  generalize s.persistFailed.raiseRec s.persistRec = t at hnvm htail hmem ⊢
  dsimp only
  rw [hnvm, hmem, htail]
  have hcls : s.persistRec.cls = 1 := rfl
  have hunit : s.persistRec.unit = s.modUid := rfl
  refine ⟨rfl, rfl, rfl, rfl, rfl, rfl, ?_⟩
  rw [Option.any_some, State.heldRec_cls, State.heldRec_unit, hcls, hunit, beq_self_eq_true, beq_self_eq_true, Bool.and_self]

end Persist

end Cullet

section Lines
variable {s : State} {line addr : Nat} {st : Fin 20} {ch : Fin 128} {bank : Fin 16}

theorem exec_patrolScrub (fl : Option Flaw) (hj : s.joinedLine (64 * line) = true) (hup : s.chanUp (s.lineAt (64 * line)) = true) :
    exec (.patrolScrub line fl) s = .next ((match fl with
      | some f => ({ s with mem := { s.mem with flaws := tabSet s.mem.flaws line f } } : State)
      | none => s).readLine (64 * line) { cls := 3, unit := s.dieUid ((s.lineAt (64 * line)).stack / 5) } true).1 := by
  refine congrArg Host.Outcome.next ((if_neg (by simp [hj, hup])).trans ?_)
  cases fl with
  | none => rfl
  | some f => rfl

theorem exec_refresh (hs : bit s.part.stackMap st.val = true) (hup : s.chanUp { stack := st.val, chan := ch.val } = true) :
    exec (.refresh st ch bank) s = .next (s.chanM st.val ch.val fun c =>
      { c with refreshed := tabSet c.refreshed bank.val (tabGet c.refreshed bank.val 0 + 1) }) :=
  congrArg Host.Outcome.next (if_neg (by simp [hs, hup]))

theorem exec_channelLost (hj : s.joinedLine addr = true) (hst : (s.lineAt addr).stack = st.val) (hch : (s.lineAt addr).chan = ch.val)
    (hup : s.chanUp (s.lineAt addr) = true) (ctx : CtxId) (cls : Fin 4) (unit : BitVec 32) :
    exec (.channelLost st ch ⟨addr, ctx, cls, unit⟩) s = .next ((s.chanM st.val ch.val fun c => { c with state := 3 }).memRec 0x44 1 addr
      { ctx := ctx.toNat, cls := cls.val, unit := unit } none) :=
  congrArg Host.Outcome.next (if_neg (by simp [hj, hst, hch, hup]))

end Lines

/-- Settles O41: each command runs the branch that its hypotheses leave, where a record leaves of memory all that matters
(`State.raiseRec_mem`); a line reads by the case of its error and its key (`State.readLine_good` and its neighbours). -/
theorem memoryIsMaintained : Obligations.MemoryIsMaintained := by
  refine ⟨?commands, fun s line addr st ch bank => ⟨exec_patrolScrub, exec_refresh, exec_channelLost⟩, fun s t a rq hup ht hlost =>
    ⟨fun hp => ⟨fun hf hkey => State.readLine_good hup ht hp hlost hkey hf, State.readLine_uncorrectable hup ht hp hlost,
      State.readLine_foreign hup ht hp hlost, fun pins hf hkey => ?corrected⟩, State.readLine_poison hup ht⟩⟩
  case commands =>
    rintro w v s p rfl
    exact ⟨fun hw hp => ⟨exec_memCulladd_listed hw hp, exec_memCulladd_retires hw hp, exec_memCulladd_full hw hp⟩, exec_memCulladd_refused,
      exec_persist_starts, fun hb hd => ⟨⟨_, rfl, exec_persistDone_written hb hd rfl⟩, completes_persistDone_failed hb hd⟩⟩
  case corrected =>
    obtain ⟨u, hread, hu⟩ := State.readLine_correctable hup ht hp hlost hkey hf
    have hcorr : (t.chanE (s.lineAt a).stack (s.lineAt a).chan).corr = (s.chanE (s.lineAt a).stack (s.lineAt a).chan).corr := by
      rw [ht, State.chanE_chanM_same, Chan.served_corr]
    rw [hread, ← hcorr]
    obtain rfl | rfl := hu
    · exact ⟨rfl, State.correctLine_flaws .., State.correctLine_corr ..⟩
    · rw [State.memRec_flaws, State.memRec_chanE]
      exact ⟨rfl, State.correctLine_flaws .., State.correctLine_corr ..⟩

end Sys2Proof.Machine
end

section
/-! SUPPORT. The governor's evaluation, die by die: where a point can move to, and that the evaluation moves every die so (R319 to R321,
R324, R327). -/

namespace Sys2Proof.Machine

/-- All that one evaluation can do to a die's point: the floor at once, or one code down, one up with the PMC up, or none. -/
theorem Pwr.nextPoint_cases (p : Pwr) (die : Nat) (up early : Bool) :
    p.nextPoint die up early = 0 ∨ p.nextPoint die up early = p.point.getD die 0 - 1 ∨
      up = true ∧ p.nextPoint die up early = p.point.getD die 0 + 1 ∨ p.nextPoint die up early = p.point.getD die 0 := by
  unfold Pwr.nextPoint
  extract_lets now g goal
  split
  · exact .inl rfl
  · split
    · exact .inr (.inl rfl)
    · split
      · next hrise => exact .inr (.inr (.inl ⟨(by simpa using hrise : now < goal ∧ up = true).2, rfl⟩))
      · exact .inr (.inr (.inr rfl))

/-- The point falls one code at most, or to the floor, and rises one at most. -/
theorem Pwr.nextPoint_near (p : Pwr) (die : Nat) (up early : Bool) :
    (p.nextPoint die up early = 0 ∨ p.point.getD die 0 ≤ p.nextPoint die up early + 1) ∧
      p.nextPoint die up early ≤ p.point.getD die 0 + 1 := by
  obtain h | h | ⟨-, h⟩ | h := p.nextPoint_cases die up early <;> omega

theorem Pwr.nextPoint_pmcDown (p : Pwr) (die : Nat) (early : Bool) : p.nextPoint die false early ≤ p.point.getD die 0 := by
  obtain h | h | ⟨hup, -⟩ | h := p.nextPoint_cases die false early
  · omega
  · omega
  · cases hup
  · omega

theorem Pwr.nextPoint_trip {p : Pwr} (h : p.trip = true) (die : Nat) (up early : Bool) : p.nextPoint die up early = 0 :=
  if_pos (by simp [h])

/-- The governor state p is q in the points and the trip. -/
def Pwr.SamePoints (p q : Pwr) : Prop := q.point = p.point ∧ q.trip = p.trip

theorem Pwr.SamePoints.trans {p q r : Pwr} (h : p.SamePoints q) (h' : q.SamePoints r) : p.SamePoints r :=
  ⟨h'.1.trans h.1, h'.2.trans h.2⟩

theorem Pwr.SamePoints.putFold (on : Pwr → Nat → Bool) (reason : Nat) (l : List Nat) (p : Pwr) :
    p.SamePoints (l.foldl (fun p d => p.put d reason (on p d)) p) := by
  induction l generalizing p with
  | nil => exact ⟨rfl, rfl⟩
  | cons d l ih => exact Pwr.SamePoints.trans ⟨rfl, rfl⟩ (ih (p.put d reason (on p d)))

/-- Where an evaluation moves the dies, the points and the trip are still those that it found: counting times and judging the limits
touch neither. -/
theorem Pwr.evaluate_point (p : Pwr) (us : Nat) (up : Bool) (early : Nat → Bool) :
    ∃ q, p.SamePoints q ∧ (p.evaluate us up early).point = [0, 1, 2, 3].map fun d => q.nextPoint d up (early d) := by
  unfold Pwr.evaluate
  extract_lets ms anyDie counted limit limited judged moved held
  have hlimited : p.SamePoints limited := ⟨rfl, rfl⟩
  refine ⟨judged, ?_, rfl⟩
  clear_value limited
  unfold judged
  split
  · exact hlimited.trans (.putFold (fun q d => !(early d) && q.mgmtMax < q.wish d (early d)) 5 _ _)
  · exact hlimited

theorem Pwr.evaluate_point_getD (p : Pwr) (us : Nat) (up : Bool) (early : Nat → Bool) {d : Nat} (hd : d < 4) :
    ∃ q, p.SamePoints q ∧ (p.evaluate us up early).point.getD d 0 = q.nextPoint d up (early d) := by
  obtain ⟨q, hq, hpoint⟩ := p.evaluate_point us up early
  refine ⟨q, hq, ?_⟩
  rw [hpoint]
  match d, hd with
  | 0, _ | 1, _ | 2, _ | 3, _ => rfl

theorem mem_foldl_setIns (l o : List Nat) (k : Nat) : k ∈ l.foldl setIns o ↔ k ∈ o ∨ k ∈ l := by
  induction l generalizing o with
  | nil => simp
  | cons j l ih =>
    rw [List.foldl_cons, ih, mem_setIns, List.mem_cons]
    tauto

end Sys2Proof.Machine
end

section
/-! PROOF. The governor moves the dies' points one code; domains sleep and wake, and channel groups power down (R242, R318 to R323,
R327). -/

namespace Sys2Proof.Machine

section Domains
variable {s : State}

theorem State.domainsOff_pmcDown (h : s.pmcUp = false) : s.domainsOff = s := if_neg (by simp [h])

theorem State.domainsOff_pmcUp (h : s.pmcUp = true) :
    s.domainsOff = { s with pwr := { s.pwr with off := s.sleepable.foldl setIns s.pwr.off } } := if_pos h

theorem State.domainsOff_off (s : State) : s.domainsOff = { s with pwr := { s.pwr with off := s.domainsOff.pwr.off } } := by
  cases h : s.pmcUp with
  | true => rw [State.domainsOff_pmcUp h]
  | false => rw [State.domainsOff_pmcDown h]

theorem State.mem_domainsOff (h : s.pmcUp = true) (k : Nat) : k ∈ s.domainsOff.pwr.off ↔ k ∈ s.pwr.off ∨ k ∈ s.sleepable := by
  rw [State.domainsOff_pmcUp h]
  exact mem_foldl_setIns ..

theorem exec_governorEval {us : Nat} (h : s.pwr.mainOn = true) :
    exec (.governorEval us) s = .next ({ s with pwr := s.pwr.evaluate us s.pmcUp s.dieEarly } : State).domainsOff :=
  congrArg Host.Outcome.next (if_neg (by simp [h]))

theorem exec_domainWake {d : Fin 528} (hup : s.pmcUp = true) (hoff : s.pwr.off.contains d.val = true) :
    exec (.domainWake d) s = .next { s with
      pwr := { s.pwr with off := setDel s.pwr.off d.val }
      mem := if 384 ≤ d.val ∧ d.val < 464 then { s.mem with groupOff := setDel s.mem.groupOff (d.val - 384) } else s.mem } := by
  refine congrArg Host.Outcome.next ((if_neg (by simp [hup]; simpa using hoff)).trans ?_)
  by_cases hgroup : 384 ≤ d.val ∧ d.val < 464
  · rw [if_pos hgroup]
    exact if_pos (by simpa using hgroup)
  · rw [if_neg hgroup]
    exact if_neg (by simpa using hgroup)

theorem exec_channelGroupPowerDown {id : Fin 8} {g : Fin 80} (hrole : s.hasRole (mgmtOf id) 1 = true)
    (hmap : s.groupMapped (g.val / 4) = false) (hstack : bit s.part.stackMap (g.val / 4) = true)
    (hon : s.mem.groupOff.contains g.val = false) : exec (.channelGroupPowerDown id g) s = .next { s.loseGroup g.val with
      mem := { (s.loseGroup g.val).mem with groupOff := setIns (s.loseGroup g.val).mem.groupOff g.val }
      pwr := { (s.loseGroup g.val).pwr with off := setIns (s.loseGroup g.val).pwr.off (384 + g.val) } } := by
  have hagent : s.hasRole (.mgmt ⟨id.val, by omega⟩) 1 = true := hrole
  exact congrArg Host.Outcome.next (if_neg (by simp only [hagent, hmap, hstack, hon]; decide))

end Domains

/-- Settles O42: an evaluation moves each die as `Pwr.nextPoint_near` says, up only with the PMC up, and to the floor under a trip; the other
commands run the branch that their hypotheses leave. -/
theorem governorMovesOneCode : Obligations.GovernorMovesOneCode := by
  refine ⟨fun s us hmain => ⟨exec_governorEval hmain,
    fun t => ⟨t.domainsOff_off, State.domainsOff_pmcDown, State.mem_domainsOff⟩, fun d hd => ?points⟩,
    fun s => ⟨fun d => exec_domainWake, fun id g => exec_channelGroupPowerDown⟩⟩
  case points =>
    obtain ⟨q, ⟨hpoint, htrip⟩, hnext⟩ := s.pwr.evaluate_point_getD us s.pmcUp s.dieEarly hd
    obtain ⟨hfall, hrise⟩ := q.nextPoint_near d s.pmcUp (s.dieEarly d)
    rw [hnext, ← hpoint]
    refine ⟨hfall, hrise, fun hdown => ?_, fun h => Pwr.nextPoint_trip (htrip.trans h) d _ _⟩
    rw [hdown]
    exact q.nextPoint_pmcDown d _

end Sys2Proof.Machine
end

section
/-! PROOF. Host accesses reach the range of their decoder's function under its key domain (R256, R257, R277, R283, R284, R357, R413). -/

namespace Sys2Proof.Machine

section Map
variable {s : State} {f addr w : Nat}

theorem State.hdmMap_window (hw : (s.funcE f).hdmWin = some w) (hle : w ≤ addr) :
    s.hdmMap f addr = some ((s.funcE f).base + (addr - w)) := by
  unfold State.hdmMap
  simp only [hw, hle, if_true]

theorem State.hdmMap_below (hw : (s.funcE f).hdmWin = some w) (hlt : addr < w) : s.hdmMap f addr = none := by
  unfold State.hdmMap
  simp only [hw, Nat.not_le.2 hlt, if_false]

theorem State.hdmMap_noWindow (hw : (s.funcE f).hdmWin = none) : s.hdmMap f addr = none := by
  unfold State.hdmMap
  simp only [hw]

/-- An access outside the decoder's window or the function's range: the decoder does not map it, or what it maps it to lies outside
(R277, R283). -/
def State.hdmOutside (s : State) (f addr n : Nat) : Prop := ∀ a, s.hdmMap f addr = some a → s.hdmBar f a n = some true

theorem State.hdmOutside_of {n : Nat} (h : (s.funcE f).hdmWin = none ∨
    ∃ w, (s.funcE f).hdmWin = some w ∧ (addr < w ∨ s.hdmBar f ((s.funcE f).base + (addr - w)) n = some true)) :
    s.hdmOutside f addr n := by
  intro a ha
  obtain hnone | ⟨w, hw, hout⟩ := h
  · rw [State.hdmMap_noWindow hnone] at ha
    cases ha
  · obtain hlt | hle := Nat.lt_or_ge addr w
    · rw [State.hdmMap_below hw hlt] at ha
      cases ha
    · rw [State.hdmMap_window hw hle] at ha
      cases ha
      exact hout.resolve_left (Nat.not_lt.2 hle)

/-- Every line of an access lies in an open range on a page that is not retired (R259, R413). -/
def State.linesOpen (s : State) (a n : Nat) : Prop := ∀ l ∈ linesOf a n, s.rangeOpen (64 * l) = true ∧ s.retired (64 * l) = false

theorem State.linesOpen.not_barred {a n : Nat} (h : s.linesOpen a n) :
    ¬ ((linesOf a n).any fun l => !(s.rangeOpen (64 * l)) || s.retired (64 * l)) = true := by
  rw [Bool.not_eq_true, List.any_eq_false]
  intro l hl
  obtain ⟨hopen, hret⟩ := h l hl
  simp [hopen, hret]

end Map

/-- What the host gets of a read of stack memory: the data, whose lines enter the snoop filter, or the poison indication (R257, R284). -/
def State.hdmAnswer (s : State) (lines : List Nat) : Except Nat (List (BitVec 8)) → State
  | .ok bs => (s.snoopAdd lines).emit (.hdmData (some bs))
  | .error _ => s.emit (.hdmData none)

section Commands
variable {dec : FuncN} {addr a n : Nat} {bs : List (BitVec 8)} {flaws : List (Nat × Flaw)} {s s1 s2 : State} (hlink : s.sch.hostLink = true)
include hlink

section Reads
variable (hmap : s.hdmMap dec.val addr = some a) (hbar : s.hdmBar dec.val a n = none) (hlines : s.linesOpen a n)
  (hs1 : s1 = { s with mem := { s.mem with flaws := flaws.foldl (fun l p => tabSet l p.1 p.2) s.mem.flaws } })
include hmap hbar hlines hs1

theorem exec_hdmRead_within {r : Except Nat (List (BitVec 8))} (hread : s1.stackRead a n (s1.hdmReq dec.val) = (s2, r)) :
    exec (.hdmRead dec addr n flaws) s = .next (s2.hdmAnswer (linesOf a n) r) := by
  have hlink1 : s1.sch.hostLink = true := by rw [hs1]; exact hlink
  have hmap1 : s1.hdmMap dec.val addr = some a := by rw [hs1]; exact hmap
  have hbar1 : s1.hdmBar dec.val a n = none := by rw [hs1]; exact hbar
  have hlines1 : s1.linesOpen a n := by rw [hs1]; exact hlines
  change execHdmRead dec addr n flaws s = _
  unfold execHdmRead
  rw [← hs1]
  dsimp only
  rw [if_neg (by simp [hlink1]), hmap1]
  dsimp only
  rw [hbar1]
  dsimp only
  rw [if_neg hlines1.not_barred, hread]
  cases r with
  | ok bs => rfl
  | error l => rfl

end Reads

section Outside
variable (hout : s.hdmOutside dec.val addr n)
include hout

theorem exec_hdmRead_outside :
    exec (.hdmRead dec addr n []) s = .next ((s.infoAccess (.func dec) 0 addr 0).emit (.hdmData none)) := by
  refine congrArg Host.Outcome.next ((if_neg (by simp [hlink])).trans ?_)
  change (match s.hdmMap dec.val addr with | none => _ | some a => _) = _
  cases hmap : s.hdmMap dec.val addr with
  | none => rfl
  | some a =>
    change (match s.hdmBar dec.val a n with | some true => _ | some false => _ | none => _) = _
    rw [hout a hmap]
    rfl

theorem exec_hdmWrite_outside (hn : n = bs.length) : exec (.hdmWrite dec addr bs) s =
    .next (s.infoAccess (.func dec) 0 addr (BitVec.ofNat 64 (bytesNat (bs.take 8)))) := by
  subst hn
  refine congrArg Host.Outcome.next ((if_neg (by simp [hlink])).trans ?_)
  cases hmap : s.hdmMap dec.val addr with
  | none => rfl
  | some a =>
    dsimp only
    rw [hout a hmap]

end Outside

section Writes
variable (hmap : s.hdmMap dec.val addr = some a) (hn : n = bs.length)
include hmap hn

theorem exec_hdmWrite_filling {d : Nat} (hbar : s.hdmBar dec.val a n = some false) (hd : (s.funcE dec.val).dom = some d)
    (hfill : (s.domE d).state = 2) : exec (.hdmWrite dec addr bs) s =
      .next { s with kdStat := { s.kdStat with discards := satAdd 0x3FFFFF s.kdStat.discards 1 } } := by
  subst hn
  refine congrArg Host.Outcome.next ((if_neg (by simp [hlink])).trans ?_)
  rw [hmap]
  dsimp only
  rw [hbar]
  exact if_pos (by simp [hd, hfill])

variable (hbar : s.hdmBar dec.val a n = none) (hlines : s.linesOpen a n)
include hbar hlines

theorem exec_hdmWrite_unprotected (hfree : ∀ l ∈ linesOf a n, s.protector (l / 1024) = none)
    (hs1 : s1 = { s with mem := { s.mem with snoop := s.mem.snoop.filter fun l => !((linesOf a n).contains l) } }) :
    exec (.hdmWrite dec addr bs) s = .next (s1.stackWrite a bs (s1.hdmReq dec.val) false).1 := by
  subst hn hs1
  refine congrArg Host.Outcome.next ((if_neg (by simp [hlink])).trans ?_)
  rw [hmap]
  dsimp only
  rw [hbar]
  refine (if_neg hlines.not_barred).trans (if_neg ?_)
  rw [Bool.not_eq_true, List.any_eq_false]
  intro l hl
  simp [hfree l hl]

theorem exec_hdmWrite_protected (hheld : ∃ l ∈ linesOf a n, s.protector (l / 1024) ≠ none) :
    exec (.hdmWrite dec addr bs) s = .next { s with
      mem := { s.mem with hostHeld := s.mem.hostHeld ++ [(a, (s.funcE dec.val).dom.getD 0, bs)] } } := by
  subst hn
  refine congrArg Host.Outcome.next ((if_neg (by simp [hlink])).trans ?_)
  rw [hmap]
  dsimp only
  rw [hbar]
  refine (if_neg hlines.not_barred).trans (if_pos (List.any_eq_true.2 ?_))
  obtain ⟨l, hl, hprot⟩ := hheld
  exact ⟨l, hl, Option.isSome_iff_ne_none.2 hprot⟩

end Writes

end Commands

/-- Settles O39: where the decoder maps the address (`State.hdmMap_window`) the access runs the branch that its range, its lines and their
pages leave; outside (`State.hdmOutside`) it is recorded alone. -/
theorem hostAccessesReachTheirRange : Obligations.HostAccessesReachTheirRange := by
  intro dec addr a n bs flaws s s1 s2 hlink
  refine ⟨fun w hw hle ha => ?mapped, fun hn hout => ?outside⟩
  case outside =>
    have hout := State.hdmOutside_of hout
    exact ⟨exec_hdmRead_outside hlink hout, exec_hdmWrite_outside hlink hout hn⟩
  case mapped =>
    have hmap : s.hdmMap dec.val addr = some a := ha ▸ State.hdmMap_window hw hle
    refine ⟨fun hbar hlines hs1 =>
        ⟨exec_hdmRead_within hlink hmap hbar hlines hs1, fun l => exec_hdmRead_within hlink hmap hbar hlines hs1⟩,
      fun hn hbar hlines => ⟨fun hfree hs1 => ?free, fun hheld => ?held⟩,
      fun d hn hbar hd hfill => exec_hdmWrite_filling hlink hmap hn hbar hd hfill⟩
    case free => exact exec_hdmWrite_unprotected hlink hmap hn hbar hlines hfree hs1
    case held => exact exec_hdmWrite_protected hlink hmap hn hbar hlines hheld

end Sys2Proof.Machine
end

section
/-! SUPPORT. The configuration image: which copy a write goes into, and that it is then the newest (R405, R406). -/

namespace Sys2Proof.Machine

/-- What a write of the configuration image puts into a copy. -/
def Nvm.written (n : Nvm) (g : CfgImage → CfgImage) : CfgImage := { g n.newest with gen := n.newest.gen + 1, valid := true }

theorem Nvm.gen_le_newest (n : Nvm) :
    (n.copy0.valid = true → n.copy0.gen ≤ n.newest.gen) ∧ (n.copy1.valid = true → n.copy1.gen ≤ n.newest.gen) := by
  unfold Nvm.newest
  cases h0 : n.copy0.valid <;> cases h1 : n.copy1.valid <;> dsimp only
  case true.true => split <;> omega
  all_goals simp

theorem Nvm.newest_copy0_written (n : Nvm) (g : CfgImage → CfgImage) :
    Nvm.newest { n with copy0 := n.written g } = n.written g := by
  have hgen : n.copy1.valid = true → n.copy1.gen < (n.written g).gen := fun h => Nat.lt_succ_of_le (n.gen_le_newest.2 h)
  have hvalid : (n.written g).valid = true := rfl
  unfold Nvm.newest
  cases h1 : n.copy1.valid with
  | true => simp only [hvalid, hgen h1, if_true]
  | false => simp only [hvalid]

theorem Nvm.newest_copy1_written (n : Nvm) (g : CfgImage → CfgImage) :
    Nvm.newest { n with copy1 := n.written g } = n.written g := by
  have hgen : n.copy0.valid = true → ¬ (n.written g).gen < n.copy0.gen :=
    fun h => Nat.not_lt.2 (Nat.le_succ_of_le (n.gen_le_newest.1 h))
  have hvalid : (n.written g).valid = true := rfl
  unfold Nvm.newest
  cases h0 : n.copy0.valid with
  | true => simp only [hvalid, hgen h0, if_false]
  | false => simp only [hvalid]

theorem State.writeImage_nvm (s : State) (g : CfgImage → CfgImage) :
    (s.writeImage g).nvm = { s.nvm with copy0 := s.nvm.written g } ∨ (s.writeImage g).nvm = { s.nvm with copy1 := s.nvm.written g } := by
  unfold State.writeImage
  extract_lets n cur _ new to1 n'
  rw [State.info_nvm]
  change n' = _ ∨ n' = _
  cases h : to1 with
  | true => exact .inr (if_pos h)
  | false => exact .inl (if_neg (by simp [h]))

theorem State.writeImage_newest (s : State) (g : CfgImage → CfgImage) : (s.writeImage g).nvm.newest = s.nvm.written g := by
  obtain h | h := s.writeImage_nvm g
  · rw [h, Nvm.newest_copy0_written]
  · rw [h, Nvm.newest_copy1_written]

theorem State.writeImage_keeps_copy (s : State) (g : CfgImage → CfgImage) :
    (s.writeImage g).nvm.copy0 = s.nvm.copy0 ∨ (s.writeImage g).nvm.copy1 = s.nvm.copy1 := by
  obtain h | h := s.writeImage_nvm g
  · exact .inr (by rw [h])
  · exact .inl (by rw [h])

end Sys2Proof.Machine
end

section
/-! PROOF. Configuration and firmware images are loaded, activated and committed, and what an emergency puts off (R260, R324, R377, R378,
R380, R387, R406). -/

namespace Sys2Proof.Machine

theorem State.imgOf_imgM_same (s : State) (bank : Bool) (comp : Nat) (g : Img → Img) :
    (s.imgM bank comp g).imgOf bank comp = g (s.imgOf bank comp) := by
  cases bank with
  | true => exact tabGet_tabSet_same ..
  | false => exact tabGet_tabSet_same ..

theorem State.imgOf_of_nvm {s t : State} (h : t.nvm = s.nvm) (bank : Bool) (comp : Nat) : t.imgOf bank comp = s.imgOf bank comp := by
  unfold State.imgOf
  rw [h]

@[simp] theorem State.fmpAns_nvm (s : State) (id : Fin 8) (status : Nat) : (s.fmpAns id status).nvm = s.nvm := rfl
@[simp] theorem State.fmpAns_led (s : State) (id : Fin 8) (status : Nat) : (s.fmpAns id status).led = s.led := rfl
@[simp] theorem State.imgM_led (s : State) (bank : Bool) (comp : Nat) (g : Img → Img) : (s.imgM bank comp g).led = s.led := rfl

@[simp] theorem State.fmpAns_fuseF (s : State) (id : Fin 8) (status : Nat) : (s.fmpAns id status).mgmt.fuseF = s.mgmt.fuseF := rfl

section Checks
variable {s : State} {comp slotComp : Fin 4} {svn : BitVec 8} {e m : Bool}

theorem State.imageFault_none (hcomp : comp = slotComp) (hsvn : s.mgmt.fuseF.toNat ≤ svn.toNat) :
    s.imageFault comp.val slotComp.val svn true true = none := by
  simp [State.imageFault, hcomp, Nat.not_lt.2 hsvn]

theorem State.imageFault_some (h : e = false ∨ m = false ∨ comp ≠ slotComp ∨ svn.toNat < s.mgmt.fuseF.toNat) :
    ∃ k, s.imageFault comp.val slotComp.val svn e m = some k := by
  cases e with
  | false => exact ⟨0, rfl⟩
  | true =>
    cases m with
    | false => exact ⟨1, rfl⟩
    | true =>
      by_cases hcomp : comp = slotComp
      · have hsvn : svn.toNat < s.mgmt.fuseF.toNat := by simpa [hcomp] using h
        exact ⟨3, by simp [State.imageFault, hcomp, hsvn]⟩
      · exact ⟨2, by simp [State.imageFault, Fin.val_ne_of_ne hcomp]⟩

end Checks

section Config
variable {s : State} {id : Fin 8} {img : CfgImage} (h : s.sessionHas id 2 = true)
include h

theorem exec_configWrite_unfit (hfit : cfgFits img = false) : exec (.configWrite id img) s = .next (s.fmpAns id 2) :=
  congrArg Host.Outcome.next ((State.fmpOp_of_sessionHas h).trans (if_pos (by simp [hfit])))

theorem exec_configWrite_written (hfit : cfgFits img = true) (hemerg : s.pwr.emerg = false) :
    exec (.configWrite id img) s = .next ((s.putImage img).fmpAns id 0) :=
  congrArg Host.Outcome.next ((State.fmpOp_of_sessionHas h).trans ((if_neg (by simp [hfit])).trans (if_neg (by simp [hemerg]))))

theorem exec_configWrite_deferred (hfit : cfgFits img = true) (hemerg : s.pwr.emerg = true) : exec (.configWrite id img) s =
    .next (({ s with pwr := { s.pwr with deferred := s.pwr.deferred ++ [Defer.configWrite img] } } : State).fmpAns id 4) :=
  congrArg Host.Outcome.next ((State.fmpOp_of_sessionHas h).trans ((if_neg (by simp [hfit])).trans (if_pos hemerg)))

end Config

/-- The state in which SEC judges an image whose last part has come. -/
def State.loaded (s : State) : State := { s with mgmt := { s.mgmt with loading := none } }

section Firmware
variable {s : State} {id : Fin 8} {comp slotComp : Fin 4} {version : BitVec 16} {svn : BitVec 8} {digest : BitVec 384} {e m : Bool}
  (h : s.sessionHas id 3 = true)
include h

theorem exec_fwLoad_busy {part : Option (Fin 4)} (hl : s.mgmt.loading.any (· != id.val) = true) :
    exec (.fwLoad id part slotComp version svn digest e m) s = .next (s.fmpAns id 3) :=
  congrArg Host.Outcome.next ((State.fmpOp_of_sessionHas h).trans (if_pos hl))

theorem exec_fwLoad_part (hl : s.mgmt.loading.any (· != id.val) = false) :
    exec (.fwLoad id none slotComp version svn digest e m) s =
      .next (({ s with mgmt := { s.mgmt with loading := some id.val } } : State).fmpAns id 0) :=
  congrArg Host.Outcome.next ((State.fmpOp_of_sessionHas h).trans (if_neg (by simp only [hl]; decide)))

theorem exec_fwLoad_staged (hl : s.mgmt.loading.any (· != id.val) = false)
    (hok : s.loaded.imageFault comp.val slotComp.val svn e m = none) :
    exec (.fwLoad id (some comp) slotComp version svn digest e m) s =
      .next (((s.loaded.imgM (!(s.bankOf comp.val)) comp.val fun _ =>
        { valid := true, version := version, svn := svn, digest := digest, staged := true }).info s.modUid 0xA8 0 comp.val
          version.toNat).fmpAns id 0) := by
  refine congrArg Host.Outcome.next ((State.fmpOp_of_sessionHas h).trans ((if_neg (by simp only [hl]; decide)).trans ?_))
  change (match s.loaded.imageFault comp.val slotComp.val svn e m with | some k => _ | none => _) = _
  rw [hok]
  rfl

theorem exec_fwLoad_refused {k : Nat} (hl : s.mgmt.loading.any (· != id.val) = false)
    (hbad : s.loaded.imageFault comp.val slotComp.val svn e m = some k) :
    exec (.fwLoad id (some comp) slotComp version svn digest e m) s =
      .next ((s.loaded.raiseRec { unit := s.modUid, cls := 1, code := 0xAB, d0 := BitVec.ofNat 64 k }).fmpAns id 5) := by
  refine congrArg Host.Outcome.next ((State.fmpOp_of_sessionHas h).trans ((if_neg (by simp only [hl]; decide)).trans ?_))
  change (match s.loaded.imageFault comp.val slotComp.val svn e m with | some k => _ | none => _) = _
  rw [hbad]
  rfl

theorem exec_fwActivate_unstaged (hst : (s.imgOf (!(s.bankOf comp.val)) comp.val).staged = false) :
    exec (.fwActivate id comp) s = .next (s.fmpAns id 5) :=
  congrArg Host.Outcome.next ((State.fmpOp_of_sessionHas h).trans (if_pos (by simp [hst])))

theorem exec_fwActivate_deferred (hst : (s.imgOf (!(s.bankOf comp.val)) comp.val).staged = true) (hemerg : s.pwr.emerg = true) :
    exec (.fwActivate id comp) s = .next (((s.putOff comp.val).info s.modUid 0xA9 0 comp.val 0).fmpAns id 4) :=
  congrArg Host.Outcome.next ((State.fmpOp_of_sessionHas h).trans ((if_neg (by simp [hst])).trans (if_pos hemerg)))

theorem exec_fwActivate_starts (hst : (s.imgOf (!(s.bankOf comp.val)) comp.val).staged = true) (hemerg : s.pwr.emerg = false)
    (hphase : 4 ≤ s.boot.phase) : exec (.fwActivate id comp) s = .next ((s.fmpAns id 0).startActivation comp.val) :=
  congrArg Host.Outcome.next ((State.fmpOp_of_sessionHas h).trans
    ((if_neg (by simp [hst])).trans ((if_neg (by simp [hemerg])).trans (if_neg (Nat.not_lt.2 hphase)))))

theorem exec_fwCommit_raises {v : Nat} (hv : v = min 64 (s.imgOf (s.bankOf comp.val) comp.val).svn.toNat)
    (hlt : s.mgmt.fuseF.toNat < v) : exec (.fwCommit id comp) s =
      .next ((({ s with mgmt := { s.mgmt with fuseF := BitVec.ofNat 8 v } } : State).info s.modUid 0xAC 0 v 0).fmpAns id 0) := by
  subst hv
  exact congrArg Host.Outcome.next ((State.fmpOp_of_sessionHas h).trans (if_neg (Nat.not_le.2 hlt)))

theorem exec_fwCommit_kept (hle : (s.imgOf (s.bankOf comp.val) comp.val).svn.toNat ≤ s.mgmt.fuseF.toNat) :
    exec (.fwCommit id comp) s = .next (s.fmpAns id 5) :=
  congrArg Host.Outcome.next ((State.fmpOp_of_sessionHas h).trans (if_pos (Nat.le_trans (Nat.min_le_right ..) hle)))

end Firmware

/-- Settles O54: in a session with the role each command runs the branch that its hypotheses leave, on which one record at most is raised; a
write of the configuration image gives one copy the GENERATION after the newest (`State.writeImage_nvm`), so that copy is the newest
(`State.writeImage_newest`). -/
theorem imagesAreLoadedAndActivated : Obligations.ImagesAreLoadedAndActivated := by
  intro s id img comp slotComp version svn digest e m part
  refine ⟨fun h => ⟨exec_configWrite_unfit h, exec_configWrite_written h, exec_configWrite_deferred h⟩,
    fun h => ⟨exec_fwLoad_busy h, exec_fwLoad_part h, fun hl hcomp hsvn => ?staged, fun hl hbad => ?refused, exec_fwActivate_starts h,
      exec_fwActivate_deferred h, exec_fwActivate_unstaged h, fun hlt hmax => ?raises, exec_fwCommit_kept h⟩,
    fun hemerg hcool => ?ends, fun hstays => ?stays,
    fun g => ⟨s.writeImage_newest g, s.writeImage_keeps_copy g, s.writeImage_newest _⟩⟩
  case staged =>
    refine ⟨_, exec_fwLoad_staged h hl (State.imageFault_none hcomp hsvn), ?_, ?_⟩
    · rw [State.imgOf_of_nvm ((State.fmpAns_nvm ..).trans (State.info_nvm ..)), State.imgOf_imgM_same]
    · rw [State.fmpAns_led, State.info_led_esn]
      rfl
  case refused =>
    obtain ⟨k, hk⟩ := State.imageFault_some (s := s.loaded) hbad
    refine ⟨_, exec_fwLoad_refused h hl hk, ?_, ?_⟩
    · rw [State.fmpAns_nvm, State.raiseRec_nvm]
      rfl
    · rw [State.fmpAns_led, State.raiseRec_led_esn]
      rfl
  case raises =>
    refine ⟨_, exec_fwCommit_raises h (Nat.min_eq_right hmax).symm hlt, ?_, ?_⟩
    · rw [State.fmpAns_fuseF, State.info_fuseF]
      exact (BitVec.ofNat_toNat 8 _).trans (BitVec.setWidth_eq _)
    · rw [State.fmpAns_led, State.info_led_esn]
  case ends => exact congrArg Host.Outcome.next (if_neg (by simp [hemerg, hcool]))
  case stays => exact congrArg Host.Outcome.next (if_pos (by simpa using hstays))

end Sys2Proof.Machine
end

section
/-! PROOF. Contexts become resident on the clusters of their unit, and are saved when evicted (R249, R259, R271, R273). -/

namespace Sys2Proof.Machine

section Resident
variable {ctx : CtxId} {so po : Nat} {s : State} (hsch : s.schUp = true)
include hsch

theorem exec_contextResident_queued {sb pb sl pl : Nat} {j : Job} {cores : List Nat} (hev : (s.runE ctx.toNat).evicted = false)
    (hj : s.queuedJob ctx.toNat = some j) (hcores : cores = s.jobCoresOf j.unit) (hne : cores ≠ [])
    (hrun : (s.runE ctx.toNat).running = false)
    (hslots : ∀ k ∈ clustersOf cores, ((s.residents k).filter (· != ctx.toNat)).length < 8) (hneeds : s.jobNeeds j = (sb, pb, sl, pl))
    (hfits : s.allocFits ctx.toNat cores so sl po pl = true) (hphys : ∀ n ∈ cores, (s.physE n).inReset = false)
    (hclus : ∀ k ∈ clustersOf cores, (s.clusE k).removed = false ∧ (s.clusE k).inReset = false ∧ (s.dieE (k / 4)).inReset = false) :
    exec (.contextResident ctx so po) s = .next ((s.runM ctx.toNat fun r =>
      { r with resident := true, storeOff := so, poolOff := po, storeBytes := sb, poolBytes := pb, storeLen := sl, poolLen := pl,
               jobCores := BitVec.ofNat 64 (listMask cores) }).ctxM ctx.toNat fun e =>
      { e with place := BitVec.ofNat 16 (listMask (clustersOf cores)), placeUnit := j.unit }) := by
  subst hcores
  have hempty : (s.jobCoresOf j.unit).isEmpty = false := by simpa using hne
  have hroom : ((clustersOf (s.jobCoresOf j.unit)).all fun k => decide (((s.residents k).filter (· != ctx.toNat)).length < 8)) = true :=
    List.all_eq_true.2 fun k hk => decide_eq_true (hslots k hk)
  have hcoresUp : ((s.jobCoresOf j.unit).any fun n => (s.physE n).inReset) = false :=
    List.any_eq_false.2 fun n hn => by simp [hphys n hn]
  have hclusUp : ((clustersOf (s.jobCoresOf j.unit)).any fun k =>
      (s.clusE k).removed || (s.clusE k).inReset || (s.dieE (k / 4)).inReset) = false := by
    refine List.any_eq_false.2 fun k hk => ?_
    obtain ⟨hremoved, hreset, hdie⟩ := hclus k hk
    simp [hremoved, hreset, hdie]
  refine congrArg Host.Outcome.next ((if_neg (by simp [hsch])).trans ((if_neg (by simp [hev])).trans ?_))
  rw [hj]
  dsimp only
  rw [hneeds]
  dsimp only
  rw [hempty, hrun, hroom, hfits, hcoresUp, hclusUp]
  rfl

theorem exec_contextResident_evicted (hev : (s.runE ctx.toNat).evicted = true) (hres : (s.runE ctx.toNat).resident = false)
    (hfence : (s.runE ctx.toNat).fence = none) (hslots : ∀ k ∈ s.jobClusters ctx.toNat, (s.residents k).length < 8)
    (hfits : s.allocFits ctx.toNat (s.jobCoreList ctx.toNat) so (s.storeLen ctx.toNat) po (s.poolLen ctx.toNat) = true) :
    exec (.contextResident ctx so po) s = .next ((s.runM ctx.toNat fun r =>
      { r with resident := true, storeOff := so, poolOff := po }).restoreSave ctx.toNat) := by
  have hroom : ((s.jobClusters ctx.toNat).all fun k => decide ((s.residents k).length < 8)) = true :=
    List.all_eq_true.2 fun k hk => decide_eq_true (hslots k hk)
  refine congrArg Host.Outcome.next ((if_neg (by simp [hsch])).trans ((if_pos hev).trans (if_neg ?_)))
  rw [hres, hfence, hroom, hfits]
  decide

end Resident

section Evict
variable {ctx : CtxId} {s s1 s2 : State} {k base : Nat} {bs : List (BitVec 8)}

/-- The copies of an eviction move bytes of memory alone. -/
theorem State.copyRanges_cells (l : List (Nat × Nat × Nat)) (base : Nat) (s : State) :
    ∃ cells, l.foldl (fun t p => t.copyRange p.1 (base + p.2.2) p.2.1) s = { s with mem := { s.mem with cells := cells } } := by
  induction l generalizing s with
  | nil => exact ⟨_, rfl⟩
  | cons p l ih =>
    obtain ⟨cells, h⟩ := ih (s.copyRange p.1 (base + p.2.2) p.2.1)
    exact ⟨cells, h.trans rfl⟩

/-- No resident context that does not run and shares a cluster with context c was run before it (R273). -/
def State.leastRecent (s : State) (c : Nat) : Prop :=
  ∀ p ∈ s.runs, p.1 ≠ c → p.2.resident = true → p.2.running = false → (∃ k ∈ s.jobClusters p.1, k ∈ s.jobClusters c) →
    (s.runE c).lastRun ≤ p.2.lastRun

theorem State.leastRecent.no_older {c : Nat} (h : s.leastRecent c) : (s.runs.any fun p =>
    p.1 != c && p.2.resident && !p.2.running && decide (p.2.lastRun < (s.runE c).lastRun) && s.shareCluster p.1 c) = false := by
  refine List.any_eq_false.2 fun p hp hold => ?_
  simp only [State.shareCluster, Bool.and_eq_true, bne_iff_ne, Bool.not_eq_true', decide_eq_true_eq, List.any_eq_true,
    List.contains_iff_mem] at hold
  obtain ⟨⟨⟨⟨hne, hres⟩, hrun⟩, hlt⟩, hshare⟩ := hold
  exact Nat.not_le.2 hlt (h p hp hne hres hrun hshare)

theorem exec_contextEvict_saves (hsch : s.schUp = true) (hres : (s.runE ctx.toNat).resident = true)
    (hrun : (s.runE ctx.toNat).running = false) (hev : (s.runE ctx.toNat).evicted = false) (hold : s.leastRecent ctx.toNat)
    (hbase : base = (s.ctxE ctx.toNat).saveBase.toNat)
    (hs1 : s1 = (s.saveMap ctx.toNat).foldl (fun t p => t.copyRange p.1 (base + p.2.2) p.2.1) s)
    (hk : k = (s.jobClusters ctx.toNat).length) (hs2 : s1.freeBytes (524288 * k) = (s2, bs)) (hwant : s.wanted273 ctx.toNat = true) :
    ∃ u : State, u = ((((s2.putBytes (base + s2.saveLen ctx.toNat - 524288 * k) bs).stackClaim base (s2.saveLen ctx.toNat)
        (s2.ctxE ctx.toNat).keydom.toNat).countLines base (s2.saveLen ctx.toNat) 0).keepRetired s base (s2.saveLen ctx.toNat)).runM ctx.toNat
          (fun r => { r with resident := false, evicted := true }) ∧
      exec (.contextEvict ctx) s = .next { u with sch := { u.sch with evictions := u.sch.evictions + 1 } } := by
  obtain ⟨cells, hcells⟩ := State.copyRanges_cells (s.saveMap ctx.toNat) base s
  have hs2eq : s2 = (s1.freeBytes (524288 * k)).1 := by rw [hs2]
  have hlen : s2.saveLen ctx.toNat = s.saveLen ctx.toNat := by rw [hs2eq, hs1, hcells]; rfl
  have hctx : s2.ctxE ctx.toNat = s.ctxE ctx.toNat := by rw [hs2eq, hs1, hcells]; rfl
  rw [hlen, hctx]
  refine ⟨_, rfl, congrArg Host.Outcome.next ((if_neg ?_).trans ?_)⟩
  · rw [hsch, hres, hrun, hev, hold.no_older, hwant]
    decide
  · dsimp only
    rw [← hbase, ← hk, ← hs1, hs2]
    rfl

end Evict

/-- Settles O32: once the guards of residency or of eviction hold, the command does what its clause says; the copies into the save area
leave the context's entry and the lengths of its allocations (`State.copyRanges_cells`). -/
theorem contextsBecomeResident : Obligations.ContextsBecomeResident := by
  refine ⟨fun ctx so po sb pb sl pl s j cores hsch => ⟨exec_contextResident_queued hsch, exec_contextResident_evicted hsch⟩,
    fun ctx s s1 s2 k base bs hsch hres hrun hev hold hbase hs1 hk hs2 hwant => ?evict⟩
  exact exec_contextEvict_saves hsch hres hrun hev hold hbase hs1 hk hs2 hwant

end Sys2Proof.Machine
end

section
/-! PROOF. A step runs the front command; what reset holds. -/

namespace Sys2Proof.Machine

/-- Settles O1: `step` matches on the queue alone. -/
theorem stepRunsTheFrontCommand : Obligations.StepRunsTheFrontCommand := by
  refine ⟨fun c rest s h => ?front, fun s h => ?idle⟩
  case front =>
    unfold step
    rw [h]
  case idle =>
    unfold step
    rw [h]

/-- Settles O2: every field of `State.reset` is its default, and an empty memory and an empty buffer are in order. -/
theorem resetHoldsNothing : Obligations.ResetHoldsNothing :=
  ⟨rfl, rfl, rfl, rfl, rfl, rfl, rfl, rfl, rfl, Memory.wf_nil, Ledger.inOrder_nil rfl⟩

end Sys2Proof.Machine
end

section
/-! SUPPORT. What a record leaves: it lies in the ledger's tail, the sessions keep their clients, and the functions change only where one of
them is entitled to a copy (R28, R334 to R336). -/

namespace Sys2Proof.Machine

theorem State.heldRec_mem_raiseRec_tail (s : State) (r : Rec) : s.heldRec r ∈ (s.raiseRec r).led.tail :=
  List.mem_of_getLast? (s.raiseRec_led_tail r)

/-- A record of this module's next event lies in the tail with its ESN. -/
theorem State.raiseRec_tail_of_led {s t : State} {r : Rec} {P : Rec → Prop} (h : t.led = (s.raiseRec r).led) (hP : P (s.heldRec r)) :
    ∃ q ∈ t.led.tail, q.esn = s.led.esn ∧ P q :=
  ⟨s.heldRec r, h ▸ s.heldRec_mem_raiseRec_tail r, rfl, hP⟩

/-- Whatever does not look at the ledger, the memory, the functions, the management port or the messages out shows the same. -/
theorem State.RecordsOf.view {s t : State} (h : s.RecordsOf t) {α : Type} (view : State → α)
    (hview : ∀ led mem funcs mgmt out, view { s with led := led, mem := mem, funcs := funcs, mgmt := mgmt, out := out } = view s) :
    view t = view s := by
  obtain ⟨led, mem, funcs, mgmt, out, rfl⟩ := h
  exact hview led mem funcs mgmt out

section Fields
variable (s : State) (r : Rec)

@[simp] theorem State.raiseRec_part : (s.raiseRec r).part = s.part := (s.raiseRec_recordsOf r).view State.part fun _ _ _ _ _ => rfl
@[simp] theorem State.raiseRec_ident : (s.raiseRec r).ident = s.ident := (s.raiseRec_recordsOf r).view State.ident fun _ _ _ _ _ => rfl
@[simp] theorem State.raiseRec_boot : (s.raiseRec r).boot = s.boot := (s.raiseRec_recordsOf r).view State.boot fun _ _ _ _ _ => rfl
@[simp] theorem State.raiseRec_health : (s.raiseRec r).health = s.health := (s.raiseRec_recordsOf r).view State.health fun _ _ _ _ _ => rfl
@[simp] theorem State.raiseRec_ctxs : (s.raiseRec r).ctxs = s.ctxs := (s.raiseRec_recordsOf r).view State.ctxs fun _ _ _ _ _ => rfl
@[simp] theorem State.raiseRec_runs : (s.raiseRec r).runs = s.runs := (s.raiseRec_recordsOf r).view State.runs fun _ _ _ _ _ => rfl
@[simp] theorem State.raiseRec_clus : (s.raiseRec r).clus = s.clus := (s.raiseRec_recordsOf r).view State.clus fun _ _ _ _ _ => rfl
@[simp] theorem State.raiseRec_doms : (s.raiseRec r).doms = s.doms := (s.raiseRec_recordsOf r).view State.doms fun _ _ _ _ _ => rfl
@[simp] theorem State.raiseRec_kdStat : (s.raiseRec r).kdStat = s.kdStat := (s.raiseRec_recordsOf r).view State.kdStat fun _ _ _ _ _ => rfl
@[simp] theorem State.raiseRec_jobs : (s.raiseRec r).jobs = s.jobs := (s.raiseRec_recordsOf r).view State.jobs fun _ _ _ _ _ => rfl
@[simp] theorem State.raiseRec_pwr : (s.raiseRec r).pwr = s.pwr := (s.raiseRec_recordsOf r).view State.pwr fun _ _ _ _ _ => rfl
@[simp] theorem State.raiseRec_procs : (s.raiseRec r).procs = s.procs := (s.raiseRec_recordsOf r).view State.procs fun _ _ _ _ _ => rfl
@[simp] theorem State.raiseRec_crust : (s.raiseRec r).crust = s.crust := (s.raiseRec_recordsOf r).view State.crust fun _ _ _ _ _ => rfl
@[simp] theorem State.raiseRec_rst : (s.raiseRec r).rst = s.rst := (s.raiseRec_recordsOf r).view State.rst fun _ _ _ _ _ => rfl
@[simp] theorem State.raiseRec_span : (s.raiseRec r).span = s.span := (s.raiseRec_recordsOf r).view State.span fun _ _ _ _ _ => rfl
@[simp] theorem State.raiseRec_panel : (s.raiseRec r).panel = s.panel := (s.raiseRec_recordsOf r).view State.panel fun _ _ _ _ _ => rfl
@[simp] theorem State.raiseRec_sch : (s.raiseRec r).sch = s.sch := (s.raiseRec_recordsOf r).view State.sch fun _ _ _ _ _ => rfl

end Fields

/-- Who a session is. -/
def Sess.client (x : Sess) : Nat × String × Nat := (x.id, x.account, x.source)

/-- The management port n is m but for the counts of its sessions. -/
def Mgmt.SameClients (m n : Mgmt) : Prop :=
  ∃ sessions, n = { m with sessions := sessions } ∧ sessions.map Sess.client = m.sessions.map Sess.client

theorem Mgmt.SameClients.refl (m : Mgmt) : m.SameClients m := ⟨_, rfl, rfl⟩

theorem Mgmt.SameClients.trans {m n p : Mgmt} (h : m.SameClients n) (h' : n.SameClients p) : m.SameClients p := by
  obtain ⟨_, rfl, hn⟩ := h
  obtain ⟨_, rfl, hp⟩ := h'
  exact ⟨_, rfl, hp.trans hn⟩

theorem Mgmt.SameClients.length {m n : Mgmt} (h : m.SameClients n) : n.sessions.length = m.sessions.length := by
  obtain ⟨l, rfl, hl⟩ := h
  simpa using congrArg List.length hl

theorem State.fmpSent_sameClients (s : State) (id : Nat) : s.mgmt.SameClients (s.fmpSent id).mgmt := by
  refine ⟨_, rfl, ?_⟩
  rw [List.map_map]
  refine List.map_congr_left fun x _ => ?_
  simp only [Function.comp_apply]
  split <;> rfl

theorem State.raiseRec_sameClients (s : State) (r : Rec) : s.mgmt.SameClients (s.raiseRec r).mgmt := by
  unfold State.raiseRec
  extract_lets r cls stored _ led₁ led₂ s₁ s₂
  have hcopies : s₂.mgmt = s.mgmt := by
    obtain ⟨_, _, _, _, _, h⟩ := State.copyRecs_copiesOf r stored (List.range 32) s₁
    rw [show s₂ = _ from h]
  clear_value s₂
  split
  · split
    · exact hcopies ▸ State.fmpSent_sameClients (s₂.emit _) _
    · exact hcopies ▸ .refl _
  · exact hcopies ▸ .refl _

/-- No function is entitled to a copy of a record of the module itself, but for those of a drain and of REPLACE (R336). -/
theorem State.heldRec_unshared {s : State} {r : Rec} (hctx : r.ctx = 0) (horigin : r.origin = none)
    (hcode : r.code.toNat < 0x90 ∨ 0x93 < r.code.toNat) (f : Nat) : (s.heldRec r).entitled f = false := by
  have howner : (s.heldRec r).owner = none := by simp [State.heldRec, State.owner, hctx]
  have hrange : (decide (0x90 ≤ r.code.toNat) && decide (r.code.toNat ≤ 0x93)) = false := by
    simp only [Bool.and_eq_false_iff, decide_eq_false_iff_not]
    omega
  simp only [Rec.entitled, howner]
  simp [State.heldRec, horigin, hrange]

theorem State.copyRecs_unshared {r : Rec} (h : ∀ f, r.entitled f = false) (stored : Bool) (l : List Nat) (s : State) :
    l.foldl (fun s f => s.copyRec r stored f) s = s := by
  induction l generalizing s with
  | nil => rfl
  | cons f l ih =>
    rw [List.foldl_cons, ih]
    exact if_pos (by simp [h f])

/-- A record that no function is entitled to leaves the functions. -/
theorem State.raiseRec_funcs {s : State} {r : Rec} (h : ∀ f, (s.heldRec r).entitled f = false) : (s.raiseRec r).funcs = s.funcs := by
  unfold State.raiseRec
  extract_lets r cls stored _ led₁ led₂ s₁ s₂
  have hs : s₂ = s₁ := State.copyRecs_unshared h stored _ s₁
  have hfuncs : s₂.funcs = s.funcs := (congrArg State.funcs hs).trans rfl
  clear_value s₂
  split
  · split
    · exact hfuncs
    · exact hfuncs
  · exact hfuncs

section Info
variable (s : State) (unit : BitVec 32) (code ctx d0 d1 : Nat)

theorem State.info_recordsOf : s.RecordsOf (s.info unit code ctx d0 d1) := s.raiseRec_recordsOf _

theorem State.info_sameClients : s.mgmt.SameClients (s.info unit code ctx d0 d1).mgmt := s.raiseRec_sameClients _

@[simp] theorem State.info_health : (s.info unit code ctx d0 d1).health = s.health := s.raiseRec_health _
@[simp] theorem State.info_boot : (s.info unit code ctx d0 d1).boot = s.boot := s.raiseRec_boot _
@[simp] theorem State.info_jobs : (s.info unit code ctx d0 d1).jobs = s.jobs := s.raiseRec_jobs _
@[simp] theorem State.info_pwr : (s.info unit code ctx d0 d1).pwr = s.pwr := s.raiseRec_pwr _
@[simp] theorem State.info_procs : (s.info unit code ctx d0 d1).procs = s.procs := s.raiseRec_procs _
@[simp] theorem State.info_panel : (s.info unit code ctx d0 d1).panel = s.panel := s.raiseRec_panel _
@[simp] theorem State.info_doms : (s.info unit code ctx d0 d1).doms = s.doms := s.raiseRec_doms _
@[simp] theorem State.info_kdStat : (s.info unit code ctx d0 d1).kdStat = s.kdStat := s.raiseRec_kdStat _
@[simp] theorem State.info_crust : (s.info unit code ctx d0 d1).crust = s.crust := s.raiseRec_crust _

variable {code}

/-- A record of the module itself leaves the functions. -/
theorem State.info_funcs (hcode : code < 0x90 ∨ 0x93 < code ∧ code < 0x100) : (s.info unit code 0 d0 d1).funcs = s.funcs := by
  refine State.raiseRec_funcs (State.heldRec_unshared rfl rfl ?_)
  have hval : (BitVec.ofNat 8 code).toNat = code := by
    rw [BitVec.toNat_ofNat]
    exact Nat.mod_eq_of_lt (by omega)
  rw [hval]
  omega

end Info

section Other
variable (s : State) (unit : BitVec 32) (ctx addr : Nat) (data : BitVec 64)

@[simp] theorem State.infoOther_doms : (s.infoOther unit ctx addr data).doms = s.doms := s.raiseRec_doms _
@[simp] theorem State.infoOther_kdStat : (s.infoOther unit ctx addr data).kdStat = s.kdStat := s.raiseRec_kdStat _

/-- A record of the module itself leaves the functions. -/
theorem State.infoOther_funcs : (s.infoOther unit 0 addr data).funcs = s.funcs :=
  State.raiseRec_funcs (State.heldRec_unshared rfl rfl (.inr (show 0x93 < (0xC2#8).toNat by decide)))

end Other

section Answer
variable (s : State) (id : Fin 8) (status : Nat)

@[simp] theorem State.fmpAns_doms : (s.fmpAns id status).doms = s.doms := rfl
@[simp] theorem State.fmpAns_kdStat : (s.fmpAns id status).kdStat = s.kdStat := rfl
@[simp] theorem State.fmpAns_funcs : (s.fmpAns id status).funcs = s.funcs := rfl

end Answer

end Sys2Proof.Machine
end

section
/-! PROOF. Functions are assigned; key domains are bound, released and filled (R274, R277, R390, R391). -/

namespace Sys2Proof.Machine

theorem State.funcE_of_funcs {s t : State} (h : t.funcs = s.funcs) (f : Nat) : t.funcE f = s.funcE f := by
  rw [State.funcE, State.funcE, h]

theorem State.domE_of_doms {s t : State} (h : t.doms = s.doms) (d : Nat) : t.domE d = s.domE d := by
  rw [State.domE, State.domE, h]

/-- A change of function f or domain d is committed with its record, and answered. -/
def State.recorded (s : State) (id : Fin 8) (code d0 d1 : Nat) : State := (s.info s.modUid code 0 d0 d1).nvmCommit.fmpAns id 0

section Recorded
variable (s : State) (id : Fin 8) (code d0 d1 : Nat)

@[simp] theorem State.recorded_led_esn : (s.recorded id code d0 d1).led.esn = s.led.esn + 1 := s.info_led_esn _ _ _ _ _

@[simp] theorem State.recorded_domE (d : Nat) : (s.recorded id code d0 d1).domE d = s.domE d :=
  State.domE_of_doms (s.info_doms s.modUid code 0 d0 d1) d

theorem State.recorded_funcE {code : Nat} (hcode : code < 0x90 ∨ 0x93 < code ∧ code < 0x100) (f : Nat) :
    (s.recorded id code d0 d1).funcE f = s.funcE f :=
  State.funcE_of_funcs (s.info_funcs s.modUid d0 d1 hcode) f

end Recorded

/-- What FUNC_ASSIGN puts into a function (R390). -/
def Func.assign (base size quota : Nat) (checkf : BitVec 3) (e : Func) : Func :=
  { e with base := base, size := size, quota := quota, checkf := checkf, assigned := true, enabled := true }

/-- A domain that becomes RETIRING, with fresh keys, over the range of function f, whose entry is e (R277). -/
def Dom.retire (f : Nat) (e : Func) (x : Dom) : Dom := { x with state := 2, gen := x.gen + 1, base := e.base, size := e.size, func := f }

/-- FUNC_ASSIGN's change of the state (R390). -/
def State.assigned (s : State) (f base size quota : Nat) (checkf : BitVec 3) : State :=
  { s.funcM f (Func.assign base size quota checkf) with
    nvm := { s.nvm with funcs := tabSet s.nvm.funcs f (base, size, quota, checkf) } }

/-- A domain is bound to a function. -/
def Dom.bind (e : Dom) : Dom := { e with state := 1 }

/-- A function has a domain, or none. -/
def Func.setDom (d : Option Nat) (e : Func) : Func := { e with dom := d }

/-- A domain is FREE. -/
def Dom.free (x : Dom) : Dom := { x with state := 0, base := 0, size := 0, func := 0 }

/-- KD_BIND's change of the state (R391). -/
def State.bound (s : State) (f d : Nat) : State :=
  { (s.domM d Dom.bind).funcM f (Func.setDom (some d)) with nvm := { s.nvm with binds := tabSet s.nvm.binds f d } }

/-- KD_RELEASE's change of the state (R277). -/
def State.retiring (s : State) (f : Nat) (d : BitVec 8) : State :=
  { s.domM d.toNat (Dom.retire f (s.funcE f)) with
    kdStat := { domain := d }, nvm := { s.nvm with binds := tabDel s.nvm.binds f } }

/-- The range of domain d, whose entry is e, is zero, and no function has the domain (R277). -/
def State.zeroed (s : State) (d : BitVec 8) (e : Dom) : State :=
  ((s.freshZero e.base e.size d.toNat).domM d.toNat Dom.free).funcM e.func (Func.setDom none)

/-- The change of the state at the end of the zero fill of domain d, whose entry is e (R277). -/
def State.filled (s : State) (d : BitVec 8) (e : Dom) : State :=
  { s.zeroed d e with kdStat := { (s.zeroed d e).kdStat with
      doneMib := if (s.zeroed d e).kdStat.domain = d then e.size / 2 ^ 20 else (s.zeroed d e).kdStat.doneMib } }

/-- The record of a released domain is committed, and the release answered. -/
def State.released (s : State) (id : Fin 8) (d : BitVec 8) : State :=
  (s.infoOther 0 0 0 (BitVec.ofNat 64 d.toNat)).nvmCommit.fmpAns id 0

theorem State.released_doms (s : State) (id : Fin 8) (d : BitVec 8) : (s.released id d).doms = s.doms := by
  simp [State.released]

theorem State.released_kdStat (s : State) (id : Fin 8) (d : BitVec 8) : (s.released id d).kdStat = s.kdStat := by
  simp [State.released]

section Changes
variable (s : State) (f base size quota : Nat) (checkf : BitVec 3) (n : Nat) (d : BitVec 8)

theorem State.funcE_assigned_same :
    (s.assigned f base size quota checkf).funcE f = (s.funcE f).assign base size quota checkf :=
  (State.funcE_of_funcs (s := s.funcM f (Func.assign base size quota checkf)) rfl f).trans (State.funcE_funcM_same s f _)

theorem State.funcE_assigned_ne {g : Nat} (h : g ≠ f) : (s.assigned f base size quota checkf).funcE g = s.funcE g :=
  (State.funcE_of_funcs (s := s.funcM f (Func.assign base size quota checkf)) rfl g).trans (State.funcE_funcM_ne s f g _ h)

theorem State.domE_bound : (s.bound f n).domE n = (s.domE n).bind :=
  (State.domE_of_doms (s := s.domM n Dom.bind) rfl n).trans (State.domE_domM_same s n _)

theorem State.funcE_bound : (s.bound f n).funcE f = (s.funcE f).setDom (some n) :=
  (State.funcE_of_funcs (s := s.funcM f (Func.setDom (some n))) rfl f).trans (State.funcE_funcM_same s f _)

theorem State.domE_retiring : (s.retiring f d).domE d.toNat = (s.domE d.toNat).retire f (s.funcE f) :=
  (State.domE_of_doms (s := s.domM d.toNat (Dom.retire f (s.funcE f))) rfl d.toNat).trans (State.domE_domM_same s d.toNat _)

theorem State.domE_filled (e : Dom) : (s.filled d e).domE d.toNat = ((s.freshZero e.base e.size d.toNat).domE d.toNat).free :=
  (State.domE_of_doms (s := (s.freshZero e.base e.size d.toNat).domM d.toNat Dom.free) rfl d.toNat).trans
    (State.domE_domM_same _ d.toNat _)

theorem State.funcE_filled (e : Dom) :
    (s.filled d e).funcE e.func = ((s.freshZero e.base e.size d.toNat).funcE e.func).setDom none :=
  (State.funcE_of_funcs (s := (s.freshZero e.base e.size d.toNat).funcM e.func (Func.setDom none)) rfl e.func).trans
    (State.funcE_funcM_same _ e.func _)

end Changes

section Port
variable {s : State} {id : Fin 8} {f : FuncN} {base size : BitVec 52} {quota : BitVec 12} {checkf : BitVec 3} {d : BitVec 8}
  (h : s.sessionHas id 2 = true)
include h

theorem exec_funcAssign_assigned (hfits : s.rangeFits f.val base.toNat size.toNat = true) (hcheckf : checkf.toNat ≤ 5)
    (hdom : (s.funcE f.val).dom = none) (hctx : s.ctxCount f.val = 0) :
    exec (.funcAssign id f base size quota checkf) s = .next
      ((s.assigned f.val base.toNat size.toNat quota.toNat checkf).recorded id 0xB6 f.val 0) := by
  refine congrArg Host.Outcome.next ((State.fmpOp_of_sessionHas h).trans ((if_neg ?_).trans ((if_neg ?_).trans rfl)))
  · simp [Nat.not_lt.2 hcheckf, hfits]
  · simp [hdom, hctx]

theorem exec_funcAssign_badCheckf (hcheckf : 5 < checkf.toNat) :
    exec (.funcAssign id f base size quota checkf) s = .next (s.fmpAns id 2) :=
  congrArg Host.Outcome.next ((State.fmpOp_of_sessionHas h).trans (if_pos (by simp [hcheckf])))

theorem exec_kdBind_bound (hd : d ≠ 0) (hfree : (s.domE d.toNat).state = 0) (hdom : (s.funcE f.val).dom = none) :
    exec (.kdBind id f d) s = .next ((s.bound f.val d.toNat).recorded id 0xB5 d.toNat f.val) := by
  have hd' : d.toNat ≠ 0 := fun h0 => hd (BitVec.eq_of_toNat_eq h0)
  exact congrArg Host.Outcome.next ((State.fmpOp_of_sessionHas h).trans ((if_neg (by simp [hd', hfree, hdom])).trans rfl))

theorem exec_kdBind_refused (hbad : d = 0 ∨ (s.domE d.toNat).state ≠ 0 ∨ (s.funcE f.val).dom.isSome = true) :
    exec (.kdBind id f d) s = .next (s.fmpAns id 5) := by
  refine congrArg Host.Outcome.next ((State.fmpOp_of_sessionHas h).trans (if_pos ?_))
  show (decide (d.toNat = 0) || decide ((s.domE d.toNat).state ≠ 0) || (s.funcE f.val).dom.isSome) = true
  simp only [Bool.or_eq_true, decide_eq_true_eq]
  obtain rfl | hstate | hdom := hbad
  · exact .inl (.inl rfl)
  · exact .inl (.inr hstate)
  · exact .inr hdom

theorem exec_kdRelease_retiring {g : Nat} (hfunc : s.domFunc d.toNat = some g) (hbound : (s.domE d.toNat).state = 1)
    (hctx : s.ctxCount g = 0) : exec (.kdRelease id d) s = .next
      ((s.retiring g d).released id d) := by
  refine congrArg Host.Outcome.next ((State.fmpOp_of_sessionHas h).trans ?_)
  dsimp only
  rw [hfunc]
  refine (if_neg ?_).trans rfl
  simp [hbound, hctx]

theorem exec_kdRelease_inUse {g : Nat} (hfunc : s.domFunc d.toNat = some g) (hctx : s.ctxCount g ≠ 0) :
    exec (.kdRelease id d) s = .next (s.fmpAns id 5) := by
  refine congrArg Host.Outcome.next ((State.fmpOp_of_sessionHas h).trans ?_)
  dsimp only
  rw [hfunc]
  exact if_pos (by simp [hctx])

end Port

theorem exec_kdFillDone_filled {s : State} {d : BitVec 8} (hstate : (s.domE d.toNat).state = 2) :
    exec (.kdFillDone d) s = .next (((s.filled d (s.domE d.toNat)).infoOther 0 0 0 (BitVec.ofNat 64 d.toNat)).fmpEventAll 0x21) :=
  congrArg Host.Outcome.next (if_neg (not_not_intro hstate))

/-- An event to every session leaves the functions and the domains. -/
theorem State.fmpEventAll_funcs_doms (s : State) (what : Nat) :
    (s.fmpEventAll what).funcs = s.funcs ∧ (s.fmpEventAll what).doms = s.doms := by
  have hfold (l : List Sess) : ∀ t : State, (l.foldl (fun (t : State) x => t.fmpEvent x.id what) t).funcs = t.funcs ∧
      (l.foldl (fun (t : State) x => t.fmpEvent x.id what) t).doms = t.doms := by
    induction l with
    | nil => exact fun t => ⟨rfl, rfl⟩
    | cons x l ih => exact fun t => ih _
  exact hfold _ s

/-- The record and the events of a domain's change leave the functions and the domains. -/
theorem State.infoOther_fmpEventAll (s : State) (addr : Nat) (data : BitVec 64) (what n : Nat) :
    ((s.infoOther 0 0 addr data).fmpEventAll what).funcE n = s.funcE n ∧
      ((s.infoOther 0 0 addr data).fmpEventAll what).domE n = s.domE n := by
  obtain ⟨hfuncs, hdoms⟩ := State.fmpEventAll_funcs_doms (s.infoOther 0 0 addr data) what
  exact ⟨State.funcE_of_funcs (hfuncs.trans (s.infoOther_funcs 0 addr data)) n,
    State.domE_of_doms (hdoms.trans (s.infoOther_doms 0 0 addr data)) n⟩

/-- Settles O53: each command runs the branch that its hypotheses leave; no function is entitled to the record of it, so that the functions
are as the branch left them. -/
theorem functionsAndDomainsAreAssigned : Obligations.FunctionsAndDomainsAreAssigned := by
  intro s id f base size quota checkf d
  refine ⟨fun h => ⟨fun hfits hcheckf hdom hctx => ⟨_, exec_funcAssign_assigned h hfits hcheckf hdom hctx, ?assigned⟩,
    exec_funcAssign_badCheckf h, fun hd hfree hdom => ⟨_, exec_kdBind_bound h hd hfree hdom, ?bound⟩, exec_kdBind_refused h,
    fun g hfunc hbound hctx => ⟨_, exec_kdRelease_retiring h hfunc hbound hctx, ?released⟩, fun g => exec_kdRelease_inUse h⟩,
    fun hstate => ⟨_, exec_kdFillDone_filled hstate, ?filled⟩, fun hstate => congrArg Host.Outcome.next (if_pos hstate)⟩
  case assigned =>
    have hfuncE (g : Nat) := (s.assigned f.val base.toNat size.toNat quota.toNat checkf).recorded_funcE id f.val 0
      (code := 0xB6) (by decide) g
    refine ⟨?_, State.recorded_led_esn _ _ _ _ _, fun g hg => (hfuncE g).trans (State.funcE_assigned_ne _ _ _ _ _ _ hg)⟩
    rw [hfuncE, State.funcE_assigned_same]
    exact ⟨rfl, rfl, rfl, rfl, rfl⟩
  case bound =>
    refine ⟨?_, ?_, State.recorded_led_esn _ _ _ _ _⟩
    · rw [State.recorded_domE, State.domE_bound]
      rfl
    · rw [State.recorded_funcE _ _ _ _ (by decide), State.funcE_bound]
      rfl
  case released =>
    have hdomE := (State.domE_of_doms ((s.retiring g d).released_doms id d) d.toNat).trans (s.domE_retiring g d)
    exact ⟨congrArg Dom.state hdomE, congrArg Dom.gen hdomE, congrArg KdStat.domain ((s.retiring g d).released_kdStat id d)⟩
  case filled =>
    obtain ⟨-, hdomE⟩ := (s.filled d (s.domE d.toNat)).infoOther_fmpEventAll 0 (BitVec.ofNat 64 d.toNat) 0x21 d.toNat
    obtain ⟨hfuncE, -⟩ := (s.filled d (s.domE d.toNat)).infoOther_fmpEventAll 0 (BitVec.ofNat 64 d.toNat) 0x21 (s.domE d.toNat).func
    exact ⟨congrArg Dom.state (hdomE.trans (s.domE_filled d _)), congrArg Func.dom (hfuncE.trans (s.funcE_filled d _))⟩

end Sys2Proof.Machine
end

section
/-! SUPPORT. Sessions that close, processors that go down, main power that arrives: what of the state they change (R385, R365, R407). -/

namespace Sys2Proof.Machine

/- Sessions. -/

/-- The port without the sessions that a drop takes (R385). -/
def State.withoutSessions (s : State) (sel : Sess → Bool) : State :=
  { s with mgmt := { s.mgmt with
    sessions := s.mgmt.sessions.filter fun x => !(sel x)
    loading := if (s.mgmt.sessions.filter sel).any fun x => s.mgmt.loading == some x.id then none else s.mgmt.loading
    stream := if (s.mgmt.sessions.filter sel).any fun x => s.mgmt.stream == some x.id then none else s.mgmt.stream } }

/-- A session that has closed is told, with code 0xB1. -/
def State.closeSession (reason : Nat) (s : State) (x : Sess) : State := (s.emit (.fmpClosed x.id)).info s.modUid 0xB1 0 x.id reason

theorem State.dropSessions_eq (s : State) (sel : Sess → Bool) (reason : Nat) :
    s.dropSessions sel reason = (s.mgmt.sessions.filter sel).foldl (State.closeSession reason) (s.withoutSessions sel) := rfl

section Close
variable (reason : Nat) (s : State) (x : Sess)

theorem State.closeSession_recordsOf : s.RecordsOf (s.closeSession reason x) :=
  .trans ⟨_, _, _, _, _, rfl⟩ (State.info_recordsOf (s.emit (.fmpClosed x.id)) s.modUid 0xB1 0 x.id reason)

theorem State.closeSession_sameClients : s.mgmt.SameClients (s.closeSession reason x).mgmt :=
  State.info_sameClients (s.emit (.fmpClosed x.id)) s.modUid 0xB1 0 x.id reason

theorem State.closeSession_led_esn : (s.closeSession reason x).led.esn = s.led.esn + 1 :=
  State.info_led_esn (s.emit (.fmpClosed x.id)) s.modUid 0xB1 0 x.id reason

theorem State.closeSession_funcs : (s.closeSession reason x).funcs = s.funcs :=
  State.info_funcs (s.emit (.fmpClosed x.id)) s.modUid x.id reason (by decide)

theorem State.closeSession_nvm : (s.closeSession reason x).nvm = s.nvm :=
  State.info_nvm (s.emit (.fmpClosed x.id)) s.modUid 0xB1 0 x.id reason

theorem State.closeSession_foldl (l : List Sess) (s : State) : s.mgmt.SameClients (l.foldl (State.closeSession reason) s).mgmt ∧
    (l.foldl (State.closeSession reason) s).led.esn = s.led.esn + l.length ∧ (l.foldl (State.closeSession reason) s).funcs = s.funcs := by
  induction l generalizing s with
  | nil => exact ⟨.refl _, rfl, rfl⟩
  | cons x l ih =>
    obtain ⟨hclients, hesn, hfuncs⟩ := ih (s.closeSession reason x)
    refine ⟨(s.closeSession_sameClients reason x).trans hclients, hesn.trans ?_, hfuncs.trans (s.closeSession_funcs reason x)⟩
    rw [State.closeSession_led_esn, List.length_cons]
    omega

end Close

section Drop
variable (s : State) (sel : Sess → Bool) (reason : Nat)

theorem State.dropSessions_recordsOf : s.RecordsOf (s.dropSessions sel reason) :=
  .trans (t := s.withoutSessions sel) ⟨_, _, _, _, _, rfl⟩ (.foldl (State.closeSession_recordsOf reason) _ _)

theorem State.dropSessions_sameClients : (s.withoutSessions sel).mgmt.SameClients (s.dropSessions sel reason).mgmt :=
  (State.closeSession_foldl reason _ _).1

theorem State.dropSessions_led_esn : (s.dropSessions sel reason).led.esn = s.led.esn + (s.mgmt.sessions.filter sel).length :=
  (State.closeSession_foldl reason _ _).2.1

theorem State.dropSessions_funcs : (s.dropSessions sel reason).funcs = s.funcs := (State.closeSession_foldl reason _ _).2.2

theorem State.dropSessions_nvm : (s.dropSessions sel reason).nvm = s.nvm :=
  (s.dropSessions_recordsOf sel reason).view State.nvm fun _ _ _ _ _ => rfl

theorem State.dropSessions_procs : (s.dropSessions sel reason).procs = s.procs :=
  (s.dropSessions_recordsOf sel reason).view State.procs fun _ _ _ _ _ => rfl

end Drop

theorem State.info_fmpAns_led_esn (s : State) (unit : BitVec 32) (code ctx d0 d1 : Nat) (id : Fin 8) (status : Nat) :
    ((s.info unit code ctx d0 d1).fmpAns id status).led.esn = s.led.esn + 1 := by
  rw [State.fmpAns_led, State.info_led_esn]

/- Processors. -/

theorem State.procE_of_procs {s t : State} (h : t.procs = s.procs) (p : Nat) : t.procE p = s.procE p := by
  rw [State.procE, State.procE, h]

/-- What going down does to a processor (R365). -/
def Proc.down (state : BitVec 3) (bank : Bool) (e : Proc) : Proc :=
  { e with state := state, served := false, restarts := satAdd 0xFF e.restarts 1, bank := bank }

theorem State.goDown_recordsOf (s : State) (p : Nat) (state : BitVec 3) (bank : Bool) :
    (s.procM p (Proc.down state bank)).RecordsOf (s.goDown p state bank) := by
  unfold State.goDown
  split
  · exact (State.dropSessions_recordsOf _ _ _).trans ⟨_, _, _, _, _, rfl⟩
  · exact .refl _

theorem State.procE_goDown (s : State) (p : Nat) (state : BitVec 3) (bank : Bool) :
    (s.goDown p state bank).procE p = (s.procE p).down state bank :=
  (State.procE_of_procs ((s.goDown_recordsOf p state bank).view State.procs fun _ _ _ _ _ => rfl) p).trans
    (s.procE_procM_same p (Proc.down state bank))

/- Main power. -/

/-- Main power that reaches the module changes bring-up and health, besides the power itself. -/
theorem State.mainArrives_eq (s : State) : ∃ boot health out,
    s.mainArrives = { s with pwr := { s.pwr with mainOn := true }, boot := boot, health := health, out := out } := by
  unfold State.mainArrives
  dsimp only
  split
  · obtain ⟨out, h⟩ := State.noted_out { s with pwr := { s.pwr with mainOn := true }, boot := { s.boot with phase := 1 }
                                                health := { s.health with state := 1, dieState := [1, 1, 1, 1] } }
      { s with pwr := { s.pwr with mainOn := true } }
    exact ⟨_, _, out, h⟩
  · exact ⟨_, _, _, rfl⟩

@[simp] theorem State.mainArrives_pwr (s : State) : s.mainArrives.pwr = { s.pwr with mainOn := true } := by
  obtain ⟨_, _, _, h⟩ := s.mainArrives_eq
  rw [h]

@[simp] theorem State.mainArrives_panel (s : State) : s.mainArrives.panel = s.panel := by
  obtain ⟨_, _, _, h⟩ := s.mainArrives_eq
  rw [h]

@[simp] theorem State.mainArrives_led (s : State) : s.mainArrives.led = s.led := by
  obtain ⟨_, _, _, h⟩ := s.mainArrives_eq
  rw [h]

@[simp] theorem State.resetRec_pwr (s : State) (domain what : Nat) : (s.resetRec domain what).pwr = s.pwr :=
  s.info_pwr s.modUid 0xA6 0 (packFields [(domain, 0, 4), (what, 32, 32)]) 0

end Sys2Proof.Machine
end

section
/-! PROOF. Grants, held processors, main power and dumps (R328, R368, R374, R376, R392, R393). -/

namespace Sys2Proof.Machine

/-- A processor without its history of restarts. -/
def Proc.forget (e : Proc) : Proc := { e with recent := [], fresh := none }

/-- A held processor restarts, and its release is answered (R368). -/
def State.freed (s : State) (id : Fin 8) (p : Nat) : State := ((s.procM p Proc.forget).goDown p 1 (s.procE p).bank).fmpAns id 0

theorem State.procE_freed (s : State) (id : Fin 8) (p : Nat) : (s.freed id p).procE p = ((s.procE p).forget).down 1 (s.procE p).bank := by
  have hforget := s.procE_procM_same p Proc.forget
  rw [← hforget, ← State.procE_goDown]
  rfl

/-- The dumps of a list that DUMP_PIN names, pinned or not (R374). -/
def pinDumps (n : Nat) (on : Bool) (l : List Dump) : List Dump :=
  l.map fun (d : Dump) => if d.index = n && !d.open_ then { d with pinned := on } else d

theorem pinned_of_mem_pinDumps {n : Nat} {on : Bool} {l : List Dump} {x : Dump} (hx : x ∈ pinDumps n on l) (hindex : x.index = n)
    (hopen : x.open_ = false) : x.pinned = on := by
  obtain ⟨d, -, rfl⟩ := List.mem_map.1 hx
  by_cases hd : (d.index = n && !d.open_) = true
  · rw [if_pos hd]
  · rw [if_neg hd] at hindex hopen
    simp [hindex, hopen] at hd

theorem State.fmpAns_pwr (s : State) (id : Fin 8) (status : Nat) : (s.fmpAns id status).pwr = s.pwr := rfl

/-- Main power returns after a trip or a latch path, and the operation is answered (R328). -/
def State.powered (s : State) (id : Fin 8) : State :=
  ((({ s with pwr := { s.pwr with tripped := false }, panel := { s.panel with latchDone := false } } :
    State).resetRec 6 0).mainArrives).fmpAns id 0

theorem State.powered_pwr (s : State) (id : Fin 8) : (s.powered id).pwr.mainOn = true ∧ (s.powered id).pwr.tripped = false := by
  rw [State.powered, State.fmpAns_pwr, State.mainArrives_pwr, State.resetRec_pwr]
  exact ⟨rfl, rfl⟩

section Operate
variable {s : State} {id : Fin 8} {p : ProcN} (h : s.sessionHas id 1 = true)
include h

/-- The command ends in the freed state, but for the cluster of a CFC (R368). -/
theorem exec_procRelease_held (hheld : (s.procE p.val).state = 2) :
    ∃ clus, exec (.procRelease id p) s = .next { s.freed id p.val with clus := clus } := by
  have hrun : exec (.procRelease id p) s = .next (if p.val < 3 then s.freed id p.val
      else (s.freed id p.val).clusM (p.val - 3) fun c =>
        { c with removed := false, inReset := takesIn (s.freed id p.val).rst.active 1 (p.val - 3) }) :=
    congrArg Host.Outcome.next ((State.fmpOp_of_sessionHas h).trans (if_neg (not_not_intro hheld)))
  rw [hrun]
  split
  · exact ⟨_, rfl⟩
  · exact ⟨_, rfl⟩

theorem exec_procRelease_notHeld (hheld : (s.procE p.val).state ≠ 2) : exec (.procRelease id p) s = .next (s.fmpAns id 5) :=
  congrArg Host.Outcome.next ((State.fmpOp_of_sessionHas h).trans (if_pos hheld))

theorem exec_mainPowerOn_afterTrip (htrip : s.pwr.tripped = true) (hoff : s.pwr.mainOn = false) (hpath : s.panel.latchPath = false)
    (hpres : s.panel.pres0 = true ∧ s.panel.pres1 = true) (hlatch : s.panel.latch = true) :
    exec (.mainPowerOn id) s = .next (s.powered id) := by
  refine congrArg Host.Outcome.next ((State.fmpOp_of_sessionHas h).trans (if_neg ?_))
  obtain ⟨h0, h1⟩ := hpres
  simp [htrip, hoff, hpath, h0, h1, hlatch]

theorem exec_mainPowerOn_noCause (htrip : s.pwr.tripped = false) (hdone : s.panel.latchDone = false) :
    exec (.mainPowerOn id) s = .next (s.fmpAns id 5) := by
  refine congrArg Host.Outcome.next ((State.fmpOp_of_sessionHas h).trans (if_pos ?_))
  rw [htrip, hdone]
  rfl

end Operate

/-- A function is granted debug, or not. -/
def State.debugSet (s : State) (f : Nat) (on : Bool) : State := s.funcM f fun e => { e with debug := on }

theorem State.debugSet_info_debug (s : State) (f : Nat) (on : Bool) (id : Fin 8) (unit : BitVec 32) (d0 d1 : Nat) :
    ((((s.debugSet f on).info unit 0xB4 0 d0 d1).fmpAns id 0).funcE f).debug = on := by
  have hfuncs : (((s.debugSet f on).info unit 0xB4 0 d0 d1).fmpAns id 0).funcs = (s.debugSet f on).funcs :=
    (State.fmpAns_funcs _ _ _).trans (State.info_funcs _ _ _ _ (by decide))
  rw [State.funcE_of_funcs hfuncs, State.debugSet, State.funcE_funcM_same]

section Debug
variable {s : State} {id : Fin 8} {f : FuncN} {on : Bool} {n : Nat} {d : Dump} (h : s.sessionHas id 4 = true)
include h

theorem exec_debugGrant_noDebug (hpolicy : s.boot.image.nodebug = true) : exec (.debugGrant id f on) s = .next (s.fmpAns id 5) :=
  congrArg Host.Outcome.next ((State.fmpOp_of_sessionHas h).trans (if_pos hpolicy))

theorem exec_debugGrant_set (hpolicy : s.boot.image.nodebug = false) :
    exec (.debugGrant id f on) s = .next (((s.debugSet f.val on).info s.modUid 0xB4 0 f.val (b2n on)).fmpAns id 0) :=
  congrArg Host.Outcome.next ((State.fmpOp_of_sessionHas h).trans (if_neg (by simp [hpolicy])))

theorem exec_dumpList : exec (.dumpList id) s = .next ((s.fmpAns id 0).emit (.fmpBody id.val (s.dumps.map fun d =>
    reg [(d.unit.toNat, 32, 32), (b2n d.incomplete + 2 * b2n d.pinned + 4 * b2n d.committed, 24, 8), (d.domain.toNat, 16, 8),
         (d.index, 0, 16)]))) :=
  congrArg Host.Outcome.next (State.fmpOp_of_sessionHas h)

theorem exec_dumpRead (hfind : (s.dumps.find? fun d => d.index == n) = some d) :
    exec (.dumpRead id n) s = .next ((s.fmpAns id 0).emit (.fmpBody id.val (bodyWords d.bytes))) := by
  refine congrArg Host.Outcome.next ((State.fmpOp_of_sessionHas h).trans ?_)
  rw [hfind]

theorem exec_dumpRead_noDump (hfind : (s.dumps.find? fun d => d.index == n) = none) :
    exec (.dumpRead id n) s = .next (s.fmpAns id 6) := by
  refine congrArg Host.Outcome.next ((State.fmpOp_of_sessionHas h).trans ?_)
  rw [hfind]

theorem exec_dumpPin (hfind : (s.dumps.find? fun d => d.index == n) = some d) : exec (.dumpPin id n on) s =
    .next (({ s with crust := { s.crust with
      dumps := pinDumps n on s.crust.dumps, nvmDumps := pinDumps n on s.crust.nvmDumps } } : State).fmpAns id 0) := by
  have hany : s.dumps.any (fun d => d.index == n) = true :=
    
    List.any_eq_true.2 ⟨d, List.mem_of_find?_eq_some hfind, List.find?_some (p := fun d : Dump => d.index == n) hfind⟩
  exact congrArg Host.Outcome.next ((State.fmpOp_of_sessionHas h).trans (if_neg (by simp [hany])))

theorem exec_dumpPin_noDump (hfind : (s.dumps.find? fun d => d.index == n) = none) :
    exec (.dumpPin id n on) s = .next (s.fmpAns id 6) := by
  have hany : s.dumps.any (fun d => d.index == n) = false := by
    simpa [List.any_eq_false] using List.find?_eq_none.1 hfind
  exact congrArg Host.Outcome.next ((State.fmpOp_of_sessionHas h).trans (if_pos (by simp [hany])))

end Debug

/-- Settles O55: each operation of a session with its role runs the branch that its hypotheses leave. -/
theorem operatorsGrantAndReadDumps : Obligations.OperatorsGrantAndReadDumps := by
  intro s id p f on n d
  refine ⟨fun h => ⟨congrArg Host.Outcome.next (State.fmpOp_of_sessionHas h), fun hheld => ?freed, exec_procRelease_notHeld h,
      fun htrip hoff hpath h0 h1 hlatch => ⟨_, exec_mainPowerOn_afterTrip h htrip hoff hpath ⟨h0, h1⟩ hlatch, State.powered_pwr s id⟩,
      exec_mainPowerOn_noCause h⟩,
    fun h => ⟨exec_debugGrant_noDebug h, fun hpolicy => ⟨_, exec_debugGrant_set h hpolicy, State.debugSet_info_debug .., State.info_fmpAns_led_esn ..⟩, exec_dumpList h,
      fun hfind => ⟨exec_dumpRead h hfind, _, exec_dumpPin h hfind, fun x hx => pinned_of_mem_pinDumps hx⟩,
      fun hfind => ⟨exec_dumpRead_noDump h hfind, exec_dumpPin_noDump h hfind⟩⟩⟩
  case freed =>
    obtain ⟨clus, hexec⟩ := exec_procRelease_held h hheld
    have hproc := (State.procE_of_procs (t := { s.freed id p.val with clus := clus }) rfl p.val).trans (s.procE_freed id p.val)
    exact ⟨_, hexec, congrArg Proc.state hproc, congrArg Proc.recent hproc⟩

end Sys2Proof.Machine
end

section
/-! PROOF. Sessions open with proof, bar failing sources, and need their role (R384 to R386, R388, R389). -/

namespace Sys2Proof.Machine

/- Openings. -/

/-- A failed proof counts against its source, and the eighth bars it (R385). -/
def State.countFailure (s : State) (source : Nat) : State :=
  { s with mgmt := { s.mgmt with
    failures := tabSet s.mgmt.failures source (tabGet s.mgmt.failures source 0 + 1)
    barred := if 8 ≤ tabGet s.mgmt.failures source 0 + 1 then setIns s.mgmt.barred source else s.mgmt.barred } }

/-- The record of a failed opening (R384). -/
def State.openRefused (s : State) (source : Nat) : State :=
  s.raiseRec { unit := s.modUid, cls := 1, code := 0xB2, d1 := BitVec.ofNat 64 source }

theorem State.openFails_eq (s : State) (source : Nat) : s.openFails source = (s.countFailure source).openRefused source := rfl

theorem State.openRefused_led_esn (s : State) (source : Nat) : (s.openRefused source).led.esn = s.led.esn + 1 := s.raiseRec_led_esn _

/-- A failed opening's record leaves the clients of the port, the failures and the sources that are barred. -/
theorem State.openRefused_mgmt (s : State) (source : Nat) :
    (s.openRefused source).mgmt.sessions.map Sess.client = s.mgmt.sessions.map Sess.client ∧
      (s.openRefused source).mgmt.failures = s.mgmt.failures ∧ (s.openRefused source).mgmt.barred = s.mgmt.barred := by
  obtain ⟨sessions, hmgmt, hclients⟩ := s.raiseRec_sameClients { unit := s.modUid, cls := 1, code := 0xB2, d1 := BitVec.ofNat 64 source }
  rw [State.openRefused, hmgmt]
  exact ⟨hclients, rfl, rfl⟩

section Open
variable {s : State} {source k : Nat} {account : String} {verified : Bool} {i : Fin 8} (haux : s.panel.aux = true)
  (hsec : (s.procE 0).served = true)
  (hfree : (List.range 8).find? (fun i => !(s.mgmt.sessions.any fun e => e.id == i)) = some i.val)
include haux hsec hfree

theorem exec_fmpSessionOpen_barred (hbarred : s.mgmt.barred.contains source = true) :
    exec (.fmpSessionOpen source account verified) s = .next (s.openRefused source) := by
  simp only [exec, execFmpSessionOpen, haux, hsec, hfree, hbarred]
  rfl

theorem exec_fmpSessionOpen_noAccount (hbarred : s.mgmt.barred.contains source = false)
    (hnone : s.nvm.accounts.findIdx? (fun a => a.name == account) = none) :
    exec (.fmpSessionOpen source account verified) s = .next (s.openFails source) := by
  simp only [exec, execFmpSessionOpen, haux, hsec, hfree, hbarred, hnone]
  rfl

theorem exec_fmpSessionOpen_badProof (hbarred : s.mgmt.barred.contains source = false)
    (hfound : s.nvm.accounts.findIdx? (fun a => a.name == account) = some k) :
    exec (.fmpSessionOpen source account false) s = .next (s.openFails source) := by
  simp only [exec, execFmpSessionOpen, haux, hsec, hfree, hbarred, hfound]
  rfl

theorem exec_fmpSessionOpen_opens (hbarred : s.mgmt.barred.contains source = false)
    (hfound : s.nvm.accounts.findIdx? (fun a => a.name == account) = some k) : exec (.fmpSessionOpen source account true) s =
      .next (({ s with mgmt := { s.mgmt with
        sessions := s.mgmt.sessions ++ [({ id := i.val, account := account, source := source } : Sess)] } } : State).info
          s.modUid 0xB0 0 k source) := by
  simp only [exec, execFmpSessionOpen, haux, hsec, hfree, hbarred, hfound]
  rfl

theorem exec_fmpSessionOpen_fails (hbarred : s.mgmt.barred.contains source = false)
    (hfails : s.nvm.accounts.findIdx? (fun a => a.name == account) = none ∨ verified = false) :
    exec (.fmpSessionOpen source account verified) s = .next (s.openFails source) := by
  cases hacc : s.nvm.accounts.findIdx? fun a => a.name == account with
  | none => exact exec_fmpSessionOpen_noAccount haux hsec hfree hbarred hacc
  | some k =>
    obtain rfl : verified = false := hfails.resolve_left (by simp [hacc])
    exact exec_fmpSessionOpen_badProof haux hsec hfree hbarred hacc

end Open

/-- A failed opening keeps the sessions' clients and counts against its source, which the eighth bars. -/
theorem State.openFails_counts (s : State) (source : Nat) :
    (s.openFails source).mgmt.sessions.map Sess.client = s.mgmt.sessions.map Sess.client ∧
      tabGet (s.openFails source).mgmt.failures source 0 = tabGet s.mgmt.failures source 0 + 1 ∧
      (s.openFails source).led.esn = s.led.esn + 1 ∧
      (8 ≤ tabGet (s.openFails source).mgmt.failures source 0 → source ∈ (s.openFails source).mgmt.barred) := by
  obtain ⟨hclients, hfailures, hbarred⟩ := (s.countFailure source).openRefused_mgmt source
  have hcount : tabGet (s.countFailure source).mgmt.failures source 0 = tabGet s.mgmt.failures source 0 + 1 := tabGet_tabSet_same ..
  rw [State.openFails_eq, hfailures, hbarred, hcount]
  refine ⟨hclients, rfl, State.openRefused_led_esn _ _, fun h8 => ?_⟩
  rw [State.countFailure, if_pos h8]
  exact (mem_setIns ..).2 (.inl rfl)

/- Roles. -/

section Denied
variable {s : State} {id : Fin 8} {role : Nat}

/-- A session in which 2^32 records were sent closes at its next request (R386). -/
theorem State.fmpOp_worn {run : State → State} (h : ∃ e ∈ s.mgmt.sessions, e.id = id.val ∧ 2 ^ 32 ≤ e.sent) :
    s.fmpOp id role run = s.dropSessions (fun e => e.id == id.val) 5 := by
  obtain ⟨e, he, hid, hsent⟩ := h
  have hopen : s.mgmt.sessions.any (fun e => e.id == id.val) = true := List.any_eq_true.2 ⟨e, he, by simp [hid]⟩
  have hworn : s.mgmt.sessions.any (fun e => e.id == id.val && decide (2 ^ 32 ≤ e.sent)) = true :=
    by
    refine List.any_eq_true.2 ⟨e, he, ?_⟩
    simp only [hid, beq_self_eq_true, Bool.true_and, decide_eq_true_eq]
    exact hsent
  rw [State.fmpOp, hopen, hworn]
  rfl

/-- An open session whose account lacks the role is answered DENIED, whatever it asks (R389). -/
theorem State.fmpOp_denied {run : State → State} (hopen : s.sessionOpen id = true) (hrole : s.hasRole (mgmtOf id) role = false) :
    s.fmpOp id role run = s.fmpAns id 1 := by
  simp only [State.sessionOpen, Bool.and_eq_true, Bool.not_eq_true', mgmtOf] at hopen hrole
  obtain ⟨hsess, hsent⟩ := hopen
  rw [State.fmpOp, hsess, hsent, hrole]
  rfl

end Denied

/-- Settles O52: the branch of an opening that its hypotheses leave; every operation of a role goes through `State.fmpOp`. -/
theorem sessionsOpenWithProof : Obligations.SessionsOpenWithProof := by
  intro s source account verified id i k
  refine ⟨fun haux hsec hfree => ⟨exec_fmpSessionOpen_opens haux hsec hfree,
      fun hbarred hfails => ⟨_, exec_fmpSessionOpen_fails haux hsec hfree hbarred hfails, s.openFails_counts source⟩,
      fun hbarred => ⟨_, exec_fmpSessionOpen_barred haux hsec hfree hbarred, ?barred⟩⟩,
    rfl, ⟨_, rfl, ?lifted, ?forgiven, rfl⟩, fun role hopen hrole f d g m p a n on esn => ?denied,
    fun hworn => congrArg Host.Outcome.next (State.fmpOp_worn hworn)⟩
  case barred =>
    obtain ⟨hclients, hfailures, hbarred⟩ := s.openRefused_mgmt source
    exact ⟨hclients, hfailures, hbarred, s.openRefused_led_esn source⟩
  case lifted => simp [mem_setDel]
  case forgiven => exact (tabGet_tabDel ..).trans (if_pos rfl)
  case denied =>
    have hdenied (run : State → State) : (.next (s.fmpOp id role run) : Out) = .next (s.fmpAns id 1) :=
      congrArg Host.Outcome.next (State.fmpOp_denied hopen hrole)
    simp only [List.forall_mem_cons, List.not_mem_nil, false_imp_iff, implies_true, and_true]
    refine ⟨?attest, ?operate, ?assign, ?firmware, ?debug, ?security⟩
    case attest | operate | assign | security =>
      rintro rfl
      exact ⟨hdenied _, hdenied _, hdenied _⟩
    case firmware =>
      rintro rfl
      exact ⟨hdenied _, hdenied _⟩
    case debug =>
      rintro rfl
      exact ⟨hdenied _, hdenied _, hdenied _, hdenied _⟩

end Sys2Proof.Machine
end

section
/-! PROOF. Accounts, enrolment, reports, certificates and sensors (R383, R385, R388, R389, R395 to R401). -/

namespace Sys2Proof.Machine

section Accounts
variable {s : State} {id : Fin 8} {a : Account} {name : String} (h : s.sessionHas id 5 = true) (hname : a.name.utf8ByteSize ≤ 32)
include h

include hname in
theorem exec_accountAdd_replaces (hlike : s.nvm.accounts.any (fun e => e.name == a.name) = true) : exec (.accountAdd id a) s =
    .next ((s.putAccounts (s.nvm.accounts.map fun e => if e.name = a.name then a else e)).fmpAns id 0) :=
  congrArg Host.Outcome.next ((State.fmpOp_of_sessionHas h).trans ((if_neg (Nat.not_lt.2 hname)).trans (if_pos hlike)))

include hname in
theorem exec_accountAdd_joins (hnew : s.nvm.accounts.any (fun e => e.name == a.name) = false) (hroom : s.nvm.accounts.length < 16) :
    exec (.accountAdd id a) s = .next ((s.putAccounts (s.nvm.accounts ++ [a])).fmpAns id 0) :=
  congrArg Host.Outcome.next ((State.fmpOp_of_sessionHas h).trans ((if_neg (Nat.not_lt.2 hname)).trans
    ((if_neg (by simp only [hnew]; decide)).trans (if_neg (Nat.not_le.2 hroom)))))

include hname in
theorem exec_accountAdd_full (hnew : s.nvm.accounts.any (fun e => e.name == a.name) = false) (hfull : 16 ≤ s.nvm.accounts.length) :
    exec (.accountAdd id a) s = .next (s.fmpAns id 5) :=
  congrArg Host.Outcome.next ((State.fmpOp_of_sessionHas h).trans ((if_neg (Nat.not_lt.2 hname)).trans
    ((if_neg (by simp only [hnew]; decide)).trans (if_pos hfull))))

omit h in
/-- A removal that finds its account takes something out of the list. -/
theorem length_filter_name_ne {l : List Account} (hfound : ∃ e ∈ l, e.name = name) : (l.filter fun e => e.name != name).length ≠ l.length := by
  obtain ⟨e, he, hname⟩ := hfound
  refine Nat.ne_of_lt (List.length_filter_lt_length_iff_exists.2 ⟨e, he, ?_⟩)
  simp [hname]

/-- The last account with SECURITY stays. -/
theorem exec_accountRemove_last (hsec : s.nvm.accounts.any (fun e => e.name == name && bit e.roles 5) = true)
    (hlast : ∀ e ∈ s.nvm.accounts, e.name ≠ name → bit e.roles 5 = false) : exec (.accountRemove id name) s = .next (s.fmpAns id 5) := by
  have hfound : ∃ e ∈ s.nvm.accounts, e.name = name := by
    obtain ⟨e, he, hboth⟩ := List.any_eq_true.1 hsec
    exact ⟨e, he, by simpa using (Bool.and_eq_true_iff.1 hboth).1⟩
  have hrest : ((s.nvm.accounts.filter fun e => e.name != name).any fun e => bit e.roles 5) = false := by
    simp only [List.any_eq_false, List.mem_filter, bne_iff_ne]
    exact fun e ⟨he, hne⟩ => by simp [hlast e he hne]
  refine congrArg Host.Outcome.next ((State.fmpOp_of_sessionHas h).trans ((if_neg (length_filter_name_ne hfound)).trans (if_pos ?_)))
  rw [hsec, hrest]
  rfl

theorem exec_accountRemove_removes (hfound : ∃ e ∈ s.nvm.accounts, e.name = name)
    (hother : ∃ e ∈ s.nvm.accounts, e.name ≠ name ∧ bit e.roles 5 = true) : exec (.accountRemove id name) s =
    .next (((s.putAccounts (s.nvm.accounts.filter fun e => e.name != name)).fmpAns id 0).dropSessions (fun x => x.account == name) 3) := by
  have hrest : ((s.nvm.accounts.filter fun e => e.name != name).any fun e => bit e.roles 5) = true := by
    obtain ⟨e, he, hne, hbit⟩ := hother
    exact List.any_eq_true.2 ⟨e, List.mem_filter.2 ⟨he, by simpa using hne⟩, hbit⟩
  refine congrArg Host.Outcome.next ((State.fmpOp_of_sessionHas h).trans ((if_neg (length_filter_name_ne hfound)).trans (if_neg ?_)))
  rw [hrest]
  simp

end Accounts

section Enrolment
variable {s : State} {a : Account}

theorem exec_enrolment_enrols (hempty : s.nvm.accounts = []) (hname : a.name.utf8ByteSize ≤ 32) (haux : s.panel.aux = true) :
    exec (.enrolment a) s = .next
      (({ s with nvm := { s.nvm with accounts := [{ a with roles := 0x3F }] } } : State).info s.modUid 0xBB 0 0 0).nvmCommit := by
  refine congrArg Host.Outcome.next (if_neg ?_)
  simp [hempty, haux, Nat.not_lt.2 hname]

theorem exec_enrolment_notEmpty (hne : s.nvm.accounts ≠ []) : exec (.enrolment a) s = .next s := by
  refine congrArg Host.Outcome.next (if_pos ?_)
  simp [hne]

end Enrolment

section Spdm
variable {s : State} {doe : Bool} {run : State → State} (haux : s.panel.aux = true) (hlink : s.sch.hostLink = true)
include haux hlink

theorem State.spdmAsk_served (hsec : (s.procE 0).served = true) : s.spdmAsk doe run = run s := by
  simp [State.spdmAsk, haux, hlink, hsec]

theorem State.spdmAsk_activating (hsec : (s.procE 0).served = false) (hboot : s.boot.halted = false) (hbusy : s.mgmt.spdmBusy = true) :
    s.spdmAsk doe run = s.emit (.spdm true none) := by
  simp [State.spdmAsk, haux, hlink, hsec, hboot, hbusy]

theorem State.spdmAsk_held (hsec : (s.procE 0).served = false) (hboot : s.boot.halted = false) (hbusy : s.mgmt.spdmBusy = false)
    (hheld : (s.procE 0).state = 2) : s.spdmAsk doe run = s.emit (.spdm false none) := by
  simp [State.spdmAsk, haux, hlink, hsec, hboot, hbusy, hheld]

theorem State.spdmAsk_restarting (hsec : (s.procE 0).served = false) (hboot : s.boot.halted = false) (hbusy : s.mgmt.spdmBusy = false)
    (hheld : (s.procE 0).state ≠ 2) : s.spdmAsk doe run = (s.emit (.spdm false none)).info s.modUid 0xB8 0 (b2n doe) 0 := by
  simp only [State.spdmAsk, haux, hlink, hsec, hboot, hbusy, Bool.not_true, Bool.and_false, Bool.or_false, Bool.false_and,
    Bool.false_eq_true, if_false, if_neg hheld]
  rfl

theorem exec_spdmMeasurements_all (hsec : (s.procE 0).served = true) : exec (.spdmMeasurements doe none) s =
    .next ((s.report s.blocks).1.emit (.spdm false (some (s.report s.blocks).2))) :=
  congrArg Host.Outcome.next ((State.spdmAsk_served haux hlink hsec).trans (if_neg (by simp [State.blocks])))

theorem exec_spdmRequest_other (hsec : (s.procE 0).served = true) (code : BitVec 8) : Completes (.spdmRequest doe (.other code)) s fun t =>
    ∃ b, t.out = .spdm false (some b) :: s.out :=
  ⟨_, congrArg Host.Outcome.next (State.spdmAsk_served haux hlink hsec), _, rfl⟩

theorem exec_spdmRequest_certificate (hsec : (s.procE 0).served = true) (slot : Nat) : exec (.spdmRequest doe (.certificate slot)) s =
    .next (s.emit (if slot < 2 then .certs slot (s.certChain slot) else .spdm false none)) :=
  congrArg Host.Outcome.next (State.spdmAsk_served haux hlink hsec)

end Spdm

/-- Both requests of SPDM ask SEC. -/
theorem exec_spdm_asks (s : State) (doe : Bool) (ask : SpdmAsk) (block : Option (BitVec 8)) :
    ∀ c ∈ [Instr.spdmRequest doe ask, .spdmMeasurements doe block], ∃ run, exec c s = .next (s.spdmAsk doe run) := by
  simp only [List.forall_mem_cons, List.not_mem_nil, false_imp_iff, implies_true, and_true]
  exact ⟨⟨_, rfl⟩, ⟨_, rfl⟩⟩

section Keys
variable (i : Ident)

theorem Ident.layer0_locked (h : i.locked = true) : i.layer0 = i := if_pos h

theorem Ident.layer0_unlocked (h : i.locked = false) :
    i.layer0 = { i with locked := true, device := [Config.deviceKey 0 i.secret, Config.deviceKey 1 i.secret] } :=
  if_neg (by simp [h])

end Keys

theorem exec_pldmRequest_sensor {s : State} {n v : Nat} (haux : s.panel.aux = true) (hboot : s.boot.halted = false)
    (hsensor : s.pldmSensor n = some v) : exec (.pldmRequest true n) s = .next (s.emit (.pldm n v)) := by
  simp [exec, execPldmRequest, haux, hboot, hsensor]

/-- Settles O56: the branch of each operation that its hypotheses leave; the chain and the keys are as R395 and R396 list them. -/
theorem accountsAndAttestation : Obligations.AccountsAndAttestation := by
  refine ⟨fun s id a name hname => ⟨fun h => ⟨exec_accountAdd_joins h hname, exec_accountAdd_replaces h hname, exec_accountAdd_full h hname,
      exec_accountRemove_last h, exec_accountRemove_removes h, congrArg Host.Outcome.next (State.fmpOp_of_sessionHas h)⟩,
    rfl, fun hempty haux => ⟨_, exec_enrolment_enrols hempty hname haux, ?enrolled⟩, exec_enrolment_notEmpty⟩,
    fun s id doe code n v => ⟨fun h => congrArg Host.Outcome.next (State.fmpOp_of_sessionHas h),
      fun haux hlink hsec => ⟨exec_spdmMeasurements_all haux hlink hsec, exec_spdmRequest_other haux hlink hsec code,
        fun hn => ?chain, fun hn => ?noSlot⟩,
      fun haux hlink hsec hboot ask b c hc => ?down,
      ⟨fun k hk => ⟨_, _, _, _, rfl, rfl, rfl⟩, fun i g => ⟨rfl, rfl, i.layer0_locked, fun h => ?unlocked⟩⟩,
      exec_pldmRequest_sensor⟩⟩
  case enrolled =>
    refine ⟨?_, ?_⟩
    · simp [State.nvmCommit]
    · rw [State.nvmCommit_led, State.info_led_esn]
  case chain => rw [exec_spdmRequest_certificate haux hlink hsec, if_pos hn]
  case noSlot => rw [exec_spdmRequest_certificate haux hlink hsec, if_neg (Nat.not_lt.2 hn)]
  case down =>
    obtain ⟨run, hrun⟩ := exec_spdm_asks s doe ask b c hc
    exact ⟨fun hbusy => hrun.trans (congrArg _ (State.spdmAsk_activating haux hlink hsec hboot hbusy)),
      fun hbusy hheld => hrun.trans (congrArg _ (State.spdmAsk_held haux hlink hsec hboot hbusy hheld)),
      fun hbusy hheld => hrun.trans (congrArg _ (State.spdmAsk_restarting haux hlink hsec hboot hbusy hheld))⟩
  case unlocked =>
    rw [i.layer0_unlocked h]
    exact ⟨rfl, rfl⟩

end Sys2Proof.Machine
end

section
/-! PROOF. Ledger selections are per reader; the ledger streams and is acknowledged (R336, R337, R394). -/

namespace Sys2Proof.Machine

/- Selections. -/

/-- LDG_SEL keeps N, its 14 low bits. -/
theorem bits_ldgSel (v : BitVec 64) : bits (reg [(v.toNat, 0, 14)]) 13 0 = bits v 13 0 := by
  simp only [bits, reg, packFields, fld, BitVec.toNat_ofNat]
  omega

/-- LDG_SEL of a reader in a unit's window, written with v (R337). -/
def State.selects (s : State) (r : Nat) (unit : BitVec 32) (v : BitVec 64) : State :=
  { s with ldgSel := tabSet s.ldgSel (selKey r unit) (reg [(v.toNat, 0, 14)]) }

theorem State.selected_selects (s : State) (r : Nat) (unit : BitVec 32) (v : BitVec 64) (q : Nat) (u : BitVec 32) :
    (s.selects r unit v).selected q u = if selKey q u = selKey r unit then (s.visible q u)[bits v 13 0]? else s.selected q u := by
  by_cases h : selKey q u = selKey r unit
  · simp only [State.selected, State.selects, tabFind_tabSet, h, if_true, bits_ldgSel]
    rfl
  · simp only [State.selected, State.selects, tabFind_tabSet, if_neg (Ne.symm h), if_neg h]
    rfl

/- The stream. -/

/-- A stored record is delivered to a session (R394). -/
def State.streamRec (id : Fin 8) (s : State) (r : Rec) : State := (s.emit (.ledgerEvent id.val r.esn)).fmpSent id.val

theorem State.streamRec_foldl (id : Fin 8) (l : List Rec) (s : State) : (l.foldl (State.streamRec id) s).led = s.led ∧
    (∀ e ∈ s.out, e ∈ (l.foldl (State.streamRec id) s).out) ∧
    ∀ r ∈ l, OutEv.ledgerEvent id.val r.esn ∈ (l.foldl (State.streamRec id) s).out := by
  induction l generalizing s with
  | nil => exact ⟨rfl, fun e he => he, fun r hr => absurd hr List.not_mem_nil⟩
  | cons r l ih =>
    obtain ⟨hled, hout, hevents⟩ := ih (s.streamRec id r)
    refine ⟨hled, fun e he => hout e (List.mem_cons_of_mem _ he), fun q hq => ?_⟩
    obtain rfl | hq := List.mem_cons.1 hq
    · exact hout _ List.mem_cons_self
    · exact hevents q hq

/-- The session that has the stream loses it to another, and hears of it (R394). -/
def State.streamTaken (s : State) (id : Fin 8) : State :=
  match s.mgmt.stream with
  | some old => if old = id.val then s else s.fmpEvent old 0x10
  | none => s

theorem State.streamTaken_led (s : State) (id : Fin 8) : (s.streamTaken id).led = s.led := by
  unfold State.streamTaken
  split
  · split
    · rfl
    · rfl
  · rfl

/-- Every stored record has been delivered to the session that has the stream now. -/
def State.streamed (s : State) (id : Fin 8) : State :=
  { s.led.recs.foldl (State.streamRec id) s with
    mgmt := { (s.led.recs.foldl (State.streamRec id) s).mgmt with stream := some id.val }
    led := { (s.led.recs.foldl (State.streamRec id) s).led with
      recs := (s.led.recs.foldl (State.streamRec id) s).led.recs.map fun (r : Rec) => { r with delivered := true } } }

section Stream
variable {s : State} {id : Fin 8} (h : s.sessionHas id 0 = true)
include h

theorem exec_ledgerStream : exec (.ledgerStream id) s = .next (((s.fmpAns id 0).streamTaken id).streamed id) :=
  congrArg Host.Outcome.next (State.fmpOp_of_sessionHas h)

theorem exec_ledgerAck (esn : BitVec 64) : exec (.ledgerAck id esn) s = .next
    (({ s with led := { s.led with recs := s.led.recs.filter fun r => !(r.delivered && r.esn ≤ esn.toNat) } } : State).fmpAns id 0) :=
  congrArg Host.Outcome.next (State.fmpOp_of_sessionHas h)

end Stream

theorem State.streamed_delivers (s : State) (id : Fin 8) : (s.streamed id).mgmt.stream = some id.val ∧
    (s.streamed id).led.recs = s.led.recs.map (fun (r : Rec) => { r with delivered := true }) ∧ (s.streamed id).led.esn = s.led.esn ∧
    ∀ r ∈ s.led.recs, OutEv.ledgerEvent id.val r.esn ∈ (s.streamed id).out := by
  obtain ⟨hled, -, hevents⟩ := State.streamRec_foldl id s.led.recs s
  refine ⟨rfl, ?_, ?_, hevents⟩
  · rw [State.streamed, hled]
  · rw [State.streamed, hled]

/-- Settles O44: a selection is one entry of a table with the reader and the window in its key; the stream delivers record by record. -/
theorem ledgerReadersSeeTheirOwn : Obligations.LedgerReadersSeeTheirOwn := by
  refine ⟨fun w unit v s hunit => ⟨fun hnone => ?noReader, fun r hr => ⟨s.selects r unit v, ?writes, rfl, ?own, fun q u hkey => ?others⟩⟩,
    fun s id esn h => ⟨⟨_, exec_ledgerStream h, ?streams⟩, exec_ledgerAck h esn⟩⟩
  case noReader =>
    refine congrArg Host.Outcome.next ?_
    rw [if_pos hunit, hnone]
  case writes =>
    refine congrArg Host.Outcome.next ?_
    rw [if_pos hunit, hr]
    rfl
  case own => rw [State.selected_selects, if_pos rfl]
  case others => rw [State.selected_selects, if_neg hkey]
  case streams =>
    have hled : ((s.fmpAns id 0).streamTaken id).led = s.led := (s.fmpAns id 0).streamTaken_led id
    exact hled ▸ ((s.fmpAns id 0).streamTaken id).streamed_delivers id

end Sys2Proof.Machine
end

section
/-! PROOF. Heartbeats, watchdogs and restarts of the firmware processors (R363 to R368, R379). -/

namespace Sys2Proof.Machine

/-- A processor that served has gone down and counts the restart (R368). -/
def State.restarted (t : State) (p : Nat) : State :=
  (t.goDown p 1 (t.procE p).bank).procM p fun e => { e with recent := (t.procE p).recent ++ [0] }

section Restart
variable {t : State} {p : Nat}

theorem State.restart_down (hserved : (t.procE p).served = false) : t.restart p = t := if_pos (by simp [hserved])

/-- A processor outside an activation goes down; what follows depends on its restarts within 60 s alone. -/
theorem State.restart_serving (hserved : (t.procE p).served = true) (hheld : (t.procE p).state ≠ 2) (hact : (t.procE p).state ≠ 3) :
    t.restart p = if (t.procE p).recent.length + 1 < 3 then t.restarted p else if (t.procE p).fresh.isSome then
      ((t.restarted p).raiseRec { unit := (t.restarted p).modUid, cls := 3, code := 0xA3, d0 := BitVec.ofNat 64 p }).fallback (compOf p)
    else (t.restarted p).hold p := by
  have hturn : ((t.procE p).state == 3) = false := beq_false_of_ne hact
  simp only [State.restart, State.restarted, hserved, hheld, hact, hturn, List.length_append, List.length_singleton, Bool.not_true,
    Bool.false_or, Bool.false_and, Bool.bne_false, Bool.false_eq_true, decide_false, if_false]

end Restart

section Serves
variable {s t : State} {p : ProcN}

theorem exec_heartbeat_served (x : BitVec 64) (hserved : (s.procE p.val).served = true) :
    exec (.heartbeat p x) s = .next (s.procM p.val fun e => { e with
      progress := x, beatAge := 0, recent := (e.recent.map (· + 1)).filter fun t => decide (t < 60000)
      fresh := match e.fresh with | some t => if t + 1 < 10000 then some (t + 1) else none | none => none }) :=
  congrArg Host.Outcome.next (if_neg (by simp [hserved]))

/-- PMC or SCH serves again outside an activation; SCH then makes the epoch changes that waited (R366). -/
theorem exec_processorServing_pmc_sch (hp : p.val = 1 ∨ p.val = 2) (hserved : (s.procE p.val).served = false)
    (hstate : (s.procE p.val).state = 1)
    (ht : t = (s.procM p.val fun e => { e with
      state := if s.pwr.deferred.contains (.activate (compOf p.val)) then 4 else 0, served := true, beatAge := 0 }).info s.modUid 0xA2 0 p.val 0) :
    exec (.processorServing p) s = .next (if p.val = 2 then t.schServes else t) := by
  have hsec : p.val ≠ 0 := by omega
  have hcfc : ¬3 ≤ p.val := by omega
  subst ht
  refine congrArg Host.Outcome.next ((if_neg (by simp [hserved, hstate])).trans ?_)
  simp only [hstate, hsec, hcfc, if_false, decide_false, Bool.false_and, Bool.false_eq_true]
  rfl

end Serves

/-- Settles O48: a heartbeat, a miss and an expiry by their guards, and a restart by `State.restart_serving`. -/
theorem processorsBeatAndRestart : Obligations.ProcessorsBeatAndRestart := by
  refine fun p s t => ⟨fun x => exec_heartbeat_served x,
    fun hheld => ⟨congrArg Host.Outcome.next (if_pos hheld), congrArg Host.Outcome.next (if_pos hheld)⟩,
    fun hheld => ⟨congrArg Host.Outcome.next (if_neg hheld), congrArg Host.Outcome.next (if_neg hheld)⟩,
    State.restart_down, fun hserved hheld hact hrecent => ?few, fun hserved hheld hact hrecent hfresh => ?third,
    exec_processorServing_pmc_sch⟩
  case few => exact (State.restart_serving hserved hheld hact).trans (if_pos (by omega))
  case third =>
    rw [State.restart_serving hserved hheld hact, if_neg (by omega), hfresh]
    rfl

end Sys2Proof.Machine
end

section
/-! SUPPORT. What a drain leaves of the state, and that it ends every job (R293, R349). -/

namespace Sys2Proof.Machine

/- Cancelled work. -/

/-- The state without what the work of the contexts is made of. -/
def State.offWork (s : State) : State := { s with seqs := [], cores := [], colls := [], joins := [], collHeld := [] }

theorem State.offWork_of_offSeqs {s t : State} (h : t.offSeqs = s.offSeqs) : t.offWork = s.offWork := by
  rw [State.eq_of_offSeqs h]
  rfl

theorem State.jobs_of_offWork {s t : State} (h : t.offWork = s.offWork) : t.jobs = s.jobs :=
  show t.offWork.jobs = s.offWork.jobs from congrArg State.jobs h

theorem State.dropIssue_offWork (s : State) (ctx : Nat) : (s.dropIssue ctx).1.offWork = s.offWork := by
  refine foldl_view (view := fun p : State × Nat => p.1.offWork) (fun cl _ p => ?_) (s, 0)
  split
  · rfl
  · rfl

theorem State.flushCore_offWork (s : State) (ctx core : Nat) (o : Outcm) : (s.flushCore ctx core o).1.offWork = s.offWork := rfl

theorem State.dropColls_offWork (s : State) (ctx : Nat) : (s.dropColls ctx).offWork = s.offWork := rfl

/-- The untaken instructions of a context leave one core, those active end, and both are counted (R293). -/
def State.cancelCore (ctx : Nat) (o : Outcm) (p : State × Nat) (core : Nat) : State × Nat :=
  ((p.1.flushCore ctx core o).1, p.2 + (p.1.flushCore ctx core o).2 +
    ([0, 1, 2].map fun q => (((p.1.coreE ctx core).queue q).filter fun e => e.taken && e.result.isNone).length).sum)

theorem State.cancelCtx_fst (s : State) (ctx : Nat) (o : Outcm) : (s.cancelCtx ctx o).1 =
    ((((s.stopSeqs ctx o).dropIssue ctx).1.coresOf ctx).foldl (State.cancelCore ctx o) ((s.stopSeqs ctx o).dropIssue ctx)).1.dropColls ctx := by
  unfold State.cancelCtx
  dsimp only
  rw [Prod.mk.eta]
  rfl

theorem State.cancelCore_foldl_offWork (ctx : Nat) (o : Outcm) (l : List Nat) (p : State × Nat) :
    (l.foldl (State.cancelCore ctx o) p).1.offWork = p.1.offWork :=
  foldl_view (f := State.cancelCore ctx o) (view := fun p : State × Nat => p.1.offWork)
    (fun core _ p => p.1.flushCore_offWork ctx core o) p

theorem State.cancelCtx_offWork (s : State) (ctx : Nat) (o : Outcm) : (s.cancelCtx ctx o).1.offWork = s.offWork := by
  rw [State.cancelCtx_fst, State.dropColls_offWork, State.cancelCore_foldl_offWork, State.dropIssue_offWork,
    State.offWork_of_offSeqs (s.stopSeqs_offSeqs ctx o)]

/-- The state without what cancelled jobs change. -/
def State.offCancel (s : State) : State :=
  { s.offWork with jobs := [], out := [], sch := { s.sch with drainJobs := 0, drainInstrs := 0 } }

theorem State.offCancel_of_offWork {s t : State} (h : t.offWork = s.offWork) : t.offCancel = s.offCancel :=
  calc t.offCancel = { t.offWork with jobs := [], out := [], sch := { t.offWork.sch with drainJobs := 0, drainInstrs := 0 } } := rfl
    _ = s.offCancel := by rw [h]; rfl

/- Jobs. -/

/-- The job k is j further on: an ended one stays ended, and one with an outcome keeps one. -/
structure Job.Leads (j k : Job) : Prop where
  id : k.id = j.id
  ctx : k.ctx = j.ctx
  ended : j.phase = .ended → k.phase = .ended
  res : j.res.isSome = true → k.res.isSome = true

theorem Job.Leads.refl (j : Job) : j.Leads j := ⟨rfl, rfl, fun h => h, fun h => h⟩

theorem Job.Leads.trans {j k l : Job} (h : j.Leads k) (h' : k.Leads l) : j.Leads l :=
  ⟨h'.id.trans h.id, h'.ctx.trans h.ctx, fun e => h'.ended (h.ended e), fun e => h'.res (h.res e)⟩

/-- Nothing of a job goes on: it has ended or has its outcome, or its context's fault ends it. -/
def State.Stopped (s : State) (j : Job) : Prop := j.phase = .ended ∨ j.res.isSome = true ∨ (s.runE j.ctx).fault.isSome = true

theorem State.Stopped.leads {s t : State} {j k : Job} (h : s.Stopped j) (hjk : j.Leads k) (hruns : t.runs = s.runs) : t.Stopped k := by
  obtain hended | hres | hfault := h
  · exact .inl (hjk.ended hended)
  · exact .inr (.inl (hjk.res hres))
  · refine .inr (.inr ?_)
    rwa [hjk.ctx, State.runE, hruns]

theorem State.tellStop_offCancel (s : State) (ctx : Nat) (o : Outcm) (origin : Nat) :
    (s.tellStop ctx o origin).offCancel = s.offCancel := by
  have hemit (f : FlitLoad) (l : List Nat) (t : State) := foldl_view (l := l) (view := State.offCancel)
    (f := fun (s : State) m => if m = s.modIdx || m = origin then s else s.emit (.flit m .c f))
    (fun m _ t => by split <;> rfl) t
  unfold State.tellStop
  split
  · rfl
  · dsimp only
    split
    · exact (hemit _ _ _).trans rfl
    · rfl

/-- Every job that a stop leaves was there, and has gone on. -/
theorem State.tellStop_jobs (s : State) (ctx : Nat) (o : Outcm) (origin : Nat) :
    ∀ k ∈ (s.tellStop ctx o origin).jobs, ∃ j ∈ s.jobs, j.Leads k := by
  have hemit (f : FlitLoad) (l : List Nat) (t : State) := foldl_view (l := l) (view := State.jobs)
    (f := fun (s : State) m => if m = s.modIdx || m = origin then s else s.emit (.flit m .c f))
    (fun m _ t => by split <;> rfl) t
  have hmap (i : Nat) (k : Job) (hk : k ∈ s.jobs.map fun (k : Job) => if k.id = i then { k with told := true } else k) :
      ∃ j ∈ s.jobs, j.Leads k := by
    obtain ⟨j, hj, rfl⟩ := List.mem_map.1 hk
    refine ⟨j, hj, ?_⟩
    split
    · exact ⟨rfl, rfl, fun h => h, fun h => h⟩
    · exact .refl j
  intro k hk
  unfold State.tellStop at hk
  split at hk
  · exact ⟨k, hk, .refl k⟩
  · dsimp only at hk
    split at hk
    · rw [hemit] at hk
      exact hmap _ k hk
    · exact hmap _ k hk

/- Cancelled jobs. -/

theorem State.runs_of_offCancel {s t : State} (h : t.offCancel = s.offCancel) : t.runs = s.runs :=
  show t.offCancel.runs = s.offCancel.runs from congrArg State.runs h

theorem State.health_of_offCancel {s t : State} (h : t.offCancel = s.offCancel) : t.health = s.health :=
  show t.offCancel.health = s.offCancel.health from congrArg State.health h

theorem State.led_of_offCancel {s t : State} (h : t.offCancel = s.offCancel) : t.led = s.led :=
  show t.offCancel.led = s.offCancel.led from congrArg State.led h

theorem State.panel_of_offCancel {s t : State} (h : t.offCancel = s.offCancel) : t.panel = s.panel :=
  show t.offCancel.panel = s.offCancel.panel from congrArg State.panel h

/-- The state u is t once job i has been cancelled, where it is selected: every job was there, has gone on, and is stopped if it is i further
on. -/
structure State.Cancels (sel : Job → Bool) (t : State) (i : Job) (u : State) : Prop where
  rest : u.offCancel = t.offCancel
  jobs : ∀ k ∈ u.jobs, ∃ j ∈ t.jobs, j.Leads k ∧ (sel i = true → i.Leads j → t.Stopped k)

section Cancel
variable {sel : Job → Bool}

/-- A job that is not selected, or stopped already, needs nothing. -/
theorem State.Cancels.of_stopped {t : State} {i : Job} (h : sel i = true → t.Stopped i) : State.Cancels sel t i t :=
  ⟨rfl, fun k hk => ⟨k, hk, .refl k, fun hsel hik => (h hsel).leads hik rfl⟩⟩

theorem State.cancels_foldl {f : State → Job → State} (hf : ∀ (t : State) (i : Job), State.Cancels sel t i (f t i)) (l : List Job) (t : State) :
    (l.foldl f t).offCancel = t.offCancel ∧
      ∀ k ∈ (l.foldl f t).jobs, ∃ j ∈ t.jobs, j.Leads k ∧ ∀ i ∈ l, sel i = true → i.Leads j → t.Stopped k := by
  induction l generalizing t with
  | nil => exact ⟨rfl, fun k hk => ⟨k, hk, .refl k, fun i hi => absurd hi List.not_mem_nil⟩⟩
  | cons i l ih =>
    obtain ⟨hrest, hjobs⟩ := ih (f t i)
    refine ⟨hrest.trans (hf t i).rest, fun k hk => ?_⟩
    obtain ⟨k', hk', hlead', hstop'⟩ := hjobs k hk
    obtain ⟨j, hj, hlead, hstop⟩ := (hf t i).jobs k' hk'
    have hruns := State.runs_of_offCancel (hf t i).rest
    refine ⟨j, hj, hlead.trans hlead', fun i' hi' hsel hij => ?_⟩
    obtain rfl | hi' := List.mem_cons.1 hi'
    · exact (hstop hsel hij).leads hlead' rfl
    · exact (hstop' i' hi' hsel (hij.trans hlead)).leads (.refl k) hruns.symm

/-- The jobs of job i's number change, and the drain's counts. -/
def State.settleJob (s : State) (i : Job) (g : Job → Job) (jobs instrs : Nat) : State :=
  { s with jobs := s.jobs.map fun k => if k.id = i.id then g k else k
           sch := { s.sch with drainJobs := jobs, drainInstrs := instrs } }

theorem State.settleJob_offCancel (s : State) (i : Job) (g : Job → Job) (jobs instrs : Nat) :
    (s.settleJob i g jobs instrs).offCancel = s.offCancel := rfl

/-- Where the jobs of i's number get an outcome, i is cancelled. -/
theorem State.Cancels.settleJob {t u : State} {i : Job} {g : Job → Job} (jobs instrs : Nat) (hrest : u.offCancel = t.offCancel)
    (hjobs : ∀ k ∈ u.jobs, ∃ j ∈ t.jobs, j.Leads k) (hg : ∀ k, k.Leads (g k) ∧ (g k).res.isSome = true) :
    State.Cancels sel t i (u.settleJob i g jobs instrs) := by
  refine ⟨(u.settleJob_offCancel i g jobs instrs).trans hrest, fun k hk => ?_⟩
  obtain ⟨k', hk', rfl⟩ := List.mem_map.1 hk
  obtain ⟨j, hj, hlead⟩ := hjobs k' hk'
  by_cases hid : k'.id = i.id
  · rw [if_pos hid]
    exact ⟨j, hj, hlead.trans (hg k').1, fun _ _ => .inr (.inl (hg k').2)⟩
  · rw [if_neg hid]
    exact ⟨j, hj, hlead, fun _ hij => absurd (hlead.id.trans hij.id) hid⟩

/-- A running job's context is cancelled, and the span hears of it; every job was there, and has gone on. -/
theorem State.cancelCtx_tellStop (t : State) (c : Nat) (o : Outcm) (origin : Nat) :
    ((t.cancelCtx c o).1.tellStop c o origin).offCancel = t.offCancel ∧
      ∀ k ∈ ((t.cancelCtx c o).1.tellStop c o origin).jobs, ∃ j ∈ t.jobs, j.Leads k := by
  have hwork := t.cancelCtx_offWork c o
  have hjobs : (t.cancelCtx c o).1.jobs = t.jobs := State.jobs_of_offWork hwork
  refine ⟨(State.tellStop_offCancel _ c o origin).trans (State.offCancel_of_offWork hwork), fun k hk => ?_⟩
  obtain ⟨j, hj, hlead⟩ := State.tellStop_jobs (t.cancelCtx c o).1 c o origin k hk
  exact ⟨j, hjobs ▸ hj, hlead⟩

/-- Cancelling leaves the jobs that were there, further on, and of the selected ones none that is not stopped (R293, R349). -/
theorem State.cancelJobs_stops (s : State) (o : Outcm) : (s.cancelJobs sel o).offCancel = s.offCancel ∧
    ∀ k ∈ (s.cancelJobs sel o).jobs, ∃ j ∈ s.jobs, j.Leads k ∧ (sel j = true → s.Stopped k) := by
  suffices h : _ ∧ ∀ k ∈ (s.cancelJobs sel o).jobs, ∃ j ∈ s.jobs, j.Leads k ∧ ∀ i ∈ s.jobs, sel i = true → i.Leads j → s.Stopped k by
    refine ⟨h.1, fun k hk => ?_⟩
    obtain ⟨j, hj, hlead, hstop⟩ := h.2 k hk
    exact ⟨j, hj, hlead, fun hsel => hstop j hj hsel (.refl j)⟩
  refine State.cancels_foldl (fun t i => ?_) s.jobs s
  dsimp only
  split
  · next hsel => exact .of_stopped fun h => absurd h (by simpa using hsel)
  split
  · next hended => exact .of_stopped fun _ => .inl hended
  · split
    · next hdone =>
      obtain hfault | hres := Bool.or_eq_true_iff.1 hdone
      · exact .of_stopped fun _ => .inr (.inr hfault)
      · exact .of_stopped fun _ => .inr (.inl hres)
    · obtain ⟨hrest, hjobs⟩ := t.cancelCtx_tellStop i.ctx o (t.cancelCtx i.ctx o).1.modIdx
      generalize (t.cancelCtx i.ctx o).1.tellStop i.ctx o (t.cancelCtx i.ctx o).1.modIdx = u at hrest hjobs ⊢
      have hsettled (jobs instrs : Nat) := State.Cancels.settleJob (sel := sel) (i := i) (g := fun k => { k with res := some o }) jobs instrs
        hrest hjobs fun k => ⟨⟨rfl, rfl, fun h => h, fun _ => rfl⟩, rfl⟩
      split
      · exact hsettled (u.sch.drainJobs + 1) (u.sch.drainInstrs + _)
      · exact hsettled u.sch.drainJobs u.sch.drainInstrs
  · have hsettled (jobs instrs : Nat) := State.Cancels.settleJob (sel := sel) (t := t) (i := i)
      (g := fun k => { k with res := some o, phase := .ended }) jobs instrs rfl (fun k hk => ⟨k, hk, .refl k⟩)
      fun k => ⟨⟨rfl, rfl, fun _ => rfl, fun _ => rfl⟩, rfl⟩
    split
    · exact hsettled (t.sch.drainJobs + 1) t.sch.drainInstrs
    · exact hsettled t.sch.drainJobs t.sch.drainInstrs

end Cancel

end Sys2Proof.Machine
end

section
/-! PROOF. Drains, resumes and the REPLACE flag (R349, R350, R351). -/

namespace Sys2Proof.Machine

/- What the steps of a drain leave. -/

theorem State.setStateAll_eq (s : State) (st : BitVec 4) : ∃ out, s.setStateAll st = { s with
    health := { s.health with state := st, dieState := s.health.dieState.map fun _ => if st = 6 then 5 else st }, out := out } :=
  State.noted_out _ s

theorem State.setStateAll_state (s : State) (st : BitVec 4) : (s.setStateAll st).health.state = st := by
  obtain ⟨out, h⟩ := s.setStateAll_eq st
  rw [h]

theorem State.setStateAll_led (s : State) (st : BitVec 4) : (s.setStateAll st).led = s.led := by
  obtain ⟨out, h⟩ := s.setStateAll_eq st
  rw [h]

theorem State.setStateAll_panel (s : State) (st : BitVec 4) : (s.setStateAll st).panel = s.panel := by
  obtain ⟨out, h⟩ := s.setStateAll_eq st
  rw [h]

theorem State.setStateAll_jobs (s : State) (st : BitVec 4) : (s.setStateAll st).jobs = s.jobs := by
  obtain ⟨out, h⟩ := s.setStateAll_eq st
  rw [h]

theorem State.setStateAll_span (s : State) (st : BitVec 4) : (s.setStateAll st).span = s.span := by
  obtain ⟨out, h⟩ := s.setStateAll_eq st
  rw [h]

theorem State.setStateAll_nvm (s : State) (st : BitVec 4) : (s.setStateAll st).nvm = s.nvm := by
  obtain ⟨out, h⟩ := s.setStateAll_eq st
  rw [h]

theorem State.setStateAll_replace (s : State) (st : BitVec 4) : (s.setStateAll st).health.replace = s.health.replace := by
  obtain ⟨out, h⟩ := s.setStateAll_eq st
  rw [h]

/-- The record of a drain that starts (R349). -/
def State.drainRec (s : State) (cause esn ctx : Nat) : Rec :=
  { unit := s.modUid, cls := 4, code := 0x90, ctx := BitVec.ofNat 12 ctx, d0 := BitVec.ofNat 64 cause, d1 := BitVec.ofNat 64 esn }

/-- A DRAINING module names the record of its drain, its cause and its trigger, and counts what it ends anew. -/
def State.marks (s : State) (cause esn e : Nat) : State :=
  { s with health := { s.health with cause := BitVec.ofNat 4 cause, trigger := esn, drainEsn := e }
           sch := { s.sch with drainJobs := 0, drainInstrs := 0 } }

/-- The module DRAINING, before its jobs end. -/
def State.draining (s : State) (cause esn ctx : Nat) : State :=
  ((s.raiseRec (s.drainRec cause esn ctx)).setStateAll 4).marks cause esn (s.raiseRec (s.drainRec cause esn ctx)).lastEsn

section Start
variable {s : State} (cause esn ctx : Nat)

theorem State.startDrain_eq (h : s.drainable = true) : s.startDrain cause esn ctx =
    (s.draining cause esn ctx).cancelJobs (fun _ => true) { status := 0x11, esn := (s.raiseRec (s.drainRec cause esn ctx)).lastEsn } :=
  if_pos h

theorem State.draining_health : (s.draining cause esn ctx).health.state = 4 ∧
    (s.draining cause esn ctx).health.cause = BitVec.ofNat 4 cause ∧ (s.draining cause esn ctx).health.trigger = esn :=
  ⟨State.setStateAll_state _ 4, rfl, rfl⟩

theorem State.draining_led : (s.draining cause esn ctx).led = (s.raiseRec (s.drainRec cause esn ctx)).led := State.setStateAll_led _ 4

theorem State.draining_panel : (s.draining cause esn ctx).panel = s.panel :=
  (State.setStateAll_panel _ 4).trans (s.raiseRec_panel _)

/-- A drain leaves the module DRAINING, with its record and no job that goes on, and the panel alone (R349). -/
theorem State.startDrain_drains (h : s.drainable = true) :
    ((s.startDrain cause esn ctx).health.state = 4 ∧ (s.startDrain cause esn ctx).health.cause = BitVec.ofNat 4 cause ∧
      (s.startDrain cause esn ctx).health.trigger = esn) ∧
    (s.startDrain cause esn ctx).led = (s.raiseRec (s.drainRec cause esn ctx)).led ∧ (s.startDrain cause esn ctx).panel = s.panel ∧
    ∀ j ∈ (s.startDrain cause esn ctx).jobs, (s.startDrain cause esn ctx).Stopped j := by
  rw [State.startDrain_eq cause esn ctx h]
  obtain ⟨hrest, hstop⟩ := (s.draining cause esn ctx).cancelJobs_stops (sel := fun _ => true)
    { status := 0x11, esn := (s.raiseRec (s.drainRec cause esn ctx)).lastEsn }
  rw [State.health_of_offCancel hrest, State.led_of_offCancel hrest, State.panel_of_offCancel hrest]
  refine ⟨State.draining_health cause esn ctx, State.draining_led cause esn ctx, State.draining_panel cause esn ctx,
    fun k hk => ?_⟩
  obtain ⟨j, -, -, hjk⟩ := hstop k hk
  exact (hjk rfl).leads (.refl k) (State.runs_of_offCancel hrest)

end Start

theorem State.drainRec_tail {s t : State} {cause esn ctx : Nat} (h : t.led = (s.raiseRec (s.drainRec cause esn ctx)).led) :
    ∃ r ∈ t.led.tail, r.esn = s.led.esn ∧ r.code = 0x90 ∧ r.d0 = BitVec.ofNat 64 cause ∧ r.d1 = BitVec.ofNat 64 esn :=
  State.raiseRec_tail_of_led h ⟨rfl, rfl, rfl⟩

theorem State.not_drainable {s : State} (h : s.health.state = 4 ∨ s.health.state = 5 ∨ s.health.state = 6) : s.drainable = false := by
  obtain h | h | h := h
  all_goals simp [State.drainable, h]

section Ask
variable {s : State} {cause : Nat}

theorem State.askDrain_drainable (h : s.drainable = true) : s.askDrain cause = s.startDrain cause 0 0 := if_pos h

theorem State.askDrain_draining (h : s.health.state = 4) : s.askDrain cause = s :=
  (if_neg (by simp [State.not_drainable (.inl h)])).trans (if_neg (by simp [h]))

theorem State.askDrain_drained (h : s.health.state = 5 ∨ s.health.state = 6) : s.askDrain cause = s.info s.modUid 0x90 0 cause 0 :=
  (if_neg (by simp [State.not_drainable (.inr h)])).trans (if_pos (by simpa using h))

end Ask

/-- The state without its messages out. -/
def State.offOut (s : State) : State := { s with out := [] }

theorem State.eq_of_offOut {s t : State} (h : t.offOut = s.offOut) : t = { s with out := t.out } :=
  calc t = { t.offOut with out := t.out } := rfl
    _ = { s.offOut with out := t.out } := by rw [h]

/-- The withdrawal's notices, and that the module is out of its span (R310). -/
theorem State.noticeAll_eq (s : State) (cause : Nat) : ∃ out, s.noticeAll cause =
    { s with out := out, span := { s.span with selfOut := s.span.selfOut || s.inSpan } } := by
  cases hin : s.inSpan with
  | false => exact ⟨s.out, (if_pos (by simp [hin])).trans (by rw [Bool.or_false])⟩
  | true =>
    rw [Bool.or_true]
    cases hself : s.span.selfOut with
    | true => exact ⟨s.out, (if_pos (by simp [hself])).trans (by rw [← hself])⟩
    | false =>
      have hfold := State.eq_of_offOut (foldl_view (l := maskList 16 s.span.admitted.toNat) (view := State.offOut)
        (f := fun (s : State) m => if m = s.modIdx then s else s.emit (.spanC m 1 (noticeWord s.modIdx cause)))
        (fun m _ t => by split <;> rfl) s)
      exact ⟨_, (if_neg (by simp [hin, hself])).trans
        (congrArg (fun t : State => { t with span := { t.span with selfOut := true } }) hfold)⟩

/- Commands. -/

section Ctl
variable {w : Writer} {s : State}

theorem State.drainCtl_other {op : Nat} {act : State → State} (h : isMgmt w = false) :
    s.drainCtl w op act = s.infoAccess w s.modUid 0x21A0 (BitVec.ofNat 64 op) := by
  simp [State.drainCtl, h]

theorem State.drainCtl_mgmt {op : Nat} {act : State → State} (h : isMgmt w = true) (hrole : s.hasRole w 1 = true) :
    s.drainCtl w op act = act s := by
  simp [State.drainCtl, h, hrole]

end Ctl

theorem State.upState_eq (s : State) : s.upState = if s.pwr.mainOn = false then 0 else if s.boot.phase = 4 then 3
    else if s.boot.ended.contains 2 = true ∧ s.boot.image.early = true then 2 else 1 := by
  simp [State.upState]

/-- The record of a cleared REPLACE (R350). -/
def State.tellCleared (s : State) (unit : BitVec 32) : State := s.info unit 0x93 0 0 0

theorem State.tellCleared_spec (s : State) (unit : BitVec 32) : (s.tellCleared unit).health = s.health ∧
    (s.tellCleared unit).nvm = s.nvm ∧ (s.tellCleared unit).jobs = s.jobs ∧
    ∃ r ∈ (s.tellCleared unit).led.tail, r.esn = s.led.esn ∧ r.code = 0x93 :=
  ⟨s.info_health _ _ _ _ _, s.info_nvm _ _ _ _ _, s.info_jobs _ _ _ _ _, State.raiseRec_tail_of_led rfl rfl⟩

/-- REPLACE is cleared, with its record (R350). -/
def State.cleared (s : State) : State := s.dropReplace.tellCleared s.modUid

theorem State.dropReplace_eq (s : State) : ∃ out, s.dropReplace = { s with
    health := { s.health with replace := false, replaceNvm := true }
    nvm := { s.nvm with replace := false, esn := s.led.esn - 1 }, out := out } := by
  obtain ⟨out, h⟩ := State.noted_out { s with
    health := { s.health with replace := false, replaceNvm := true }, nvm := { s.nvm with replace := false } } s
  rw [State.dropReplace, h]
  exact ⟨out, rfl⟩

theorem State.cleared_spec (s : State) : s.cleared.health = { s.health with replace := false, replaceNvm := true } ∧
    s.cleared.nvm.replace = false ∧ s.cleared.jobs = s.jobs ∧ ∃ r ∈ s.cleared.led.tail, r.esn = s.led.esn ∧ r.code = 0x93 := by
  have hdrop : s.dropReplace.health = { s.health with replace := false, replaceNvm := true } ∧ s.dropReplace.nvm.replace = false ∧
      s.dropReplace.jobs = s.jobs ∧ s.dropReplace.led.esn = s.led.esn := by
    obtain ⟨out, h⟩ := s.dropReplace_eq
    rw [h]
    exact ⟨rfl, rfl, rfl, rfl⟩
  obtain ⟨hhealth', hreplace, hjobs', hesn'⟩ := hdrop
  obtain ⟨hhealth, hnvm, hjobs, r, hr, hesn, hcode⟩ := s.dropReplace.tellCleared_spec s.modUid
  exact ⟨hhealth.trans hhealth', (congrArg Nvm.replace hnvm).trans hreplace, hjobs.trans hjobs', r, hr, hesn.trans hesn', hcode⟩

/-- A module in REPLACE is left DRAINED (R350). -/
def State.leaveReplace (s : State) : State := if s.health.state = 6 then s.setStateAll 5 else s

theorem State.leaveReplace_spec (s : State) : s.leaveReplace.health.replace = s.health.replace ∧
    s.leaveReplace.health.state = (if s.health.state = 6 then 5 else s.health.state) ∧ s.leaveReplace.nvm = s.nvm ∧
    s.leaveReplace.jobs = s.jobs ∧ s.leaveReplace.led = s.led := by
  unfold State.leaveReplace
  split
  · exact ⟨s.setStateAll_replace 5, s.setStateAll_state 5, s.setStateAll_nvm 5, s.setStateAll_jobs 5, s.setStateAll_led 5⟩
  · exact ⟨rfl, rfl, rfl, rfl, rfl⟩

/-- A module back from a drain (R351). -/
theorem State.resumed_eq (s : State) : ∃ health out, (s.setStateAll s.upState).freshDies = { s with health := health, out := out } ∧
    health.replace = s.health.replace ∧ health.state = s.upState := by
  obtain ⟨out, h⟩ := s.setStateAll_eq s.upState
  rw [h]
  exact ⟨_, out, rfl, rfl, rfl⟩

section Mgmt
variable {w : Writer} {s : State} (h : isMgmt w = true) (hrole : s.hasRole w 1 = true)
include h hrole

theorem exec_drain_mgmt : exec (.drain w) s = .next (s.askDrain 2) := congrArg Host.Outcome.next (State.drainCtl_mgmt h hrole)

theorem exec_drain_drainable (hd : s.drainable = true) : Completes (.drain w) s fun t =>
    t.health.state = 4 ∧ t.health.cause = 2 ∧ t.health.trigger = 0 ∧
      (∃ r ∈ t.led.tail, r.esn = s.led.esn ∧ r.code = 0x90 ∧ r.d0 = 2 ∧ r.d1 = 0) ∧
      ∀ j ∈ t.jobs, j.phase = .ended ∨ j.res.isSome = true ∨ (t.runE j.ctx).fault.isSome = true := by
  obtain ⟨⟨hstate, hcause, htrigger⟩, hled, -, hstop⟩ := State.startDrain_drains 2 0 0 hd
  rw [← State.askDrain_drainable hd] at hstate hcause htrigger hled hstop
  exact ⟨_, exec_drain_mgmt h hrole, hstate, hcause, htrigger, State.drainRec_tail hled, hstop⟩

theorem exec_drain_drained (hd : s.health.state = 5 ∨ s.health.state = 6) : Completes (.drain w) s fun t =>
    t.health = s.health ∧ t.jobs = s.jobs ∧ ∃ r ∈ t.led.tail, r.esn = s.led.esn ∧ r.code = 0x90 ∧ r.d0 = 2 ∧ r.d1 = 0 := by
  have hexec : exec (.drain w) s = .next (s.info s.modUid 0x90 0 2 0) := by
    rw [exec_drain_mgmt h hrole, State.askDrain_drained hd]
  exact ⟨_, hexec, s.info_health _ _ _ _ _, s.info_jobs _ _ _ _ _, State.raiseRec_tail_of_led rfl ⟨rfl, rfl, rfl⟩⟩

theorem exec_resume_drained (hd : s.health.state = 5) : exec (.resume w) s = .next (s.setStateAll s.upState).freshDies :=
  congrArg Host.Outcome.next ((State.drainCtl_mgmt h hrole).trans (if_neg (by simp [hd])))

theorem exec_resume_notDrained (hd : s.health.state ≠ 5) : exec (.resume w) s = .next (s.infoAccess w s.modUid 0x21A0 2) :=
  congrArg Host.Outcome.next ((State.drainCtl_mgmt h hrole).trans (if_pos hd))

theorem exec_clearReplace_set (hr : s.health.replace = true) : exec (.clearReplace w) s = .next
    s.cleared.leaveReplace := by
  have hexec : exec (.clearReplace w) s =
      .next (s.drainCtl w 3 fun s => if s.health.replace = true then s.cleared.leaveReplace else s) := rfl
  rw [hexec, State.drainCtl_mgmt h hrole, if_pos hr]

theorem exec_clearReplace_unset (hr : s.health.replace = false) : exec (.clearReplace w) s = .next s :=
  congrArg Host.Outcome.next ((State.drainCtl_mgmt h hrole).trans (if_neg (by simp [hr])))

end Mgmt

section Complete
variable {s : State}

/-- The record of a drain that has ended, with its counts (R349). -/
def State.tellDrained (s : State) : State :=
  s.raiseRec { unit := s.modUid, cls := 4, code := 0x91, d2 := BitVec.ofNat 64 s.sch.drainJobs, d3 := BitVec.ofNat 64 s.sch.drainInstrs }

theorem State.tellDrained_spec (s : State) : s.tellDrained.health = s.health ∧ s.tellDrained.jobs = s.jobs ∧
    s.tellDrained.span = s.span ∧ ∃ r ∈ s.tellDrained.led.tail, r.esn = s.led.esn ∧ r.code = 0x91 ∧
      r.d2 = BitVec.ofNat 64 s.sch.drainJobs ∧ r.d3 = BitVec.ofNat 64 s.sch.drainInstrs :=
  ⟨s.raiseRec_health _, s.raiseRec_jobs _, s.raiseRec_span _, State.raiseRec_tail_of_led rfl ⟨rfl, rfl, rfl⟩⟩

/-- A module whose jobs have all completed withdraws, with the record of its drain (R349). -/
def State.drainEnded (s : State) : State := (s.noticeAll 1).tellDrained

theorem exec_drainComplete_completes (hd : s.health.state = 4) (hjobs : ∀ j ∈ s.jobs, j.held.isSome = true) :
    exec .drainComplete s = .next (s.drainEnded.setStateAll (if s.drainEnded.health.replace then 6 else 5)) := by
  have hall : s.jobs.all (fun j => j.held.isSome) = true := List.all_eq_true.2 hjobs
  exact congrArg Host.Outcome.next (if_neg (by simp [hd, hall]))

theorem exec_drainComplete_waits (hd : s.health.state ≠ 4 ∨ ∃ j ∈ s.jobs, j.held.isNone = true) : exec .drainComplete s = .next s := by
  refine congrArg Host.Outcome.next (if_pos ?_)
  obtain hd | ⟨j, hj, hheld⟩ := hd
  · simpa using .inl hd
  · have hall : s.jobs.all (fun j => j.held.isSome) = false := List.all_eq_false.2 ⟨j, hj, by simpa using hheld⟩
    simp [hall]

theorem State.drainEnded_spec (s : State) : s.drainEnded.health = s.health ∧ s.drainEnded.jobs = s.jobs ∧
    s.drainEnded.span.selfOut = (s.span.selfOut || s.inSpan) ∧
    ∃ r ∈ s.drainEnded.led.tail, r.esn = s.led.esn ∧ r.code = 0x91 ∧ r.d2 = BitVec.ofNat 64 s.sch.drainJobs ∧
      r.d3 = BitVec.ofNat 64 s.sch.drainInstrs := by
  have hnotice : (s.noticeAll 1).health = s.health ∧ (s.noticeAll 1).jobs = s.jobs ∧
      (s.noticeAll 1).span.selfOut = (s.span.selfOut || s.inSpan) ∧ (s.noticeAll 1).led = s.led ∧ (s.noticeAll 1).sch = s.sch := by
    obtain ⟨out, h⟩ := s.noticeAll_eq 1
    rw [h]
    exact ⟨rfl, rfl, rfl, rfl, rfl⟩
  obtain ⟨hhealth', hjobs', hspan', hled, hsch⟩ := hnotice
  obtain ⟨hhealth, hjobs, hspan, htail⟩ := (s.noticeAll 1).tellDrained_spec
  rw [hled, hsch] at htail
  exact ⟨hhealth.trans hhealth', hjobs.trans hjobs', (congrArg Span.selfOut hspan).trans hspan', htail⟩

end Complete

section Retry
variable {s : State}

theorem exec_replaceNvmRetry_writes (hr : s.health.replace = true) (hn : s.health.replaceNvm = false) :
    exec (.replaceNvmRetry true) s = .next { s with
      health := { s.health with replaceNvm := true }, nvm := { s.nvm with replace := true, esn := s.led.esn - 1 } } :=
  congrArg Host.Outcome.next (if_neg (by simp [hr, hn]))

theorem exec_replaceNvmRetry_idle {ok : Bool} (h : s.health.replace = false ∨ s.health.replaceNvm = true ∨ ok = false) :
    exec (.replaceNvmRetry ok) s = .next s := by
  refine congrArg Host.Outcome.next (if_pos ?_)
  obtain h | h | h := h
  all_goals simp [h]

end Retry

/-- Settles O46: a drain ends every job (`State.cancelJobs_stops`); the other commands change what their records name. -/
theorem drainsRunTheirCourse : Obligations.DrainsRunTheirCourse := by
  intro w s
  refine ⟨fun h => ⟨congrArg Host.Outcome.next (State.drainCtl_other h), congrArg Host.Outcome.next (State.drainCtl_other h),
      congrArg Host.Outcome.next (State.drainCtl_other h)⟩,
    fun h hrole => ⟨exec_drain_drainable h hrole, fun hd => ?draining, exec_drain_drained h hrole, fun hd => ?resumed,
      exec_resume_notDrained h hrole, fun hr => ?cleared, exec_clearReplace_unset h hrole⟩,
    fun hd hjobs' => ?completes, exec_drainComplete_waits, exec_replaceNvmRetry_writes, fun ok => exec_replaceNvmRetry_idle⟩
  case draining => rw [exec_drain_mgmt h hrole, State.askDrain_draining hd]
  case resumed =>
    obtain ⟨health, out, heq, hreplace, hstate⟩ := s.resumed_eq
    exact ⟨_, (exec_resume_drained h hrole hd).trans (congrArg _ heq), rfl, hreplace, hstate.trans s.upState_eq⟩
  case cleared =>
    obtain ⟨hreplace, hstate, hnvm, hjobs, hled⟩ := s.cleared.leaveReplace_spec
    obtain ⟨hhealth, hnvm', hjobs', htail⟩ := s.cleared_spec
    refine ⟨_, exec_clearReplace_set h hrole hr, ?_⟩
    beta_reduce
    rw [hreplace, hstate, hnvm, hnvm', hjobs, hjobs', hled, hhealth]
    exact ⟨rfl, rfl, rfl, rfl, htail⟩
  case completes =>
    obtain ⟨hhealth, hjobs, hself, htail⟩ := s.drainEnded_spec
    refine ⟨_, exec_drainComplete_completes hd hjobs', ?_, ?_, fun hspan => ?_, ?_⟩
    · rw [State.setStateAll_state, hhealth]
    · rw [State.setStateAll_jobs, hjobs]
    · rw [State.setStateAll_span, hself, hspan, Bool.or_true]
    · rw [State.setStateAll_led]
      exact htail

end Sys2Proof.Machine
end

section
/-! SUPPORT. What the panel's commands leave: the records, the dump and the link's loss keep the panel and the module's number (R421 to R429). -/

namespace Sys2Proof.Machine

/-- What the latch path looks at beside its dump: the panel, and the bring-up that gives the module its number. -/
def State.panelBoot (s : State) : Panel × Boot := (s.panel, s.boot)

theorem State.panel_of_panelBoot {s t : State} (h : t.panelBoot = s.panelBoot) : t.panel = s.panel := congrArg Prod.fst h

theorem State.modUid_of_panelBoot {s t : State} (h : t.panelBoot = s.panelBoot) : t.modUid = s.modUid := by
  have hboot : t.boot = s.boot := congrArg Prod.snd h
  rw [State.modUid, State.modUid, State.modIdx, State.modIdx, State.inSpan, State.inSpan, hboot]

theorem State.RecordsOf.panelBoot {s t : State} (h : s.RecordsOf t) : t.panelBoot = s.panelBoot :=
  h.view State.panelBoot fun _ _ _ _ _ => rfl

theorem State.noticeAll_panelBoot (s : State) (cause : Nat) : (s.noticeAll cause).panelBoot = s.panelBoot := by
  obtain ⟨out, h⟩ := s.noticeAll_eq cause
  rw [h]
  rfl

theorem State.closeDump_panelBoot (s : State) (index : Nat) (cut : Bool) : (s.closeDump index cut).panelBoot = s.panelBoot := by
  unfold State.closeDump
  split
  · rfl
  · next d _ =>
    dsimp only
    generalize d.closed _ = e
    split
    · exact (State.info_recordsOf _ _ _ _ _ _).panelBoot
    · exact (State.raiseRec_recordsOf _ _).panelBoot

/- The loss of main power. -/

theorem State.stopFunc_panel (s : State) (f : Nat) : (s.stopFunc f).panel = s.panel := by
  have hharts (l : List Nat) (t : State) : (l.foldl (fun s h => s.hartOff h) t).panel = t.panel :=
    foldl_view (f := fun (s : State) h => s.hartOff h) (view := State.panel) (fun _ _ _ => rfl) t
  have hcancel := State.panel_of_offCancel (s.cancelJobs_stops (sel := fun j => j.func == f) { status := 0x12 }).1
  exact (hharts _ _).trans ((State.funcM_panel _ _ _).trans hcancel)

theorem State.destroyAll_panel (s : State) (f : Nat) : (s.destroyAll f).panel = s.panel := by
  unfold State.destroyAll
  dsimp only
  refine (foldl_view (view := State.panel) (fun c _ t => ?_) _).trans ?_
  · split
    · rfl
    · rfl
  · split
    · rfl
    · rfl

theorem State.stopDone_panel (s : State) (f : Nat) : (s.stopDone f).panel = s.panel := by
  unfold State.stopDone
  dsimp only
  split
  · split
    · exact (State.msix_recordsOf _ f 0).view State.panel fun _ _ _ _ _ => rfl
    · rfl
  · rfl

theorem State.infoOther_panel (s : State) (unit : BitVec 32) (ctx addr : Nat) (data : BitVec 64) :
    (s.infoOther unit ctx addr data).panel = s.panel := s.raiseRec_panel _

theorem State.linkDown_panel (s : State) : s.linkDown.panel = s.panel := by
  have hstop (l : List Nat) (t : State) : (l.foldl (fun s f => (s.stopFunc f).destroyAll f) t).panel = t.panel :=
    foldl_view (f := fun (s : State) f => (s.stopFunc f).destroyAll f) (view := State.panel)
      (fun f _ t => ((t.stopFunc f).destroyAll_panel f).trans (t.stopFunc_panel f)) t
  have hdone (l : List Nat) (t : State) : (l.foldl (fun s f => s.stopDone f) t).panel = t.panel :=
    foldl_view (f := fun (s : State) f => s.stopDone f) (view := State.panel) (fun f _ t => t.stopDone_panel f) t
  unfold State.linkDown
  split
  · rfl
  · dsimp only
    rw [State.infoOther_panel, hdone]
    dsimp only
    rw [hstop]

end Sys2Proof.Machine
end

section
/-! PROOF. The service panel: latch, presence, drain button, identify (R389, R421, R423 to R429). -/

namespace Sys2Proof.Machine

/- Main power that goes. -/

/-- What the loss of main power leaves and what it takes. -/
theorem State.powerOff_spec (s : State) : s.powerOff.led = s.led ∧ s.powerOff.panel = { s.panel with identify := false } ∧
    s.powerOff.pwr.mainOn = false ∧ s.powerOff.sch.hostLink = false ∧ s.powerOff.jobs = [] ∧ s.powerOff.mem.cells = [] := by
  obtain ⟨out, h⟩ := s.powerOff_out
  rw [h]
  exact ⟨rfl, rfl, rfl, rfl, rfl, rfl⟩

/- The latch. -/

/-- The latch is open, or closed. -/
def State.putLatch (s : State) (closed : Bool) : State := { s with panel := { s.panel with latch := closed } }

/-- The record that a module which may be pulled has a latch that opened (1) or closed (0) (R425). -/
def State.tellLatch (s : State) (d0 : Nat) : State := s.info s.modUid 0x95 0 d0 0

/-- A drained module with its latch open is off and keeps its light (R425). -/
def State.pulled (s : State) : State := { (s.tellLatch 1).powerOff with health := (s.tellLatch 1).health }

theorem State.tellLatch_tail (s : State) (d0 : Nat) :
    ∃ r ∈ (s.tellLatch d0).led.tail, r.esn = s.led.esn ∧ r.code = 0x95 ∧ r.d0 = BitVec.ofNat 64 d0 :=
  State.raiseRec_tail_of_led rfl ⟨rfl, rfl⟩

theorem State.pulled_spec (s : State) : s.pulled.pwr.mainOn = false ∧ s.pulled.panel = { s.panel with identify := false } ∧
    s.pulled.health = s.health ∧ ∃ r ∈ s.pulled.led.tail, r.esn = s.led.esn ∧ r.code = 0x95 ∧ r.d0 = 1 := by
  obtain ⟨hled, hpanel, hmain, -⟩ := (s.tellLatch 1).powerOff_spec
  have hpanel' : (s.tellLatch 1).panel = s.panel := s.info_panel _ _ _ _ _
  have hhealth : (s.tellLatch 1).health = s.health := s.info_health _ _ _ _ _
  have htail := s.tellLatch_tail 1
  rw [← hled] at htail
  rw [hpanel'] at hpanel
  unfold State.pulled
  generalize (s.tellLatch 1).powerOff = t at hmain hpanel htail ⊢
  exact ⟨hmain, hpanel, hhealth, htail⟩

/-- The latch path begins with its record (R426). -/
def State.onLatchPath (s : State) (esn : Nat) : State :=
  { s with panel := { s.panel with latchPath := true, latchEsn := esn, surprise := true } }

/-- The record of a surprise removal (R426). -/
def State.tellSurprise (s : State) : State := s.raiseRec { unit := s.modUid, cls := 3, code := 0x94 }

/-- The companion cores of a module on the latch path stop. -/
def State.hartsOff (s : State) : State := (List.range 32).foldl (fun (s : State) h => if (s.hartE h).running then s.hartOff h else s) s

/-- A module dump that is being made ends. -/
def State.cutModuleDump (s : State) : State :=
  match s.dumpOf 6 s.modUid with
  | some d => s.closeDump d.index true
  | none => s

/-- The latch path up to its dump (R426). -/
def State.surprised (s : State) : State := ((s.tellSurprise.onLatchPath s.tellSurprise.lastEsn).noticeAll 0).hartsOff.cutModuleDump

theorem State.hartsOff_panelBoot (s : State) : s.hartsOff.panelBoot = s.panelBoot :=
  foldl_view (f := fun (s : State) h => if (s.hartE h).running then s.hartOff h else s) (view := State.panelBoot)
    (fun h _ t => by split <;> rfl) s

theorem State.cutModuleDump_panelBoot (s : State) : s.cutModuleDump.panelBoot = s.panelBoot := by
  unfold State.cutModuleDump
  split
  · exact s.closeDump_panelBoot _ true
  · rfl

theorem State.tellSurprise_lastEsn (s : State) : s.tellSurprise.lastEsn = s.led.esn := by
  rw [State.lastEsn, State.tellSurprise, State.raiseRec_led_esn, Nat.add_sub_cancel]

theorem State.onLatchPath_panelBoot {s t : State} (esn : Nat) (h : t.panelBoot = s.panelBoot) :
    (t.onLatchPath esn).panelBoot = (s.onLatchPath esn).panelBoot := by
  have hpanel : t.panel = s.panel := congrArg Prod.fst h
  have hboot : t.boot = s.boot := congrArg Prod.snd h
  simp only [State.panelBoot, State.onLatchPath, hpanel, hboot]

theorem State.surprised_panelBoot (s : State) : s.surprised.panelBoot = (s.onLatchPath s.led.esn).panelBoot := by
  rw [State.surprised, State.cutModuleDump_panelBoot, State.hartsOff_panelBoot, State.noticeAll_panelBoot, State.tellSurprise_lastEsn]
  exact State.onLatchPath_panelBoot _ (s.raiseRec_recordsOf _).panelBoot

/-- A dump that has just been begun is there. -/
theorem State.dumpOf_openDump (s : State) (unit : BitVec 32) (esn : Nat) : ((s.openDump 6 unit esn).dumpOf 6 unit).isSome = true := by
  refine List.find?_isSome.2 ⟨_, List.mem_append_right _ (List.mem_singleton_self _), ?_⟩
  simp

theorem State.frozen_of_latchPath {s : State} (h : s.panel.latchPath = true) : s.frozen = true := by
  rw [State.frozen, h, Bool.or_true, Bool.true_or]

theorem State.openDump_panel (s : State) (domain : Nat) (unit : BitVec 32) (esn : Nat) : (s.openDump domain unit esn).panel = s.panel := rfl

section Open
variable {s : State}

theorem exec_latchOpen_pulled (hlatch : s.panel.latch = true) (hpath : s.panel.latchPath = false) (haux : s.panel.aux = true)
    (hpull : s.pullable = true) : exec .latchOpen s = .next (s.putLatch false).pulled :=
  congrArg Host.Outcome.next ((if_neg (by simp [hlatch])).trans ((if_neg (by simp [hpath, haux])).trans (if_pos hpull)))

theorem exec_latchOpen_surprised (hlatch : s.panel.latch = true) (hpath : s.panel.latchPath = false) (haux : s.panel.aux = true)
    (hpull : s.pullable = false) : exec .latchOpen s = .next ((s.putLatch false).surprised.openDump 6 (s.putLatch false).surprised.modUid
      (s.putLatch false).tellSurprise.lastEsn) := by
  refine congrArg Host.Outcome.next
    ((if_neg (by simp [hlatch])).trans ((if_neg (by simp [hpath, haux])).trans ((if_neg (Bool.eq_false_iff.1 hpull)).trans ?_)))
  simp only [State.surprised, State.hartsOff, State.onLatchPath, State.tellSurprise, State.putLatch]
  generalize List.foldl _ _ _ = u
  rfl

theorem exec_latchOpen_onPath (hlatch : s.panel.latch = true) (hpath : s.panel.latchPath = true ∨ s.panel.aux = false) :
    exec .latchOpen s = .next (s.putLatch false) := by
  refine congrArg Host.Outcome.next ((if_neg (by simp [hlatch])).trans (if_pos ?_))
  obtain hpath | haux := hpath
  · simp [hpath]
  · simp [haux]

theorem exec_latchOpen_open (hlatch : s.panel.latch = false) : exec .latchOpen s = .next s :=
  congrArg Host.Outcome.next (if_pos (by simp [hlatch]))

end Open

/- The end of the latch path. -/

/-- The module is off the latch path and off, with its outcome of the path (R427). -/
def State.offLatchPath (s : State) (esn : Nat) (panel : Panel) : State :=
  { s.powerOff with panel := { panel with latchPath := false, latchDone := true } }.latchCommit esn

theorem State.offLatchPath_spec (s : State) (esn : Nat) (panel : Panel) : (s.offLatchPath esn panel).panel.latchPath = false ∧
    (s.offLatchPath esn panel).panel.latchDone = true ∧ (s.offLatchPath esn panel).pwr.mainOn = false ∧
    (s.offLatchPath esn panel).jobs = [] ∧ (s.offLatchPath esn panel).mem.cells = [] := by
  obtain ⟨-, -, hmain, -, hjobs, hcells⟩ := s.powerOff_spec
  exact ⟨rfl, rfl, hmain, hjobs, hcells⟩

theorem State.latchFinish_eq (s : State) : ∃ (t : State) (panel : Panel), s.latchFinish = t.offLatchPath s.panel.latchEsn panel :=
  ⟨_, _, rfl⟩

section Cutoff
variable {s : State}

theorem exec_latchDumpCutoff_ends {d : Dump} (hpath : s.panel.latchPath = true) (hd : s.dumpOf 6 s.modUid = some d) :
    exec .latchDumpCutoff s = .next (s.closeDump d.index true).latchFinish := by
  refine congrArg Host.Outcome.next ?_
  rw [hd]
  exact if_pos hpath

theorem exec_latchDumpCutoff_idle (h : s.panel.latchPath = false ∨ s.dumpOf 6 s.modUid = none) : exec .latchDumpCutoff s = .next s := by
  refine congrArg Host.Outcome.next ?_
  cases hd : s.dumpOf 6 s.modUid with
  | none => rfl
  | some d =>
    have hpath : s.panel.latchPath = false := h.resolve_right (by simp [hd])
    exact if_neg (by simp [hpath])

end Cutoff

/- Power at the latch and the pins. -/

/-- A module that may have main power, and has none, gets it (R421). -/
def State.takePower (s : State) : State := if s.mayPower && !s.pwr.mainOn then s.mainArrives else s

theorem State.takePower_spec (s : State) : s.takePower.panel = s.panel ∧ s.takePower.pwr.mainOn = (s.pwr.mainOn || s.mayPower) ∧
    s.takePower.led = s.led := by
  unfold State.takePower
  split
  · next h =>
    obtain ⟨hmay, -⟩ := Bool.and_eq_true_iff.1 h
    rw [State.mainArrives_pwr, hmay, Bool.or_true]
    exact ⟨s.mainArrives_panel, rfl, s.mainArrives_led⟩
  · next h =>
    refine ⟨rfl, ?_, rfl⟩
    cases hmain : s.pwr.mainOn
    · simpa [hmain] using h
    · rfl

/-- A module that may be pulled records that its latch has closed (R425). -/
def State.tellClosed (s : State) : State := if s.pullable then s.tellLatch 0 else s

theorem State.tellClosed_spec (s : State) : s.tellClosed.panel = s.panel ∧ s.tellClosed.pwr = s.pwr ∧
    s.tellClosed.mayPower = s.mayPower ∧ (s.pullable = true → ∃ r ∈ s.tellClosed.led.tail, r.esn = s.led.esn ∧ r.code = 0x95 ∧ r.d0 = 0) := by
  unfold State.tellClosed
  split
  · have hpanel : (s.tellLatch 0).panel = s.panel := s.info_panel _ _ _ _ _
    have hpwr : (s.tellLatch 0).pwr = s.pwr := s.info_pwr _ _ _ _ _
    refine ⟨hpanel, hpwr, ?_, fun _ => s.tellLatch_tail 0⟩
    rw [State.mayPower, State.mayPower, hpanel, hpwr]
  · next h => exact ⟨rfl, rfl, rfl, fun hpull => absurd hpull h⟩

section Close
variable {s : State}

theorem exec_latchClose_closes (hlatch : s.panel.latch = false) : exec .latchClose s = .next (s.putLatch true).tellClosed.takePower :=
  congrArg Host.Outcome.next (if_neg (by simp [hlatch]))

theorem exec_latchClose_closed (hlatch : s.panel.latch = true) : exec .latchClose s = .next s :=
  congrArg Host.Outcome.next (if_pos hlatch)

/-- A presence pin makes or breaks (R421). -/
def State.putPin (s : State) (pin : Fin 2) (made : Bool) : State :=
  { s with panel := if pin.val = 0 then { s.panel with pres0 := made } else { s.panel with pres1 := made } }

theorem exec_presenceChange_made (pin : Fin 2) : exec (.presenceChange pin true) s = .next (s.putPin pin true).takePower := rfl

theorem exec_presenceChange_broken (pin : Fin 2) : exec (.presenceChange pin false) s = .next (s.putPin pin false).mainLost := rfl

end Close

/-- The loss of main power keeps the pins and takes the host link with it (R280). -/
theorem State.mainLost_spec (s : State) : s.mainLost.pwr.mainOn = false ∧ s.mainLost.panel.pres0 = s.panel.pres0 ∧
    s.mainLost.panel.pres1 = s.panel.pres1 ∧ (s.pwr.mainOn = true → s.mainLost.sch.hostLink = false) ∧
    (s.pwr.mainOn = false → s.mainLost = s) := by
  unfold State.mainLost
  split
  · next hoff =>
    rw [Bool.not_eq_true'] at hoff
    exact ⟨hoff, rfl, rfl, fun hon => absurd (hon.symm.trans hoff) (by decide), fun _ => rfl⟩
  · next hon =>
    have hmain : s.pwr.mainOn = true := by simpa using hon
    split
    · exact ⟨rfl, rfl, rfl, fun _ => rfl, fun hoff => absurd (hmain.symm.trans hoff) (by decide)⟩
    · obtain ⟨-, hpanel, hpwr, hlink, -, -⟩ := s.linkDown.powerOff_spec
      rw [hpanel, s.linkDown_panel]
      exact ⟨hpwr, rfl, rfl, fun _ => hlink, fun hoff => absurd (hmain.symm.trans hoff) (by decide)⟩

/- The button. -/

/-- The button is held, or let go (R424). -/
def State.pressButton (s : State) : State := { s with panel := { s.panel with button := !s.panel.button } }

section Button
variable {s : State}

theorem exec_drainButtonHold_asks (hbutton : s.panel.button = false) (haux : s.panel.aux = true) :
    exec .drainButtonHold s = .next (s.pressButton.askDrain 1) :=
  congrArg Host.Outcome.next (if_pos (by simp [hbutton, haux]))

theorem exec_drainButtonHold_idle (h : s.panel.button = true ∨ s.panel.aux = false ∨ s.health.state = 4) :
    exec .drainButtonHold s = .next s.pressButton := by
  by_cases hask : (s.panel.aux && !s.panel.button) = true
  · refine congrArg Host.Outcome.next ((if_pos hask).trans (State.askDrain_draining (s := s.pressButton) ?_))
    obtain ⟨haux, hbutton⟩ := Bool.and_eq_true_iff.1 hask
    rw [Bool.not_eq_true'] at hbutton
    exact (h.resolve_left (by simp [hbutton])).resolve_left (by simp [haux])
  · exact congrArg Host.Outcome.next (if_neg hask)

end Button

/- Identify. -/

section Identify
variable {s : State} {w : Writer} {on : Bool} {source : Nat}

theorem State.setIdentify_same (h : s.panel.identify = on) : s.setIdentify on source = s := if_pos h

/-- Identify is on, or off. -/
def State.putIdentify (s : State) (on : Bool) : State := { s with panel := { s.panel with identify := on } }

/-- The record of a changed identify, with its source (R423). -/
def State.tellIdentify (s : State) (source : Nat) : State := s.info s.modUid 0x96 0 source 0

theorem State.tellIdentify_spec (s : State) (source : Nat) : (s.tellIdentify source).panel = s.panel ∧
    (s.tellIdentify source).health = s.health ∧
    ∃ r ∈ (s.tellIdentify source).led.tail, r.esn = s.led.esn ∧ r.code = 0x96 ∧ r.d0 = BitVec.ofNat 64 source :=
  ⟨s.info_panel _ _ _ _ _, s.info_health _ _ _ _ _, State.raiseRec_tail_of_led rfl ⟨rfl, rfl⟩⟩

theorem State.setIdentify_changes (h : s.panel.identify ≠ on) : s.setIdentify on source = (s.putIdentify on).tellIdentify source :=
  if_neg h

theorem State.panelCtl_other {ident : Nat} (h : isMgmt w = false) :
    s.panelCtl w ident on = s.infoAccess w s.modUid 0x2D0 (BitVec.ofNat 64 ident) := by
  simp [State.panelCtl, h]

theorem State.panelCtl_mgmt {ident : Nat} (h : isMgmt w = true) (hrole : s.hasRole w 1 = true) :
    s.panelCtl w ident on = s.setIdentify on 1 := by
  simp [State.panelCtl, h, hrole]

theorem exec_pldmIdentify_sets (haux : s.panel.aux = true) : exec (.pldmIdentify on) s = .next (s.setIdentify on 2) :=
  congrArg Host.Outcome.next (if_pos haux)

theorem exec_pldmIdentify_idle (h : s.panel.aux = false ∨ s.panel.identify = on) : exec (.pldmIdentify on) s = .next s := by
  cases haux : s.panel.aux with
  | false => exact congrArg Host.Outcome.next (if_neg (by simp [haux]))
  | true => exact (exec_pldmIdentify_sets haux).trans (congrArg _ (State.setIdentify_same (h.resolve_left (by simp [haux]))))

end Identify

/- The touch. -/

section Touch
variable {s : State} {ms : Nat}

theorem exec_identifyTouch_clears (haux : s.panel.aux = true) (hms : 100 ≤ ms) (hclear : s.mgmt.clearPending = true) :
    exec (.identifyTouch ms false) s = .next s.clearAccounts :=
  congrArg Host.Outcome.next ((if_neg (by simp [haux, Nat.not_lt.2 hms])).trans (if_pos hclear))

theorem exec_identifyTouch_toggles (haux : s.panel.aux = true) (hms : 100 ≤ ms) (hclear : s.mgmt.clearPending = false) :
    exec (.identifyTouch ms false) s = .next (s.setIdentify (!s.panel.identify) 0) :=
  congrArg Host.Outcome.next ((if_neg (by simp [haux, Nat.not_lt.2 hms])).trans (if_neg (by simp [hclear])))

theorem exec_identifyTouch_idle {b : Bool} (h : ms < 100 ∨ b = true ∨ s.panel.aux = false) : exec (.identifyTouch ms b) s = .next s := by
  refine congrArg Host.Outcome.next (if_pos ?_)
  obtain h | h | h := h
  all_goals simp [h]

end Touch

/- The cleared accounts. -/

/-- No clear is pending, and no function is debugged (R389). -/
def State.revoked (s : State) : State :=
  { s with mgmt := { s.mgmt with clearPending := false }
           funcs := s.funcs.map fun (p : Nat × Func) => (p.1, { p.2 with debug := false }) }

/-- What holds of every value of a table, and of the default, holds of what is found. -/
theorem tabGet_of_forall {α : Type} {P : α → Prop} {l : List (Nat × α)} {d : α} (h : ∀ p ∈ l, P p.2) (hd : P d) (k : Nat) :
    P (tabGet l k d) := by
  induction l with
  | nil => exact hd
  | cons p l ih =>
    rw [tabGet, tabFind]
    split
    · exact h p List.mem_cons_self
    · exact ih fun q hq => h q (List.mem_cons_of_mem p hq)

theorem State.revoked_debug (s : State) (f : Nat) : (s.revoked.funcE f).debug = false := by
  refine tabGet_of_forall (P := fun e : Func => e.debug = false) (fun p hp => ?_) rfl f
  obtain ⟨q, -, rfl⟩ := List.mem_map.1 hp
  rfl

/-- The account list is l. -/
def State.listAccounts (s : State) (l : List Account) : State := { s with nvm := { s.nvm with accounts := l } }

/-- A changed account list is committed with its record (R389). -/
def State.tellAccounts (s : State) (n : Nat) : State := (s.info s.modUid 0xB3 0 n 0).nvmCommit

theorem State.nvmCommit_accounts (s : State) : s.nvmCommit.nvm.accounts = s.nvm.accounts := rfl

theorem State.tellAccounts_spec (s : State) (n : Nat) : (s.tellAccounts n).nvm.accounts = s.nvm.accounts ∧
    s.mgmt.SameClients (s.tellAccounts n).mgmt ∧ (s.tellAccounts n).funcs = s.funcs ∧ (s.tellAccounts n).led.esn = s.led.esn + 1 := by
  rw [State.tellAccounts, State.nvmCommit_mgmt, State.nvmCommit_funcs, State.nvmCommit_led, State.info_led_esn]
  exact ⟨(State.nvmCommit_accounts _).trans (congrArg Nvm.accounts (s.info_nvm _ _ _ _ _)), s.info_sameClients _ _ _ _ _, s.info_funcs _ _ _ (by decide), rfl⟩

/-- No session is left, and nothing else of the port changes, where every session drops. -/
theorem State.dropAll_spec (s : State) (reason : Nat) : (s.dropSessions (fun _ => true) reason).mgmt.sessions = [] ∧
    (s.dropSessions (fun _ => true) reason).mgmt.clearPending = s.mgmt.clearPending ∧
    (s.dropSessions (fun _ => true) reason).led.esn = s.led.esn + s.mgmt.sessions.length := by
  obtain ⟨sessions, hmgmt, hclients⟩ := s.dropSessions_sameClients (fun _ => true) reason
  rw [hmgmt, State.dropSessions_led_esn, List.filter_true]
  have hnone : (s.withoutSessions fun _ => true).mgmt.sessions = [] := by simp [State.withoutSessions]
  rw [hnone] at hclients
  exact ⟨List.map_eq_nil_iff.1 hclients, rfl, rfl⟩

theorem State.clearAccounts_eq (s : State) :
    s.clearAccounts = ((s.revoked.listAccounts []).tellAccounts 0).dropSessions (fun _ => true) 4 := rfl

/-- What the confirmed clear of the accounts leaves (R389). -/
theorem State.clearAccounts_spec (s : State) : s.clearAccounts.nvm.accounts = [] ∧ s.clearAccounts.mgmt.sessions = [] ∧
    s.clearAccounts.mgmt.clearPending = false ∧ (∀ f : Nat, (s.clearAccounts.funcE f).debug = false) ∧
    s.clearAccounts.led.esn = s.led.esn + 1 + s.mgmt.sessions.length := by
  obtain ⟨haccounts, hclients, hfuncs, hesn⟩ := (s.revoked.listAccounts []).tellAccounts_spec 0
  obtain ⟨hsessions, hpending, hesn'⟩ := ((s.revoked.listAccounts []).tellAccounts 0).dropAll_spec 4
  have hlength := hclients.length
  obtain ⟨sessions, hmgmt, -⟩ := hclients
  rw [State.clearAccounts_eq, State.dropSessions_nvm]
  refine ⟨haccounts, hsessions, hpending.trans (by rw [hmgmt]; rfl), fun f => ?_, ?_⟩
  · rw [State.funcE_of_funcs ((State.dropSessions_funcs _ _ _).trans hfuncs)]
    exact s.revoked_debug f
  · rw [hesn', hesn, hlength]
    rfl

/-- Settles O60: each command of the panel changes the panel itself, and its record, its drain or its power leaves the panel as it was. -/
theorem thePanelActs : Obligations.ThePanelActs := by
  intro s w pin on b ms d
  refine ⟨fun hlatch hpath haux => ⟨fun hpull => ⟨_, exec_latchOpen_pulled hlatch hpath haux hpull, ?pulled⟩,
      fun hpull => ⟨_, exec_latchOpen_surprised hlatch hpath haux hpull, ?surprised⟩⟩,
    exec_latchOpen_onPath, exec_latchOpen_open, fun hpath hd => ⟨_, exec_latchDumpCutoff_ends hpath hd, ?cutoff⟩,
    exec_latchDumpCutoff_idle, fun hlatch => ⟨_, exec_latchClose_closes hlatch, ?closed⟩, exec_latchClose_closed, ?pins,
    fun hbutton haux hd => ⟨_, exec_drainButtonHold_asks hbutton haux, ?button⟩, exec_drainButtonHold_idle,
    fun haux hms => ⟨fun hclear => ⟨_, exec_identifyTouch_clears haux hms hclear, s.clearAccounts_spec⟩,
      fun hclear => ⟨_, exec_identifyTouch_toggles haux hms hclear, ?toggled⟩⟩,
    exec_identifyTouch_idle, fun hm hrole => ?mgmt,
    fun hm => ⟨congrArg Host.Outcome.next (State.panelCtl_other hm), congrArg Host.Outcome.next (State.panelCtl_other hm),
      congrArg Host.Outcome.next (State.panelCtl_other hm)⟩,
    fun haux hon => ⟨_, exec_pldmIdentify_sets haux, ?pldm⟩, exec_pldmIdentify_idle⟩
  case pulled =>
    obtain ⟨hmain, hpanel, hhealth, htail⟩ := (s.putLatch false).pulled_spec
    exact ⟨hmain, congrArg Panel.latch hpanel, hhealth, htail⟩
  case surprised =>
    have hview := (s.putLatch false).surprised_panelBoot
    have hmod : (s.putLatch false).surprised.modUid = s.modUid := (State.modUid_of_panelBoot hview).trans rfl
    have hpanel : ((s.putLatch false).surprised.openDump 6 s.modUid (s.putLatch false).tellSurprise.lastEsn).panel =
        ((s.putLatch false).onLatchPath s.led.esn).panel :=
      (State.openDump_panel _ 6 s.modUid _).trans (State.panel_of_panelBoot hview)
    rw [hmod]
    exact ⟨congrArg Panel.latchPath hpanel, congrArg Panel.latch hpanel, congrArg Panel.surprise hpanel,
      congrArg Panel.latchEsn hpanel, State.frozen_of_latchPath (congrArg Panel.latchPath hpanel), State.dumpOf_openDump _ _ _⟩
  case cutoff =>
    obtain ⟨t, panel, ht⟩ := (s.closeDump d.index true).latchFinish_eq
    rw [ht]
    exact t.offLatchPath_spec _ panel
  case closed =>
    obtain ⟨hpanel, hpwr, hmay, htail⟩ := (s.putLatch true).tellClosed_spec
    obtain ⟨hpanel', hmain, hled⟩ := (s.putLatch true).tellClosed.takePower_spec
    rw [hmay, hpwr] at hmain
    rw [← hled] at htail
    exact ⟨hpanel'.trans hpanel, hmain, htail⟩
  case pins =>
    rintro u rfl
    refine ⟨?made, ?broken⟩
    case made =>
      rintro rfl
      obtain ⟨hpanel, hmain, -⟩ := (s.putPin pin true).takePower_spec
      exact ⟨_, exec_presenceChange_made pin, hpanel, hmain⟩
    case broken =>
      rintro rfl
      exact ⟨_, exec_presenceChange_broken pin, (s.putPin pin false).mainLost_spec⟩
  case button =>
    obtain ⟨⟨hstate, hcause, -⟩, hled, hpanel, -⟩ := State.startDrain_drains (s := s.pressButton) 1 0 0 hd
    rw [State.askDrain_drainable (s := s.pressButton) hd]
    obtain ⟨r, hr, hesn, hcode, hd0, -⟩ := State.drainRec_tail hled
    refine ⟨hpanel.trans ?_, hstate, hcause, r, hr, hesn, hcode, hd0⟩
    rw [State.pressButton, hbutton]
    rfl
  case toggled =>
    rw [State.setIdentify_changes (by simp)]
    exact (s.putIdentify _).tellIdentify_spec 0
  case mgmt =>
    have hctl (ident : Nat) (on : Bool) := State.panelCtl_mgmt (s := s) (ident := ident) (on := on) hm hrole
    have hchange (on : Bool) (hon : s.panel.identify ≠ on) : (s.setIdentify on 1).panel = { s.panel with identify := on } ∧
        ∃ r ∈ (s.setIdentify on 1).led.tail, r.esn = s.led.esn ∧ r.code = 0x96 ∧ r.d0 = 1 := by
      rw [State.setIdentify_changes hon]
      obtain ⟨hpanel, -, htail⟩ := (s.putIdentify on).tellIdentify_spec 1
      exact ⟨hpanel, htail⟩
    exact ⟨fun hoff => ⟨_, congrArg Host.Outcome.next (hctl 1 true), hchange true (by simp [hoff])⟩,
      fun hon => ⟨_, congrArg Host.Outcome.next (hctl 2 false), hchange false (by simp [hon])⟩,
      fun hon => congrArg Host.Outcome.next ((hctl 1 true).trans (State.setIdentify_same hon)),
      fun hoff => congrArg Host.Outcome.next ((hctl 2 false).trans (State.setIdentify_same hoff)),
      ⟨_, congrArg Host.Outcome.next (hctl 3 (!s.panel.identify)), hchange _ (by simp)⟩⟩
  case pldm =>
    rw [State.setIdentify_changes hon]
    obtain ⟨hpanel, -, htail⟩ := (s.putIdentify on).tellIdentify_spec 2
    exact ⟨hpanel, htail⟩

end Sys2Proof.Machine
end

section
/-! PROOF. Span links train, carry flits, and go down (R299 to R302, R316, R402). -/

namespace Sys2Proof.Machine

/- Links as entries of the span's table. -/

@[simp] theorem State.linkE_linkM_same (s : State) (l : Nat) (g : Link → Link) : (s.linkM l g).linkE l = g (s.linkE l) :=
  tabGet_tabSet_same ..

theorem State.linkE_of_span {s t : State} (h : t.span = s.span) (l : Nat) : t.linkE l = s.linkE l := by
  rw [State.linkE, State.linkE, h]

theorem State.linkRec_span (s : State) (code d0 d1 : Nat) : (s.linkRec code d0 d1).span = s.span := s.raiseRec_span _

theorem State.linkRec_tail (s : State) (code d0 d1 : Nat) :
    ∃ r ∈ (s.linkRec code d0 d1).led.tail, r.esn = s.led.esn ∧ r.code = BitVec.ofNat 8 code :=
  State.raiseRec_tail_of_led rfl rfl

theorem bit_maskPut_off (v : BitVec 16) (m : Nat) : bit (maskPut v m false) m = false := by
  simp only [bit, maskPut, Bool.false_eq_true, if_false, BitVec.getLsbD_and, BitVec.getLsbD_not, BitVec.getLsbD_ofNat,
    Nat.testBit_two_pow_self]
  by_cases h : m < 16
  · simp [h]
  · simp [h]

/- Training. -/

/-- The keys of a link are agreed (R402). -/
def Link.keyAgreed (k : Link) : Link := { k with keyed := true }

/-- The state of a link, as a change. -/
def Link.putState (st : BitVec 4) (k : Link) : Link := { k with state := st }

/-- A link that comes UP expects the first flit. -/
def Link.goUp (k : Link) : Link := { k with state := 2, seqNo := 0, retried := none }

/-- A module that has come back is no longer expelled (R317). -/
def State.unexpel (s : State) (m : Nat) : State := { s with span := { s.span with expelled := maskPut s.span.expelled m false } }

section Train
variable {s : State} {l : Fin 16} {m : Nat} {spanId : BitVec 32} {index master : BitVec 4} {members : BitVec 16}
  (hpeer : s.linkPeer l.val = some m) (hmask : s.spanMask.testBit m = true) (hawake : s.asleep [linkDomain l.val] = false)

/-- A link may train from TRAINING, and from any state where it is UP no more and its peer is out of the span (R300, R316). -/
theorem State.mayTrain_of (hmask : s.spanMask.testBit m = true) (h : (s.linkE l.val).state = 1 ∨
    ((s.linkE l.val).state = 3 ∨ (s.linkE l.val).state = 4 ∨ (s.linkE l.val).state = 5) ∧ bit s.span.admitted m = false) :
    s.mayTrain l.val m = true := by
  rw [State.mayTrain, hmask, Bool.true_and]
  obtain h | ⟨h | h | h, hout⟩ := h
  · simp [h]
  all_goals simp [h, hout]

/-- The identity of a proved link's peer is judged; `again` where the peer comes back (R302, R316). -/
def State.judgeLink (s : State) (l m : Nat) (again : Prop) [Decidable again] (spanId : BitVec 32) (index master : BitVec 4) (members : BitVec 16) : State :=
  if s.health.replace then s.linkM l (Link.putState 5)
  else if spanId ≠ s.boot.image.spanId || index.toNat ≠ m || master ≠ s.boot.image.master || members ≠ s.boot.image.members then
    (s.linkM l (Link.putState 5)).linkRec 0x62 s.modIdx index.toNat
  else (if again then s.unexpel m else s).linkM l Link.goUp

section Judge
variable {s : State} {l m : Nat} {again : Prop} [Decidable again] {spanId : BitVec 32} {index master : BitVec 4} {members : BitVec 16}

theorem State.judgeLink_replace (h : s.health.replace = true) :
    s.judgeLink l m again spanId index master members = s.linkM l (Link.putState 5) := if_pos h

theorem State.judgeLink_miswired (h : s.health.replace = false) (hindex : index.toNat ≠ m) :
    s.judgeLink l m again spanId index master members = (s.linkM l (Link.putState 5)).linkRec 0x62 s.modIdx index.toNat :=
  (if_neg (Bool.eq_false_iff.1 h)).trans (if_pos (by simp [hindex]))

theorem State.judgeLink_up (h : s.health.replace = false) (hindex : index.toNat = m) :
    s.judgeLink l m again s.boot.image.spanId index s.boot.image.master s.boot.image.members =
      (if again then s.unexpel m else s).linkM l Link.goUp :=
  (if_neg (Bool.eq_false_iff.1 h)).trans (if_neg (by simp [hindex]))

end Judge

include hpeer hawake

theorem exec_spanLinkTrained_proved (htrain : s.mayTrain l.val m = true) :
    exec (.spanLinkTrained l true spanId index master members false) s =
      .next ((s.linkM l.val Link.keyAgreed).judgeLink l.val m ((s.linkE l.val).state ≠ 1) spanId index master members) := by
  simp only [exec, execSpanLinkTrained, hpeer, htrain, hawake]
  rfl

theorem exec_spanLinkTrained_unproved (htrain : s.mayTrain l.val m = true)
    (hkeyed : (s.linkE l.val).keyed = false) : exec (.spanLinkTrained l false spanId index master members false) s =
      .next ((s.linkM l.val fun k => { k with state := 1, keyed := false }).linkRec 0x63 l.val 0) := by
  simp only [exec, execSpanLinkTrained, hpeer, htrain, hawake, hkeyed]
  refine congrArg Host.Outcome.next ((if_neg (by decide)).trans (if_pos ?_))
  simp

end Train

section Retry
variable {s : State} {l : Fin 16} (hstate : (s.linkE l.val).state = 1) (hkeyed : (s.linkE l.val).keyed = false)
include hstate hkeyed

theorem exec_linkHandshakeRetry_proved : exec (.linkHandshakeRetry l true) s = .next (s.linkM l.val fun k => { k with keyed := true }) :=
  congrArg Host.Outcome.next (if_neg (by simp [hstate, hkeyed]))

theorem exec_linkHandshakeRetry_failed : exec (.linkHandshakeRetry l false) s = .next (s.linkRec 0x63 l.val 0) :=
  congrArg Host.Outcome.next (if_neg (by simp [hstate, hkeyed]))

end Retry

/- Flits. -/

section Flit
variable {s : State} {l : Fin 16} {m seq : Nat} {load : FlitLoad} {crcOk tagOk : Bool} (hpeer : s.linkPeer l.val = some m)
include hpeer

/-- A flit on a link that is not UP is discarded (R311). -/
theorem exec_flitReceive_discarded (hdown : (s.linkE l.val).state ≠ 2) : exec (.flitReceive l seq crcOk tagOk false load) s = .next s := by
  simp only [exec, execFlitReceive, hpeer]
  exact congrArg Host.Outcome.next (if_pos hdown)

variable (hup : (s.linkE l.val).state = 2)
include hup

/-- What a flit on a link that is UP meets: its tag, its number and CRC, and whether it is replayed already. -/
theorem exec_flitReceive_up : exec (.flitReceive l seq crcOk tagOk false load) s = .next
    (if seq = (s.linkE l.val).seqNo && crcOk && !tagOk then s.linkFails l.val 5
    else if seq = (s.linkE l.val).seqNo && crcOk then
      (s.linkM l.val fun k => { k with seqNo := k.seqNo + 1, retried := none, rxBytes := k.rxBytes + flitSize load }).flitApply m load
    else if (s.linkE l.val).retried = some (s.linkE l.val).seqNo then (if seq = (s.linkE l.val).seqNo then s.linkFails l.val 3 else s)
    else s.linkM l.val fun k => { k with retried := some k.seqNo, replays := satAdd 0xFFFF k.replays 1 }) := by
  simp only [exec, execFlitReceive, hpeer]
  exact congrArg Host.Outcome.next (if_neg (not_not_intro hup))

theorem exec_flitReceive_good (hseq : seq = (s.linkE l.val).seqNo) : exec (.flitReceive l seq true true false load) s = .next
    ((s.linkM l.val fun k => { k with seqNo := k.seqNo + 1, retried := none, rxBytes := k.rxBytes + flitSize load }).flitApply m load) := by
  rw [exec_flitReceive_up hpeer hup, if_neg (by simp), if_pos (by simp [hseq])]

theorem exec_flitReceive_badTag (hseq : seq = (s.linkE l.val).seqNo) :
    exec (.flitReceive l seq true false false load) s = .next (s.linkFails l.val 5) := by
  rw [exec_flitReceive_up hpeer hup, if_pos (by simp [hseq])]

section Bad
variable (hbad : crcOk = false ∨ seq ≠ (s.linkE l.val).seqNo)
include hbad

theorem exec_flitReceive_bad : exec (.flitReceive l seq crcOk tagOk false load) s = .next
    (if (s.linkE l.val).retried = some (s.linkE l.val).seqNo then (if seq = (s.linkE l.val).seqNo then s.linkFails l.val 3 else s)
    else s.linkM l.val fun k => { k with retried := some k.seqNo, replays := satAdd 0xFFFF k.replays 1 }) := by
  have hgood : (seq = (s.linkE l.val).seqNo && crcOk) = false := by
    rcases hbad with h | h
    · simp [h]
    · simp [h]
  rw [exec_flitReceive_up hpeer hup, hgood]
  rfl

end Bad

theorem State.linkFails_out (hout : bit s.span.admitted m = false) (cause : Nat) :
    s.linkFails l.val cause = s.linkM l.val fun k => { k with state := 4, keyed := false } := by
  simp only [State.linkFails, hpeer]
  exact (if_neg (not_not_intro hup)).trans (if_pos (by simp [State.linkM, hout]))

end Flit

/-- Settles O57: a link that trains is judged (`State.judgeLink`); a flit on a link that is UP is good, replayed, or ends the link. -/
theorem linksTrainAndCarry : Obligations.LinksTrainAndCarry := by
  intro s t l m spanId index master members crcOk tagOk seq load hpeer
  refine ⟨fun hmask hawake => ⟨fun hstate => ?trains, fun hstate hkeyed => ?unproved⟩,
    fun hstate hkeyed => ⟨exec_linkHandshakeRetry_proved hstate hkeyed, exec_linkHandshakeRetry_failed hstate hkeyed⟩,
    fun hup => ⟨?good, fun hbad hfirst => ?first, fun hagain => ⟨fun hseq => ?twice, fun hseq => ?later⟩,
      exec_flitReceive_badTag hpeer hup, rfl, fun hout => State.linkFails_out hpeer hup hout 3⟩,
    fun hdown => exec_flitReceive_discarded hpeer (by simp [hdown])⟩
  case trains =>
    have hexec := exec_spanLinkTrained_proved (spanId := spanId) (index := index) (master := master) (members := members) hpeer hawake
      (State.mayTrain_of hmask hstate)
    refine ⟨?up, ?miswired, ?replace⟩
    case up =>
      rintro hreplace hindex rfl rfl rfl
      have hjudge := State.judgeLink_up (s := s.linkM l.val Link.keyAgreed) (l := l.val) (again := (s.linkE l.val).state ≠ 1) hreplace hindex
      refine ⟨_, hexec.trans (congrArg _ hjudge), ?_⟩
      split
      · rw [State.linkE_linkM_same]
        refine ⟨rfl, ?_, rfl, fun _ => bit_maskPut_off _ m⟩
        exact congrArg Link.keyed (State.linkE_linkM_same s l.val Link.keyAgreed)
      · next hagain =>
        rw [State.linkE_linkM_same, State.linkE_linkM_same]
        exact ⟨rfl, rfl, rfl, fun h => absurd h hagain⟩
    case miswired =>
      intro hreplace hindex
      refine ⟨_, hexec.trans (congrArg _ (State.judgeLink_miswired hreplace hindex)), ?_, ?_⟩
      · rw [State.linkE_of_span (State.linkRec_span _ _ _ _), State.linkE_linkM_same]
        rfl
      · exact State.linkRec_tail _ 0x62 _ _
    case replace => exact fun hreplace => hexec.trans (congrArg _ (State.judgeLink_replace hreplace))
  case unproved => exact exec_spanLinkTrained_unproved hpeer hawake (State.mayTrain_of hmask (.inl hstate)) hkeyed
  case good =>
    rintro rfl hseq
    exact exec_flitReceive_good hpeer hup hseq
  case first =>
    refine ⟨_, (exec_flitReceive_bad hpeer hup hbad).trans (congrArg _ (if_neg hfirst)), ?_, ?_, ?_, rfl, rfl⟩
    · rw [State.linkE_linkM_same, ← hup]
    · rw [State.linkE_linkM_same]
    · rw [State.linkE_linkM_same]
  case twice => rw [exec_flitReceive_bad hpeer hup (.inl rfl), if_pos hagain, if_pos hseq]
  case later => rw [exec_flitReceive_bad hpeer hup (.inr hseq), if_pos hagain, if_neg hseq]

end Sys2Proof.Machine
end

section
/-! PROOF. Restores open, load against manifests, and close (R360, R361). -/

namespace Sys2Proof.Machine

/- The common part of the commands. -/

section Command
variable {w : Writer} {ctx : CtxId} {i : Option Nat} {s s0 : State} {op src m : Nat} {run : State → Option Nat → State}
  (hinst : s.instOf w = some i) (hrole : s.hasRole w 1 = true) (hbusy : (s.inst i).ckpBusy = false)
  (hs0 : s0 = s.instM i fun e => { e with ckpCtx := ctx })
include hinst hrole hbusy hs0

/-- A restore command of a caller that is not BUSY, up to whose context it is. -/
theorem State.ckpCommand_eq : s.ckpCommand w op ctx.toNat src m run =
    if ctx.toNat = 0 || !(i.isNone || s0.owner ctx.toNat == i || (s0.ctxE ctx.toNat).state == .free) then s0.ckpResult i 1 0
    else run s0 i := by
  have hs0' : (s.instM i fun e => { e with ckpCtx := BitVec.ofNat 12 ctx.toNat }) = s0 := by
    rw [BitVec.ofNat_toNat, BitVec.setWidth_eq, hs0]
  simp only [State.ckpCommand, hinst, hrole, hbusy, Bool.not_true, Bool.false_eq_true, if_false, hs0']

theorem State.ckpCommand_runs (hctx : ctx ≠ 0) (hmine : i = none ∨ s0.owner ctx.toNat = i) :
    s.ckpCommand w op ctx.toNat src m run = run s0 i := by
  have hctx' : ctx.toNat ≠ 0 := fun h => hctx (BitVec.eq_of_toNat_eq h)
  rw [State.ckpCommand_eq hinst hrole hbusy hs0, if_neg]
  obtain rfl | hown := hmine
  · simp [hctx']
  · simp [hctx', hown]

theorem State.ckpCommand_notMine (hi : i ≠ none) (hown : s0.owner ctx.toNat ≠ i) (hfree : (s0.ctxE ctx.toNat).state ≠ .free) :
    s.ckpCommand w op ctx.toNat src m run = s0.ckpResult i 1 0 := by
  rw [State.ckpCommand_eq hinst hrole hbusy hs0, if_pos]
  have hi' : i.isNone = false := by simpa using Option.isSome_iff_ne_none.2 hi
  simp [hi', hown, hfree]

end Command

/- What the commands do to a context that is the caller's. -/

section Own
variable {w : Writer} {ctx : CtxId} {src : Fin 4} {m : ModN} {i : Option Nat} {s s0 : State} {x : Restore}
  (hrun : ∀ {op src m : Nat} {run : State → Option Nat → State}, s.ckpCommand w op ctx.toNat src m run = run s0 i)
include hrun

theorem exec_ckpBegin_opens (hstate : (s0.ctxE ctx.toNat).state = .idle ∨ (s0.ctxE ctx.toNat).state = .faulted) :
    exec (.ckpBegin w ctx) s = .next (((s0.ctxM ctx.toNat fun e => { e with state := .faulted }).runM ctx.toNat fun r =>
      { r with restore := some {} }).ckpResult i 0 0) := by
  refine congrArg Host.Outcome.next (hrun.trans (if_neg ?_))
  rcases hstate with h | h
  · simp [h]
  · simp [h]

section Opened
variable (hopen : (s0.runE ctx.toNat).restore = some x)
include hopen

theorem exec_ckpLoad_starts : exec (.ckpLoad w ctx src m) s = .next (s0.instM i fun e =>
    { e with ckpBusy := true, ckpLoad := [ckpWord 2 ctx.toNat src.val m.val, e.ckpAddr] }) :=
  congrArg Host.Outcome.next (hrun.trans (if_neg (by simp [hopen])))

theorem exec_ckpAbort_closes :
    exec (.ckpAbort w ctx) s = .next ((s0.runM ctx.toNat fun r => { r with restore := none }).ckpResult i 0 0) :=
  congrArg Host.Outcome.next (hrun.trans (if_neg (by simp [hopen])))

theorem exec_ckpEnd_closes (hfailed : x.failed = []) (hagree : x.agree = true)
    (hcovers : ∀ r ∈ (s0.ctxE ctx.toNat).roots, covers x.regions r.1.toNat r.2.toNat = true) :
    exec (.ckpEnd w ctx) s = .next (((s0.ctxM ctx.toNat fun e =>
      { e with state := .idle, seed := x.seed.getD e.seed, step := x.step.getD e.step }).runM ctx.toNat fun r =>
        { r with restore := none, fault := none }).ckpResult i 0 0) := by
  refine congrArg Host.Outcome.next (hrun.trans ?_)
  simp only [hopen, hfailed, hagree, List.all_eq_true.2 hcovers]
  rfl

theorem exec_ckpEnd_disagrees (hfailed : x.failed = []) (hagree : x.agree = false) : exec (.ckpEnd w ctx) s = .next (s0.ckpResult i 7 0) := by
  refine congrArg Host.Outcome.next (hrun.trans ?_)
  simp only [hopen, hfailed, hagree]
  rfl

end Opened

section Closed
variable (hclosed : (s0.runE ctx.toNat).restore = none)
include hclosed

theorem exec_ckpLoad_closed : exec (.ckpLoad w ctx src m) s = .next (s0.ckpResult i 9 0) :=
  congrArg Host.Outcome.next (hrun.trans (if_pos (by simp [hclosed])))

theorem exec_ckpEnd_closed : exec (.ckpEnd w ctx) s = .next (s0.ckpResult i 9 0) := by
  refine congrArg Host.Outcome.next (hrun.trans ?_)
  simp only [hclosed]

theorem exec_ckpAbort_closed : exec (.ckpAbort w ctx) s = .next (s0.ckpResult i 9 0) :=
  congrArg Host.Outcome.next (hrun.trans (if_pos (by simp [hclosed])))

end Closed

end Own

/- The end of a LOAD. -/

/-- A LOAD that failed with a result (R360). -/
def State.loadFails (s : State) (i : Option Nat) (c a result : Nat) : State :=
  (s.runM c fun r => { r with restore := r.restore.map fun x => { x with failed := tabSet x.failed a result } }).ckpResult i result 0

section Load
variable {i : Option Nat} {s s1 s2 s3 : State} {f c src m a : Nat} {h e : List (BitVec 8)}

theorem State.doLoad_unreadable (hread : s.ckpRead f c src m a 64 = (s1, none)) : s.doLoad i f c src m a = s1.loadFails i c a 5 := by
  simp only [State.doLoad, hread]
  rfl

theorem State.doLoad_notMine (hread : s.ckpRead f c src m a 64 = (s1, some h))
    (hbad : imgAt h 0 4 ≠ 0x4B434E47 ∨ imgAt h 4 2 ≠ 1 ∨ imgAt h 6 2 ≠ c) : s.doLoad i f c src m a = s1.loadFails i c a 3 := by
  simp only [State.doLoad, hread]
  refine if_pos ?_
  simpa [or_assoc] using hbad

/-- The restore with the region of a manifest of one page, and its SEED and STEP (R361). -/
def Restore.addPage (h : List (BitVec 8)) (a : Nat) (x : Restore) : Restore :=
  { x with
    seed := some (x.seed.getD (BitVec.ofNat 64 (imgAt h 8 8))), step := some (x.step.getD (BitVec.ofNat 32 (imgAt h 16 4)))
    agree := x.agree && x.seed.getD (BitVec.ofNat 64 (imgAt h 8 8)) == BitVec.ofNat 64 (imgAt h 8 8) &&
      x.step.getD (BitVec.ofNat 32 (imgAt h 16 4)) == BitVec.ofNat 32 (imgAt h 16 4)
    failed := tabDel x.failed a, regions := x.regions ++ [(imgAt h 24 8, 65536)] }

theorem State.doLoad_onePage (hread : s.ckpRead f c src m a 64 = (s1, some h)) (hmagic : imgAt h 0 4 = 0x4B434E47)
    (hversion : imgAt h 4 2 = 1) (hctx : imgAt h 6 2 = c) (hpages : imgAt h 20 4 = 1)
    (hbody : s1.ckpRead f c src m (a + 64) 8 = (s2, some e)) (hcrc : crcOf 1 (h.take 60 ++ e) = imgAt h 60 4) (hroom : 65536 ≤ a)
    (hpage : s2.loadPage f c src m (a - 65536) (imgAt h 24 8) (imgAt e 0 8) = (s3, none)) :
    s.doLoad i f c src m a = (s3.runM c fun r => { r with restore := r.restore.map (Restore.addPage h a) }).ckpResult i 0 1 := by
  have hgood : (decide (imgAt h 0 4 ≠ 0x4B434E47) || decide (imgAt h 4 2 ≠ 1) || decide (imgAt h 6 2 ≠ c)) = false := by
    simp [hmagic, hversion, hctx]
  have hcheck : (decide (crcOf 1 (h.take 60 ++ e) ≠ imgAt h 60 4) || decide (a < 65536)) = false := by
    simp [hcrc, Nat.not_lt.2 hroom]
  have hbody' : s1.ckpRead f c src m (a + 64) (8 * 1) = (s2, some e) := hbody
  simp only [State.doLoad, hread, hgood, hpages, hbody', Nat.mul_one, hcheck]
  simp only [List.range_one, List.foldl_cons, List.foldl_nil, Nat.sub_zero, Nat.mul_one, Nat.mul_zero, Nat.add_zero, hpage]
  rfl

theorem exec_restoreLoadDone_loads {w : Writer} {word addr : BitVec 64} {x : Restore} (hinst : s.instOf w = some i)
    (hload : (s.inst i).ckpLoad = [word, addr]) (hopen : (s.runE (bits word 59 48)).restore = some x) :
    exec (.restoreLoadDone w) s = .next (s.doLoad i (i.getD (s.ctxE (bits word 59 48)).func.toNat) (bits word 59 48) (bits word 47 46)
      (bits word 45 42) (bits addr 63 6 * 64)) := by
  refine congrArg Host.Outcome.next ?_
  simp only [hinst, hload, hopen]
  rfl

end Load

/-- Settles O47: a command runs where the context is the caller's (`State.ckpCommand_runs`); the end of a LOAD follows its reads. -/
theorem restoresOpenAndClose : Obligations.RestoresOpenAndClose := by
  refine ⟨fun w ctx src m i s s0 x hinst hrole hbusy hctx hs0 => ⟨fun hmine => ?mine, fun hi hown hfree => ?notMine⟩,
    fun w i s s1 s2 s3 word addr c f src m a x h hinst hload hc hopen hf hsrc hm ha => ?load⟩
  case mine =>
    have hrun {op src m : Nat} {run : State → Option Nat → State} : s.ckpCommand w op ctx.toNat src m run = run s0 i :=
      State.ckpCommand_runs hinst hrole hbusy hs0 hctx hmine
    exact ⟨exec_ckpBegin_opens hrun, fun hopen => ⟨exec_ckpLoad_starts hrun hopen, exec_ckpAbort_closes hrun hopen,
      exec_ckpEnd_closes hrun hopen, exec_ckpEnd_disagrees hrun hopen⟩,
      fun hclosed => ⟨exec_ckpLoad_closed hrun hclosed, exec_ckpEnd_closed hrun hclosed, exec_ckpAbort_closed hrun hclosed⟩⟩
  case notMine =>
    have hout (op src m : Nat) (run : State → Option Nat → State) :
        (.next (s.ckpCommand w op ctx.toNat src m run) : Out) = .next (s0.ckpResult i 1 0) :=
      congrArg Host.Outcome.next (State.ckpCommand_notMine hinst hrole hbusy hs0 hi hown hfree)
    exact ⟨hout _ _ _ _, hout _ _ _ _, hout _ _ _ _, hout _ _ _ _⟩
  case load =>
    subst hc hf hsrc hm ha
    have hexec := exec_restoreLoadDone_loads hinst hload hopen
    refine ⟨fun hread => ?_, fun hread hbad => ?_, fun e hread hmagic hversion hctx hpages hbody hcrc hroom hpage => ?_⟩
    · exact hexec.trans (congrArg _ (State.doLoad_unreadable hread))
    · exact hexec.trans (congrArg _ (State.doLoad_notMine hread hbad))
    · exact hexec.trans (congrArg _ (State.doLoad_onePage hread hmagic hversion hctx hpages hbody hcrc hroom hpage))

end Sys2Proof.Machine
end

section
/-! PROOF. DCOW protects its pages and copies them one by one (R356 to R358). -/

namespace Sys2Proof.Machine

/-- A DCOW whose region resolves protects its pages, clears the manifest's place, and has them all to copy (R356). -/
theorem exec_dcow_protects {c : CoreN} {ctx : Nat} {s s1 s2 s3 : State} {e : QEntry} {pages : List Nat}
    (hready : s.ready c.val 2 (· == .dcow) (fun s ctx e o => dcowRest s c.val ctx e o) = some (s1, ctx, e, .dcow))
    (hresolve : s1.cowResolve (dmaOf ctx c.val 3 e.slot) (e.desc (e.word.td 1)).base (4 * (e.desc (e.word.td 1)).dim 0) true =
      (s2, .ok pages))
    (hclear : ({ s2 with protect := pages.foldl (fun l p => tabSet l p (64 * ctx + c.val)) s2.protect } : State).outWrite
      (dmaOf ctx c.val 3 e.slot) false ((e.desc (e.word.td 0)).base + 65536 * pages.length) (List.replicate 8 0) = (s3, none)) :
    exec (.dcow c) s = .next (s3.coreM ctx c.val fun k => { k with dcows := k.dcows ++ [{
      slot := e.slot, core := c.val, ctx := ctx, srcVa := (e.desc (e.word.td 1)).base, dstVa := (e.desc (e.word.td 0)).base,
      pages := pages, todo := List.range pages.length,
      cvSave := match (s3.coreE ctx c.val).dcows with | r :: _ => r.cvSave | [] => (s3.coreE ctx c.val).cv1, step := e.step }] }) := by
  refine congrArg Host.Outcome.next ((State.takeHead_ready hready).trans ?_)
  simp only [runDcow, hresolve, hclear] <;> rfl

/- The copy of a page. -/

section Copy
variable {c : CoreN} {ctx slot i : Nat} {s s1 s2 s3 s4 u : State} {r r' : DcowRun} {e : QEntry} {rest : List Nat} {bs : List (BitVec 8)}
  {stale : Bool}

/-- With no host write held, the copy is that of the first page left (R357). -/
theorem exec_dcowPageCopy_next (hctx : ctx = (s.clusE (c.val / 4)).ctx) (hctx0 : ctx ≠ 0) (hrunning : (s.runE ctx).running = true)
    (hfrozen : s.frozen = false) (hrun : (s.coreE ctx c.val).dcows.find? (fun r => r.slot == slot) = some r) (htodo : r.todo = i :: rest)
    (hheld : s.mem.hostHeld = []) : exec (.dcowPageCopy c slot) s = .next (s.dcowCopy ctx c.val slot i 3) := by
  subst hctx
  refine congrArg Host.Outcome.next ((if_neg ?_).trans ?_)
  · simp [hctx0, hrunning, hfrozen]
  · simp only [hrun, hheld, htodo]
    rfl

section Read
variable (hrun : (s.coreE ctx c.val).dcows.find? (fun r => r.slot == slot) = some r)
  (hentry : (s.coreE ctx c.val).dxeQ.find? (fun e => e.slot == slot) = some e) (hfailed : r.failed = none) (hresult : e.result = none)
  (htodo : r.todo = i :: rest) (hstale : stale = (e.epoch != (s.ctxE ctx).epoch))
  (hread : s.stackRead (r.pages.getD i 0 * 65536) 65536 (s.reqOf (dmaOf ctx c.val 3 slot) 3) = (s1, .ok bs))
  (hwrite : s1.outWrite (dmaOf ctx c.val 3 slot) stale (r.dstVa + 65536 * i) bs = (s2, none))
  (hs3 : s3 = s2.dcowCopied ctx c.val slot i (r.pages.getD i 0) bs)
  (hrun' : (s3.coreE ctx c.val).dcows.find? (fun r => r.slot == slot) = some r')
include hrun hentry hfailed hresult htodo hstale hread hwrite hs3 hrun'

theorem State.dcowCopy_more (hmore : r'.todo ≠ []) : s.dcowCopy ctx c.val slot i 3 = s3 := by
  have hg : ({ ctx := ctx, core := some c.val, cluster := c.val / 4, cls := 3, dxe := some slot } : Agent) = dmaOf ctx c.val 3 slot := rfl
  have hmore' : r'.todo.isEmpty = false := by simpa using hmore
  simp only [State.dcowCopy, hrun, hentry, hg, hread, ← hstale, hwrite, ← hs3, hrun', hmore']
  refine if_neg ?_
  simp [hfailed, hresult, htodo]

theorem State.dcowCopy_last (hlast : r'.todo = [])
    (hbody : s3.outWrite (dmaOf ctx c.val 3 slot) stale (r'.dstVa + 65536 * r'.pages.length + 64)
      (manifestBytes ctx (s3.ctxE ctx) s3.modIdx r').2 = (s4, none))
    (hheader : s4.outWrite (dmaOf ctx c.val 3 slot) stale (r'.dstVa + 65536 * r'.pages.length)
      (manifestBytes ctx (s3.ctxE ctx) s3.modIdx r').1 = (u, none)) :
    s.dcowCopy ctx c.val slot i 3 = u.dcowEnds ctx c.val slot {} := by
  have hg : ({ ctx := ctx, core := some c.val, cluster := c.val / 4, cls := 3, dxe := some slot } : Agent) = dmaOf ctx c.val 3 slot := rfl
  simp only [State.dcowCopy, hrun, hentry, hg, hread, ← hstale, hwrite, ← hs3, hrun', hlast, hbody, hheader]
  refine if_neg ?_
  simp [hfailed, hresult, htodo]

end Read

end Copy

/-- Settles O22: a DCOW protects its pages at its take; a copied page is the last one, or leaves others to copy. -/
theorem copyOnWriteCopiesItsPages : Obligations.CopyOnWriteCopiesItsPages := by
  refine fun c ctx s s1 s2 s3 s4 e => ⟨fun pages => exec_dcow_protects, fun r slot i rest bs stale hctx hctx0 hrunning hrun hentry hfailed
    hresult htodo hfrozen hheld hstale hread hwrite hs3 r' hrun' => ⟨fun hmore => ?more, fun hlast hbody u hheader => ?last⟩⟩
  case more =>
    rw [exec_dcowPageCopy_next hctx hctx0 hrunning hfrozen hrun htodo hheld,
      State.dcowCopy_more hrun hentry hfailed hresult htodo hstale hread hwrite hs3 hrun' hmore]
  case last =>
    rw [exec_dcowPageCopy_next hctx hctx0 hrunning hfrozen hrun htodo hheld,
      State.dcowCopy_last hrun hentry hfailed hresult htodo hstale hread hwrite hs3 hrun' hlast hbody hheader]

end Sys2Proof.Machine
end

section
/-! PROOF. Job and completion rings: enabling, tails, heads and delays (R286, R287, R290, R292). -/

namespace Sys2Proof.Machine

/- Folds that one element alone moves. -/

section Fold
variable {β γ : Type} {f : γ → β → γ} {l : List β}

theorem foldl_eq_self {c : γ} (h : ∀ y ∈ l, f c y = c) : l.foldl f c = c := by
  induction l with
  | nil => rfl
  | cons y l ih =>
    rw [List.foldl_cons, h y List.mem_cons_self]
    exact ih fun z hz => h z (List.mem_cons_of_mem _ hz)

/-- Where only x, once in the list, moves c, and nothing else moves what it makes, the fold makes that. -/
theorem foldl_only {c d : γ} {x : β} (hl : l.Nodup) (hx : x ∈ l) (hbefore : ∀ y ∈ l, y ≠ x → f c y = c) (hself : f c x = d)
    (hafter : ∀ y ∈ l, y ≠ x → f d y = d) : l.foldl f c = d := by
  obtain ⟨l₁, l₂, rfl⟩ := List.append_of_mem hx
  obtain ⟨h₁, h₂⟩ := not_or.1 (mt List.mem_append.2 (List.nodup_cons.1 (List.perm_middle.nodup_iff.1 hl)).1)
  rw [List.foldl_append, List.foldl_cons,
    foldl_eq_self fun y hy => hbefore y (List.mem_append_left _ hy) (ne_of_mem_of_not_mem hy h₁), hself,
    foldl_eq_self fun y hy => hafter y (List.mem_append_right _ (List.mem_cons_of_mem _ hy)) (ne_of_mem_of_not_mem hy h₂)]

end Fold

/- Completion rings. -/

theorem State.flushHeld_none {s : State} (h : ∀ j ∈ s.jobs, j.held = none) (f cq : Nat) : s.flushHeld f cq = s := by
  have hnone : s.jobs.filter (fun j => j.func == f && j.cq == cq && j.held.isSome) = [] :=
    List.filter_eq_nil_iff.2 fun j hj => by simp [h j hj]
  simp only [State.flushHeld, hnone, List.foldr_nil, List.foldl_nil]

theorem State.stopDone_running {s : State} {f : Nat} (h : (s.funcE f).cancelling = false) : s.stopDone f = s :=
  if_neg (by simp [h])

section Cr
variable {f : FuncN} {v : BitVec 64} {s : State} {cq : Fin 32}

/-- A completion ring that is enabled is empty (R290). -/
def Func.openCr (cq : Nat) (v : BitVec 64) (e : Func) : Func :=
  { e with crCfg := tabSet e.crCfg cq (setBits (setBits (v &&& crCfgMask) 61 61 0) 63 63 1), crTail := tabSet e.crTail cq 0
           crHead := tabSet e.crHead cq 0, irqCount := tabSet e.irqCount cq 0 }

theorem exec_crEnable_opens (hv : bit v 63 = true) (hoff : bit ((s.funcE f.val).crc cq.val) 63 = false) (hlog : bits v 31 28 < 9)
    (herr : bit ((s.funcE f.val).crc cq.val) 61 = false) (hheld : ∀ j ∈ s.jobs, j.held = none)
    (hcancel : (s.funcE f.val).cancelling = false) : exec (.crEnable f cq v) s = .next (s.funcM f.val (Func.openCr cq.val v)) := by
  have hflush : (s.funcM f.val (Func.openCr cq.val v)).flushHeld f.val cq.val = s.funcM f.val (Func.openCr cq.val v) :=
    State.flushHeld_none (s := s.funcM f.val (Func.openCr cq.val v)) hheld _ _
  have hdone : (s.funcM f.val (Func.openCr cq.val v)).stopDone f.val = s.funcM f.val (Func.openCr cq.val v) := by
    refine State.stopDone_running ?_
    rw [State.funcE_funcM_same]
    exact hcancel
  have hexec : exec (.crEnable f cq v) s =
      .next (((s.funcM f.val (Func.openCr cq.val v)).flushHeld f.val cq.val).stopDone f.val) := by
    simp only [exec, execCrEnable, hv, hoff, herr, Nat.not_le.2 hlog]
    rfl
  rw [hexec, hflush, hdone]

theorem exec_crHeadWrite_taken {head tail old : BitVec 32} (htail : tail = tabGet (s.funcE f.val).crTail cq.val 0)
    (hold : old = tabGet (s.funcE f.val).crHead cq.val 0) (h : (head - old).toNat ≤ (tail - old).toNat) :
    exec (.crHeadWrite f cq head) s =
      .next ((s.funcM f.val fun e => { e with crHead := tabSet e.crHead cq.val head }).flushHeld f.val cq.val) := by
  subst htail hold
  exact congrArg Host.Outcome.next (if_neg (Nat.not_lt.2 h))

theorem exec_crHeadWrite_beyond {head tail old : BitVec 32} (htail : tail = tabGet (s.funcE f.val).crTail cq.val 0)
    (hold : old = tabGet (s.funcE f.val).crHead cq.val 0) (h : (tail - old).toNat < (head - old).toNat) :
    exec (.crHeadWrite f cq head) s =
      .next (s.infoAccess (.func f) s.modUid (0x610 + 0x20 * cq.val) (BitVec.ofNat 64 head.toNat)) := by
  subst htail hold
  exact congrArg Host.Outcome.next (if_pos h)

theorem exec_crDelayExpiry_interrupts (hcount : tabGet (s.funcE f.val).irqCount cq.val 0 ≠ 0)
    (hdelay : bits ((s.funcE f.val).crc cq.val) 47 32 ≠ 0) : exec (.crDelayExpiry f cq) s = .next (s.crInterrupt f.val cq.val) :=
  congrArg Host.Outcome.next (if_neg (by simp [hcount, hdelay]))

theorem State.crInterrupt_msix (h : bit ((s.funcE f.val).crc cq.val) 62 = false) : s.crInterrupt f.val cq.val =
    (s.funcM f.val fun e => { e with irqCount := tabSet e.irqCount cq.val 0 }).msix f.val (bits ((s.funcE f.val).crc cq.val) 10 0 % 64) :=
  if_neg (by simp [h])

end Cr

/- Job rings. -/

theorem State.inHostWin_funcM {g : Func → Func} (h : ∀ e, (g e).windows = e.windows) (s : State) (f a n : Nat) :
    (s.funcM f g).inHostWin f a n = s.inHostWin f a n := by
  rw [State.inHostWin, State.inHostWin, State.funcE_funcM_same, h]

section Read
variable {s : State} {f a n : Nat}

theorem State.ringRead_open (hwin : s.inHostWin f a n = true) (hats : s.atsFails f a n = false) :
    s.ringRead f false a n = (s, .ok []) := by
  simp [State.ringRead, hwin, hats]

theorem State.ringRead_shut (h : s.inHostWin f a n = false ∨ s.atsFails f a n = true) :
    s.ringRead f false a n = (s, .error (if s.inHostWin f a n then 1 else 2)) := by
  cases hwin : s.inHostWin f a n with
  | false => simp [State.ringRead, hwin]
  | true =>
    have hats : s.atsFails f a n = true := h.resolve_left (by simp [hwin])
    simp [State.ringRead, hwin, hats]

end Read

section Jr
variable {f : FuncN} {v : BitVec 64} {s : State} {slot : SlotN} {ring : Fin 4} {tail : BitVec 32} {k : Nat}

/-- The fields of a job ring that is enabled. -/
def Func.putJrCfg (k : Nat) (v : BitVec 64) : Func → Func := fun e => { e with jrCfg := tabSet e.jrCfg k (v &&& jrCfgMask) }
def Func.enableJr (k : Nat) : Func → Func := fun e => { e with jrEnable := setIns e.jrEnable k }
def Func.putJrPlaces (k : Nat) (t : BitVec 32) (e : Func) : Func := { e with jrHead := tabSet e.jrHead k t, jrTail := tabSet e.jrTail k t }

theorem Func.jrOpened (k : Nat) (v : BitVec 64) (t : BitVec 32) (e : Func) : Func.putJrPlaces k t (Func.enableJr k (Func.putJrCfg k v e)) =
    { e with jrCfg := tabSet e.jrCfg k (v &&& jrCfgMask), jrEnable := setIns e.jrEnable k
             jrHead := tabSet e.jrHead k t, jrTail := tabSet e.jrTail k t } := rfl

theorem exec_jrEnable_opens (hk : k = ringKey slot.val ring.val) (hv : bit v 63 = true) (herr : bit v 62 = false)
    (hunit : s.unitValid (s.slotUnit slot.val) = true) (hslot : slot.val ≠ 1) (hoff : (s.funcE f.val).jrEnable.contains k = false)
    (hlog : bits v 47 44 < 11) (hloc : bit v 61 = false)
    (hwin : s.inHostWin f.val (bits (tabGet (s.funcE f.val).jrTailAddr k 0) 63 6 * 64) 64 = true)
    (hats : s.atsFails f.val (bits (tabGet (s.funcE f.val).jrTailAddr k 0) 63 6 * 64) 64 = false) :
    exec (.jrEnable f slot ring v (some tail)) s = .next (((s.funcM f.val (Func.putJrCfg k v)).funcM f.val (Func.enableJr k)).funcM f.val
      (Func.putJrPlaces k tail)) := by
  subst hk
  have hopen := ((State.inHostWin_funcM (g := Func.enableJr (ringKey slot.val ring.val)) (fun _ => rfl) _ _ _ _).trans
      (State.inHostWin_funcM (g := Func.putJrCfg (ringKey slot.val ring.val) v) (fun _ => rfl) _ _ _ _)).trans hwin
  have hguard : (!(s.unitValid (s.slotUnit slot.val)) || (decide (slot.val = 1) && !s.isMaster)) = false := by simp [hunit, hslot]
  have hlog' : ¬ 11 ≤ bits v 47 44 := Nat.not_le.2 hlog
  simp only [exec, execJrEnable, hv, herr, hguard, hoff, hloc, if_neg hlog', Bool.not_true, Bool.false_eq_true, if_false]
  rw [State.ringRead_open]
  · rfl
  · exact hopen
  · exact hats

/- A ring's tail line, read again (R287). -/

section Tail
variable {cfg : BitVec 64} {a fn sl rg : Nat} {x : Option (BitVec 32)} {u : State}

def Func.putJrTail (k : Nat) (t : BitVec 32) (e : Func) : Func := { e with jrTail := tabSet e.jrTail k t }

theorem State.readTail_eq (hk : k = ringKey sl rg) (hcfg : cfg = tabGet (s.funcE fn).jrCfg k 0)
    (ha : a = bits (tabGet (s.funcE fn).jrTailAddr k 0) 63 6 * 64) (hon : (s.funcE fn).jrEnable.contains k = true)
    (hloc : bit cfg 61 = false) (hlink : s.sch.hostLink = true) : s.readTail fn sl rg (some x) =
      match s.ringRead fn false a 64 with
      | (u, .error why) => u.ringStop fn sl rg a why (tabGet (s.funcE fn).jrTail k 0)
      | (u, .ok _) => match x with
        | none => u.ringStop fn sl rg a 0 (tabGet (s.funcE fn).jrTail k 0)
        | some t => if ringN cfg < (t - tabGet (s.funcE fn).jrHead k 0).toNat
          then (u.funcM fn (Func.putJrTail k t)).ringStop fn sl rg 0 3 t else u.funcM fn (Func.putJrTail k t) := by
  subst hk hcfg ha
  simp only [State.readTail, hon, hlink, hloc, Bool.not_true, Bool.and_false, Bool.or_false, Bool.false_eq_true, if_false]
  rcases s.ringRead fn false _ 64 with ⟨t, _ | b⟩
  · rfl
  · cases x <;> rfl

variable (hk : k = ringKey sl rg) (hcfg : cfg = tabGet (s.funcE fn).jrCfg k 0) (ha : a = bits (tabGet (s.funcE fn).jrTailAddr k 0) 63 6 * 64)
  (hon : (s.funcE fn).jrEnable.contains k = true) (hloc : bit cfg 61 = false) (hlink : s.sch.hostLink = true)
include hk hcfg ha hon hloc hlink

theorem State.readTail_taken (hwin : s.inHostWin fn a 64 = true) (hats : s.atsFails fn a 64 = false)
    (h : (tail - tabGet (s.funcE fn).jrHead k 0).toNat ≤ ringN cfg) :
    s.readTail fn sl rg (some (some tail)) = s.funcM fn (Func.putJrTail k tail) := by
  rw [State.readTail_eq hk hcfg ha hon hloc hlink, State.ringRead_open hwin hats]
  exact if_neg (Nat.not_lt.2 h)

theorem State.readTail_beyond (hwin : s.inHostWin fn a 64 = true) (hats : s.atsFails fn a 64 = false)
    (h : ringN cfg < (tail - tabGet (s.funcE fn).jrHead k 0).toNat) :
    s.readTail fn sl rg (some (some tail)) = (s.funcM fn (Func.putJrTail k tail)).ringStop fn sl rg 0 3 tail := by
  rw [State.readTail_eq hk hcfg ha hon hloc hlink, State.ringRead_open hwin hats]
  exact if_pos h

theorem State.readTail_poison (hwin : s.inHostWin fn a 64 = true) (hats : s.atsFails fn a 64 = false) :
    s.readTail fn sl rg (some none) = s.ringStop fn sl rg a 0 (tabGet (s.funcE fn).jrTail k 0) := by
  rw [State.readTail_eq hk hcfg ha hon hloc hlink, State.ringRead_open hwin hats]

theorem State.readTail_shut (h : s.inHostWin fn a 64 = false ∨ s.atsFails fn a 64 = true) : s.readTail fn sl rg (some x) =
    s.ringStop fn sl rg a (if s.inHostWin fn a 64 then 1 else 2) (tabGet (s.funcE fn).jrTail k 0) := by
  rw [State.readTail_eq hk hcfg ha hon hloc hlink, State.ringRead_shut h]

end Tail

/-- The tail line of one ring, read by a poll; and of every enabled ring of one function, and of all (R285, R287). -/
def State.pollRing (tails : List (FuncN × SlotN × Fin 4 × Option (BitVec 32))) (f : Nat) (s : State) (k : Nat) : State :=
  s.readTail f (k / 4) (k % 4) ((tails.find? fun t => t.1.val == f && ringKey t.2.1.val t.2.2.1.val == k).map fun t => t.2.2.2)
def State.pollFunc (tails : List (FuncN × SlotN × Fin 4 × Option (BitVec 32))) (s : State) (f : Nat) : State :=
  (s.funcE f).jrEnable.foldl (State.pollRing tails f) s
def State.pollAll (tails : List (FuncN × SlotN × Fin 4 × Option (BitVec 32))) (s : State) : State :=
  (List.range 32).foldl (State.pollFunc tails) s

theorem exec_tailLinePoll (tails : List (FuncN × SlotN × Fin 4 × Option (BitVec 32))) (refused : List (FuncN × Nat)) (s : State) :
    exec (.tailLinePoll tails refused) s =
      .next (State.pollAll tails { s with mem := { s.mem with atsRefused := refused.map fun p => (p.1.val, p.2) } }) := rfl

theorem State.pollFunc_off {tails : List (FuncN × SlotN × Fin 4 × Option (BitVec 32))} {g : Nat} (h : (s.funcE g).jrEnable = []) :
    State.pollFunc tails s g = s := by rw [State.pollFunc, h, List.foldl_nil]

/-- A poll of the only enabled ring reads its tail line, and no other (R285, R287). -/
theorem exec_tailLinePoll_only {refused : List (FuncN × Nat)} {u : State} (hk : k = ringKey slot.val ring.val)
    (hrefused : refused.map (fun p => (p.1.val, p.2)) = s.mem.atsRefused) (hself : (s.funcE f.val).jrEnable = [k])
    (hother : ∀ g : Nat, g ≠ f.val → (s.funcE g).jrEnable = []) (hotherU : ∀ g : Nat, g ≠ f.val → (u.funcE g).jrEnable = [])
    (hread : s.readTail f.val slot.val ring.val (some (some tail)) = u) :
    exec (.tailLinePoll [(f, slot, ring, some tail)] refused) s = .next u := by
  have hs : ({ s with mem := { s.mem with atsRefused := refused.map fun p => (p.1.val, p.2) } } : State) = s := by rw [hrefused]
  have hslot : k / 4 = slot.val := by simp only [hk, ringKey]; omega
  have hring : k % 4 = ring.val := by simp only [hk, ringKey]; omega
  have hfind : ([(f, slot, ring, some tail)].find? fun t => t.1.val == f.val && ringKey t.2.1.val t.2.2.1.val == k).map
      (fun t => t.2.2.2) = some (some tail) := by simp [hk]
  have hfunc : State.pollFunc [(f, slot, ring, some tail)] s f.val = u := by
    rw [State.pollFunc, hself, List.foldl_cons, List.foldl_nil, State.pollRing, hslot, hring, hfind, hread]
  rw [exec_tailLinePoll, hs]
  exact congrArg Host.Outcome.next (foldl_only List.nodup_range (List.mem_range.2 f.isLt) (fun g _ hg => State.pollFunc_off (hother g hg))
    hfunc fun g _ hg => State.pollFunc_off (hotherU g hg))

end Jr

/-- Settles O35: the rules above, one for each clause. -/
theorem ringsAreSetUp : Obligations.RingsAreSetUp := by
  unfold Obligations.RingsAreSetUp
  refine ⟨fun f v s => ⟨fun slot ring tail k hk hv herr hunit hslot hoff hlog hloc hwin hats => ?_, fun cq => ⟨exec_crEnable_opens,
      fun head tail old htail hold => ⟨exec_crHeadWrite_taken htail hold, exec_crHeadWrite_beyond htail hold⟩,
      fun hcount hdelay => ⟨exec_crDelayExpiry_interrupts hcount hdelay, State.crInterrupt_msix⟩⟩⟩,
    fun f slot ring cfg tail k a s u hk hcfg ha hon hloc hlink hu => ⟨fun hwin hats hle => ?_, fun hwin hats hlt => ?_,
      fun hwin hats => ?_, fun hshut => ?_⟩⟩
  · refine ⟨_, exec_jrEnable_opens hk hv herr hunit hslot hoff hlog hloc hwin hats, rfl, ?_⟩
    rw [State.funcE_funcM_same, State.funcE_funcM_same, State.funcE_funcM_same]
    exact Func.jrOpened k v tail (s.funcE f.val)
  · have hread := (State.readTail_taken hk hcfg ha hon hloc hlink hwin hats hle).trans hu.symm
    refine ⟨congrArg Host.Outcome.next hread, fun hself hother refused hrefused => ?_⟩
    refine exec_tailLinePoll_only hk hrefused hself hother (fun g hg => ?_) hread
    rw [hu, State.funcE_funcM_ne _ _ _ _ hg]
    exact hother g hg
  · rw [hu]
    exact congrArg Host.Outcome.next (State.readTail_beyond hk hcfg ha hon hloc hlink hwin hats hlt)
  · exact congrArg Host.Outcome.next (State.readTail_poison hk hcfg ha hon hloc hlink hwin hats)
  · exact congrArg Host.Outcome.next (State.readTail_shut hk hcfg ha hon hloc hlink hshut)

end Sys2Proof.Machine
end

section
/-! PROOF. Companion cores: assigned, started, stopped and confined to their function (R294, R295). -/

namespace Sys2Proof.Machine

/- PF0's commands. -/

section Pf0
variable {s : State} {h : Fin 32} {f g : FuncN}

theorem State.pf0Only_pf0 (s : State) (off : Nat) (v : BitVec 64) (act : State → State) : s.pf0Only (.func 0) off v act = act s :=
  if_pos (e := s.infoAccess (.func 0) 0 off v) (Fin.val_zero 32)

theorem State.pf0Only_other (hg : g ≠ 0) (s : State) (off : Nat) (v : BitVec 64) (act : State → State) :
    s.pf0Only (.func g) off v act = s.infoAccess (.func g) 0 off v := if_neg fun h0 => hg (Fin.ext h0)

theorem exec_compAssign_stopped (hoff : (s.hartE h.val).running = false) :
    exec (.compAssign (.func 0) h f) s = .next (s.hartM h.val fun e => { e with func := some f.val }) :=
  congrArg Host.Outcome.next ((State.pf0Only_pf0 _ _ _ _).trans (if_neg (by simp [hoff])))

theorem exec_compStart_pf0 (hfunc : (s.hartE h.val).func = some f.val) (hoff : (s.hartE h.val).running = false)
    (hlow : (s.funcE f.val).base ≤ s.sch.compBoot.toNat) (hhigh : s.sch.compBoot.toNat < (s.funcE f.val).base + (s.funcE f.val).size)
    (hdie : (s.dieE (h.val / 8)).inReset = false) (hon : (s.funcE f.val).disable = false) :
    exec (.compStart (.func 0) h) s =
      .next (({ s with pwr := { s.pwr with off := setDel s.pwr.off (hartDomain h.val) } } : State).hartM h.val
        fun e => { e with running := true, pc := s.sch.compBoot, supervisor := true }) := by
  have hgood : (decide ((s.funcE f.val).base ≤ s.sch.compBoot.toNat) &&
      decide (s.sch.compBoot.toNat < (s.funcE f.val).base + (s.funcE f.val).size) && !(s.dieE (h.val / 8)).inReset &&
      !(s.funcE f.val).disable) = true := by simp [hlow, hhigh, hdie, hon]
  refine congrArg Host.Outcome.next ((State.pf0Only_pf0 _ _ _ _).trans ?_)
  simp only [hfunc, hoff, hgood, Bool.false_eq_true, if_false, if_true]

theorem exec_compStop_pf0 (s : State) (h : Fin 32) : exec (.compStop (.func 0) h) s = .next (s.hartOff h.val) :=
  congrArg Host.Outcome.next (State.pf0Only_pf0 _ _ _ _)

end Pf0

/- What a running hart does. -/

theorem exec_hartAct {s : State} {h : Fin 32} {f : FuncN} (hon : (s.hartE h.val).running = true)
    (hfunc : (s.hartE h.val).func = some f.val) :
    (∀ addr n, exec (.hartAccessRefused h (.load addr n)) s = .next (s.hartAccess h f.val addr n none)) ∧
    (∀ addr b, exec (.hartAccessRefused h (.store addr b)) s = .next (s.hartAccess h f.val addr b.length (some b))) ∧
    (∀ t, exec (.hartAccessRefused h (.setTimer t)) s = .next (s.hartM h.val fun e => { e with timer := some t })) ∧
    (∀ mask : BitVec 32, exec (.hartAccessRefused h (.sendIpi mask)) s = .next
      (((maskList 32 mask.toNat).filter fun k => (s.hartE k).func == some f.val).foldl
        (fun (s : State) k => s.hartM k fun e => { e with ipi := true }) s)) ∧
    exec (.hartAccessRefused h .stop) s = .next (s.hartM h.val fun e => { e with running := false }) := by
  simp only [exec, execHartAccessRefused, hfunc, hon, Bool.not_true, Bool.false_eq_true, if_false, implies_true, and_self]

section Access
variable {s : State} {h : Fin 32} {f n : Nat} {addr : BitVec 64}

/-- Outside the range, the host windows and the BAR0 view a load is refused (R294). -/
theorem State.hartAccess_load_outside
    (hrange : addr.toNat < (s.funcE f).base ∨ (s.funcE f).base + (s.funcE f).size < addr.toNat + n)
    (hwin : s.inHostWin f addr.toNat n = false) (hbar : addr.toNat < 0x040000000000 ∨ 0x040001000000 ≤ addr.toNat) :
    s.hartAccess h f addr n none = s.hartRefused h 5 addr 0 := by
  have hrange' : (decide ((s.funcE f).base ≤ addr.toNat) && decide (addr.toNat + n ≤ (s.funcE f).base + (s.funcE f).size)) = false := by
    simp; omega
  have hbar' : (decide (0x040000000000 ≤ addr.toNat) && decide (addr.toNat < 0x040001000000)) = false := by
    simp; omega
  exact (if_neg (Bool.eq_false_iff.1 hrange')).trans ((if_neg (Bool.eq_false_iff.1 hwin)).trans (if_neg (Bool.eq_false_iff.1 hbar')))

section Range
variable (hlow : (s.funcE f).base ≤ addr.toNat) (hhigh : addr.toNat + n ≤ (s.funcE f).base + (s.funcE f).size)
  (hbar : s.hdmBar f addr.toNat n = none) (hopen : ∀ l ∈ linesOf addr.toNat n, s.rangeOpen (64 * l) = true ∧ s.retired (64 * l) = false)
  {rq : Req} {t : State} (hrq : rq = { s.hdmReq f with unit := s.dieUid (h.val / 8) })
include hlow hhigh hbar hopen

theorem State.hart_inRange : (decide ((s.funcE f).base ≤ addr.toNat) && decide (addr.toNat + n ≤ (s.funcE f).base + (s.funcE f).size)) = true ∧
    ((s.hdmBar f addr.toNat n).isSome || (linesOf addr.toNat n).any fun l => !(s.rangeOpen (64 * l)) || s.retired (64 * l)) = false := by
  refine ⟨by simp [hlow, hhigh], ?_⟩
  rw [hbar, Option.isSome_none, Bool.false_or, List.any_eq_false]
  intro l hl
  obtain ⟨hr, hret⟩ := hopen l hl
  simp [hr, hret]

include hrq

theorem State.hartAccess_load_inRange {bs : List (BitVec 8)} (hread : s.stackRead addr.toNat n rq = (t, .ok bs)) :
    s.hartAccess h f addr n none = t.emit (.readData (BitVec.ofNat 64 (bytesNat bs))) := by
  obtain ⟨hrange, hclosed⟩ := State.hart_inRange hlow hhigh hbar hopen
  subst hrq
  refine (if_pos hrange).trans ((if_neg (Bool.eq_false_iff.1 hclosed)).trans ?_)
  simp only [hread]

theorem State.hartAccess_store_inRange {bs : List (BitVec 8)} (hfree : ∀ l ∈ linesOf addr.toNat n, s.protector (l / 1024) = none)
    (hwrite : s.stackWrite addr.toNat bs rq = (t, none)) : s.hartAccess h f addr n (some bs) = t := by
  obtain ⟨hrange, hclosed⟩ := State.hart_inRange hlow hhigh hbar hopen
  have hopen' : ((linesOf addr.toNat n).any fun l => (s.protector (l / 1024)).isSome) = false := by
    rw [List.any_eq_false]
    intro l hl
    simp [hfree l hl]
  subst hrq
  refine (if_pos hrange).trans ((if_neg (Bool.eq_false_iff.1 hclosed)).trans ((if_neg (Bool.eq_false_iff.1 hopen')).trans ?_))
  simp only [hwrite, Option.isSome_none, Bool.false_eq_true, if_false]

end Range

end Access

/- Interrupts to several harts. -/

def State.ipiHart (s : State) (k : Nat) : State := s.hartM k fun e => { e with ipi := true }

theorem State.ipiHarts_frame (l : List Nat) (s : State) : l.foldl State.ipiHart s = { s with harts := (l.foldl State.ipiHart s).harts } := by
  induction l generalizing s with
  | nil => rfl
  | cons k l ih => exact ih (s.ipiHart k)

theorem State.hartE_ipiHart (s : State) (k i : Nat) :
    (s.ipiHart k).hartE i = if i = k then { s.hartE i with ipi := true } else s.hartE i := by
  by_cases h : i = k
  · rw [if_pos h, h, State.ipiHart, State.hartE_hartM_same]
  · rw [if_neg h, State.ipiHart, State.hartE_hartM_ne _ _ _ _ h]

theorem State.hartE_ipiHarts (l : List Nat) (s : State) (i : Nat) :
    (l.foldl State.ipiHart s).hartE i = if i ∈ l then { s.hartE i with ipi := true } else s.hartE i := by
  induction l generalizing s with
  | nil => simp
  | cons k l ih =>
    rw [List.foldl_cons, ih, State.hartE_ipiHart]
    by_cases hk : i = k <;> by_cases hl : i ∈ l <;> simp [hk, hl]

/-- The hart i is one of those of the mask that belong to the function (R295). -/
theorem mem_ipiHarts_iff {s : State} {mask : BitVec 32} {f i : Nat} (hi : i < 32) :
    i ∈ (maskList 32 mask.toNat).filter (fun k => (s.hartE k).func == some f) ↔ (bit mask i && (s.hartE i).func == some f) = true := by
  rw [List.mem_filter, maskList, List.mem_filter, List.mem_range, Bool.and_eq_true]
  exact and_congr_left fun _ => and_iff_right hi

/-- Settles O40: PF0's commands; then each act of a running hart. -/
theorem companionCoresFollowTheirFunction : Obligations.CompanionCoresFollowTheirFunction := by
  unfold Obligations.CompanionCoresFollowTheirFunction
  refine fun h f g addr s => ⟨exec_compAssign_stopped, exec_compStart_pf0, exec_compStop_pf0 s h,
    fun hg => ⟨congrArg Host.Outcome.next (State.pf0Only_other hg _ _ _ _), congrArg Host.Outcome.next (State.pf0Only_other hg _ _ _ _),
      congrArg Host.Outcome.next (State.pf0Only_other hg _ _ _ _)⟩, fun hon hfunc => ?_⟩
  obtain ⟨hload, hstore, htimer, hipi, hstop⟩ := exec_hartAct hon hfunc
  refine ⟨fun n hrange hwin hbar => ?_, fun n bs rq t hlow hhigh hbar hopen hrq => ⟨fun hread => ?_, fun hn hfree hwrite => ?_⟩,
    htimer addr, hstop, fun mask => ⟨_, hipi mask, State.ipiHarts_frame _ s, fun k hk => ?_⟩⟩
  · exact (hload addr n).trans (congrArg Host.Outcome.next (State.hartAccess_load_outside hrange hwin hbar))
  · exact (hload addr n).trans (congrArg Host.Outcome.next (State.hartAccess_load_inRange hlow hhigh hbar hopen hrq hread))
  · subst hn
    exact (hstore addr bs).trans (congrArg Host.Outcome.next (State.hartAccess_store_inRange hlow hhigh hbar hopen hrq hfree hwrite))
  · exact (State.hartE_ipiHarts _ s k).trans (if_congr (mem_ipiHarts_iff hk) rfl rfl)

end Sys2Proof.Machine
end
